-- ==== Sys2Proof/Word.lean ====
section
/-! DEFINITION. The word types of the panel: bytes, 64-bit registers, 512-bit lines, and the table type that holds sparse state. -/

namespace Sys2Proof

abbrev Byte := BitVec 8
/-- A scalar register, a control register, an instruction word (R49, R57, R87). -/
abbrev Word := BitVec 64
/-- One lane of the vector unit, one accumulator cell (R46, R48). -/
abbrev Lane := BitVec 32
/-- A 64-byte line, little-endian (R9): byte `i` is bits `[8i+7:8i]`. Also a vector register (R49) and an accumulator set (R46). -/
abbrev Line := BitVec 512
/-- A 16-bit status code (R12). -/
abbrev Status := BitVec 16

/-- Sparse state by number: pairs in strictly rising key order. What an unlisted key holds is said where the table is read. -/
abbrev Tbl (α : Type) := List (Nat × α)

end Sys2Proof
end

