-- ==== Sys2Proof/Syntax.lean ====
section
/-! DEFINITION. The commands of the block: one constructor of `Instr` per row of spec/opcode_table.json, with its operands. -/

namespace Sys2Proof

/-- A core instruction as it issues: where it issues and every field of its word but the opcode, which the constructor fixes
(R87, Table 4-1). A core is numbered `site * 4096 + cluster * 64 + (8b + a)` (R4). `upsets` names the 8-byte words of the core's
scratchpad that the array has lost since the last command (`true`: more than the code corrects), an input from outside (R160). -/
structure Issue where
  core : Nat
  ctx : Nat
  d : BitVec 5
  a : BitVec 5
  b : BitVec 5
  c : BitVec 5
  msk : BitVec 3
  men : Bool
  imm : BitVec 32
  upsets : List (Nat × Bool)
  deriving DecidableEq, Repr

/-- The four header forms of a data packet (R210, Tables 9-2 to 9-5); `flag` is LAST or NOTE. -/
inductive DataHdr where
  | unicast (flag : Bool) (cnt : BitVec 4) (line : BitVec 10) (dx dy : BitVec 10) (total : BitVec 16) (circ : Bool)
  | tagged (ep : BitVec 2) (dx dy : BitVec 10) (tag : BitVec 16) (seq : BitVec 10) (leg : BitVec 4)
  | mcastDie (flag : Bool) (cnt : BitVec 4) (line : BitVec 10) (row0 row1 col0 col1 midx leg : BitVec 4)
  | mcastCore (flag : Bool) (cnt : BitVec 4) (line : BitVec 10) (drow dcol : BitVec 4) (u0 u1 v0 v1 : BitVec 6) (midx : BitVec 4)
  deriving DecidableEq, Repr

/-- A data packet: header and one line of payload (R210). -/
structure DataPacket where
  epoch : Bool
  hops : BitVec 8
  hdr : DataHdr
  payload : Line
  deriving DecidableEq, Repr

/-- A control packet (R213, Table 9-6). -/
structure CtrlPacket where
  ctype : BitVec 6
  epoch : Bool
  hops : BitVec 8
  leg : BitVec 4
  dx : BitVec 10
  dy : BitVec 10
  sx : BitVec 10
  sy : BitVec 10
  body : BitVec 64
  deriving DecidableEq, Repr

/-- A control packet at a router, and whether it is past its station (R214; log 115). -/
structure CtrlAt where
  past : Bool
  p : CtrlPacket
  deriving DecidableEq, Repr

/-- What one router clock gives besides the packet: the clock, counted from the start of the reference cycle, the other packets that the
router's inputs hold in it, each with its input, those of a control plane with whether they are past their station (R214 to R216), and whether the core's cluster is in a stretched cycle (R356). -/
structure RouterClock where
  clock : Nat
  data : List (Nat × DataPacket)
  ctrl : List (Nat × Bool × CtrlPacket)
  stretched : Bool
  deriving DecidableEq, Repr

/-- A Teller message at a port, with the host's IP address and UDP port (R309, Table 14-1). -/
structure Msg where
  port : Nat
  ip : BitVec 128
  udp : BitVec 16
  ver : BitVec 8
  cls : BitVec 4
  sess : BitVec 4
  mbox : BitVec 6
  interim : Bool
  resend : Bool
  cmd : BitVec 16
  status : Status
  frag : BitVec 8
  nfrag : BitVec 8
  rseq : BitVec 32
  seq : BitVec 64
  mac : BitVec 256
  payload : List Byte
  /-- The header's reserved bits [31:24], [79:77] and [255:192], lowest first (R11). -/
  rsv : BitVec 75 := 0
  deriving DecidableEq, Repr

/-- What reading one DRAM line finds: outer symbols in error in the stored line beyond those already stored there, whether the inner
code corrected a bit, and for a line of five or more bad symbols the other codeword that the decoder reached, if it reached one
(R187, R188). -/
structure ArrayRead where
  fresh : Nat
  inner : Bool
  miscorrect : Option Line
  deriving DecidableEq, Repr

/-- An optical frame (R276, Table 12-2). -/
structure OptFrame where
  otype : BitVec 4
  src : BitVec 10
  spart : BitVec 4
  dst : BitVec 10
  dpart : BitVec 4
  win : BitVec 8
  gen : BitVec 16
  line : BitVec 20
  seq : BitVec 20
  e2e : BitVec 32
  payload : Line
  deriving DecidableEq, Repr

/-- A PUT or GET frame with the range of the transfer that it belongs to, which R178 checks whole (R277; log 108). -/
structure FarRequest where
  frame : OptFrame
  first : Nat
  lines : Nat
  deriving DecidableEq, Repr

/-- A PLP message on a guest link (R265, Table 11-2); `rsv` gathers the reserved bits of the header. -/
structure PlpMsg where
  mtype : BitVec 4
  data : Bool
  tag : BitVec 12
  status : Status
  arg : BitVec 64
  rsv : BitVec 31
  line : Line
  deriving DecidableEq, Repr

/-- A RoCEv2 request at a port: the session whose queue pair it names, its sequence number, RETH and payload lines (R179, R296). -/
structure RdmaReq where
  port : Nat
  sess : Nat
  psn : BitVec 24
  va : BitVec 64
  rkey : BitVec 32
  len : Nat
  lines : List Line
  /-- ECN: the packet is marked Congestion Experienced (R296). -/
  ce : Bool
  /-- Path MTU by which the message is cut, and whether a WRITE carries an immediate value (Table 13-3). -/
  mtu : Nat := 4096
  imm : Bool := false
  deriving DecidableEq, Repr

/-- What carries a PTP message (R295). -/
inductive PtpNet where
  | ipv4 | ipv6 | ieee8023
  deriving DecidableEq, Repr

/-- A Sync's domain, and what carries it (R295). -/
structure PtpHead where
  domain : Nat
  net : PtpNet
  deriving DecidableEq, Repr

/-- A frame that a port does not serve: one with a bad FCS (R293, R307), a RoCEv2 packet outside Table 13-3 on a session's queue pair, with
its PSN and its ECN mark (R296), or any other (R294). -/
inductive UnknownFrame where
  | badFcs
  | roce (sess : Nat) (psn : BitVec 24) (ce : Bool)
  | other
  deriving DecidableEq, Repr

/-- Such a frame, and the port that receives it. -/
structure StrayFrame where
  port : Nat
  kind : UnknownFrame
  deriving DecidableEq, Repr

/-- What the host's responder says of the panel's RDMA writes (R303). -/
inductive RoceAnswer where
  | ack (psn : BitVec 24)
  | seqNak (psn : BitVec 24)
  | errorNak (psn : BitVec 24)
  deriving DecidableEq, Repr

/-- A link between neighbouring compute sites: the side of a site (0 N, 1 E, 2 S, 3 W), or an optical die's lanes (R262, R273). -/
inductive LinkRef where
  | die (site side : Nat)
  | optical (oe : Nat)
  deriving DecidableEq, Repr

/-- A domain of fencing, resetting and recovery (Table 18-3). -/
inductive Domain where
  | context (core ctx : Nat)
  | engine (core eng : Nat)
  | partition (part : Nat)
  | panel
  deriving DecidableEq, Repr

/-- Where an elastic crossing lies (R354). -/
inductive Crossing where
  | link (site side lane : Nat)
  | core (k : Nat)
  deriving DecidableEq, Repr

/-- Why a Teller message is dropped without an answer is decided from the message itself (R311, R312). -/
abbrev Bytes := List Byte

/-- One input sample of a busbar monitor: 10 mV and 0.1 A units, with the 10 ms average current (R335, Table 15-7). -/
structure InputSample where
  v : BitVec 16
  i : BitVec 16
  iavg : BitVec 16
  deriving DecidableEq, Repr

/-- What a stage answers to the reads of R347: READ_VIN and READ_IOUT of the main output, READ_IOUT of the auxiliary one and
READ_TEMPERATURE_1 in LINEAR11, READ_VOUT in LINEAR16 with the exponent of VOUT_MODE, STATUS_WORD (Table 15-6). -/
structure StageRead where
  stage : Nat
  vin : BitVec 16
  iout : BitVec 16
  vout : BitVec 16
  voutMode : BitVec 5
  temp : BitVec 16
  status : BitVec 16
  iaux : BitVec 16
  deriving DecidableEq, Repr

/-- A monitor's result at an interval boundary (R358), of cluster `cl`, or for 10,240 + n of fabric region n (a site) or of a Guest Gate
(160, 161): the setpoint code the replica needs with its guard at the global step, or at the step announced for a rise, the highest step it passes at 0.85 V, temperature, ageing offset, lowest sample and its sensor. -/
structure MonitorRead where
  cl : Nat
  need : BitVec 8
  maxStep : BitVec 5
  temp : BitVec 8
  ageOff : BitVec 8
  vmin : BitVec 8
  vminIdx : BitVec 4
  deriving DecidableEq, Repr

/-- Energy measured over one Ledger period, microjoules (R368): both inputs, the guest sites, and each die by site. -/
structure PeriodEnergy where
  inH0 : Nat
  inH1 : Nat
  guest : Nat
  dies : Tbl Nat
  dramTemp : Tbl Nat
  deriving DecidableEq, Repr

/-- The check of a Vault record as a flash die gives it back at bring-up, where it is not what was written: by die, type and key; the 32 B tag,
or whether the signature still verifies (R416, R418). -/
structure FlashRead where
  die : Nat
  type : Nat
  key : Nat
  tag : List (BitVec 8)
  sigOk : Bool
  deriving DecidableEq, Repr

/-- What the two ends of TWIN_ATTACH exchange: the Shadow's encapsulation key, the Primary's ciphertext, the shared secret (R428). -/
structure PairExchange where
  ek : List (BitVec 8)
  ct : List (BitVec 8)
  ss : List (BitVec 8)
  deriving DecidableEq, Repr

/-- What a bring-up phase found (Table 20-5, Table 20-6, R443): self-tests but for the identity's tag, the key each hub reconstructs from
its PUF (R420), the Vault check but for the counters, what the flash dies give back, counters whose count is not the one left (R424), which firmware banks pass their signature check (R308), stages that tripped, lanes without spare, bad cores, dark
clusters, dies left out, clusters counted by temperature. -/
structure PhaseResult where
  hub0ok : Bool
  hub1ok : Bool
  bank0ok : Bool
  bank1ok : Bool
  vaultOk : Bool
  hubKey0 : List (BitVec 8)
  hubKey1 : List (BitVec 8)
  flash : List FlashRead
  counters : Tbl Nat
  spineOk : Bool
  tripped : List Nat
  badCores : List Nat
  darkClusters : List Nat
  retired : List Nat
  deriving DecidableEq, Repr

/-- The commands. -/
inductive Instr where
  -- scalar, branch and control register
  | nop (i : Issue) | end_ (i : Issue) | b (i : Issue) | beq (i : Issue) | bne (i : Issue) | blt (i : Issue) | bge (i : Issue)
  | bltu (i : Issue) | jal (i : Issue) | jr (i : Issue) | crr (i : Issue) | crw (i : Issue)
  | add (i : Issue) | sub (i : Issue) | and (i : Issue) | or (i : Issue) | xor (i : Issue) | shl (i : Issue) | shr (i : Issue)
  | sar (i : Issue) | mul (i : Issue) | slt (i : Issue) | sltu (i : Issue) | addi (i : Issue) | min (i : Issue) | max (i : Issue)
  | lih (i : Issue)
  -- scratchpad
  | ld (i : Issue) | st (i : Issue) | vld (i : Issue) | vst (i : Issue)
  -- transfers
  | hld (i : Issue) | hst (i : Issue) | hldr (i : Issue) | bld (i : Issue) | bst (i : Issue) | wput (i : Issue) | wget (i : Issue)
  -- sends, counters, clearing
  | send (i : Issue) | msend (i : Issue) | csend (i : Issue) | arm (i : Issue) | waitc (i : Issue)
  | waitcComplete (core ctx : Nat) | waitcUeFault (core ctx : Nat) | arrivalDeadlineExpiry (core ctx : Nat)
  | cabort (i : Issue) | carr (i : Issue) | carrAfterClear (core ctx : Nat) | cwait (i : Issue) | cwaitRetire (core ctx : Nat)
  | ctest (i : Issue)
  -- engines
  | etile (i : Issue) | esparse (i : Issue) | drain (i : Issue) | azero (i : Issue)
  -- vector unit
  | vfma (i : Issue) | vadd (i : Issue) | vsub (i : Issue) | vmul (i : Issue) | vmin (i : Issue) | vmax (i : Issue) | vcmp (i : Issue)
  | vlog (i : Issue) | vsel (i : Issue) | vbcast (i : Issue) | vext (i : Issue) | vred (i : Issue) | vfn (i : Issue) | vdiv (i : Issue)
  | vsqrt (i : Issue) | viop (i : Issue) | vcvt (i : Issue) | qblk (i : Issue) | dqblk (i : Issue) | mlog (i : Issue)
  | srand (i : Issue) | vargmax (i : Issue)
  -- events inside a core
  | engineQueueRoom (core ctx : Nat) | operandRangeRelease (core ctx : Nat)
  | routerInjectionAccept (core : Nat) (k : RouterClock)
  | engineBlockClose (core eng : Nat) (upsets : List (Nat × Bool))
  | tileCheckerTakeOp (core : Nat) | tileCheckComplete (core : Nat) | tileCheckFailureReport (core : Nat)
  | spmCeRewrite (core word : Nat)
  -- packets
  | lineArrival (core : Nat) (p : DataPacket) | note (core : Nat) (p : DataPacket)
  | dataPacketAtRouter (router inp : Nat) (k : RouterClock) (p : DataPacket) (crc : BitVec 32)
  | controlPacketAtRouter (router inp : Nat) (k : RouterClock) (p : CtrlAt) (crc : BitVec 16)
  | taggedLineArrival (p : DataPacket)
  | readReq (cl : Nat) (p : CtrlPacket) | writeReq (cl : Nat) (p : CtrlPacket) | writeGrant (core : Nat) (p : CtrlPacket)
  | commit (core : Nat) (p : CtrlPacket) | countOnly (core : Nat) (p : CtrlPacket) | taggedLineTimeout (cl tag : Nat)
  | xputReq (oe : Nat) (p : CtrlPacket) | xgetReq (oe : Nat) (p : CtrlPacket) | xgrant (core : Nat) (p : CtrlPacket)
  -- task control
  | abortPacket (core : Nat) (p : CtrlPacket) | abortAns (p : CtrlPacket) | watchdog (p : CtrlPacket)
  | fencePacket (cl : Nat) (p : CtrlPacket) | fenceAck (p : CtrlPacket) | taskEnd (p : CtrlPacket) | stepReplay (job : Nat)
  | probe (cl : Nat) (p : CtrlPacket) (answered : BitVec 64) | probeAns (p : CtrlPacket) | probeTimeout (cl : Nat) (wholeDie : Bool)
  -- banks and handles
  | bankWrite (unit : Nat) (bank : Bool) | handleDescriptorUpdate (cl part handle : Nat)
  | epochSwitch | epochRetire | epochWriteAckTimeout
  -- links
  | laneRetrainStart (l : LinkRef) (lane : Nat) | laneRetrainDone (l : LinkRef) (lane : Nat) (ok : Bool)
  | eyeMarginSample (l : LinkRef) (below : List Nat) | crossFault (x : Crossing)
  -- DRAM
  | dramReadComplete (cl : Nat) (r : ArrayRead) | dramWriteCommit (cl : Nat) | patrolScrubVisit (cl : Nat) (r : ArrayRead)
  | refresh (cl : Nat) | recalibrationTrigger (cl : Nat) (temp : BitVec 8) | recalSliceStart (cl : Nat) | recalSliceEnd (cl : Nat)
  -- clearing and watchdogs
  | clearingGenerationClear (part ch : Nat) | clearingNoticeArrival (core ch : Nat) | clearingWatchdogExpiry (part ch : Nat)
  | contextWatchdogExpiry (core ctx : Nat) | engineWatchdogExpiry (core eng : Nat) | fenceAckTimeout (job : Nat)
  | fenceTimeout (d : Domain) | resetNotServingTimeout (d : Domain)
  | spareWarmupDone (site : Nat) | weightCopyComplete (site : Nat) | handleFreeTimer (part handle : Nat) | windowExpiry (part win : Nat)
  -- optical
  | putLine (oe : Nat) (q : FarRequest)
  | getRequest (oe : Nat) (q : FarRequest) (r : ArrayRead) | getLine (oe : Nat) (f : OptFrame)
  | done (oe : Nat) (f : OptFrame) | opticalLineTimeout (oe tag seq : Nat) | ack (oe : Nat) (f : OptFrame)
  | assuredAckDue (oe src : Nat) | assuredResendTimeout (dst seq : Nat)
  | clearUp (f : OptFrame) | clearNotice (f : OptFrame) | crossPanelClearTimeout (job : Nat) | leadLossTimeout (job : Nat)
  | job (f : OptFrame) | rejoinTimeout (job : Nat)
  | time (oe : Nat) (f : OptFrame) (arrived : BitVec 64) | timeFrameDue (oe lane : Nat)
  | escrow (oe : Nat) (f : OptFrame) | beat (f : OptFrame) | twinLinkSilence | shadowTakeover
  -- Teller handshake, mailbox and stream events
  | hello (m : Msg) (chainOk : Bool) (ss ct : Bytes) (nonce sigma : Bytes)
  | finish (m : Msg) (sigOk : Bool)
  | handshakeTimeout (id : BitVec 32) | sessionKeepaliveExpiry (sess : Nat) | mailboxHeldRequestRelease (sess mbox : Nat)
  | mailboxGap (sess mbox : Nat) | streamAck (m : Msg) | streamResendTimeout (sess sseq : Nat) | eventAck (m : Msg)
  | eventResendTimeout (sess eseq : Nat) | ticketExpiry (ticket : Nat)
  -- Teller commands
  | ping (m : Msg) | close (m : Msg) | version (m : Msg) | subscribe (m : Msg) | status (m : Msg) | sysConfig (m : Msg)
  | streamSet (m : Msg) | qpCreate (m : Msg) (psn : BitVec 24) | qpDestroy (m : Msg)
  | partSet (m : Msg) | mapStage (m : Msg) | mapCommit (m : Msg) | mapUnload (m : Msg) | partDrain (m : Msg)
  | partDrainComplete (part : Nat) | handleBind (m : Msg) | handleInval (m : Msg) | dataWrite (m : Msg)
  | dataRead (m : Msg) (r : List ArrayRead) | distRead (m : Msg)
  | submit (m : Msg) | promptPut (m : Msg) | abort (m : Msg) | reqQuery (m : Msg)
  | winOpen (m : Msg) | winClose (m : Msg) | winQuery (m : Msg) | ledgerSet (m : Msg) | ledgerRead (m : Msg) | forecast (m : Msg)
  | twinAttach (m : Msg) (chainOk : Bool) (theirs : List (Nat × Bytes)) (pair : PairExchange) | twinAttached | twinDetach (m : Msg) | twinTakeover (m : Msg)
  | jobForm (m : Msg) | jobDissolve (m : Msg) | diagRead (m : Msg) (r : ArrayRead) | linkRetrain (m : Msg) | dramRecal (m : Msg)
  | guestMode (m : Msg) (nonce : BitVec 64) | guestRule (m : Msg) | guestReturn (m : Msg) (nonce : BitVec 64)
  | imgStage (m : Msg) | imgActivate (m : Msg) (sigOk : Bool) | hubRejoin (hub : Nat) (fwver : BitVec 32) | hubRejoinTimeout (hub : Nat)
  | fence (m : Msg) | unfence (m : Msg) | reset (m : Msg) | halfSet (m : Msg) | return_ (m : Msg)
  | tellerMessageDrop (m : Msg)
  -- Ethernet
  | rdmaWrite (q : RdmaReq) | rdmaRead (q : RdmaReq) (r : List ArrayRead) | cnp (sess : Nat) | roceResponse (sess : Nat) (a : RoceAnswer) (ce : Bool)
  | ptpSync (port : Nat) (head : PtpHead) (origin arrival : BitVec 64) | ptpDelayResp (port domain : Nat) (sent received : BitVec 64)
  | ptpAnnounce (port domain : Nat) (rank : Nat)
  | arpRequest (port : Nat) (target : BitVec 32) | neighborSolicitation (port : Nat) (target : BitVec 128)
  | icmpEcho (port : Nat) (dst : BitVec 128) (data : Bytes) | unknownFrame (f : StrayFrame) | portLinkDown (port : Nat)
  | hubLoss (hub : Nat)
  -- guests
  | cap (site : Nat) (p : PlpMsg) (nonce : BitVec 64) | rd (site : Nat) (p : PlpMsg) (r : ArrayRead) | wr (site : Nat) (p : PlpMsg)
  | attr (site : Nat) (p : PlpMsg) | gateRequestTimeout (site tag : Nat) | guestHoldbackTimeout (site : Nat) | attrTimeout (site : Nat)
  | attqPeriodic (site : Nat) (nonce : BitVec 64) | guestLinkDown (site : Nat) | guestOvercurrent (site : Nat)
  -- power
  | stageMainTrip (stage : Nat) (hot : Bool) | auxOutputTrip (stage : Nat) | inputSample (h0 h1 : InputSample)
  | rampDownStageStart (stage : Nat) | inputBelowLockout (half : Nat) | stageHeartbeatLoss (half : Nat) | heartbeatWrite (half : Nat)
  | telemetryPoll (r : StageRead) | smbalert (r : StageRead) (cause : BitVec 16)
  | phaseFailure (cl phase : Nat) | droopStretchRequest (cl : Nat) (sample : BitVec 8) (sensor : BitVec 4) | stretchEnd (cl cycles : Nat)
  | wakeRequest (cl : Nat) (current : Nat) | wakeHeadroomTimeout (site : Nat) | clusterOn (cl : Nat) | clusterPark (cl : Nat)
  -- clocks
  | referenceLoss (half : Nat) | tallyIntervalBoundary (m : List MonitorRead) | clockStepEvaluation | wakeHoldStart | clockStop
  | clockRestart
  -- Ledger and cooling
  | ledgerPeriodBoundary (e : PeriodEnergy) | coolantSample (tin tout : BitVec 16) | coolantFlowUpdate | measurementRecompute (part : Nat) (theirs : Bytes)
  -- Vault, bring-up and pins
  | vaultRecordWritten | busbarInputRise (half : Nat) | bringUpPhaseComplete (r : PhaseResult) | bringUpPhaseTimeout (r : PhaseResult)
  | thermTrip | resetPinAssert | resetPinRelease | twinPresentLow
  -- sideband
  | setdasa (hub : Nat) (addr : BitVec 7) | rstdaa (hub : Nat) | enec (hub : Nat) (ev : BitVec 8) | disec (hub : Nat) (ev : BitVec 8)
  | getpid (hub : Nat) | getbcr (hub : Nat) | getdcr (hub : Nat) | getstatus (hub : Nat)
  | alertClear (hub : Nat) | flowrptWrite (hub : Nat) (flow : BitVec 16) | go (hub : Nat) | recordSubmissionDone (hub : Nat) (sigOk : Bool)
  | doneClear (hub : Nat) | sbRegisterWrite (hub : Nat) (offset : Nat) (data : BitVec 64)
  -- later rows of the table
  | portLinkUp (port : Nat) | guestLinkUp (site : Nat) (modules : BitVec 3) (rate16 : Bool)
  | opticalFrameDiscard (oe : Nat) (f : OptFrame) (fecOk : Bool) (crc : BitVec 32) | opticalFrameTransit (oe : Nat) (f : OptFrame)
  | referenceReturn (half : Nat) | auxOutputOpen (half : Nat) | imageWriteComplete (target : Nat) | ticketClaimEnd (ticket : Nat)
  | twinPresentHigh | thermTripRelease | roceAckTimeout (sess : Nat) | compatibleRelaunchWindowEnd (core ctx : Nat) | hubReturn (hub : Nat)
  deriving DecidableEq, Repr

end Sys2Proof
end

