-- ==== Sys2Proof/Config.lean ====
section
/-! DEFINITION. The free values: what the spec leaves open and the machine goes on with. None has a body, so no proof sees a value. -/

namespace Sys2Proof

/-- The contents of a line that the spec calls undefined, after a WR answered TIMEOUT, FENCED or ECC_UNCORRECTABLE (R267), and other
values of up to 64 bytes that nothing fixes. DESIGN CHOICE (log 7). -/
opaque Config.freeLine : Nat → BitVec 512

/-- Values of up to 64 bits that the spec lets the panel or the implementation take as it likes; log 7 lists them. DESIGN CHOICE. -/
opaque Config.freeWord : Nat → BitVec 64

/-- SHA3-256 of the Frenabor firmware key, fixed in the hubs' boot ROM, and of the Frenabor loader key (R429). -/
opaque Config.fwKey : List (BitVec 8)
opaque Config.loaderKey : List (BitVec 8)

/-- What the factory writes into the panel's Vault and no rule gives: the device CA's OWNER certificate, the IDENTITY body, each hub's PUF_HELPER
body (R415, Table 19-3; log 10). -/
opaque Config.factoryOwner : List (BitVec 8)
opaque Config.factoryIdentity : List (BitVec 8)
opaque Config.pufHelper : Nat → List (BitVec 8)

/-- The public key that ML-DSA-44 KeyGen derives from a seed (R421; log 8). -/
opaque Config.mldsaKey : List (BitVec 8) → List (BitVec 8)

/-- What GETPID, GETBCR and GETDCR return for a hub, and what GETSTATUS returns now: R457 names the codes and gives no value. DESIGN CHOICE
(log 7). -/
opaque Config.i3cPid : Nat → BitVec 48
opaque Config.i3cBcr : Nat → BitVec 8
opaque Config.i3cDcr : Nat → BitVec 8
opaque Config.i3cStatus : Nat → BitVec 16

/-- Delay of the reference pulse's line to a die's island, and what the island's own oscillator gains on 10 ns (R353, R365), in 2^-32 ns.
DESIGN CHOICE (log 144). -/
opaque Config.lineDelay : Nat → Nat
opaque Config.oscGain : Nat → Int

/-- Is a panel number configured in the system (R276)? The spec names no register or command that tells. DESIGN CHOICE (log 118). -/
opaque Config.configured : Nat → Bool

/-- WINDOW of HUB.RESETWIN, a 16-bit field, for a window of R411 beyond 65,535 s. DESIGN CHOICE (log 7). -/
opaque Config.wideWindow : Nat → BitVec 16

end Sys2Proof
end

