-- ==== Sys2Proof/Machine/State.lean ====
section
/-! DEFINITION. The panel's state as plain data, the reasons a step could stop, and the state after reset. -/

namespace Sys2Proof.Machine

/-- Raised by no command of the model: every command of the table has an effect the spec gives, and the faults of a task, a channel or
a host request are next states. Kept as a closed type; safe. -/
inductive Fault where
  /-- Raised by nothing. -/
  | unreachable
  deriving DecidableEq, Repr

/-- Why a command is refused by the model. -/
inductive Refusal where
  /-- Raised by an arm of `exec` that has no meaning yet; safe. -/
  | notModelled (mnemonic : String)
  deriving DecidableEq, Repr

/-- Where a completion goes (R309, R318): to the session of that establishment number only. -/
structure Reply where
  port : Nat
  sess : Nat
  est : BitVec 32
  mbox : Nat
  rseq : Nat
  cmd : BitVec 16
  deriving DecidableEq, Repr

/-! ### A core (02, 04, 05, 07) -/

/-- STATE of a context (R59). -/
inductive CtxState where
  | idle | ready | waitEngine | waitFabric | waitClear | stopped | fenced
  deriving DecidableEq, Repr

/-- A fault of an instruction: its status, its bits in CORE.FAULT and what CORE.FAULTADDR takes (R61, R62). -/
structure FaultRec where
  status : Status
  bits : BitVec 7
  space : BitVec 4
  addr : BitVec 48
  deriving DecidableEq, Repr

/-- The sender of an abort, to whom its answer goes (R392). -/
structure AbortReq where
  sx : BitVec 10
  sy : BitVec 10
  deriving DecidableEq, Repr

/-- What a context waits for, with the instruction that has not retired (`opc` is its opcode). -/
inductive Wait where
  | none
  /-- WAITC on a counter (R97). -/
  | counter (n rd : Nat)
  /-- A send, until the router has taken `left` more packets (R104, R222). -/
  | accept (left : Nat)
  /-- A full engine queue, or an engine in serial mode (R47, R401). -/
  | engine (opc : BitVec 8) (i : Issue)
  /-- A scratchpad write inside an operand range (R120). -/
  | range (opc : BitVec 8) (i : Issue)
  /-- A second CARR before its generation has cleared (R106). -/
  | arrive (ch : Nat)
  /-- CWAIT (R106). -/
  | clear (ch : Nat)
  deriving DecidableEq, Repr

/-- The launch state of a task (R432) and what decides its relaunch in Compatible recovery (R409). -/
structure Launch where
  entry : Word
  madeCarr : Bool
  foreign : Bool
  relaunched : Bool
  /-- Tally time of the fault that opened the 30 µs window, and that fault's status. -/
  window : Option (Word × Status)
  deriving DecidableEq, Repr

/-- A watchdog of a context that has fired (R389): STATE at the firing, its Tally time, and whether WATCHDOG has gone out (R392). -/
structure Firing where
  state : BitVec 3
  at_ : Word
  sent : Bool
  deriving DecidableEq, Repr

/-- A hardware context (R49, Tables 2-4 to 2-9). -/
structure Ctx where
  state : CtxState
  regs : Tbl Word
  vregs : Tbl Line
  masks : Tbl (BitVec 16)
  pc : Word
  aborts : List AbortReq
  bb : Bool
  loader : Bool
  lastStatus : Status
  task : BitVec 16
  fault : BitVec 7
  firstStatus : Status
  faultAddr : BitVec 48
  faultSpace : BitVec 4
  base : BitVec 20
  boundEn : Bool
  limit : BitVec 21
  wait : Wait
  /-- Reports of the tile checker and the engines for the next retire point (R110, R136). -/
  pend : List FaultRec
  /-- The watchdog that ends the task at that point, and a fence that does (R389, R398). -/
  fired : Option Firing
  fenceDue : Bool
  /-- By channel, the generation of the task's last CARR; none once a reset has discarded it (R106, R248). -/
  arrGen : Tbl (Option Nat)
  codeStart : Nat
  codeLen : Nat
  launch : Option Launch
  wdStart : Word
  deriving DecidableEq, Repr

def Ctx.reset : Ctx :=
  { state := .idle, regs := [], vregs := [], masks := [], pc := 0, aborts := [], bb := false, loader := false, lastStatus := 0,
    task := 0, fault := 0, firstStatus := 0, faultAddr := 0, faultSpace := 0, base := 0, boundEn := false, limit := 0, wait := .none,
    pend := [], fired := none, fenceDue := false, arrGen := [], codeStart := 0, codeLen := 0, launch := none, wdStart := 0 }

/-- MAP.SPARSE (R140, Table 5-7). -/
structure MapSparse where
  tolerant : Bool
  xo4 : Nat
  xo8 : Nat
  xo16 : Nat
  deriving DecidableEq, Repr

/-- How far the tile checker is with an operation (R135, R146). -/
inductive CheckState where
  | notNeeded | waiting | taken | passed
  deriving DecidableEq, Repr

/-- A tile operation in an engine queue (R47, R107 to R110). `closed` blocks have closed; `dead` marks one whose task has ended while
the checker held it (R136). -/
structure EngOp where
  id : Nat
  ctx : Nat
  eng : Nat
  aset : Nat
  fba : BitVec 8
  fbb : BitVec 8
  rg : Nat
  cg : Nat
  spa : Bool
  spb : Bool
  aAddr : Nat
  bAddr : Nat
  aStride : Nat
  bStride : Nat
  nblk : Nat
  closed : Nat
  check : CheckState
  /-- Directory entries and metadata lines that the checker has read of the operation it has taken, in their order (R137). -/
  stage : Nat
  /-- The sparsity policy in force when the operation was queued (R140). -/
  policy : MapSparse
  dead : Bool
  task : BitVec 16
  word : Word
  pc : Word
  deriving DecidableEq, Repr

structure Engine where
  queue : List EngOp
  wdStart : Word
  hung : Bool
  deriving DecidableEq, Repr

def Engine.reset : Engine := { queue := [], wdStart := 0, hung := false }

/-- An arrival counter (R94); `owner` is the context that armed it, `discard` holds from the end of that task (R98). -/
structure Counter where
  count : BitVec 32
  total : BitVec 16
  deadline : Word
  status : Status
  armed : Bool
  ueDram : Bool
  ueSpm : Bool
  owner : Nat
  discard : Bool
  foreign : Bool
  deriving DecidableEq, Repr

def Counter.reset : Counter :=
  { count := 0, total := 0, deadline := 0, status := 0, armed := false, ueDram := false, ueSpm := false, owner := 0, discard := false,
    foreign := false }

/-- A Till entry (R164, Table 7-3). -/
structure TillEntry where
  valid : Bool
  filled : Bool
  line : BitVec 10
  age : BitVec 3
  dirty : BitVec 64
  data : Line
  deriving DecidableEq, Repr

def TillEntry.reset : TillEntry := { valid := false, filled := false, line := 0, age := 0, dirty := 0, data := 0 }

/-- A transfer that the core has issued and whose lines are not all counted (R94, R99, R213): its scratchpad lines, its counter, the
endpoint it talks to (Table 9-4), the tag it was granted, and how many lines are still to be counted. -/
structure CoreXfer where
  line : Nat
  lines : Nat
  cnt : Nat
  ep : BitVec 2
  tx : Nat
  ty : Nat
  tag : Option (BitVec 16)
  left : Nat
  deriving DecidableEq, Repr

/-- A tag that a core's transfer engine has granted for lines that come in (R174, R212, R277): where they land and who counts them. -/
structure Grant where
  tag : BitVec 16
  line : Nat
  lines : Nat
  cnt : Nat
  x : BitVec 10
  y : BitVec 10
  left : Nat
  deriving DecidableEq, Repr

/-- CORE.HANGREC (R414, Table 18-9); SERIAL is held by the core. -/
structure HangRec where
  eng : BitVec 2
  ctx : BitVec 2
  guilty : Bool
  task : BitVec 16
  opword : Word
  deriving DecidableEq, Repr

structure Core where
  ctxs : Tbl Ctx
  istore : Tbl Word
  till : Tbl TillEntry
  cnts : Tbl Counter
  /-- Accumulator set `as` of engine `e`, under key `8e + as` (R46). -/
  acc : Tbl Line
  engines : Tbl Engine
  nextOp : Nat
  /-- Words of the scratchpad in error, by word number; `true` is uncorrectable (R162). -/
  spmErr : Tbl Bool
  /-- Corrected words that the bank has still to rewrite (R162). -/
  rewrite : List Nat
  /-- Packets at the router's injection input with the context that sent them (R215). -/
  inj : List (Nat × DataPacket)
  /-- Transfers into the scratchpad, and out of it, whose lines are not all counted. -/
  reads : List CoreXfer
  writes : List CoreXfer
  grants : List Grant
  nextTag : BitVec 16
  serial : BitVec 4
  /-- Suspects of engine `e` (R390, R401). -/
  suspects : Tbl (BitVec 4)
  hang : HangRec
  /-- Lines that a channel could not decode for the core's tasks: cluster and line (R200). -/
  ueLines : List (Nat × Nat)
  /-- Generations of channel `ch` whose notice has reached the core (R246). -/
  seen : Tbl Nat
  fenced : Bool
  lost : Bool
  /-- The core's crossing with the fabric: 0 sound, 1 out until it is realigned, 2 realigned at the last step boundary (R354). -/
  cross : Nat
  /-- Contexts that the host has fenced and not unfenced (R398): no launch reaches them. -/
  hostFenced : BitVec 4
  /-- Context watchdogs fired in the step now replayed (R402). -/
  wdCtx : BitVec 4
  deriving DecidableEq, Repr

def Core.reset : Core :=
  { ctxs := [], istore := [], till := [], cnts := [], acc := [], engines := [], nextOp := 0, spmErr := [], rewrite := [], inj := [],
    reads := [], writes := [], grants := [], nextTag := 0, serial := 0, suspects := [],
    hang := { eng := 0, ctx := 0, guilty := false, task := 0, opword := 0 }, ueLines := [], seen := [], fenced := false, lost := false, cross := 0, hostFenced := 0, wdCtx := 0 }

/-! ### A cluster and its channel (05 to 09, 15, 16, 18) -/

/-- A bad-line table entry (R195, Table 8-6). -/
structure BadLine where
  type : BitVec 2
  bank : BitVec 4
  row : BitVec 11
  column : BitVec 5
  spareRow : BitVec 4
  spareCol : BitVec 5
  cause : BitVec 8
  deriving DecidableEq, Repr

/-- Who receives a line that the channel reads. -/
inductive ReadDest where
  | core (x y : BitVec 10) (spmLine cnt : Nat)
  | stream (idx : Nat) (last : Bool) (spmLine : Nat)
  deriving DecidableEq, Repr

/-- A line that moves through an inbound window of this panel for one of its own partitions (R178, R239): the window, the generation
named, the asking partition and the window's line. -/
structure WinUse where
  part : Nat
  win : Nat
  gen : BitVec 16
  src : Nat
  line : Nat
  deriving DecidableEq, Repr

structure ReadJob where
  line : Nat
  dest : ReadDest
  /-- The window that the line is read through, if one. -/
  via : Option WinUse
  /-- Number of its arrival at the channel (R192). -/
  arr : Nat
  deriving DecidableEq, Repr

/-- Lines granted to a requester and not yet received (R213, R236). -/
structure WriteJob where
  tag : BitVec 16
  x : BitVec 10
  y : BitVec 10
  cnt : Nat
  line : Nat
  lines : Nat
  got : List Nat
  start : Word
  /-- The window that the lines are written through, if one; its line is that of the first. -/
  via : Option WinUse
  deriving DecidableEq, Repr

/-- A line received and waiting to be committed. -/
structure CommitJob where
  line : Nat
  data : Line
  x : BitVec 10
  y : BitVec 10
  cnt : Nat
  via : Option WinUse
  /-- Number of its arrival at the channel (R192). -/
  arr : Nat
  deriving DecidableEq, Repr

/-- A weight stream (R242): whether a run is in progress, and the number of the one run queued behind it. -/
structure StreamRun where
  running : Bool
  queued : Option Nat
  deriving DecidableEq, Repr

/-- What the frame that carries a message holds below it (R293, R294): the VLAN of its 802.1Q tag, 0 for none, the flow-controlled
priority, the DSCP, and Don't Fragment. -/
structure NetHead where
  vlan : Nat
  prio : Option Nat
  dscp : Option Nat
  df : Bool
  deriving DecidableEq, Repr

/-- A RoCEv2 request that a queue pair has accepted: a WRITE, or a READ with what its lines' reads meet in the array. -/
structure RdmaWork where
  req : RdmaReq
  read : Option (List ArrayRead)
  deriving DecidableEq, Repr

/-- A request from outside the cores that has been accepted for a channel. -/
inductive OuterRequest where
  | dataWrite (m : Msg) (r : Reply)
  | dataRead (m : Msg) (rs : List ArrayRead) (r : Reply)
  | diagRead (m : Msg) (a : ArrayRead) (r : Reply)
  | guest (site : Nat) (write : Bool) (p : PlpMsg) (a : ArrayRead) (rule : BitVec 128)
  | far (oe : Nat) (f : OptFrame) (first lines : Nat) (write : Bool) (a : ArrayRead)
  | rdma (w : RdmaWork)
  /-- The hub's own: bytes at a channel offset, a map handle rewritten from the twin, the release of a group of a step, and what measures maps. -/
  | hub (off : Nat) (b : Bytes)
  | rewrite (part h : Nat)
  | release (job num : Nat) (b : Bool)
  | mapCommit (m : Msg) (r : Reply)
  | twinAttach (m : Msg) (chainOk : Bool) (theirs : List (Nat × Bytes)) (pair : PairExchange) (r : Reply)
  | measure (part : Nat) (theirs : Bytes)
  deriving DecidableEq, Repr

/-- Such a request that waits for the end of a recalibration slice, with the number of its arrival (R192). -/
structure SliceWait where
  arr : Nat
  work : OuterRequest
  deriving DecidableEq, Repr

structure Cluster where
  -- CLU.SPCNT0, CLU.SPCNT1
  spTiles : BitVec 32
  dnTiles : BitVec 32
  tolerated : BitVec 32
  declFaults : BitVec 16
  indexFaults : BitVec 16
  -- CLU.SPMERR
  ceCount : BitVec 32
  ueConsumed : BitVec 16
  ueWriteback : BitVec 16
  -- CLU.DRAMERR
  innerCe : BitVec 24
  outerCe : BitVec 20
  ueRead : BitVec 10
  ueScrub : BitVec 10
  -- CLU.DRAMSTAT
  exhausted : Bool
  recalCount : BitVec 16
  dieTemp : BitVec 8
  -- CLU.FABERR, CLU.FABLOAD
  crcData : BitVec 16
  crcCtrl : BitVec 12
  dropHops : BitVec 12
  dropUnreach : BitVec 8
  dropMisc : BitVec 8
  disarmed : BitVec 8
  deflect : BitVec 32
  ejected : BitVec 32
  -- CLU.PWRSTAT
  pwrState : BitVec 2
  phOk : BitVec 4
  cap75 : Bool
  vset : BitVec 8
  /-- Has VMIN a sample since it was last cleared? -/
  vminSeen : Bool
  vmin : BitVec 8
  vminIdx : BitVec 4
  wakeWaits : BitVec 16
  wakeStretch : BitVec 16
  -- CLU.CLKSTAT
  /-- Has the cluster reported a MAXSTEP since it was turned on (R358)? -/
  maxSeen : Bool
  maxStep : BitVec 5
  crossFault : Bool
  stretch : BitVec 12
  overruns : BitVec 12
  temp : BitVec 8
  ageOff : BitVec 8
  -- CLU.RECOV
  ctxWdog : BitVec 16
  engWdog : BitVec 12
  ansAborted : BitVec 12
  ansDone : BitVec 12
  relaunch : BitVec 8
  -- channel
  bad : Tbl BadLine
  lineErr : Tbl Nat
  scrubHit : Tbl Bool
  exhLines : List Nat
  scrubPos : BitVec 20
  /-- When the patrol scrub last visited a line (R191). -/
  scrubAt : Word
  refreshPos : BitVec 15
  slicesLeft : Nat
  inSlice : Bool
  /-- Self-refresh: a reset puts the channel in it until the controller has left reset (R400). -/
  selfRefresh : Bool
  lastSlice : Word
  lastRecal : Word
  recalTemp : BitVec 8
  /-- DRAM_RECAL's completions (R323). -/
  recalReply : List Reply
  reads : List ReadJob
  writes : List WriteJob
  commits : List CommitJob
  /-- Requests from outside the cores that wait for the end of a slice, the number of the next arrival, and the first number that has not
  waited through a slice: those below it are served in their order (R192). -/
  waits : List SliceWait
  nextArr : Nat
  heldTo : Nat
  /-- The core served last and the lines it may still have in this turn of the weighted round-robin (R65). -/
  turn : Nat
  credit : Nat
  nextTag : BitVec 16
  runs : Tbl StreamRun
  -- clock and caps
  stretching : Bool
  /-- Since when the droop stretch's cycles are not yet counted, and how many of it are (R357). -/
  stretchFrom : Word
  stretchSent : Nat
  stretchNow : Nat
  overrunLeft : Nat
  capLedger : Nat
  capMargin : Nat
  capTherm : Nat
  capThermDram : Nat
  /-- Periods in a row at or below the release points of the logic and the DRAM cap (R383). -/
  coolPeriods : Nat
  coolDram : Nat
  /-- The logic has reached 105 °C, the DRAM die 95 °C: the cluster leaves service between steps, whatever it reads by then (R383). -/
  hotLogic : Bool
  hotDram : Bool
  -- service
  fenced : Bool
  /-- FENCE packets whose contexts have not all ended: each is acknowledged when they have (R396, R398). -/
  fences : List CtrlPacket
  lost : Bool
  channelOut : Bool
  /-- A PROBE is out since (R394). -/
  probedAt : Option Word
  /-- Tally time from which the turn-on sequence runs (R343). -/
  onStart : Option Word
  deriving DecidableEq, Repr

def Cluster.reset : Cluster :=
  { spTiles := 0, dnTiles := 0, tolerated := 0, declFaults := 0, indexFaults := 0, ceCount := 0, ueConsumed := 0, ueWriteback := 0,
    innerCe := 0, outerCe := 0, ueRead := 0, ueScrub := 0, exhausted := false, recalCount := 0, dieTemp := 0, crcData := 0, crcCtrl := 0,
    dropHops := 0, dropUnreach := 0, dropMisc := 0, disarmed := 0, deflect := 0, ejected := 0, pwrState := 0, phOk := 0, cap75 := false,
    vset := 0, vminSeen := false, vmin := 0, vminIdx := 0, wakeWaits := 0, wakeStretch := 0, maxSeen := false, maxStep := 0, crossFault := false, stretch := 0, overruns := 0,
    temp := 0, ageOff := 0, ctxWdog := 0, engWdog := 0, ansAborted := 0, ansDone := 0, relaunch := 0, bad := [], lineErr := [],
    scrubHit := [], exhLines := [], scrubPos := 0, scrubAt := 0, refreshPos := 0, slicesLeft := 0, inSlice := false, selfRefresh := false, lastSlice := 0, lastRecal := 0,
    recalTemp := 0, recalReply := [], reads := [], writes := [], commits := [], waits := [], nextArr := 0, heldTo := 0, turn := 0, credit := 0, nextTag := 0, runs := [], stretching := false, stretchFrom := 0, stretchSent := 0, stretchNow := 0,
    overrunLeft := 0, capLedger := 16, capMargin := 16, capTherm := 16, capThermDram := 16, coolPeriods := 0, coolDram := 0, hotLogic := false, hotDram := false, fenced := false, fences := [],
    lost := false, channelOut := false, probedAt := none, onStart := none }

/-! ### Dies and links (01, 11, 15, 16) -/

/-- An always-on island's Tally (R364, R365), in 2^-32 ns: its count against the master's, what it steers away over an interval, its count
latched at the last pulse against the boundary, and the line delay measured at bring-up. -/
structure Island where
  off : Int
  steer : Int
  latched : Int
  delay : Int
  missed : Nat
  hold : Bool
  osc : Bool
  deriving DecidableEq, Repr

structure WakeReq where
  cl : Nat
  t0 : Word
  waited : Bool
  deriving DecidableEq, Repr

structure Die where
  spare : Bool
  dark : Bool
  retired : Bool
  fenced : Bool
  /-- Routers in transit only (R23). -/
  transit : Bool
  /-- Current from the pair plane averaged over 100 ns, in 10 mA units (R344). -/
  current : Nat
  wakes : List WakeReq
  /-- Mean cluster temperature of each period in service, newest first, over 60 s (R385). -/
  tHist : List Int
  /-- The heat pattern runs on the die's clusters, under this cap in sixteenths; at 0 it stands still (R386). -/
  heatCap : Option Nat
  island : Island
  deriving DecidableEq, Repr

def Die.reset : Die :=
  { spare := false, dark := false, retired := false, fenced := false, transit := false, current := 0, wakes := [],
    tHist := [], heatCap := none, island := { off := 0, steer := 0, latched := 0, delay := 0, missed := 0, hold := false, osc := false } }

/-- A link's lanes (R262, R263, R273): those a trigger has named and that wait for slot 0, steered onto a spare while they retrain, on a
spare for good, retraining while both spares of their group are in use; and the router pairs whose link is out of service. -/
structure Link where
  due : List Nat
  steered : List Nat
  failed : List Nat
  bare : List Nat
  out : List Nat
  discards : List Word
  /-- LINK_RETRAIN's completion, by lane (R323). -/
  replies : List (Nat × Reply)
  deriving DecidableEq, Repr

def Link.reset : Link := { due := [], steered := [], failed := [], bare := [], out := [], discards := [], replies := [] }

/-- One entry of a slot table (R224). -/
structure Slot where
  state : BitVec 2
  inp : BitVec 3
  circ : BitVec 10
  deriving DecidableEq, Repr

/-- What the redundancy map and the trained links leave out of the meshes (R218): dark sites, dark clusters, and by die link (key `4 * site
+ side`) the router pairs whose link is out of service. -/
structure Holes where
  dark : List Nat
  clusters : List Nat
  cuts : Tbl (List Nat)
  deriving DecidableEq, Repr

def Holes.reset : Holes := { dark := [], clusters := [], cuts := [] }

/-! ### Partitions, maps, handles, windows, clearing, steps (07, 08, 10) -/

/-- A handle descriptor (R170, Table 7-5). -/
structure Handle where
  state : BitVec 2
  kind : Bool
  wr : Bool
  die : BitVec 4
  cluster : BitVec 6
  lcn : BitVec 16
  start : BitVec 14
  linesM1 : BitVec 20
  gen : BitVec 16
  deriving DecidableEq, Repr

def Handle.reset : Handle :=
  { state := 0, kind := false, wr := true, die := 0, cluster := 0, lcn := 0, start := 0, linesM1 := 0, gen := 0 }

/-- A window descriptor (R176, Table 7-6): its common fields, and bits [255:128] by kind. -/
structure Window where
  state : BitVec 2
  outbound : Bool
  dir : BitVec 2
  target : Bool
  linesM1 : BitVec 20
  gen : BitVec 16
  expiry : Word
  hi : BitVec 128
  /-- Outbound to a panel: the GEN that the far panel returned at the open (R178), which no message of the spec carries: a free value. -/
  farGen : BitVec 16
  deriving DecidableEq, Repr

def Window.reset : Window :=
  { state := 0, outbound := false, dir := 0, target := false, linesM1 := 0, gen := 0, expiry := 0, hi := 0, farGen := 0 }

/-- MAP.STEP (R249, Table 10-2). -/
structure MapStep where
  nlayer : Nat
  lkeep : Bool
  slots : Nat
  split : Nat
  overlap : Nat
  chunk : Nat
  sloth : Nat
  rech : Nat
  inh : Nat
  relA0 : Nat
  relA1 : Nat
  relB0 : Nat
  relB1 : Nat
  deriving DecidableEq, Repr

/-- A MAP.CLEAR entry (R245, Table 10-5). -/
structure ClearEntry where
  ctxmask : BitVec 4
  parity : BitVec 2
  join : Bool
  role : Bool
  wdog : Nat
  deriving DecidableEq, Repr

/-- A MAP.STREAMS entry (R241, Table 10-6). -/
structure StreamEntry where
  circ : Nat
  handle : Nat
  off : Nat
  lines : Nat
  lstride : Nat
  nrun : Nat
  trig : Nat
  cnt : Nat
  fl : Bool
  dline : Nat
  ring : Nat
  deriving DecidableEq, Repr

structure PredLayer where
  layer : Nat
  budget : Nat
  thresh : Lane
  deriving DecidableEq, Repr

structure MapPred where
  mode : BitVec 2
  log : Bool
  logh : Nat
  layers : List PredLayer
  deriving DecidableEq, Repr

/-- A MAP.CIRCUITS entry (R224, Table 9-10). -/
structure Circuit where
  x : Nat
  y : Nat
  slot : Nat
  out : Nat
  inp : Nat
  kind : Nat
  circ : Nat
  deriving DecidableEq, Repr

/-- A committed map (R238, R324). -/
structure PartMap where
  step : MapStep
  clear : List ClearEntry
  streams : List StreamEntry
  m : Nat
  kvlo : Nat
  kvhi : Nat
  tokb : Nat
  sparse : MapSparse
  pred : MapPred
  mcast : List (BitVec 128)
  circuits : List Circuit
  bb : Bool
  loader : Bytes
  digest : Bytes
  deriving DecidableEq, Repr

/-- What a bank holds for a partition (R211, R219, R224, R228): the translation of its logical core numbers, its multicast descriptors and
its circuits. -/
structure BankPart where
  sites : List Nat
  numbering : List Nat
  mcast : List (BitVec 128)
  circuits : List Circuit
  deriving DecidableEq, Repr

/-- One bank of every router and core, as the hub computes it (R218, R228): by partition what it holds, and what the route tables go by: the
holes and the sites that cannot be reached. -/
structure Bank where
  parts : Tbl BankPart
  holes : Holes
  unreach : List Nat
  deriving DecidableEq, Repr

def Bank.reset : Bank := { parts := [], holes := Holes.reset, unreach := [] }

/-- A partition's Distance Table as it was built (R233): the bank to which it belongs, the logical cores, the clusters,
those that have lost their cores among them, and the holes. -/
structure DistTable where
  bank : Bool
  numbering : List Nat
  clusters : List Nat
  holes : Holes
  deriving DecidableEq, Repr

def DistTable.reset : DistTable := { bank := false, numbering := [], clusters := [], holes := Holes.reset }

/-- A clearing channel's open generation (R246, R247). -/
structure Chan where
  gen : Nat
  /-- One past the last generation that has cleared: a reset discards generations, and no notice names those (R246, R248). -/
  cleared : Nat
  /-- Contexts of each core that have arrived, by core number. -/
  arrived : Tbl (BitVec 4)
  first : Option Word
  held : Bool
  deriving DecidableEq, Repr

def Chan.reset : Chan := { gen := 0, cleared := 0, arrived := [], first := none, held := false }

/-- A completion that waits: for handle changes that some controller has not applied (R172), and for Escrow records that the Shadow has
not acknowledged (R290). -/
structure HeldReply where
  reply : Reply
  status : Status
  payload : Bytes
  handles : List (Nat × Nat)
  seqs : List Nat
  deriving DecidableEq, Repr

/-- An invalidation's moments (R173): its completion time, whether no step has been in flight since, and the end of the last task. `steps` is
how many steps the partition will have ended when those in flight at the completion have. -/
structure Inval where
  at_ : Word
  idle : Bool
  /-- The end of the last of `tasks`, or the completion of the invalidation. -/
  ended : Word
  steps : Nat
  /-- Tasks that ran when the invalidation completed and have not ended: core, context, task. -/
  tasks : List (Nat × Nat × BitVec 16)
  deriving DecidableEq, Repr

/-- Ledger figures of a partition (R372 to R379). -/
structure PartLedger where
  pmode : BitVec 2
  allow : Nat
  resv : Nat
  aging : Nat
  /-- A LEDGER_SET that waits for the period boundary (R372). -/
  next : Option (BitVec 2 × Nat × Nat × Nat)
  lcap : Nat
  lowRun : Nat
  reqstep : Nat
  periods : Nat
  sum64 : Nat
  total : Nat
  last : Nat
  /-- Energy of the last 8 periods, newest first, with the part charged to Reserved requests. -/
  last8 : List (Nat × Nat)
  /-- m of the requests admitted in this period and in each of those 8. -/
  adm8 : List Nat
  /-- Direct and overhead charge and tokens of the last 64 periods in which tokens were fed. -/
  fed : List (Nat × Nat)
  idle : List Nat
  /-- Tokens fed by request in the steps released in this period, tokens of its abandoned groups, tokens of the entries written in it: a step
that spans several periods feeds its tokens once (R378). -/
  tokens : Tbl Nat
  lostTokens : Nat
  fedCount : Nat
  /-- Step periods (start to start, nanoseconds) measured in each period of `fed`: their sum and number; those of this period; the start of
  the last step. -/
  gaps : List (Nat × Nat)
  gapSum : Nat
  gapCount : Nat
  lastStart : Option Word
  /-- A request has been active in this period (R379). -/
  busy : Bool
  waking : Bool
  deriving DecidableEq, Repr

def PartLedger.reset : PartLedger :=
  { pmode := 0, allow := 0, resv := 0, aging := 2000, next := none, lcap := 16, lowRun := 0, reqstep := 24, periods := 0, sum64 := 0,
    total := 0, last := 0, last8 := [], adm8 := [], fed := [], idle := [], tokens := [], lostTokens := 0, fedCount := 0, gaps := [],
    gapSum := 0, gapCount := 0, lastStart := none, busy := false, waking := false }

structure Partition where
  sites : List Nat
  /-- Logical core numbers in order: the physical core of each (R5). -/
  numbering : List Nat
  dist : DistTable
  distGen : BitVec 16
  staged : Tbl Byte
  map : Option PartMap
  handles : Tbl Handle
  /-- By handle, the controllers (by cluster) that have not yet applied a change, each with the descriptor it still holds (R172). -/
  lags : Tbl (Tbl Handle)
  invals : Tbl Inval
  windows : Tbl Window
  /-- By window, the controllers that have not yet applied its close, each with the descriptor it still holds (R177, R180). -/
  winLags : Tbl (Tbl Window)
  chans : Tbl Chan
  /-- Clearings of each channel since the map load (R242). -/
  trigs : Tbl Nat
  /-- The root's record: by channel, the clearing nodes (clusters) that never rose (R247). -/
  silent : Tbl (List Nat)
  /-- A renumbering that waits until the clearing channels of an abandoned step are reset (R258): of the numbering alone, or of all that
  goes with it. -/
  numberDue : Option Bool
  drained : Bool
  /-- PART_DRAIN completions that wait for the last request (R323). -/
  drainReply : List Reply
  /-- No spare remained for a lost die: admissions are refused until a new map is committed (R406). -/
  lacking : Bool
  fenced : Bool
  fenceAt : Option (Word × Option Reply)
  /-- RESET waits for the fence to end; its completion (R400 step 1). -/
  resetNext : Option Reply
  resetting : Option (Word × Option Reply)
  nextTask : BitVec 16
  steps : Nat
  ledger : PartLedger
  mapMeas : Bytes
  /-- Tally time of the last DATA_WRITE into a map handle (R425). -/
  lastWrite : Option Word
  images : List Bytes
  imgStage : Tbl Byte
  /-- The map's predictor mode, kept while a takeover's replay runs Exact in its place (R159, R439). -/
  predKept : Option (BitVec 2)
  /-- Units of each core by physical core number (R404, R432). -/
  units : Tbl (List Nat)
  deriving DecidableEq, Repr

def Partition.reset : Partition :=
  { sites := [], numbering := [], dist := DistTable.reset, distGen := 0, staged := [], map := none, handles := [], lags := [], invals := [], windows := [], winLags := [],
    chans := [], trigs := [], silent := [], numberDue := none, drained := false, drainReply := [], lacking := false, fenced := false, fenceAt := none, resetNext := none, resetting := none, nextTask := 1,
    steps := 0, ledger := PartLedger.reset, mapMeas := [], lastWrite := none, images := [], imgStage := [], predKept := none, units := [] }

/-- A step in flight (R249 to R254, R257 to R260). -/
structure Step where
  num : Nat
  relA : Bool
  relB : Bool
  /-- The lowest layer of group A and of group B that has not cleared for it (R259). -/
  layA : Nat
  layB : Nat
  abandoned : Bool
  started : Word
  deriving DecidableEq, Repr

/-- A lost die of a partition and the spare that takes its place (R405). -/
structure Replacement where
  part : Nat
  lost : Nat
  spare : Nat
  warm : Bool
  copied : Bool
  deriving DecidableEq, Repr

/-- A job (R239, R282 to R286): its partitions here, its members, and its steps in flight. -/
structure Job where
  formed : Bool
  parts : List Nat
  epoch : BitVec 32
  members : List Nat
  lead : Nat
  subst : Bool
  xtmo : Nat
  rejoin : Nat
  lost : List Nat
  /-- CLEAR_UP frames received, by channel: the members whose part is in (R283). -/
  ups : Tbl (List Nat)
  upAt : Tbl Word
  /-- By channel, the generations cleared since the last membership change: the count that CLEAR_UP and CLEAR_NOTICE carry (R283). -/
  clears : Tbl Nat
  /-- Members for whom another panel, a Shadow, stands in (R286). -/
  subs : Tbl Nat
  /-- Partitions that have had a new map since the job was shrunk (R286). -/
  remapped : List Nat
  /-- Slots that a recomputed request has left and whose entries are not yet idle (R250). -/
  vacated : List Nat
  /-- Groups whose step mark Escrow holds (R288). -/
  marked : List Bool
  lostAt : Option Word
  shrunk : Bool
  nextStep : Nat
  steps : List Step
  abandonsA : Nat
  abandonsB : Nat
  /-- Rung being handled for the faulted step, the fences that await FENCE_ACK: cluster, body, when sent (R396). -/
  rung : Nat
  /-- The abandonment in progress has been counted (R396, R411). -/
  counted : Bool
  acks : List (Nat × Nat × Word)
  /-- The hub's aborts of the abandonment that no ABORT_ANS has answered: core and task (R408). -/
  aborts : List (Nat × BitVec 16)
  /-- The clearing channels are reset once the fences of the abandonment are acknowledged (R258). -/
  resetDue : Bool
  /-- Map handles, by partition, on which the step in hand met ECC_UNCORRECTABLE (R201, R243), and whether such a line is one that the cores
  write, a kept input (R259). -/
  ueHandles : List (Nat × Nat)
  fromZero : Bool
  serialReplay : Bool
  /-- Steps of the last replay that are still in flight: serial mode ends with them (R401, R402). -/
  replayed : List Nat
  /-- Recovery setting in force for the steps in flight (Table 20-1). -/
  compatible : Bool
  deriving DecidableEq, Repr

def Job.reset : Job :=
  { formed := false, parts := [], epoch := 0, members := [], lead := 0, subst := true, xtmo := 5, rejoin := 5, lost := [], ups := [],
    upAt := [], clears := [], subs := [], remapped := [], vacated := [], marked := [], lostAt := none, shrunk := false, nextStep := 0, steps := [], abandonsA := 0, abandonsB := 0, rung := 0, counted := false,
    acks := [], aborts := [], resetDue := false, ueHandles := [], fromZero := false, serialReplay := false, replayed := [], compatible := false }

/-! ### Teller, requests, streams (13, 14) -/

/-- A partly received handshake (R313). -/
structure Handshake where
  first : Word
  port : Nat
  frags : Tbl Bytes
  finFrags : Tbl Bytes
  ip : BitVec 128
  udp : BitVec 16
  accepted : Bool
  sess : Nat
  nonce : Bytes
  h2 : Bytes
  ss : Bytes
  keepalive : Nat
  priv : Nat
  topclass : Nat
  subject : Bytes
  deriving DecidableEq, Repr

/-- A completion kept for its RSEQ (R318). -/
structure Done where
  cmd : BitVec 16
  status : Status
  payload : Bytes
  deriving DecidableEq, Repr

/-- A request that waits for lower ones of its mailbox (R318): its row, where its completion goes, and whether it changes no state. -/
structure HeldRequest where
  cmd : Instr
  reply : Reply
  ro : Bool
  deriving DecidableEq, Repr

/-- A mailbox (R318): the lowest RSEQ that has not completed, those held, those that execute, the last 64 completed, latest first. -/
structure Mailbox where
  next : Nat
  held : Tbl HeldRequest
  running : List Nat
  kept : List (Nat × Done)
  gapAt : Word
  deriving DecidableEq, Repr

def Mailbox.reset : Mailbox := { next := 0, held := [], running := [], kept := [], gapAt := 0 }

/-- A hub's replay window for a session (R312): the highest SEQ and those received of the 1,024 below it. -/
structure ReplayWin where
  high : Nat
  got : List Nat
  deriving DecidableEq, Repr

/-- A stream datagram that the host's CUM does not acknowledge (R300, R303): its transmissions, the lines of the host ring that it takes,
with those it skipped at the ring's end; whether it last went by UDP; and whether a map has shown it held. -/
structure Retained where
  payload : Bytes
  sentAt : Word
  sends : Nat
  ring : Nat
  udp : Bool
  seen : Bool
  deriving DecidableEq, Repr

structure EventRec where
  code : BitVec 16
  body : Bytes
  sentAt : Word
  deriving DecidableEq, Repr

/-- An RDMA WRITE that the panel has sent and the host has not acknowledged (R303): a stream payload, with its immediate value, or the
lines of a WPUT, with the core whose counter counts them. -/
structure QpWrite where
  psn : BitVec 24
  packets : Nat
  imm : Option (BitVec 32)
  va : Word
  rkey : BitVec 32
  payload : Bytes
  x : BitVec 10
  y : BitVec 10
  cnt : Nat
  lines : Nat
  deriving DecidableEq, Repr

/-- A session's queue pair (R296, R297). -/
structure QueuePair where
  port : Nat
  hostQpn : BitVec 24
  hostGid : BitVec 128
  expPsn : BitVec 24
  sendPsn : BitVec 24
  ackPsn : BitVec 24
  error : Bool
  /-- Send rate in 1/1,024 of the full rate, and when it was last halved. -/
  rate : Nat
  cutAt : Word
  cnpAt : Option Word
  /-- Writes of the panel not yet acknowledged, oldest first. -/
  out : List QpWrite
  /-- While a request of the host waits through a slice (R192), those accepted behind it. -/
  behind : Option (List RdmaWork)
  deriving DecidableEq, Repr

structure Session where
  est : Bool
  estNum : BitVec 32
  /-- Host endpoint (R298, R428). -/
  ip : BitVec 128
  udp : BitVec 16
  priv : Nat
  topclass : Nat
  subject : Bytes
  khp : Bytes
  kph : Bytes
  nonce : Bytes
  keepalive : Nat
  lastMsg : Word
  mask : BitVec 32
  port : Nat
  rdma : Bool
  win : Nat
  winPart : Nat
  rto : Nat
  win0 : ReplayWin
  win1 : ReplayWin
  seqOut : BitVec 64
  boxes : Tbl Mailbox
  eseq : Nat
  events : Tbl EventRec
  lostEvents : BitVec 16
  sseq : BitVec 32
  /-- Next free line of the host ring (R303). -/
  ringAt : Nat
  retained : Tbl Retained
  cum : Nat
  stopped : Bool
  overflow : Bool
  qp : Option QueuePair
  stages : Tbl (Tbl (BitVec 32))
  repGen : BitVec 32
  repTime : Word
  /-- Number of the free value that stands for the report's signature (log 7). -/
  repFree : Nat
  deriving DecidableEq, Repr

def Session.reset : Session :=
  { est := false, estNum := 0, ip := 0, udp := 0, priv := 0, topclass := 0, subject := [], khp := [], kph := [], nonce := [], keepalive := 10, lastMsg := 0,
    mask := 0, port := 0, rdma := false, win := 0, winPart := 0, rto := 20, win0 := { high := 0, got := [] }, win1 := { high := 0, got := [] },
    seqOut := 1, boxes := [], eseq := 1, events := [], lostEvents := 0, sseq := 1, ringAt := 0, retained := [], cum := 0, stopped := false,
    overflow := false, qp := none, stages := [], repGen := 0, repTime := 0, repFree := 0 }

/-- The fields of a submission (R327, Table 14-8). -/
structure SubFields where
  job : Nat
  cls : Nat
  seed : Word
  temp : Lane
  topp : Lane
  topk : BitVec 32
  maxout : Nat
  plen : Nat
  stops : List (BitVec 32)
  prompt : List (BitVec 32)
  deriving DecidableEq, Repr

/-- A deferral ticket (R328, R380). -/
structure Ticket where
  sess : Nat
  sub : SubFields
  /-- STAGE of the submission; with a staged prompt `sub` holds no tokens. -/
  stage : Nat
  first : Word
  last : Word
  wait : Nat
  active : Bool
  promoted : Bool
  claims : List (Nat × Nat × Nat)
  deriving DecidableEq, Repr

/-- A generation request (R326 to R329, R369 to R371, R289). -/
structure Request where
  sess : Nat
  sub : SubFields
  cls : Nat
  state : Nat
  status : Status
  endedAt : Word
  released : Nat
  /-- Tokens computed so far in this pass and the chain digest (R289). -/
  computed : Nat
  digest : Bytes
  /-- The last token block in Escrow: index, position, digest. -/
  escIdx : Nat
  escPos : Nat
  escDigest : Bytes
  fed : Nat
  /-- NIN and SAMPLE of the request's slot entry in force; NIN 0 while it is in no step (R250). -/
  nin : Nat
  sample : Bool
  slot : Option Nat
  kvh : List (Nat × Nat)
  drops : BitVec 32
  dropTokens : BitVec 32
  /-- Both totals of the tokens that an earlier pass has counted, which a recomputation counts again (R158, R407). -/
  dropsKept : BitVec 32
  dropTokensKept : BitVec 32
  dir : Nat
  ovh : Nat
  rates : List (Nat × Nat)
  /-- The END block has been released (R329). -/
  endSent : Bool
  /-- The period in which the request ended is closed: the receipt is whole (R371). -/
  charged : Bool
  deriving DecidableEq, Repr

/-! ### Optical, twins (12) -/

/-- Lines of an optical transaction that have no answer yet (R277). -/
structure OptXfer where
  get : Bool
  x : BitVec 10
  y : BitVec 10
  cnt : Nat
  dst : Nat
  dpart : Nat
  win : Nat
  gen : BitVec 16
  first : Nat
  lines : Nat
  spmLine : Nat
  coreTag : BitVec 16
  part : Nat
  left : List Nat
  at_ : Tbl Word
  /-- XGRANT has gone out (R279). -/
  granted : Bool
  deriving DecidableEq, Repr

/-- A frame kept until it is acknowledged (R279). -/
structure SentFrame where
  frame : OptFrame
  oe : Nat
  sentAt : Word
  sends : Nat
  deriving DecidableEq, Repr

/-- Assured traffic to and from one panel (R279). -/
structure Assured where
  nextSeq : BitVec 20
  sent : List SentFrame
  low : BitVec 20
  got : List Nat
  since : Nat
  lastAck : Word
  unreachable : Bool
  deriving DecidableEq, Repr

def Assured.reset : Assured :=
  { nextSeq := 0, sent := [], low := 0, got := [], since := 0, lastAck := 0, unreachable := false }

structure OptDie where
  xfers : Tbl OptXfer
  /-- Frames on their way across the mesh to this die, by tag (R275). -/
  transit : Tbl OptFrame
  nextTag : BitVec 16
  discards : Nat
  deriving DecidableEq, Repr

def OptDie.reset : OptDie := { xfers := [], transit := [], nextTag := 0, discards := 0 }

/-- An Escrow record (R288, Tables 12-5 and 12-6). -/
structure EscrowRec where
  kind : Nat
  req : Word
  body : Bytes
  deriving DecidableEq, Repr

/-- An ESCROW frame that the Shadow has not acknowledged (R288, R290): its record's KIND and what that is of, a request or a session; the twin
die that keeps it; 0 sends while that die's resend buffer is full (R279). -/
structure EscSent where
  seq : Nat
  kind : Nat
  key : Nat
  frame : OptFrame
  oe : Nat
  sentAt : Word
  sends : Nat
  deriving DecidableEq, Repr

inductive TwinRole where
  | solo | primary | shadow
  deriving DecidableEq, Repr

structure Twin where
  role : TwinRole
  pending : Option TwinRole
  partner : Nat
  attached : Bool
  takeover : Bool
  reply : Option Reply
  pairKey : Bytes
  lastBeat : Word
  /-- The last frame of any kind on the twin link, and whether its silence has been reported. -/
  lastHeard : Word
  silent : Bool
  /-- Has a BEAT come since the attach began? -/
  beaten : Bool
  /-- Escrow records that the partner has sent (Shadow). -/
  records : List EscrowRec
  /-- Twin frames received, by SEQ, from the first whose record is not complete: a line of Escrow, or none for another frame. -/
  lines : Tbl (Option Line)
  nextRec : Nat
  /-- Escrow frames sent and not acknowledged (Primary). -/
  unacked : List EscSent
  nextSeq : Nat
  /-- Sequence numbers of the Escrow copy that an attach began with (R292). -/
  copy : List Nat
  /-- Token blocks that wait for the acknowledgement of their KIND 2 record: its sequence number, the request, the block (R290). -/
  held : List (Nat × Nat × Bytes)
  deriving DecidableEq, Repr

def Twin.reset : Twin :=
  { role := .solo, pending := none, partner := 0, attached := false, takeover := false, reply := none, pairKey := [], lastBeat := 0, lastHeard := 0, silent := false,
    beaten := false, records := [], lines := [], nextRec := 0, unacked := [], nextSeq := 0, copy := [], held := [] }

/-! ### Guests (11, 21) -/

structure GuestReq where
  tag : BitVec 12
  write : Bool
  arg : Word
  at_ : Word
  /-- Where the line that its address names lies: in a channel (false) or a core's scratchpad, the cluster or core, the line (R267, R270). -/
  place : Option (Bool × Nat × Nat)
  deriving DecidableEq, Repr

structure Guest where
  mode : BitVec 2
  fenced : Bool
  link : Bool
  modules : BitVec 3
  rate16 : Bool
  gclass : BitVec 16
  viol : BitVec 8
  denials : BitVec 32
  capSent : Bool
  capGot : Bool
  admitted : Bool
  rules : Tbl (BitVec 128)
  reqs : List GuestReq
  /-- The nonce of the ATTQ that waits for its answer, when it went out, and whether a mode change or return waits on it. -/
  attq : Option (BitVec 64 × Word)
  /-- What waits on it: the mode, whether it is the return of a fenced site, and its completion. -/
  want : Option (Nat × Bool × Reply)
  meas : Bytes
  attested : Bool
  lastAttq : Word
  denyTimes : List Word
  retrains : Nat
  powerCut : Bool
  /-- The mode that the loss of the site's hub has displaced (R439). -/
  kept : Option (BitVec 2)
  deriving DecidableEq, Repr

def Guest.reset : Guest :=
  { mode := 0, fenced := false, link := false, modules := 0, rate16 := false, gclass := 0, viol := 0, denials := 0, capSent := false,
    capGot := false, admitted := false, rules := [], reqs := [], attq := none, want := none, meas := [], attested := false, lastAttq := 0,
    denyTimes := [], retrains := 0, powerCut := false, kept := none }

/-! ### Hubs, power, clocks, Ledger, Vault, sideband (13 to 21) -/

/-- An entry of a hub's journal (R26, R28): a request that changes state, by its session's establishment number, mailbox and RSEQ; a
session established (R314); a clock change announced (R361). -/
inductive Journaled where
  | request (est : BitVec 32) (mbox rseq : Nat)
  | session (est : BitVec 32)
  | clock (t : Word)
  deriving DecidableEq, Repr

structure Hub where
  up : Bool
  /-- What the hub has journaled, in order (R26). -/
  journal : List Journaled
  selfTest : Bool
  bank : Nat
  fellBack : Bool
  fwver : BitVec 32
  fwMeas : Bytes
  prevBank : Nat
  rejoinBy : Option Word
  -- HUB.ETHCNT
  fcsErr : BitVec 16
  unknown : BitVec 16
  resends : BitVec 16
  linkDown : BitVec 8
  naks : BitVec 8
  -- HUB.TELCNT
  macDrop : BitVec 16
  replayDrop : BitVec 16
  ringFull : BitVec 12
  hsReject : BitVec 12
  sessExpired : BitVec 8
  portUp : Bool
  -- sideband registers of this hub
  dynAddr : Option (BitVec 7)
  events : BitVec 8
  alert : Bool
  tagFail : Bool
  recLen : BitVec 16
  recBusy : Bool
  recDone : Bool
  recResult : Status
  recBuf : Tbl (BitVec 64)
  /-- The record submitted, while it is checked and written. -/
  recSub : Bytes
  deriving DecidableEq, Repr

def Hub.reset : Hub :=
  { up := false, journal := [], selfTest := false, bank := 0, fellBack := false, fwver := 0, fwMeas := [], prevBank := 0, rejoinBy := none, fcsErr := 0,
    unknown := 0, resends := 0, linkDown := 0, naks := 0, macDrop := 0, replayDrop := 0, ringFull := 0, hsReject := 0, sessExpired := 0,
    portUp := false, dynAddr := none, events := 1, alert := false, tagFail := false, recLen := 0, recBusy := false, recDone := false,
    recResult := 0, recBuf := [], recSub := [] }

/-- HUB.PSREC and the stage's own state (R336, R348). STATE: 0 off, 1 on, 2 ramping, 3 and 4 latched. -/
structure Stage where
  vin : BitVec 16
  iout : BitVec 16
  vout : BitVec 16
  temp : BitVec 8
  state : BitVec 3
  status : BitVec 16
  iaux : BitVec 16
  trips : BitVec 8
  readAt : Option Word
  /-- When its temperature and STATUS_WORD were last read (R347). -/
  slowAt : Option Word
  auxOn : Bool
  trippedOnce : Bool
  cap : Nat
  coolPeriods : Nat
  deriving DecidableEq, Repr

def Stage.reset : Stage :=
  { vin := 0, iout := 0, vout := 0, temp := 0, state := 0, status := 0, iaux := 0, trips := 0, readAt := none, slowAt := none, auxOn := false,
    trippedOnce := false, cap := 16, coolPeriods := 0 }

/-- A busbar input (R335) and what follows from it for its half. -/
structure Half where
  v : BitVec 16
  i : BitVec 16
  /-- Current averaged over 10 ms. -/
  iavg : BitVec 16
  power : Bool
  outSince : Option Word
  inSince : Option Word
  overSince : Option Word
  over10Since : Option Word
  inService : Bool
  /-- Taken out by HALF_SET: its partitions are fenced, and it is out at the end of the ramp-down (R434, R441). -/
  leaving : Bool
  refOk : Bool
  heartbeat : Word
  /-- Start of the ramp-down in progress, and whether the auxiliary outputs are in its scope (R350). -/
  ramp : Option (Word × Bool)
  cap : Nat
  /-- Periods in a row below the release point of the half's cap (R376). -/
  lowRun : Nat
  deriving DecidableEq, Repr

def Half.reset : Half :=
  { v := 0, i := 0, iavg := 0, power := false, outSince := none, inSince := none, overSince := none, over10Since := none, inService := false, leaving := false,
    refOk := true, heartbeat := 0, ramp := none, cap := 16, lowRun := 0 }

/-- The clock plan (R360 to R362, HUB.CLKPLAN, HUB.CLKNEXT). -/
structure ClockPlan where
  step : BitVec 5
  next : BitVec 5
  pending : Bool
  req : BitVec 5
  minAllow : BitVec 5
  /-- MAXSTEP of the fabric regions, by site, and of the Guest Gates, 160 and 161 (R358). -/
  regions : Tbl (BitVec 5)
  changes : BitVec 16
  tChange : Word
  since : Word
  stopped : Bool
  hold : Bool
  /-- A half whose fabric clocks join at the restart (R449). -/
  joining : Option Nat
  /-- When the step was last evaluated (R360). -/
  evalAt : Word
  /-- The last Tally interval and the last Ledger period that have begun (R357, R367). -/
  interval : Nat
  period : Nat
  deriving DecidableEq, Repr

def ClockPlan.reset : ClockPlan :=
  { step := 0, next := 0, pending := false, req := 0, minAllow := 0, regions := [], changes := 0, tChange := 0, since := 0, stopped := false,
    hold := false, joining := none, evalAt := 0, interval := 0, period := 0 }

/-- Panel Tally (R364 to R366, HUB.TALLYSTAT, HUB.PTPREL). -/
structure TallyMaster where
  frac : BitVec 32
  steer : Int
  /-- When the offset from the source was last estimated: the slew it asks for lasts 1,024 µs. -/
  steerAt : Word
  offset : Int
  locked : Bool
  ptpRate : Int
  ptpOff : Word
  ptpLast : Option (Word × Word)
  /-- The end-to-end delay, in eighths of a nanosecond (R295). -/
  ptpDelay : Int
  /-- Rank of the time transmitter that each port announces; the lowest is best (R295). -/
  ptpRanks : Tbl Nat
  hasSource : Bool
  firstMap : Bool
  deriving DecidableEq, Repr

def TallyMaster.reset : TallyMaster :=
  { frac := 0, steer := 0, steerAt := 0, offset := 0, locked := false, ptpRate := 0, ptpOff := 0, ptpLast := none, ptpDelay := 0, ptpRanks := [],
    hasSource := false, firstMap := false }

/-- The epoch in force and the change in progress (R229). -/
structure Epoch where
  cur : Bool
  /-- Step 1: when the writes of the bank not in force began, and the routers that have acknowledged theirs. -/
  writesAt : Option Word
  acked : List Nat
  /-- Partitions whose translation, multicast descriptors or circuits the change renews. -/
  parts : List Nat
  switchAt : Option Word
  /-- From T_switch on, the old bank is kept: T_switch, later by the pauses since, and the lowest global step since (R229, R363). -/
  kept : Option (Word × BitVec 5)
  /-- A change that waits for the end of this one, with its partitions. -/
  next : Option (List Nat)
  deriving DecidableEq, Repr

def Epoch.reset : Epoch := { cur := false, writesAt := none, acked := [], parts := [], switchAt := none, kept := none, next := none }

/-- SYS_CONFIG fields (Table 14-5), held in PANEL_STATE (R435). -/
structure SysConfig where
  panel : Nat
  troot : Nat
  assured : Bool
  compatible : Bool
  mtu : Nat
  vlan : Nat
  pfc : Nat
  ptpDomain : Nat
  dscpTeller : Nat
  dscpRoce : Nat
  scrubHours : Nat
  recalS : Nat
  ip4 : Tbl (BitVec 32)
  ip6 : Tbl (BitVec 128)
  deriving DecidableEq, Repr

def SysConfig.reset : SysConfig :=
  { panel := 0, troot := 0, assured := false, compatible := false, mtu := 9000, vlan := 0, pfc := 3, ptpDomain := 0, dscpTeller := 34,
    dscpRoce := 26, scrubHours := 8, recalS := 300, ip4 := [], ip6 := [] }

/-- Panel-wide Ledger and coolant figures (R369, R376, R384 to R388). -/
structure PanelLedger where
  ein : Word
  pin : BitVec 32
  ovh : BitVec 32
  guest : BitVec 32
  unch : BitVec 32
  unchTotal : Nat
  avg10 : List Nat
  /-- Panel input of the last 1,000 periods (R387). -/
  avg1000 : List Nat
  envCap : Nat
  envLow : Nat
  /-- Energy of the dies that served in each of the last 64 periods, and how many they were (R385). -/
  dieMean : List (Nat × Nat)
  f1 : BitVec 32
  f10 : BitVec 32
  f60 : BitVec 32
  fAt : Option Word
  tin : BitVec 16
  tout : BitVec 16
  tclu : BitVec 8
  tdram : BitVec 8
  tstage : BitVec 8
  limits : BitVec 6
  lowIn : Option Word
  highIn : Option Word
  hotIn : Option Word
  rise11 : Option Word
  rise15 : Option Word
  envLower : Nat
  flow : BitVec 16
  flowAt : Option Word
  flowRpt : BitVec 16
  flowRptAt : Option Word
  warmDies : BitVec 8
  prewarm : Bool
  deriving DecidableEq, Repr

def PanelLedger.reset : PanelLedger :=
  { ein := 0, pin := 0, ovh := 0, guest := 0, unch := 0, unchTotal := 0, avg10 := [], avg1000 := [], envCap := 16, envLow := 0,
    dieMean := [], f1 := 0, f10 := 0, f60 := 0, fAt := none, tin := 0, tout := 0, tclu := 0, tdram := 0, tstage := 0, limits := 0,
    lowIn := none, highIn := none, hotIn := none, rise11 := none, rise15 := none, envLower := 0, flow := 200, flowAt := none,
    flowRpt := 0xFFFF, flowRptAt := none, warmDies := 0, prewarm := false }

/-- A Vault record (R416, Table 19-2), which half of its region it lies in and which flash dies hold it. -/
structure VaultRec where
  type : BitVec 16
  signed : Bool
  seq : Word
  key : Nat
  body : Bytes
  half : Nat
  on0 : Bool
  on1 : Bool
  deriving DecidableEq, Repr

/-- The CONFIG in force (R423, Table 19-5). -/
structure VaultConfig where
  version : Nat
  limit : Nat
  window : Nat
  signers : List Bytes
  guests : List (Bytes × Bytes)
  hosts : List (Bytes × Nat × Nat)
  digest : Bytes
  deriving DecidableEq, Repr

/-- HUB.RESETWIN (R411, R414). -/
structure ResetWin where
  times : List Word
  limit : BitVec 8
  /-- In seconds, up to 86,400: more than HUB.RESETWIN's field holds. -/
  window : Nat
  lastRung : BitVec 3
  total : BitVec 16
  /-- A panel reset after which some partition does not serve yet (R395). -/
  panelAt : Option Word
  deriving DecidableEq, Repr

/-- Bring-up (R442, HUB.BOOTSTAT). -/
structure Boot where
  phase : Nat
  started : Word
  rstBoot : Bool
  powerCycled : Bool
  diesLeft : BitVec 8
  badCores : BitVec 16
  spares : BitVec 8
  tMs : BitVec 16
  /-- HALF_SET bringing a half back (R449): the half and where its completion goes. -/
  half : Option (Nat × Reply)
  /-- Phase in progress for that half. -/
  halfPhase : Nat
  /-- The spine crossing failed to train in phase 8 (R448). -/
  spineFailed : Bool
  /-- No hub has beaten for 500 ms: only a power cycle ends this (R32). -/
  hubsLost : Bool
  deriving DecidableEq, Repr

/-- STATE of STATUS and SB.STATUS (Table 14-5, Table 21-6). -/
inductive PanelState where
  | serving | safe | bringUp | safeNoId
  deriving DecidableEq, Repr

structure Pins where
  thermTrip : Bool
  resetLow : Bool
  twinPresent : Bool
  pwrCyc : Bool
  deriving DecidableEq, Repr

/-- A firmware activation in progress (R431). -/
structure FwUpdate where
  hub : Nat
  bank : Nat
  image : Bytes
  /-- The bank is still being written. -/
  write : Bool
  reply : Reply
  deriving DecidableEq, Repr

/-- A loader image that is being written into its partition's store (R431). -/
structure LoaderWrite where
  part : Nat
  image : Bytes
  reply : Reply
  deriving DecidableEq, Repr

/-- What proceeds only when both flash dies hold a record (R417). -/
inductive VaultAct where
  | answer (r : Reply) (st : Status)
  | sysConfig (c : SysConfig) (r : Reply)
  | restart (f : FwUpdate)
  | loader (w : LoaderWrite)
  /-- The loader store's other half holds its COMPACT. -/
  | packLoaders
  deriving DecidableEq, Repr

/-- A record on its way into the flash dies, VLT0 first; `copy`: a compaction writes it into the half that is not in use. -/
structure VaultWrite where
  record : VaultRec
  copy : Bool
  acts : List VaultAct
  deriving DecidableEq, Repr

/-- The Vault. Firmware banks, the loader store and the counters are written on both dies in parallel, and stand here once (log 148). -/
structure Vault where
  /-- Records that a die holds. -/
  recs : List VaultRec
  /-- Records to be programmed, in journal order; the first one is being programmed (R415, R417). -/
  writing : List VaultWrite
  seq : Word
  counters : Tbl Nat
  checkpoints : Tbl Nat
  /-- Raises whose CHECKPOINT is not written yet (R424). -/
  raising : Tbl Nat
  config : Option VaultConfig
  ownerKey : Bytes
  idDig : Bytes
  seed : Bytes
  latch : Bool
  latchCause : BitVec 4
  /-- The Vault check failed at bring-up (R424). -/
  failed : Bool
  /-- Bytes used in the half in use of the configuration region, the redundancy map and the state region, and which half that is; 3 is the
  loader store (R417). -/
  used : Tbl Nat
  halves : Tbl Nat
  banks : Tbl Bytes
  /-- FWVER of the firmware in a bank, as it reported it when it ran. -/
  bankVer : Tbl (BitVec 32)
  loaders : Tbl Bytes
  loaderUsed : Nat
  deriving DecidableEq, Repr

/-- A host fence or unfence of a context or an engine, until its cluster acknowledges it: the FENCE body echoed (R397, Table 18-2). -/
structure FenceWait where
  cl : Nat
  body : Nat
  reply : Reply
  deriving DecidableEq, Repr

/-! ### What leaves the panel or a unit of it -/

/-- What a command sends: packets on links and into endpoints, Teller and stream messages, frames, completions to guests, PMBus and
sideband answers, pins. -/
inductive Emit where
  /-- A data packet leaves on a mesh output; `due` is the clock in which it leaves the next router (R223). -/
  | flit (router out : Nat) (p : DataPacket) (due : Nat)
  /-- A packet that an endpoint or a transfer engine hands to its router. -/
  | inject (router : Nat) (p : DataPacket)
  | endpoint (router ep : Nat) (p : DataPacket)
  | ctrl (p : CtrlPacket)
  /-- A control packet leaves on its plane (`out` 0 to 3), on the express channel (8 to 11) or is ejected (4); `past` says that it is past its
  station (log 115). -/
  | ctrlOut (router out plane : Nat) (past : Bool) (p : CtrlPacket)
  | teller (m : Msg) (h : NetHead)
  | rdma (sess : Nat) (w : QpWrite) (h : NetHead)
  | rdmaData (sess : Nat) (psn : BitVec 24) (lines : List Line) (h : NetHead)
  | rdmaAck (sess : Nat) (psn : BitVec 24) (h : NetHead)
  /-- `kind`: 0 sequence error, 1 remote operational error, 2 remote access error, 3 invalid request (R296, R297). -/
  | nak (sess : Nat) (psn : BitVec 24) (kind : Nat) (h : NetHead)
  | cnp (sess : Nat) (h : NetHead)
  | frame (oe : Nat) (f : OptFrame)
  | plp (site : Nat) (p : PlpMsg)
  | pmbus (half addr cmd data : Nat)
  /-- `kind`: 1 ARP reply, 2 neighbour advertisement, 3 echo reply, 4 PTP Delay_Req (R294, R295). -/
  | eth (port kind : Nat) (data : Bytes) (h : NetHead)
  | i3c (hub : Nat) (data : Bytes)
  | ibi (hub : Nat)
  | bankWrites (part : Nat)
  | handleWrites (part handle : Nat)
  | announce (t : Word)
  | pin (name : String) (high : Bool)
  deriving DecidableEq, Repr

/-- The panel. -/
structure State where
  pending : List Instr
  emitted : List Emit
  freeCtr : Nat
  tally : Word
  master : TallyMaster
  /-- Every addressed RAM of the panel: channels and scratchpads, byte by byte. -/
  mem : List Host.Cell
  cores : Tbl Core
  clusters : Tbl Cluster
  dies : Tbl Die
  badCores : List Nat
  links : Tbl Link
  optLinks : Tbl Link
  bank0 : Bank
  bank1 : Bank
  /-- Half clocks since mesh alignment (R223). -/
  meshHalf : Nat
  epoch : Epoch
  parts : Tbl Partition
  jobs : Tbl Job
  hub0 : Hub
  hub1 : Hub
  lead : Nat
  state : PanelState
  boot : Boot
  resets : ResetWin
  safeCause : BitVec 4
  sys : SysConfig
  sessions : Tbl Session
  handshakes : Tbl Handshake
  nextEst : BitVec 32
  tickets : Tbl Ticket
  nextTicket : Nat
  requests : Tbl Request
  nextReq : Nat
  waits : List HeldReply
  replacing : List Replacement
  optDies : Tbl OptDie
  assured : Tbl Assured
  /-- When a torus lane last sent its TIME frame, under key 16 * die + lane; and by die the last one-way measurement (R281). -/
  timeSent : Tbl Word
  timeMeas : Tbl Word
  twin : Twin
  guests : Tbl Guest
  stages : Tbl Stage
  half0 : Half
  half1 : Half
  clock : ClockPlan
  ledger : PanelLedger
  vault : Vault
  fwUpdate : Option FwUpdate
  loaderWrites : List LoaderWrite
  fenceWaits : List FenceWait
  /-- FENCE of the panel, until every partition's fence has ended (R397). -/
  panelFence : Option Reply
  /-- RESET of the panel waits for the fences of its partitions (R400 step 1). -/
  panelReset : Option Reply
  hubStage : Tbl Byte
  guestCut : Bool
  denyLimit : Nat
  pins : Pins
  deriving DecidableEq, Repr

/-- The redundancy map as the panel leaves the factory: one spare die in each row of each half (R21), in column 9 (log 9). -/
def Vault.factorySpares : List VaultRec :=
  (List.range 16).map fun r =>
    { type := 0x20, signed := false, seq := 0, key := 1 + 256 * (r * 10 + 9),
      body := [1, BitVec.ofNat 8 (r * 10 + 9)] ++ List.replicate 14 0, half := 0, on0 := true, on1 := true }

/-- OWNER, IDENTITY and both PUF_HELPER records of the factory region (Table 19-3). -/
def Vault.factoryTrust : List VaultRec :=
  let one (type : BitVec 16) (signed : Bool) (key : Nat) (body : Bytes) : VaultRec :=
    { type := type, signed := signed, seq := 0, key := key, body := body, half := 0, on0 := true, on1 := true }
  [one 1 true 0 Config.factoryOwner, one 0x30 true 0 Config.factoryIdentity, one 0x31 false 0 (Config.pufHelper 0),
   one 0x31 false 1 (Config.pufHelper 1)]

def Vault.reset : Vault :=
  { recs := Vault.factoryTrust ++ Vault.factorySpares, writing := [], seq := 1, counters := [], checkpoints := [], raising := [], config := none, ownerKey := [], idDig := [],
    seed := [], latch := false, latchCause := 0, failed := false, used := [], halves := [], banks := [], bankVer := [], loaders := [], loaderUsed := 0 }

/-- The panel right after reset: unpowered, nothing brought up, every register at its reset value. -/
def State.reset : State :=
  { pending := [], emitted := [], freeCtr := 0, tally := 0, master := TallyMaster.reset, mem := [], cores := [], clusters := [], dies := [],
    badCores := [], links := [], optLinks := [], bank0 := Bank.reset, bank1 := Bank.reset, meshHalf := 0, epoch := Epoch.reset, parts := [], jobs := [],
    hub0 := Hub.reset, hub1 := Hub.reset, lead := 0, state := .bringUp,
    boot := { phase := 0, started := 0, rstBoot := false, powerCycled := true, diesLeft := 0, badCores := 0, spares := 0,
              tMs := 0, half := none, halfPhase := 0, spineFailed := false, hubsLost := false },
    resets := { times := [], limit := 8, window := 600, lastRung := 0, total := 0, panelAt := none }, safeCause := 0, sys := SysConfig.reset,
    sessions := [], handshakes := [], nextEst := 1, tickets := [], nextTicket := 1, requests := [], nextReq := 1, waits := [], replacing := [], optDies := [],
    assured := [], timeSent := [], timeMeas := [], twin := Twin.reset, guests := [], stages := [], half0 := Half.reset, half1 := Half.reset,
    clock := ClockPlan.reset, ledger := PanelLedger.reset, vault := Vault.reset, fwUpdate := none, loaderWrites := [], fenceWaits := [], panelFence := none, panelReset := none, hubStage := [], guestCut := false,
    denyLimit := 1024, pins := { thermTrip := false, resetLow := false, twinPresent := false, pwrCyc := false } }

end Sys2Proof.Machine
end

