-- ==== Sys2Proof/Machine/Tables.lean ====
section
/-! DEFINITION. Sparse tables by number, byte memory in canonical form, little-endian access, bit fields and saturation. -/

namespace Sys2Proof.Machine

/-! ### Tables -/

/-- The entry of `k`, if one is listed. -/
def Tbl.find {α : Type} : Tbl α → Nat → Option α
  | [], _ => none
  | (j, v) :: t, k => if j = k then some v else Tbl.find t k

/-- The entry of `k`, or `d` where none is listed. -/
def Tbl.get {α : Type} (t : Tbl α) (k : Nat) (d : α) : α := (Tbl.find t k).getD d

/-- `t` with `k` holding `v`; keys stay in rising order. -/
def Tbl.put {α : Type} : Tbl α → Nat → α → Tbl α
  | [], k, v => [(k, v)]
  | (j, w) :: t, k, v => if k < j then (k, v) :: (j, w) :: t else if k = j then (k, v) :: t else (j, w) :: Tbl.put t k v

/-- `t` without `k`. -/
def Tbl.drop {α : Type} : Tbl α → Nat → Tbl α
  | [], _ => []
  | (j, w) :: t, k => if j = k then Tbl.drop t k else (j, w) :: Tbl.drop t k

def Tbl.has {α : Type} (t : Tbl α) (k : Nat) : Bool := (Tbl.find t k).isSome

/-- Every listed value through `f`. -/
def Tbl.map {α β : Type} (t : Tbl α) (f : Nat → α → β) : Tbl β := List.map (fun p => (p.1, f p.1 p.2)) t

/-- The listed pairs for which `f` holds. -/
def Tbl.keep {α : Type} (t : Tbl α) (f : Nat → α → Bool) : Tbl α := List.filter (fun p => f p.1 p.2) t

/-- Keys in strictly rising order. -/
def Tbl.wf {α : Type} : Tbl α → Bool
  | [] => true
  | [_] => true
  | (j, _) :: (k, v) :: t => j < k && Tbl.wf ((k, v) :: t)

/-! ### Byte memory (R9, R160, R183) -/

/-- What a byte that nothing has written reads as. DESIGN CHOICE (log 5). -/
def Mem.unlisted : Byte := 0

def Mem.read : List Host.Cell → Nat → Byte
  | [], _ => Mem.unlisted
  | (j, b) :: t, a => if j = a then b else Mem.read t a

/-- The cells without address `a`. -/
def Mem.erase : List Host.Cell → Nat → List Host.Cell
  | [], _ => []
  | (j, b) :: t, a => if j < a then (j, b) :: Mem.erase t a else if j = a then t else (j, b) :: t

/-- The cells with `b` listed at `a`. -/
def Mem.insert : List Host.Cell → Nat → Byte → List Host.Cell
  | [], a, b => [(a, b)]
  | (j, w) :: t, a, b => if j < a then (j, w) :: Mem.insert t a b else if j = a then (a, b) :: t else (a, b) :: (j, w) :: t

/-- One byte written; the value an unlisted address reads as is not listed. -/
def Mem.write (m : List Host.Cell) (a : Nat) (b : Byte) : List Host.Cell :=
  if b = Mem.unlisted then Mem.erase m a else Mem.insert m a b

/-- The canonical form: addresses strictly rising, no entry equal to what an unlisted address reads as. -/
def Memory.wf : List Host.Cell → Bool
  | [] => true
  | (_, b) :: [] => b != Mem.unlisted
  | (j, b) :: (k, c) :: t => b != Mem.unlisted && decide (j < k) && Memory.wf ((k, c) :: t)

/-- `n` bytes from `a`, little-endian (R9). -/
def Mem.readN (m : List Host.Cell) (a : Nat) : Nat → Nat
  | 0 => 0
  | n + 1 => (Mem.read m a).toNat + 256 * Mem.readN m (a + 1) n

/-- `n` bytes of `v` written from `a`, little-endian (R9). -/
def Mem.writeN (m : List Host.Cell) (a : Nat) : Nat → Nat → List Host.Cell
  | 0, _ => m
  | n + 1, v => Mem.writeN (Mem.write m a (BitVec.ofNat 8 v)) (a + 1) n (v / 256)

/-! ### Bytes and fields -/

/-- Bits `[lo+n-1:lo]` of a number (R8). -/
def field (v lo n : Nat) : Nat := (v >>> lo) % 2 ^ n

/-- Bit `i` of a number. -/
def bitOf (v i : Nat) : Bool := v.testBit i

/-- Little-endian value of a byte list. -/
def leNat : List Byte → Nat
  | [] => 0
  | b :: t => b.toNat + 256 * leNat t

/-- `n` little-endian bytes of a value. -/
def leBytes : Nat → Nat → List Byte
  | 0, _ => []
  | n + 1, v => BitVec.ofNat 8 v :: leBytes n (v / 256)

/-- `n` bytes of a payload from offset `o`, as a number; bytes beyond the end read 0. -/
def at_ (p : List Byte) (o n : Nat) : Nat := leNat ((p.drop o).take n)

/-- `n` bytes of a payload from offset `o`, padded with zeros. -/
def sub_ (p : List Byte) (o n : Nat) : List Byte :=
  let q := (p.drop o).take n
  q ++ List.replicate (n - q.length) 0

/-- Big-endian bytes (protocol headers, R9's exception). -/
def beBytes (n v : Nat) : List Byte := (leBytes n v).reverse

/-- The larger of two unsigned words. -/
def maxBv {w : Nat} (a b : BitVec w) : BitVec w := if a < b then b else a

/-- A counter that stops at its largest value. -/
def satAdd {w : Nat} (c : BitVec w) (n : Nat) : BitVec w := BitVec.ofNat w (Nat.min (c.toNat + n) (2 ^ w - 1))

/-- Sign-extended value of `n` bits. -/
def signed (v n : Nat) : Int := if v ≥ 2 ^ (n - 1) then (v : Int) - (2 ^ n : Nat) else v

/-- Bytes `i` of a line. -/
def lineByte (l : Line) (i : Nat) : Byte := BitVec.ofNat 8 (l.toNat >>> (8 * i))

/-- Lane `i` of a vector register or an accumulator set. -/
def lane (v : Line) (i : Nat) : Lane := BitVec.ofNat 32 (v.toNat >>> (32 * i))

/-- A vector of 16 lanes. -/
def ofLanes (f : Nat → Lane) : Line :=
  BitVec.ofNat 512 ((List.range 16).foldr (fun i acc => (f i).toNat + 2 ^ 32 * acc) 0)

/-- Bits of a mask as numbers. -/
def bitsOf (n v : Nat) : List Nat := (List.range n).filter (fun i => v.testBit i)

def sumNat (l : List Nat) : Nat := l.foldl (· + ·) 0

def maxNat (l : List Nat) : Nat := l.foldl Nat.max 0

/-- Ceiling of a quotient. -/
def ceilDiv (a b : Nat) : Nat := (a + b - 1) / b

/-- The number of the highest set bit, 0 for 0: floor of the base 2 logarithm. -/
def ilog2 (n : Nat) : Nat := n.log2

end Sys2Proof.Machine
end

