-- ==== Sys2Proof/Machine/Keccak.lean ====
section
/-! DEFINITION. Keccak-f[1600] and what the panel makes of it: SHAKE128 (R84, R117), SHA3-256 (R326, R422) and KMAC256 (R311),
after FIPS 202 and SP 800-185. -/

namespace Sys2Proof.Machine

/-- Rotation offsets of the rho step, by lane `x + 5y`. -/
def keccakRot : List Nat :=
  [0, 1, 62, 28, 27, 36, 44, 6, 55, 20, 3, 10, 43, 25, 39, 41, 45, 15, 21, 8, 18, 2, 61, 56, 14]

/-- Round constants of the iota step. -/
def keccakRc : List (BitVec 64) :=
  [0x1, 0x8082, 0x800000000000808A, 0x8000000080008000, 0x808B, 0x80000001, 0x8000000080008081, 0x8000000000008009,
   0x8A, 0x88, 0x80008009, 0x8000000A, 0x8000808B, 0x800000000000008B, 0x8000000000008089, 0x8000000000008003,
   0x8000000000008002, 0x8000000000000080, 0x800A, 0x800000008000000A, 0x8000000080008081, 0x8000000000008080,
   0x80000001, 0x8000000080008008]

def keccakRound (a : List (BitVec 64)) (rc : BitVec 64) : List (BitVec 64) :=
  let g (l : List (BitVec 64)) (i : Nat) : BitVec 64 := l.getD i 0
  let c := (List.range 5).map fun x => g a x ^^^ g a (x + 5) ^^^ g a (x + 10) ^^^ g a (x + 15) ^^^ g a (x + 20)
  let d := (List.range 5).map fun x => g c ((x + 4) % 5) ^^^ (g c ((x + 1) % 5)).rotateLeft 1
  let t := (List.range 25).map fun i => (g a i ^^^ g d (i % 5)).rotateLeft (keccakRot.getD i 0)
  -- pi: the lane (x, y) of the result is the lane (x + 3y, x) of the input
  let b := (List.range 25).map fun i => g t ((i % 5 + 3 * (i / 5)) % 5 + 5 * (i % 5))
  let e := (List.range 25).map fun i =>
    let x := i % 5; let y := 5 * (i / 5)
    g b i ^^^ ((~~~ g b ((x + 1) % 5 + y)) &&& g b ((x + 2) % 5 + y))
  match e with
  | [] => []
  | h :: r => (h ^^^ rc) :: r

def keccakF (a : List (BitVec 64)) : List (BitVec 64) := keccakRc.foldl keccakRound a

/-- One block of `rate` bytes exclusive-ored into the state, then the permutation. -/
def keccakAbsorb (st : List (BitVec 64)) (block : List Byte) : List (BitVec 64) :=
  keccakF ((List.range 25).map fun i => st.getD i 0 ^^^ BitVec.ofNat 64 (leNat ((block.drop (8 * i)).take 8)))

/-- Message bytes with the suffix `suf` and the pad to a whole number of blocks. -/
def keccakPad (rate : Nat) (suf : Byte) (m : List Byte) : List Byte :=
  let q := rate - m.length % rate
  if q = 1 then m ++ [suf ||| 0x80] else m ++ [suf] ++ List.replicate (q - 2) 0 ++ [0x80]

def keccakBlocks (rate : Nat) (st : List (BitVec 64)) (m : List Byte) : Nat → List (BitVec 64)
  | 0 => st
  | n + 1 => keccakBlocks rate (keccakAbsorb st (m.take rate)) (m.drop rate) n

def keccakSqueeze (rate : Nat) (st : List (BitVec 64)) : Nat → List Byte
  | 0 => []
  | n + 1 => ((st.map fun w => leBytes 8 w.toNat).flatten).take rate ++ keccakSqueeze rate (keccakF st) n

/-- `n` bytes of the sponge over `m`. -/
def sponge (rate : Nat) (suf : Byte) (m : List Byte) (n : Nat) : List Byte :=
  let p := keccakPad rate suf m
  let st := keccakBlocks rate (List.replicate 25 0) p (p.length / rate)
  (keccakSqueeze rate st (n / rate + 1)).take n

def shake128 (m : List Byte) (n : Nat) : List Byte := sponge 168 0x1F m n

def sha3_256 (m : List Byte) : List Byte := sponge 136 0x06 m 32

/-- Bytes of a positive length, most significant first. -/
def minBytes (v : Nat) : List Byte := if v = 0 then [0] else beBytes (v.log2 / 8 + 1) v

def leftEncode (v : Nat) : List Byte := let b := minBytes v; BitVec.ofNat 8 b.length :: b

def rightEncode (v : Nat) : List Byte := let b := minBytes v; b ++ [BitVec.ofNat 8 b.length]

def encodeString (b : List Byte) : List Byte := leftEncode (8 * b.length) ++ b

def bytePad (b : List Byte) (w : Nat) : List Byte :=
  let z := leftEncode w ++ b
  z ++ List.replicate ((w - z.length % w) % w) 0

/-- The bytes of an ASCII name. -/
def ascii (t : String) : List Byte := t.toList.map fun c => BitVec.ofNat 8 c.toNat

/-- KMAC256 with key `k`, customisation `c` and `n` bytes of output. -/
def kmac256 (k m c : List Byte) (n : Nat) : List Byte :=
  let pre := bytePad (encodeString (ascii "KMAC") ++ encodeString c) 136
  sponge 136 0x04 (pre ++ bytePad (encodeString k) 136 ++ m ++ rightEncode (8 * n)) n

end Sys2Proof.Machine
end

