-- ==== Sys2Proof/Machine/Float.lean ====
section
/-! DEFINITION. Element formats, scales, exact arithmetic and every rounding the panel performs (03, 02 R42 to R44, 04 R112 to R114). -/

namespace Sys2Proof.Machine

/-- A value: NaN, an infinity, or `(−1)^neg × m × 2^e` exactly (a zero keeps its sign). -/
inductive FP where
  | nan
  | inf (neg : Bool)
  | fin (neg : Bool) (m : Nat) (e : Int)
  deriving DecidableEq, Repr

/-- An element format's parameters (Table 3-3). `special`: 0 IEEE infinities and NaNs, 1 the single NaN of E4M3, 2 neither. -/
structure Fm where
  eb : Nat
  fb : Nat
  bias : Nat
  special : Nat
  canon : Nat
  deriving DecidableEq, Repr

/-- Floating-point formats by code (R69, R74); INT8 (0x7) and reserved codes have none. -/
def fmOf (c : Nat) : Option Fm :=
  match c with
  | 0 => some ⟨8, 23, 127, 0, 0x7FC00000⟩
  | 1 => some ⟨8, 7, 127, 0, 0x7FC0⟩
  | 2 => some ⟨5, 10, 15, 0, 0x7E00⟩
  | 3 => some ⟨4, 3, 7, 1, 0x7F⟩
  | 4 => some ⟨5, 2, 15, 0, 0x7E⟩
  | 5 => some ⟨3, 2, 3, 2, 0⟩
  | 6 => some ⟨2, 1, 1, 2, 0⟩
  | _ => none

def fm32 : Fm := ⟨8, 23, 127, 0, 0x7FC00000⟩

/-- Element width in bits (Table 3-1). -/
def elemBits (c : Nat) : Nat :=
  match c with
  | 0 => 32 | 1 => 16 | 2 => 16 | 5 => 6 | 6 => 4 | _ => 8

/-- The value of a floating-point code (R71). -/
def decodeFm (f : Fm) (v : Nat) : FP :=
  let neg := v.testBit (f.eb + f.fb)
  let ex := field v f.fb f.eb
  let fr := field v 0 f.fb
  let top := 2 ^ f.eb - 1
  if f.special = 0 ∧ ex = top then (if fr = 0 then .inf neg else .nan)
  else if f.special = 1 ∧ ex = top ∧ fr = 2 ^ f.fb - 1 then .nan
  else if ex = 0 then .fin neg fr (1 - (f.bias : Int) - f.fb)
  else .fin neg (2 ^ f.fb + fr) ((ex : Int) - f.bias - f.fb)

/-- The value of an element of format code `c` (R71, R72). -/
def decodeElem (c v : Nat) : FP :=
  match fmOf c with
  | some f => decodeFm f v
  | none => let i := signed (v % 256) 8; .fin (decide (i < 0)) i.natAbs 0

def decode32 (v : Lane) : FP := decodeFm fm32 v.toNat

/-- The largest finite magnitude of a format as `(m, e)` (Table 3-3). -/
def maxFin (c : Nat) : Nat × Int :=
  match c with
  | 0 => (2 ^ 24 - 1, 104)
  | 1 => (255, 120)
  | 2 => (2047, 5)
  | 3 => (7, 6)
  | 4 => (7, 13)
  | 5 => (7, 2)
  | 6 => (3, 1)
  | _ => (127, 0)

/-! ### Exact comparison and rounding -/

/-- `2^s` times a fraction, as a fraction. -/
def scaleQ (n d : Nat) (s : Int) : Nat × Nat :=
  if 0 ≤ s then (n * 2 ^ s.toNat, d) else (n, d * 2 ^ (-s).toNat)

/-- Floor of log2 of `n / d`, both positive. -/
def flog2 (n d : Nat) : Int :=
  let l : Int := (n.log2 : Int) - d.log2
  let p := scaleQ n d (-l)
  if p.1 < p.2 then l - 1 else l

/-- An integer rounding of `n / d`: to nearest, ties to even; or stochastic with a 16-bit random word (R84). -/
def roundQ (rnd : Option Nat) (n d : Nat) : Nat :=
  let q := n / d
  let r := n % d
  match rnd with
  | none => if 2 * r > d || (2 * r = d && q % 2 = 1) then q + 1 else q
  | some w => if r = 0 then q else if w < 65536 * r / d then q + 1 else q

/-- `n / d × 2^e` rounded to `fb` fraction bits with no grid finer than `2^gmin`: the multiple and the grid's exponent. -/
def roundGrid (rnd : Option Nat) (fb : Nat) (gmin : Int) (n d : Nat) (e : Int) : Nat × Int :=
  if n = 0 then (0, gmin)
  else
    let k := flog2 n d + e
    let g := max (k - fb) gmin
    let p := scaleQ n d (e - g)
    (roundQ rnd p.1 p.2, g)

/-- Is `q × 2^g` above `m × 2^e`? -/
def aboveFin (q : Nat) (g : Int) (m : Nat) (e : Int) : Bool :=
  if e ≤ g then decide (q * 2 ^ (g - e).toNat > m) else decide (q > m * 2 ^ (e - g).toNat)

/-- The code of `q × 2^g`, a value the format holds exactly. -/
def encodeFm (f : Fm) (neg : Bool) (q : Nat) (g : Int) : Nat :=
  let s := if neg then 2 ^ (f.eb + f.fb) else 0
  if q = 0 then s
  else
    let k := g + q.log2
    let emin : Int := 1 - (f.bias : Int)
    if k < emin then
      let sh := g - (emin - f.fb)
      s + (if 0 ≤ sh then q * 2 ^ sh.toNat else q / 2 ^ (-sh).toNat)
    else
      let l := q.log2
      let fr := if l ≤ f.fb then q * 2 ^ (f.fb - l) else q / 2 ^ (l - f.fb)
      s + (k + f.bias).toNat * 2 ^ f.fb + (fr - 2 ^ f.fb)

def nan32 : Lane := 0x7FC00000#32

def inf32 (neg : Bool) : Lane := if neg then 0xFF800000#32 else 0x7F800000#32

def zero32 (neg : Bool) : Lane := if neg then 0x80000000#32 else 0#32

/-- FP32 rounding to nearest even of `(−1)^neg × n / d × 2^e`, with overflow to infinity (R44, R48, R76). -/
def round32 (neg : Bool) (n d : Nat) (e : Int) : Lane :=
  let r := roundGrid none 23 (-149) n d e
  if aboveFin r.1 r.2 (2 ^ 24 - 1) 104 then inf32 neg else BitVec.ofNat 32 (encodeFm fm32 neg r.1 r.2)

/-- `m × 2^e` with sign, as an integer multiple of `2^g` (`g ≤ e`). -/
def toGrid (neg : Bool) (m : Nat) (e g : Int) : Int :=
  let v : Int := (m * 2 ^ (e - g).toNat : Nat)
  if neg then -v else v

/-- FP32 sum of two exact values; an exact zero is +0.0 unless both are −0.0. -/
def sum32 (x y : FP) : Lane :=
  match x, y with
  | .nan, _ => nan32
  | _, .nan => nan32
  | .inf a, .inf b => if a = b then inf32 a else nan32
  | .inf a, .fin _ _ _ => inf32 a
  | .fin _ _ _, .inf b => inf32 b
  | .fin a m e, .fin b n f =>
    let g := min e f
    let t := toGrid a m e g + toGrid b n f g
    if t = 0 then zero32 (a && b && m = 0 && n = 0) else round32 (decide (t < 0)) t.natAbs 1 g

/-- Exact product. -/
def mulFP (x y : FP) : FP :=
  match x, y with
  | .nan, _ => .nan
  | _, .nan => .nan
  | .inf a, .inf b => .inf (a != b)
  | .inf a, .fin b n _ => if n = 0 then .nan else .inf (a != b)
  | .fin a m _, .inf b => if m = 0 then .nan else .inf (a != b)
  | .fin a m e, .fin b n f => .fin (a != b) (m * n) (e + f)

/-- The exact value rounded to FP32. -/
def toF32 (x : FP) : Lane :=
  match x with
  | .nan => nan32
  | .inf a => inf32 a
  | .fin a m e => if m = 0 then zero32 a else round32 a m 1 e

def negFP (x : FP) : FP :=
  match x with
  | .nan => .nan
  | .inf a => .inf (!a)
  | .fin a m e => .fin (!a) m e

def f32Add (a b : Lane) : Lane := sum32 (decode32 a) (decode32 b)
def f32Sub (a b : Lane) : Lane := sum32 (decode32 a) (negFP (decode32 b))
def f32Mul (a b : Lane) : Lane := toF32 (mulFP (decode32 a) (decode32 b))
/-- `a × b + c` with one rounding (R48). -/
def f32Fma (a b c : Lane) : Lane := sum32 (mulFP (decode32 a) (decode32 b)) (decode32 c)

def f32Div (a b : Lane) : Lane :=
  match decode32 a, decode32 b with
  | .nan, _ => nan32
  | _, .nan => nan32
  | .inf _, .inf _ => nan32
  | .inf s, .fin t _ _ => inf32 (s != t)
  | .fin s _ _, .inf t => zero32 (s != t)
  | .fin s m e, .fin t n f =>
    if n = 0 then (if m = 0 then nan32 else inf32 (s != t))
    else if m = 0 then zero32 (s != t)
    else round32 (s != t) m n (e - f)

/-- Integer square root, bit by bit from bit `b`. -/
def isqrtFrom (n : Nat) : Nat → Nat → Nat
  | 0, r => if (r + 1) * (r + 1) ≤ n then r + 1 else r
  | b + 1, r => if (r + 2 ^ (b + 1)) * (r + 2 ^ (b + 1)) ≤ n then isqrtFrom n b (r + 2 ^ (b + 1)) else isqrtFrom n b r

def isqrt (n : Nat) : Nat := isqrtFrom n (n.log2 / 2 + 1) 0

/-- The square root of `n × 2^(2h)`, as twice its floor plus a sticky bit: a multiple of `2^(h-1)`. -/
def stickySqrt (n : Nat) : Nat :=
  let r := isqrt n
  2 * r + (if r * r = n then 0 else 1)

def f32Sqrt (a : Lane) : Lane :=
  match decode32 a with
  | .nan => nan32
  | .inf s => if s then nan32 else inf32 false
  | .fin s m e =>
    if m = 0 then zero32 s
    else if s then nan32
    else
      -- make the exponent even and the radicand long enough for 24 bits and a sticky bit
      let e1 := e - 60
      let odd := e1 % 2 ≠ 0
      let n := if odd then m * 2 ^ 61 else m * 2 ^ 60
      let h := (if odd then e1 - 1 else e1) / 2
      round32 false (stickySqrt n) 1 (h - 1)

/-- A result on VFN's grid (R114) as FP32. -/
def vfnRound (neg : Bool) (n d : Nat) (e : Int) : Lane :=
  let r := roundGrid none 15 (-149) n d e
  if aboveFin r.1 r.2 (2 ^ 24 - 1) 104 then inf32 neg else BitVec.ofNat 32 (encodeFm fm32 neg r.1 r.2)

def vfnRcp (a : Lane) : Lane :=
  match decode32 a with
  | .nan => nan32
  | .inf s => zero32 s
  | .fin s m e => if m = 0 then inf32 s else vfnRound s 1 m (-e)

def vfnRsq (a : Lane) : Lane :=
  match decode32 a with
  | .nan => nan32
  | .inf s => if s then nan32 else 0
  | .fin s m e =>
    if m = 0 then inf32 s
    else if s then nan32
    else
      -- 1/√(m × 2^e) = √(2^(−e) / m); the radicand is scaled by 2^200
      let odd := e % 2 ≠ 0
      let z := (if odd then 2 ^ 201 else 2 ^ 200) / m
      let h := (if odd then -e - 1 else -e) / 2
      let r := isqrt z
      let exact := r * r * m = (if odd then 2 ^ 201 else 2 ^ 200)
      vfnRound false (2 * r + (if exact then 0 else 1)) 1 (h - 101)

/-- Working precision of EXP2 and LOG2 (log 11). -/
def vfnBits : Nat := 200

/-- `2^(F / 2^64)` times `2^200`, the product of the roots `2^(2^−i)` for the bits of `F`; `c` is the root of the bit above. -/
def exp2Frac (F : Nat) : Nat → Nat → Nat → Nat
  | 0, _, y => y
  | b + 1, c, y =>
    let c' := isqrt (c * 2 ^ vfnBits)
    exp2Frac F b c' (if F.testBit b then y * c' / 2 ^ vfnBits else y)

def vfnExp2 (a : Lane) : Lane :=
  match decode32 a with
  | .nan => nan32
  | .inf s => if s then 0 else inf32 false
  | .fin s m e =>
    if m = 0 then 0x3F800000#32
    else if flog2 m 1 + e < -30 then 0x3F800000#32
    else if 8 ≤ flog2 m 1 + e then (if s then 0 else inf32 false)
    else
      let x := toGrid s m e (-64)
      let n := x / 2 ^ 64
      let F := (x - n * 2 ^ 64).toNat
      if F = 0 then vfnRound false 1 1 n
      else vfnRound false (2 * exp2Frac F 64 (2 ^ (vfnBits + 1)) (2 ^ vfnBits) + 1) 1 (n - (vfnBits + 1))

/-- `n` bits of the fractional logarithm of `u / 2^200`, `u` in `[2^200, 2^201)`. -/
def log2Frac : Nat → Nat → Nat → Nat
  | 0, _, l => l
  | n + 1, u, l =>
    let v := u * u / 2 ^ vfnBits
    if v ≥ 2 ^ (vfnBits + 1) then log2Frac n (v / 2) (2 * l + 1) else log2Frac n v (2 * l)

def vfnLog2 (a : Lane) : Lane :=
  match decode32 a with
  | .nan => nan32
  | .inf s => if s then nan32 else inf32 false
  | .fin s m e =>
    if m = 0 then inf32 true
    else if s then nan32
    else
      let l := m.log2
      let k : Int := e + l
      if m = 2 ^ l then (if k = 0 then 0 else vfnRound (decide (k < 0)) k.natAbs 1 0)
      else
        let f := log2Frac 100 (m * 2 ^ (vfnBits - l)) 0
        let y : Int := 2 * (k * 2 ^ 100 + f) + 1
        vfnRound (decide (y < 0)) y.natAbs 1 (-101)

/-! ### Comparisons (R112, R113, "Vector operations") -/

def isNan32 (a : Lane) : Bool := decide (field a.toNat 0 31 > 0x7F800000)

/-- An order that puts −0.0 below +0.0, for lanes that are not NaN. -/
def key32 (a : Lane) : Int := if a.msb then -(field a.toNat 0 31 : Int) - 1 else field a.toNat 0 31

/-- The order of values: the two zeros are equal. -/
def val32 (a : Lane) : Int := if a.msb then -(field a.toNat 0 31 : Int) else field a.toNat 0 31

def f32Min (a b : Lane) : Lane := if isNan32 a || isNan32 b then nan32 else if key32 b < key32 a then b else a
def f32Max (a b : Lane) : Lane := if isNan32 a || isNan32 b then nan32 else if key32 a < key32 b then b else a

/-- COND of VCMP on FP32 lanes. -/
def f32Cmp (cond : Nat) (a b : Lane) : Bool :=
  if isNan32 a || isNan32 b then cond = 1
  else match cond with
    | 0 => val32 a = val32 b
    | 1 => val32 a ≠ val32 b
    | 2 => val32 a < val32 b
    | 3 => val32 a ≤ val32 b
    | 4 => val32 b < val32 a
    | _ => val32 b ≤ val32 a

/-- COND of VCMP on signed integer lanes. -/
def intCmp (cond : Nat) (a b : Lane) : Bool :=
  match cond with
  | 0 => a.toInt = b.toInt
  | 1 => a.toInt ≠ b.toInt
  | 2 => a.toInt < b.toInt
  | 3 => a.toInt ≤ b.toInt
  | 4 => b.toInt < a.toInt
  | _ => b.toInt ≤ a.toInt

/-! ### Conversions (R81 to R84) -/

/-- The random word of position `p` under key `k` (R84, steps 1 and 2). -/
def roundWord (k p : Nat) : Nat :=
  let out := shake128 ([0x47, 0x50, 0x53, 0x52] ++ leBytes 8 k ++ leBytes 8 (p / 64)) 128
  at_ out (2 * (p % 64)) 2

/-- The infinity of a format that has one. -/
def infCode (f : Fm) (neg : Bool) : Nat := (if neg then 2 ^ (f.eb + f.fb) else 0) + (2 ^ f.eb - 1) * 2 ^ f.fb

/-- FP32 to the unscaled format `c` (R83, Table 3-6). -/
def narrow (c : Nat) (sat : Bool) (rnd : Option Nat) (x : FP) : Nat :=
  match fmOf c, x with
  | none, .nan => 0
  | none, .inf s => if s then 0x80 else 0x7F
  | none, .fin s m e =>
    let r := scaleQ m 1 e
    let q := roundQ rnd r.1 r.2
    if s then (if q > 128 then 0x80 else (256 - q) % 256) else (if q > 127 then 0x7F else q)
  | some f, .nan => f.canon
  | some f, .inf s =>
    if f.special = 1 then
      (if sat then encodeFm f s (maxFin c).1 (maxFin c).2 else f.canon)
    else infCode f s
  | some f, .fin s m e =>
    let r := roundGrid rnd f.fb (1 - (f.bias : Int) - f.fb) m 1 e
    if aboveFin r.1 r.2 (maxFin c).1 (maxFin c).2 then
      (if sat then encodeFm f s (maxFin c).1 (maxFin c).2
       else if f.special = 1 then f.canon
       else infCode f s)
    else encodeFm f s r.1 r.2

/-- An element widened to FP32 exactly (R82, R115). -/
def widen (c v : Nat) : Lane := toF32 (decodeElem c v)

/-- EMAX of R81. -/
def quantEmax (c : Nat) : Int :=
  match c with
  | 6 => 2 | 5 => 4 | 3 => 8 | 4 => 15 | _ => 6

/-- Magnitude of a finite value as a fraction. -/
def magQ (x : FP) : Nat × Nat :=
  match x with
  | .fin _ m e => scaleQ m 1 e
  | _ => (0, 1)

/-- The scaled block of R81 in format `c` with tile scale `T` (an FP16 code whose value is finite and positive): scale and codes. In a floating-point
format the zero that a negative input rounds to keeps its sign, as a negative zero does (DESIGN CHOICE, log 134: R81 names the sign of a zero
input alone). -/
def quantBlock (c T : Nat) (rnd : Nat → Option Nat) (v : List Lane) : Nat × List Nat :=
  let xs := v.map decode32
  if xs.any (fun x => match x with | .fin _ _ _ => false | _ => true) then (0xFF, v.map fun _ => 0)
  else
    match decodeElem 2 T with
    | .fin _ tm te =>
      let lens := xs.map fun x => match x with
        | .fin _ m e => if m = 0 then none else some (m, e)
        | _ => none
      -- floor(log2(a / T)) for the largest magnitude, monotone in the magnitude
      let ks := lens.filterMap fun q => q.map fun (m, e) => flog2 m tm + e - te
      let E : Nat := match ks with
        | [] => 127
        | k :: r => (max 0 (min 254 (r.foldl max k - quantEmax c + 127))).toNat
      let code (i : Nat) (x : FP) : Nat := match x with
        | .fin s m e =>
          let ex := e - te - (E - 127 : Int)
          match fmOf c with
          | some f =>
            let r := roundGrid (rnd i) f.fb (1 - (f.bias : Int) - f.fb) m tm ex
            if aboveFin r.1 r.2 (maxFin c).1 (maxFin c).2 then encodeFm f s (maxFin c).1 (maxFin c).2 else encodeFm f s r.1 r.2
          | none =>
            let p := scaleQ m tm ex
            let q := min 127 (roundQ (rnd i) p.1 p.2)
            if s then (256 - q) % 256 else q
        | _ => 0
      (E, (List.range xs.length).map fun i => code i (xs.getD i .nan))
    | _ => (0xFF, v.map fun _ => 0)

/-- A scaled element as FP32 (R82). -/
def dequant (c v E T : Nat) : Lane :=
  if E = 0xFF then nan32
  else toF32 (mulFP (mulFP (decodeElem c v) (.fin false 1 ((E : Int) - 127))) (decodeElem 2 T))

/-! ### One engine block for one cell (R42 to R44, R80) -/

/-- Exact sum of the finite products, truncated toward zero to multiples of `2^L` (R42, R43): the multiple and `L`. -/
def blockSum (ps : List FP) : Int × Int :=
  let ks := ps.filterMap fun p => match p with
    | .fin _ m e => if m = 0 then none else some (flog2 m 1 + e)
    | _ => none
  match ks with
  | [] => (0, 0)
  | k :: r =>
    let L := r.foldl max k - 89
    (ps.foldl (fun acc p => match p with
      | .fin s m e =>
        let q := scaleQ m 1 (e - L)
        let t : Int := (q.1 / q.2 : Nat)
        if s then acc - t else acc + t
      | _ => acc) 0, L)

/-- A cell after one block: `a`, `b` the 32 element values, `ea`, `eb` the E8M0 codes, `ta`, `tb` the tile scales. Where m is infinite and the
block holds infinite products, the sum of its finite products does not enter: the infinity is that of the products' sign times m (DEDUCED,
log 89). -/
def cellBlock (a b : List FP) (ea eb : Nat) (ta tb : FP) (C : Lane) : Lane :=
  let ps := List.zipWith mulFP a b
  let m := mulFP (mulFP ta tb) (.fin false 1 ((ea : Int) - 127 + ((eb : Int) - 127)))
  if isNan32 C || ea = 0xFF || eb = 0xFF || a.contains .nan || b.contains .nan || ps.contains .nan || m = .nan then nan32
  else
    let infs := ps.filterMap fun p => match p with | .inf s => some s | _ => none
    let S := blockSum ps
    let block : FP := match m with
      | .nan => .nan
      | .inf sm =>
        if infs = [] then (if S.1 = 0 then .nan else .inf (decide (S.1 < 0) != sm))
        else if infs.contains true && infs.contains false then .nan else .inf (infs.contains true != sm)
      | .fin sm mm me =>
        if infs = [] then
          (if S.1 = 0 || mm = 0 then .fin false 0 0 else .fin (decide (S.1 < 0) != sm) (S.1.natAbs * mm) (S.2 + me))
        else if mm = 0 then .nan
        else if infs.contains true && infs.contains false then .nan else .inf (infs.contains true != sm)
    sum32 (decode32 C) block

end Sys2Proof.Machine
end

