-- ==== Sys2Proof/Machine/Flags.lean ====
section
/-! DEFINITION. Status codes, their precedence, and the status registers a core program reads (00 R12 to R15, 02 R56 to R63). -/

namespace Sys2Proof.Machine

/-! ### Status codes (Tables 0-2, 2-2, 10-8, 18-1 and the classes of the chapters) -/

def stOk : Status := 0x0000#16
def stDeferred : Status := 0x0101#16
def stRefusedEnergy : Status := 0x0201#16
def stRefusedCapacity : Status := 0x0202#16
def stRefusedPolicy : Status := 0x0203#16
def stFenced : Status := 0x0301#16
def stTimeout : Status := 0x0302#16
def stMemberLost : Status := 0x0303#16
def stAlreadyDone : Status := 0x0304#16
def stSparseDecl : Status := 0x0401#16
def stSparseIndex : Status := 0x0402#16
def stEcc : Status := 0x0403#16
def stAuthFail : Status := 0x0501#16
def stBadArgument : Status := 0x0502#16
def stModeConflict : Status := 0x0503#16
def stAborted : Status := 0x0601#16
def stBoundFault : Status := 0x0602#16
def stIllegalOp : Status := 0x0603#16
def stNoToken : Status := 0x0701#16
def stReplayLimit : Status := 0x0702#16
def stCtxWatchdog : Status := 0x0A01#16
def stEngineHang : Status := 0x0A02#16

/-- Of two statuses that arise together, the one reported: the lower class, then the lower value (R15); class and value are the two
bytes of the code, so this is the order of the codes. -/
def firstStatus (a b : Status) : Status := if b < a then b else a

/-- A counter's status takes a refusal unless the status it holds ranks first (R94). -/
def mergeStatus (held new : Status) : Status := if held = stOk then new else firstStatus held new

/-! ### Faults of an instruction (R61, R62) -/

/-- ILLEGAL at the instruction address (Table 2-7: SPACE 3, log 12). -/
def fIllegal (pc : Word) : FaultRec := { status := stIllegalOp, bits := 0x02, space := 3, addr := pc.setWidth 48 }

def fBound (space addr : Nat) : FaultRec :=
  { status := stBoundFault, bits := 0x01, space := BitVec.ofNat 4 space, addr := BitVec.ofNat 48 addr }

def fSpmUe (addr : Nat) : FaultRec := { status := stEcc, bits := 0x04, space := 0, addr := BitVec.ofNat 48 addr }

def fHandle (off : Nat) : FaultRec := { status := stBadArgument, bits := 0x20, space := 2, addr := BitVec.ofNat 48 off }

/-- A fault of WAITC: no access has an address, and the spec states none; ADDR and SPACE take the free value `w` (log 7). -/
def fNoAddr (status : Status) (bits : BitVec 7) (w : Word) : FaultRec :=
  { status := status, bits := bits, space := (w >>> 48).setWidth 4, addr := w.setWidth 48 }

/-- Of the faults one instruction raises, the one whose status is reported (R15). -/
def worstFault : List FaultRec → Option FaultRec
  | [] => none
  | f :: r =>
    match worstFault r with
    | none => some f
    | some g => if g.status < f.status then some g else some f

/-- The union of the CORE.FAULT bits of several faults. -/
def faultBits (fs : List FaultRec) : BitVec 7 := fs.foldl (fun b f => b ||| f.bits) 0

/-- A context with the faults of one instruction recorded: FIRST_STATUS and FAULTADDR move only while CORE.FAULT is all clear. -/
def Ctx.recordFault (x : Ctx) (fs : List FaultRec) : Ctx :=
  match worstFault fs with
  | none => x
  | some f =>
    let x' := if x.fault = 0 then { x with firstStatus := f.status, faultAddr := f.addr, faultSpace := f.space } else x
    { x' with fault := x.fault ||| faultBits fs }

/-! ### Register views -/

/-- STATE codes (R59). -/
def CtxState.code : CtxState → Nat
  | .idle => 0 | .ready => 1 | .waitEngine => 2 | .waitFabric => 3 | .waitClear => 4 | .stopped => 5 | .fenced => 6

def b2n (b : Bool) : Nat := if b then 1 else 0

/-- CORE.CTXSTAT as Table 2-5 lays it out, with the STATE of all four contexts. -/
def ctxStat (x : Ctx) (own : Nat) (st : Nat → Nat) : Word :=
  BitVec.ofNat 64 (own + 8 * b2n (!x.aborts.isEmpty) + 16 * b2n x.bb + 32 * b2n x.loader + 2 ^ 16 * x.lastStatus.toNat
    + 2 ^ 32 * st 0 + 2 ^ 35 * st 1 + 2 ^ 38 * st 2 + 2 ^ 41 * st 3 + 2 ^ 48 * x.task.toNat)

/-- CORE.FAULT (Table 2-6); FIRST_STATUS reads 0 while [6:0] are clear. -/
def faultReg (x : Ctx) : Word :=
  if x.fault = 0 then 0 else BitVec.ofNat 64 (x.fault.toNat + 2 ^ 16 * x.firstStatus.toNat)

/-- CORE.FAULTADDR (Table 2-7). -/
def faultAddrReg (x : Ctx) : Word := BitVec.ofNat 64 (x.faultAddr.toNat + 2 ^ 48 * x.faultSpace.toNat)

/-- CORE.BASE (Table 2-8). -/
def baseReg (x : Ctx) : Word := BitVec.ofNat 64 (64 * x.base.toNat)

/-- CORE.BOUND (Table 2-9). -/
def boundReg (x : Ctx) : Word := BitVec.ofNat 64 (b2n x.boundEn + 64 * x.limit.toNat)

end Sys2Proof.Machine
end

