-- ==== Sys2Proof/Machine/Ops.lean ====
section
/-! DEFINITION. The shared operations: coordinates, access to the parts of the state, packets out, ending and retiring a task, the
scratchpad with its Till, arrival counters. -/

namespace Sys2Proof.Machine

/-- What a command answers. -/
abbrev Out := Host.Outcome State Fault Refusal

/-! ### Coordinates (R3, R4, R64, R210) -/

/-- Site, cluster of the panel, cluster of the die and in-cluster position `8b + a` of a core number. -/
def siteOf (k : Nat) : Nat := k / 4096
def clusterOf (k : Nat) : Nat := k / 64
def posOf (k : Nat) : Nat := k % 64

/-- Local coordinates of a core. -/
def coreU (k : Nat) : Nat := 8 * (clusterOf k % 64 % 8) + posOf k % 8
def coreV (k : Nat) : Nat := 8 * (clusterOf k % 64 / 8) + posOf k / 8

/-- R4. -/
def coreX (k : Nat) : Nat := 64 * (siteOf k % 80 % 10) + coreU k
def coreY (k : Nat) : Nat :=
  let r := siteOf k % 80 / 10
  if siteOf k / 80 = 0 then 511 - 64 * r - coreV k else 512 + 64 * r + coreV k

/-- The core at panel coordinates (R4 inverted). -/
def coreAt (x y : Nat) : Nat :=
  let t := if y ≤ 511 then 511 - y else y - 512
  let u := x % 64
  let v := t % 64
  let site := (if y ≤ 511 then 0 else 80) + t / 64 * 10 + x / 64
  site * 4096 + (8 * (v / 8) + u / 8) * 64 + (8 * (v % 8) + u % 8)

/-- Panel die row of a site: 7 − r in H0, 8 + r in H1 (R210). -/
def dieRow (site : Nat) : Nat := if site / 80 = 0 then 7 - site % 80 / 10 else 8 + site % 80 / 10
def dieCol (site : Nat) : Nat := site % 80 % 10

/-- The site at panel die row and column. -/
def siteAt (row col : Nat) : Nat := if row ≤ 7 then (7 - row) * 10 + col else 80 + (row - 8) * 10 + col

/-- Port distance of a core (R64). -/
def portDist (k : Nat) : Nat :=
  let f (a : Nat) := Nat.max (3 - a) (a - 4)
  f (posOf k % 8) + f (posOf k / 8)

/-- The core at in-cluster (3, 3) of a cluster, a port router (R64). -/
def portCore (cl : Nat) : Nat := cl * 64 + 27

/-- Byte address in `State.mem` of a channel offset and of a scratchpad address. -/
def dramAddr (cl off : Nat) : Nat := cl * 2 ^ 26 + off
def spmAddr (k a : Nat) : Nat := 2 ^ 40 + k * 2 ^ 16 + a

/-! ### Parts of the state -/

def getCore (s : State) (k : Nat) : Core := Tbl.get s.cores k Core.reset
def setCore (s : State) (k : Nat) (c : Core) : State := { s with cores := Tbl.put s.cores k c }
def modCore (s : State) (k : Nat) (f : Core → Core) : State := setCore s k (f (getCore s k))

def Core.ctx (c : Core) (n : Nat) : Ctx := Tbl.get c.ctxs n Ctx.reset
def Core.setCtx (c : Core) (n : Nat) (x : Ctx) : Core := { c with ctxs := Tbl.put c.ctxs n x }
def getCtx (s : State) (k n : Nat) : Ctx := (getCore s k).ctx n
def setCtx (s : State) (k n : Nat) (x : Ctx) : State := modCore s k (fun c => c.setCtx n x)
def modCtx (s : State) (k n : Nat) (f : Ctx → Ctx) : State := setCtx s k n (f (getCtx s k n))

def getClu (s : State) (cl : Nat) : Cluster := Tbl.get s.clusters cl Cluster.reset
def setClu (s : State) (cl : Nat) (c : Cluster) : State := { s with clusters := Tbl.put s.clusters cl c }
def modClu (s : State) (cl : Nat) (f : Cluster → Cluster) : State := setClu s cl (f (getClu s cl))

def getDie (s : State) (site : Nat) : Die := Tbl.get s.dies site Die.reset
def setDie (s : State) (site : Nat) (d : Die) : State := { s with dies := Tbl.put s.dies site d }
def modDie (s : State) (site : Nat) (f : Die → Die) : State := setDie s site (f (getDie s site))

def getPart (s : State) (p : Nat) : Partition := Tbl.get s.parts p Partition.reset
def setPart (s : State) (p : Nat) (q : Partition) : State := { s with parts := Tbl.put s.parts p q }
def modPart (s : State) (p : Nat) (f : Partition → Partition) : State := setPart s p (f (getPart s p))

def getJob (s : State) (j : Nat) : Job := Tbl.get s.jobs j Job.reset
def setJob (s : State) (j : Nat) (x : Job) : State := { s with jobs := Tbl.put s.jobs j x }
def modJob (s : State) (j : Nat) (f : Job → Job) : State := setJob s j (f (getJob s j))

def getHub (s : State) (h : Nat) : Hub := if h = 0 then s.hub0 else s.hub1
def setHub (s : State) (h : Nat) (x : Hub) : State := if h = 0 then { s with hub0 := x } else { s with hub1 := x }
def modHub (s : State) (h : Nat) (f : Hub → Hub) : State := setHub s h (f (getHub s h))

/-- Is a hub in service? -/
def hubUp (s : State) (h : Nat) : Bool := (getHub s h).up

/-- Is the port's hub in service, with its link up? -/
def portAlive (s : State) (port : Nat) : Bool := decide (port < 2) && hubUp s port && (getHub s port).portUp

/-- Tally time now, in nanoseconds. -/
def now (s : State) : Nat := s.tally.toNat

/-- Tally as a die's always-on island keeps it (R60, R365). -/
def dieTally (s : State) (site : Nat) : Word := s.tally + BitVec.ofInt 64 ((getDie s site).island.off / 2 ^ 32)

/-- A free value, and the state with the next one in line. -/
def freeWord (s : State) : Word := Config.freeWord s.freeCtr
def freeLine (s : State) : Line := Config.freeLine s.freeCtr
def bumpFree (s : State) : State := { s with freeCtr := s.freeCtr + 1 }

/-! ### What leaves -/

def emit (s : State) (e : Emit) : State := { s with emitted := s.emitted ++ [e] }
/-- IPv4 as IPv4-mapped IPv6. -/
def isIp4 (a : BitVec 128) : Bool := a >>> 32 = 0xFFFF

/-- What a message of the panel holds below it (R293, R294): the VLAN in force, and Don't Fragment on IPv4. -/
def netHead (s : State) (prio dscp : Option Nat) (v4 : Bool) : NetHead := { vlan := s.sys.vlan, prio := prio, dscp := dscp, df := v4 }

/-- A Teller message's, to the host's address. -/
def tellerHead (s : State) (ip : BitVec 128) : NetHead := netHead s none (some s.sys.dscpTeller) (isIp4 ip)

/-- A RoCEv2 packet's, to the address of the session's queue pair. -/
def roceHead (s : State) (sess : Nat) : NetHead :=
  netHead s (some s.sys.pfc) (some s.sys.dscpRoce) (match (Tbl.find s.sessions sess).bind (·.qp) with | some q => isIp4 q.hostGid | none => false)

/-- A command or an announcement enters the journals of the hubs in service (R26, R28). -/
def journal (s : State) (e : Journaled) : State :=
  let note (h : Hub) : Hub := if h.up && !h.journal.contains e then { h with journal := h.journal ++ [e] } else h
  { s with hub0 := note s.hub0, hub1 := note s.hub1 }

def emits (s : State) (es : List Emit) : State := { s with emitted := s.emitted ++ es }

/-- The leading hub's attachment router nearest a column (R212, R392). -/
def hubX (x : Nat) : Nat := Nat.max 304 (Nat.min 335 x)
def hubY (s : State) : Nat := if s.lead = 0 then 511 else 512

/-- A control packet as its source injects it: the epoch in force, no hops (R213, R228). -/
def mkCtrl (s : State) (ctype sx sy dx dy body : Nat) : CtrlPacket :=
  { ctype := BitVec.ofNat 6 ctype, epoch := s.epoch.cur, hops := 0, leg := 0, dx := BitVec.ofNat 10 dx, dy := BitVec.ofNat 10 dy,
    sx := BitVec.ofNat 10 sx, sy := BitVec.ofNat 10 sy, body := BitVec.ofNat 64 body }

def sendCtrl (s : State) (ctype sx sy dx dy body : Nat) : State := emit s (.ctrl (mkCtrl s ctype sx sy dx dy body))

/-- A core's control packet to the leading hub. -/
def coreToHub (s : State) (k ctype body : Nat) : State :=
  sendCtrl s ctype (coreX k) (coreY k) (hubX (coreX k)) (hubY s) body

/-- The hub's control packet to a core or to the controller at a cluster's port. -/
def hubToCore (s : State) (k ctype body : Nat) : State :=
  sendCtrl s ctype (hubX (coreX k)) (hubY s) (coreX k) (coreY k) body

/-- The two counts of COUNT_ONLY and COMMIT bodies (Table 9-7). -/
def countBody (cnt lines status : Nat) : Nat := cnt + 2 ^ 4 * lines + 2 ^ 14 * status

/-- COUNT_ONLY from a channel's controller to a core (R213). -/
def sendCountOnly (s : State) (cl x y cnt lines : Nat) (st : Status) : State :=
  let p := portCore cl
  sendCtrl s 5 (coreX p) (coreY p) x y (countBody cnt lines st.toNat)

def getHalf (s : State) (h : Nat) : Half := if h = 0 then s.half0 else s.half1
def setHalf (s : State) (h : Nat) (x : Half) : State := if h = 0 then { s with half0 := x } else { s with half1 := x }
def modHalf (s : State) (h : Nat) (f : Half → Half) : State := setHalf s h (f (getHalf s h))

/-- Does the half of a site compute (R33)? -/
def halfServes (s : State) (site : Nat) : Bool := (getHalf s (site / 80)).inService && !(getHalf s (site / 80)).leaving

/-! ### Partitions and numbering (R2, R5, R211) -/

/-- The partition that holds a site. -/
def partOfSite (s : State) (site : Nat) : Option Nat :=
  (List.find? (fun p => p.2.sites.contains site) s.parts).map (·.1)

def partOfCore (s : State) (k : Nat) : Option Nat := partOfSite s (siteOf k)

/-- Logical number of a core in its partition. -/
def lcnOf (q : Partition) (k : Nat) : Option Nat := q.numbering.idxOf? k

/-- The bank of an epoch. -/
def bankOf (s : State) (e : Bool) : Bank := if e then s.bank1 else s.bank0
def setBank (s : State) (e : Bool) (b : Bank) : State := if e then { s with bank1 := b } else { s with bank0 := b }

/-- What a bank holds at a site: the entry of the partition that it gives the site to. -/
def Bank.at_ (b : Bank) (site : Nat) : Option BankPart := (b.parts.find? fun q => q.2.sites.contains site).map (·.2)

/-- The translation of a logical number at core `k`, by the bank in force (R211, R228). -/
def translate (s : State) (k lcn : Nat) : Option Nat := ((bankOf s s.epoch.cur).at_ (siteOf k)).bind fun q => q.numbering[lcn]?

/-- The job of a partition: the formed job that holds it, else the single-panel job of its own number; while a formed job that does not hold
it has that number, one that no submission can name (log 14). -/
def jobOfPart (s : State) (p : Nat) : Nat :=
  match List.find? (fun j => j.2.formed && j.2.parts.contains p) s.jobs with
  | some j => j.1
  | none => if (getJob s p).formed then 65536 + p else p

/-- The partitions of a job. -/
def partsOfJob (s : State) (j : Nat) : List Nat :=
  let x := getJob s j
  let p := if j < 65536 then j else j - 65536
  if x.formed then x.parts else if Tbl.has s.parts p && jobOfPart s p = j then [p] else []

/-- Is the core in service: neither fenced nor lost, its cluster and die neither? -/
def coreServing (s : State) (k : Nat) : Bool :=
  let c := getCore s k
  let u := getClu s (clusterOf k)
  let d := getDie s (siteOf k)
  !(c.fenced || c.lost || u.fenced || u.lost || d.fenced || d.dark || d.retired)

/-- Does a fence of core, cluster, partition or panel scope cover the core (R174)? -/
def coreFenced (s : State) (k : Nat) : Bool :=
  let q := match partOfCore s k with | some p => (getPart s p).fenced | none => true
  (getCore s k).fenced || (getClu s (clusterOf k)).fenced || (getDie s (siteOf k)).fenced || q

/-- Is the core in its partition's logical numbering (R5)? -/
def inNumbering (s : State) (k : Nat) : Bool :=
  match partOfCore s k with | some p => (getPart s p).numbering.contains k | none => false

/-! ### Registers of a context (R49) -/

def Ctx.s (x : Ctx) (n : Nat) : Word := if n = 0 then 0 else Tbl.get x.regs n 0
/-- A write of a scalar register; s0 ignores it. -/
def Ctx.setS (x : Ctx) (n : Nat) (v : Word) : Ctx := if n = 0 then x else { x with regs := Tbl.put x.regs n v }
def Ctx.v (x : Ctx) (n : Nat) : Line := Tbl.get x.vregs n 0
def Ctx.setV (x : Ctx) (n : Nat) (v : Line) : Ctx := { x with vregs := Tbl.put x.vregs n v }
def Ctx.m (x : Ctx) (n : Nat) : BitVec 16 := Tbl.get x.masks n 0
def Ctx.setM (x : Ctx) (n : Nat) (v : BitVec 16) : Ctx := { x with masks := Tbl.put x.masks n v }

def Core.cnt (c : Core) (n : Nat) : Counter := Tbl.get c.cnts n Counter.reset
def Core.setCnt (c : Core) (n : Nat) (v : Counter) : Core := { c with cnts := Tbl.put c.cnts n v }
def Core.eng (c : Core) (e : Nat) : Engine := Tbl.get c.engines e Engine.reset
def Core.setEng (c : Core) (e : Nat) (v : Engine) : Core := { c with engines := Tbl.put c.engines e v }
/-- Accumulator set `a` of engine `e` (R46). -/
def Core.accSet (c : Core) (e a : Nat) : Line := Tbl.get c.acc (8 * e + a) 0
def Core.setAcc (c : Core) (e a : Nat) (v : Line) : Core := { c with acc := Tbl.put c.acc (8 * e + a) v }

/-- Is a task running on the context? -/
def CtxState.running (c : CtxState) : Bool :=
  match c with
  | .ready => true
  | .waitEngine => true
  | .waitFabric => true
  | .waitClear => true
  | _ => false

/-! ### Ending a task and retiring (R52 to R55, R61, R98, R393) -/

/-- Operations of an engine that are not dead: those that run. -/
def Engine.live (e : Engine) : List EngOp := e.queue.filter (fun o => !o.dead)

/-- The operations that `f` picks leave the queues; one that the tile checker has taken stays, dead, until its check ends (R55, R110,
R136). -/
def Core.dropOps (c : Core) (f : EngOp → Bool) : Core :=
  { c with engines := Tbl.map c.engines (fun _ e =>
      { e with queue := e.queue.filterMap (fun o => if f o then (if o.check = .taken then some { o with dead := true } else none) else some o) }) }

/-- Every operation of context `n` leaves the queues (R55, R61). -/
def Core.removeOps (c : Core) (n : Nat) : Core := c.dropOps fun o => decide (o.ctx = n)

/-- A faulting operation leaves the queues, and so does every operation that its task has queued after it, on any engine; those queued
before it stay and close normally (R110, R136). -/
def Core.removeFrom (c : Core) (o : EngOp) : Core := c.dropOps fun q => decide (q.ctx = o.ctx ∧ q.task = o.task ∧ o.id ≤ q.id)

/-- The context's sets of every engine become +0.0 (R55). -/
def Core.clearSets (c : Core) (n : Nat) : Core :=
  [0, 1, 2, 3].foldl (fun c e => (c.setAcc e (2 * n) 0).setAcc e (2 * n + 1) 0) c

/-- Every counter the context armed is disarmed and discards from now on (R98). -/
def Core.disarm (c : Core) (n : Nat) : Core :=
  { c with cnts := Tbl.map c.cnts (fun _ v =>
      if v.armed && v.owner = n then
        { v with armed := false, count := 0, total := 0, status := stOk, ueDram := false, ueSpm := false, discard := true }
      else v) }

/-- What a launch on context `n` finds on its core: its accumulator sets read +0.0, so no operation that an earlier task has left in a queue
closes into them any more (R46; DEDUCED, log 130), and the counters its last task had armed discard no more (R98). -/
def Core.freshFor (c : Core) (n : Nat) : Core :=
  { (c.removeOps n).clearSets n with cnts := Tbl.map c.cnts fun _ v => if v.owner = n then { v with discard := false } else v }

/-- ABORT_ANS to the sender of an abort (Table 18-2). -/
def abortAnswer (s : State) (k n : Nat) (task : BitVec 16) (st : Status) (a : AbortReq) : State :=
  sendCtrl s 9 (coreX k) (coreY k) a.sx.toNat a.sy.toNat (task.toNat + 2 ^ 16 * st.toNat + 2 ^ 32 * n)

/-- WATCHDOG from a cluster's controller to the leading hub (Table 18-2). -/
def sendWatchdog (s : State) (k ctx eng : Nat) (engine : Bool) (st : Nat) (task : BitVec 16) (at_ : Word) : State :=
  let c := portCore (clusterOf k)
  sendCtrl s 0x0A (coreX c) (coreY c) (hubX (coreX c)) (hubY s)
    (ctx + 4 * eng + 16 * b2n engine + 32 * posOf k + 2 ^ 11 * st + 2 ^ 16 * task.toNat + 2 ^ 32 * (at_.toNat % 2 ^ 32))

/-- WATCHDOG of a firing that Compatible recovery has held back so far (R392, R409). -/
def tellFiring (s : State) (k n : Nat) (x : Ctx) : State :=
  match x.fired with
  | some f => if f.sent then s else sendWatchdog s k n 0 false f.state.toNat x.task f.at_
  | none => s

/-- Rung 1: registers, counters and sets of a context are cleared. -/
def resetCtx (s : State) (k n : Nat) : State :=
  let s := modCtx s k n fun x => { x with regs := [], vregs := [], masks := [] }
  modCore s k fun c => ((c.disarm n).removeOps n).clearSets n

/-- The contexts, by core, that a FENCE body names to a cluster's controller (Table 18-2). -/
def fenceTargets (s : State) (cl b : Nat) : List (Nat × Nat) :=
  let k := cl * 64 + field b 8 6
  match field b 0 2 with
  | 0 => (bitsOf 4 (field b 2 4)).map fun n => (k, n)
  | 1 => (bitsOf 4 (Tbl.get (getCore s k).suspects (field b 6 2) 0).toNat).map fun n => (k, n)
  | 2 => (List.range 4).map fun n => (k, n)
  | _ => ((List.range 64).filter fun j => Tbl.has s.cores (cl * 64 + j)).flatMap fun j => (List.range 4).map fun n => (cl * 64 + j, n)

/-- The controller acknowledges a FENCE; the contexts of one of context scope are cleared (R395, R396). -/
def ackFence (s : State) (cl : Nat) (p : CtrlPacket) : State :=
  let b := p.body.toNat
  let k := portCore cl
  let s := if field b 0 2 = 0 && !b.testBit 14 then (fenceTargets s cl b).foldl (fun s x => resetCtx s x.1 x.2) s else s
  sendCtrl s 0x0C (coreX k) (coreY k) p.sx.toNat p.sy.toNat (field b 0 15)

/-- Every FENCE that a controller has taken is acknowledged once no task runs on its contexts (R398). -/
def ackFences (s : State) (cl : Nat) : State :=
  if (getClu s cl).fences.isEmpty then s
  else
  let done (p : CtrlPacket) : Bool := (fenceTargets s cl p.body.toNat).all fun x => !(getCtx s x.1 x.2).state.running
  ((getClu s cl).fences.filter done).foldl (fun s p => ackFence s cl p)
    (modClu s cl fun u => { u with fences := u.fences.filter fun p => !done p })

/-- Is Compatible recovery in force at a core? A job takes a new setting at its next step boundary (Table 20-1). -/
def compatNow (s : State) (k : Nat) : Bool :=
  match partOfCore s k with
  | none => s.sys.compatible
  | some p =>
    let j := getJob s (jobOfPart s p)
    if j.steps = [] then s.sys.compatible else j.compatible

/-- May Compatible recovery hold this end back for the 30 µs of R409? -/
def relaunchable (s : State) (k : Nat) (x : Ctx) (st : Status) : Bool :=
  compatNow s k && (st = stCtxWatchdog || st = stTimeout) &&
    (match x.launch with | some l => !l.madeCarr && !l.foreign && !l.relaunched && l.window.isNone | none => false)

/-- A task has ended, for an invalidation that counts it (R173). -/
def Inval.taskGone (i : Inval) (t : Nat × Nat × BitVec 16) (at_ : Word) : Inval :=
  if i.tasks.contains t then
    let l := i.tasks.filter (· ≠ t)
    { i with tasks := l, ended := if l = [] then at_ else i.ended }
  else i

/-- A task of a core has ended: the invalidations of its partition that wait for it see it (R173). -/
def noteTaskEnd (s : State) (k n : Nat) (task : BitVec 16) : State :=
  match partOfCore s k with
  | some p => modPart s p fun q => { q with invals := Tbl.map q.invals fun _ i => i.taskGone (k, n, task) s.tally }
  | none => s

/-- The task of context `n` ends with status `st`; `fs` are the faults that ended it, if faults did (R52, R54, R55, R61). Its engine
operations leave the queues, except where it ends OK and where `keep` says that an operation's own fault has ended it: the later ones have
left at the report then, and the earlier ones close (R110, R136). -/
def endTaskWith (keep : Bool) (s : State) (k n : Nat) (st : Status) (fs : List FaultRec) : State :=
  let c := getCore s k
  let x := c.ctx n
  let hold := relaunchable s k x st && !x.fenceDue
  let x' := x.recordFault fs
  let x' := { x' with
    state := if x.fenceDue then .fenced else if st = stOk || st = stAborted then .idle else .stopped
    lastStatus := st, wait := .none, pend := [], aborts := [], fenceDue := false, fired := if hold then x.fired else none,
    launch := if hold then x.launch.map (fun l => { l with window := some (s.tally, st) }) else x.launch }
  let c := c.disarm n
  let c := if st = stOk || keep then c else c.removeOps n
  let c := if st = stAborted then c.clearSets n else c
  let c := { c with inj := c.inj.filter (fun p => p.1 ≠ n) }
  let s := setCore s k (c.setCtx n x')
  let ans := if st = stAborted then stAborted else stAlreadyDone
  let s := x.aborts.foldl (fun s a => abortAnswer s k n x.task ans a) s
  let s := if hold then s else tellFiring s k n x
  let s := if st = stOk || hold then s else coreToHub s k 0x0D (x.task.toNat + 2 ^ 16 * st.toNat + 2 ^ 32 * n)
  let s := noteTaskEnd s k n x.task
  if x.fenceDue then ackFences s (clusterOf k) else s

def endTask (s : State) (k n : Nat) (st : Status) (fs : List FaultRec) : State := endTaskWith false s k n st fs

/-- Is the task to end at its next retire point, whatever its next instruction? -/
def Ctx.endDue (x : Ctx) : Bool := !x.pend.isEmpty || x.fired.isSome || x.fenceDue || !x.aborts.isEmpty

/-- A retire point (R54): faults first, then a watchdog that has fired, then a pending abort or fence (R389, R398), else the instruction's
effects `t` stand and it retires. `fs` are the faults the instruction raises; the pending reports of the tile checker and the engines count as
such (R110, R136). -/
def retirePoint (s : State) (k n : Nat) (fs : List FaultRec) (t : State) : State :=
  let x := getCtx s k n
  match worstFault (x.pend ++ fs) with
  | some f => endTaskWith (x.pend.contains f) s k n f.status (x.pend ++ fs)
  | none =>
    if x.fired.isSome then endTask s k n stCtxWatchdog []
    else if x.fenceDue || !x.aborts.isEmpty then endTask s k n stAborted []
    else t

/-- A retired instruction: the context goes on at `pc` (R53, R389). -/
def goOn (s : State) (k n : Nat) (pc : Word) : State :=
  modCtx s k n (fun x => { x with pc := pc, state := .ready, wait := .none, wdStart := s.tally })

/-! ### Errors of scratchpad words (R162) -/

/-- Words lost by the array since the last command. -/
def Core.upset (c : Core) (us : List (Nat × Bool)) : Core :=
  { c with spmErr := us.foldl (fun t u => Tbl.put t u.1 (u.2 || Tbl.get t u.1 false)) c.spmErr }

def Core.setTill (c : Core) (i : Nat) (e : TillEntry) : Core := { c with till := Tbl.put c.till i e }

/-- The Till entry that holds a line, with its number. -/
def Core.tillOf (c : Core) (line : Nat) : Option (Nat × TillEntry) :=
  List.find? (fun e => e.2.valid && e.2.line.toNat = line) c.till

/-- The dirty bytes of the line in the Till, as a 64-bit mask, and the entry's data. -/
def Core.dirtyOf (c : Core) (line : Nat) : Nat × Nat :=
  match c.tillOf line with
  | some e => (e.2.dirty.toNat, e.2.data.toNat)
  | none => (0, 0)

/-- A byte of the coherent store: the Till's dirty byte over the bank's (R166). -/
def spmByte (s : State) (k a : Nat) : Nat :=
  let d := (getCore s k).dirtyOf (a / 64)
  if d.1.testBit (a % 64) then field d.2 (8 * (a % 64)) 8 else (Mem.read s.mem (spmAddr k a)).toNat

/-- `n` bytes of the coherent store from `a`, little-endian. -/
def spmBytes (s : State) (k a : Nat) : Nat → Nat
  | 0 => 0
  | n + 1 => spmByte s k a + 256 * spmBytes s k (a + 1) n

/-- What a read of the scratchpad meets: the value, the address of the first uncorrectable word it consumes, and the correctable
words it met. -/
structure SpmRead where
  data : Nat
  bad : Option Nat
  ce : List Nat
  deriving DecidableEq, Repr

/-- A read of the bytes `[a, a+n)`. A word is consumed when some byte the operation needs is not a dirty byte of
the Till (R162, R166). -/
def spmRead (s : State) (k a n : Nat) : SpmRead :=
  let c := getCore s k
  let words := (List.range ((a + n + 7) / 8 - a / 8)).map (a / 8 + ·)
  let used := words.filter fun w =>
    (List.range 8).any fun i =>
      let b := 8 * w + i
      decide (a ≤ b) && decide (b < a + n) && !((c.dirtyOf (b / 64)).1.testBit (b % 64))
  { data := spmBytes s k a n,
    bad := (used.find? fun w => Tbl.find c.spmErr w = some true).map (8 * ·),
    ce := used.filter fun w => Tbl.find c.spmErr w = some false }

/-- Corrected words are noted for the bank's rewrite, and a consuming operation that met an uncorrectable one is counted (R162). -/
def noteRead (s : State) (k : Nat) (r : SpmRead) : State :=
  let s := if r.ce = [] then s
    else modCore s k fun c => { c with rewrite := r.ce.foldl (fun l w => if l.contains w then l else l ++ [w]) c.rewrite }
  if r.bad.isSome then modClu s (clusterOf k) fun u => { u with ueConsumed := satAdd u.ueConsumed 1 } else s

/-- A word with a bank copy that is written whole or found clean: no error and nothing left to rewrite. -/
def Core.cure (c : Core) (w : Nat) : Core :=
  { c with spmErr := Tbl.drop c.spmErr w, rewrite := c.rewrite.filter (· ≠ w) }

/-- One bank word written under a mask of its eight bytes; a partial write reads, merges and writes (R168). -/
def bankWord (s : State) (k w mask v : Nat) : State :=
  let put (s : State) : State :=
    { s with mem := (List.range 8).foldl (fun m i =>
        if mask.testBit i then Mem.write m (spmAddr k (8 * w + i)) (BitVec.ofNat 8 (v >>> (8 * i))) else m) s.mem }
  let e := Tbl.find (getCore s k).spmErr w
  if mask % 256 = 0 then s
  else if mask % 256 = 255 then modCore (put s) k (·.cure w)
  else match e with
    | none => put s
    | some true => modClu s (clusterOf k) fun u => { u with ueWriteback := satAdd u.ueWriteback 1 }
    | some false =>
      modClu (modCore (put s) k (·.cure w)) (clusterOf k) fun u => { u with ceCount := satAdd u.ceCount 1 }

/-- Bytes of one bank line written under a 64-bit mask. -/
def bankLine (s : State) (k line mask v : Nat) : State :=
  (List.range 8).foldl (fun s j => bankWord s k (8 * line + j) (field mask (8 * j) 8) (field v (64 * j) 64)) s

/-- 64-byte value `new` over `old` where the mask is set. -/
def mergeLine (old new mask : Nat) : Nat :=
  (List.range 64).foldl (fun acc i => acc + 2 ^ (8 * i) * (if mask.testBit i then field new (8 * i) 8 else field old (8 * i) 8)) 0

/-- A Till entry, if one holds the line, after its bytes under `mask` were written with `v` (R166). -/
def Core.tillWrote (c : Core) (line mask v : Nat) : Core :=
  match c.tillOf line with
  | none => c
  | some (i, e) =>
    if mask % 2 ^ 64 = 2 ^ 64 - 1 then
      c.setTill i { e with filled := true, dirty := 0, data := BitVec.ofNat 512 v }
    else
      c.setTill i
        { e with dirty := e.dirty &&& ~~~ BitVec.ofNat 64 mask, data := BitVec.ofNat 512 (mergeLine e.data.toNat v mask) }

/-- Bytes of one scratchpad line written by an instruction of the core, bank and Till alike. -/
def spmWriteLine (s : State) (k line mask v : Nat) : State :=
  modCore (bankLine s k line mask v) k fun c => c.tillWrote line mask v

/-- `n` bytes of `v` written from `a` by an instruction of the core; the bytes may lie in two lines. -/
def spmWrite (s : State) (k a n v : Nat) : State :=
  let first := Nat.min n (64 - a % 64)
  let s := spmWriteLine s k (a / 64) ((2 ^ first - 1) <<< (a % 64)) ((v % 2 ^ (8 * first)) <<< (8 * (a % 64)))
  if n = first then s
  else spmWriteLine s k (a / 64 + 1) (2 ^ (n - first) - 1) (v >>> (8 * first))

/-- A line that arrives from outside replaces the bank line and the whole Till entry (R166). -/
def spmArrive (s : State) (k line : Nat) (v : Line) : State := spmWriteLine s k line (2 ^ 64 - 1) v.toNat

/-! ### The Till (R164, R165, R168) -/

/-- An LD or ST uses entry `i`: its AGE becomes 0 and the younger valid entries age by 1; a new entry counts as the oldest. -/
def Core.tillTouch (c : Core) (i : Nat) (fresh : Bool) : Core :=
  let age := if fresh then 8 else ((Tbl.get c.till i TillEntry.reset).age).toNat
  { c with till := Tbl.map c.till fun j e =>
      if j = i then { e with age := 0 }
      else if e.valid && e.age.toNat < age then { e with age := e.age + 1 } else e }

/-- Write-back of an entry's dirty bytes to its bank line. -/
def tillWriteBack (s : State) (k : Nat) (e : TillEntry) : State :=
  if e.dirty = 0 then s
  else if e.filled then bankLine s k e.line.toNat (2 ^ 64 - 1) e.data.toNat
  else bankLine s k e.line.toNat e.dirty.toNat e.data.toNat

/-- The entry of a line, allocated if there is none: an invalid entry, the lowest of them, else the one of AGE 7 after write-back. -/
def tillAlloc (s : State) (k line : Nat) : State × Nat × Bool :=
  let c := getCore s k
  match c.tillOf line with
  | some (i, _) => (s, i, false)
  | none =>
    let i := match (List.range 8).find? fun i => !(Tbl.get c.till i TillEntry.reset).valid with
      | some i => i
      | none => ((List.range 8).find? fun i => (Tbl.get c.till i TillEntry.reset).age = 7).getD 0
    let old := Tbl.get c.till i TillEntry.reset
    let s := if old.valid then tillWriteBack s k old else s
    (modCore s k fun c => c.setTill i
      { valid := true, filled := false, line := BitVec.ofNat 10 line, age := 0, dirty := 0, data := 0 }, i, true)

/-- LD through the Till (R165): the state, and the bytes or the address of an uncorrectable word. -/
def tillLoad (s : State) (k a n : Nat) : State × Except Nat Nat :=
  let line := a / 64
  let (s, i, fresh) := tillAlloc s k line
  let s := modCore s k (·.tillTouch i fresh)
  let c := getCore s k
  let e := Tbl.get c.till i TillEntry.reset
  let want := (2 ^ n - 1) <<< (a % 64)
  if e.filled || (want &&& e.dirty.toNat = want) then (s, .ok (field e.data.toNat (8 * (a % 64)) (8 * n)))
  else
    -- the fill reads every word of the line that has a byte that is not dirty
    let fill := (List.range 8).filter fun j => field e.dirty.toNat (8 * j) 8 ≠ 255
    let bad := fill.filter fun j => Tbl.find c.spmErr (8 * line + j) = some true
    let hit := bad.find? fun j => field (want &&& (2 ^ 64 - 1 - e.dirty.toNat)) (8 * j) 8 ≠ 0
    let ce := (fill.filter fun j => Tbl.find c.spmErr (8 * line + j) = some false).map (8 * line + ·)
    let r : SpmRead := { data := spmBytes s k a n, bad := hit.map fun j => 64 * line + 8 * j, ce := ce }
    let t := noteRead s k r
    match r.bad with
    | some w => (t, .error w)
    | none =>
      let t := if bad = [] then
          modCore t k fun c => c.setTill i { e with filled := true, data := BitVec.ofNat 512 (spmBytes s k (64 * line) 64) }
        else t
      (t, .ok r.data)

/-- ST through the Till (R165). -/
def tillStore (s : State) (k a n v : Nat) : State :=
  let (s, i, fresh) := tillAlloc s k (a / 64)
  modCore s k fun c =>
    let c := c.tillTouch i fresh
    let e := Tbl.get c.till i TillEntry.reset
    let mask := (2 ^ n - 1) <<< (a % 64)
    c.setTill i
      { e with dirty := e.dirty ||| BitVec.ofNat 64 mask,
               data := BitVec.ofNat 512 (mergeLine e.data.toNat (v <<< (8 * (a % 64))) mask) }

/-! ### Arrival counters (R94 to R98) -/

/-- A line counted on a counter (R94). -/
def Counter.add (v : Counter) (n : Nat) : Counter := { v with count := v.count + BitVec.ofNat 32 n }

/-- The LAST flag's total (R96). -/
def Counter.last (v : Counter) (total : BitVec 16) : Counter :=
  if v.total = 0 then { v with total := total }
  else if v.total ≠ total then { v with status := mergeStatus v.status stBadArgument } else v

/-- A line for a counter that discards is dropped and counted in DISARMED (R98). -/
def discardLine (s : State) (k : Nat) (n : Nat) : State :=
  modClu s (clusterOf k) fun u => { u with disarmed := satAdd u.disarmed n }

/-- Lines counted at a core without data, with a status: an uncorrectable source marks UE, a refusal merges its status (R94, R103,
R213). A counter that discards takes nothing, and no line is discarded, as none came (log 17). -/
def countOnlyAt (s : State) (k cnt lines : Nat) (st : Status) (spm : Bool) : State :=
  let c := getCore s k
  let v := c.cnt cnt
  if v.discard then s
  else
    let v := v.add lines
    let v := if st = stEcc then (if spm then { v with ueSpm := true } else { v with ueDram := true })
      else if st = stOk then v else { v with status := mergeStatus v.status st }
    setCore s k (c.setCnt cnt v)

/-- The first transfer of the list that `f` picks has `n` lines fewer to be counted; one with none left goes. -/
def settleXfer (f : CoreXfer → Bool) (n : Nat) : List CoreXfer → List CoreXfer
  | [] => []
  | x :: r => if f x then (if x.left ≤ n then r else { x with left := x.left - n } :: r) else x :: settleXfer f n r

/-- A line of a read has come in, or has been counted without data. -/
def Core.readDone (c : Core) (cnt : Nat) (line : Option Nat) (n : Nat) : Core :=
  { c with reads := settleXfer (fun x => decide (x.cnt = cnt) &&
      (match line with | some l => decide (x.line ≤ l) && decide (l < x.line + x.lines) | none => true)) n c.reads }

/-- Lines of a write have been counted. -/
def Core.writeDone (c : Core) (cnt n : Nat) : Core := { c with writes := settleXfer (fun x => decide (x.cnt = cnt)) n c.writes }

/-- COUNT_ONLY's lines belong to a read of the counter if one is open, else to a write. -/
def Core.countDone (c : Core) (cnt n : Nat) : Core :=
  if c.reads.any (fun x => decide (x.cnt = cnt)) then c.readDone cnt none n else c.writeDone cnt n

/-- A DRAM die temperature is read; 95 °C stays on record (R383). -/
def Cluster.noteDie (u : Cluster) (t : BitVec 8) : Cluster := { u with dieTemp := t, hotDram := u.hotDram || decide (95 ≤ t.toNat) }

end Sys2Proof.Machine
end

