-- ==== Sys2Proof/Machine/Operands.lean ====
section
/-! DEFINITION. Operand forms of the core instructions: the fields of the word, the encoding checks of R87 and R466, how an
instruction issues, waits, faults and retires, and the masked write of lanes. -/

namespace Sys2Proof

/-- Bits `[lo+32+n-1 : lo+32]` of the word. -/
def Issue.fld (i : Issue) (lo n : Nat) : Nat := Machine.field i.imm.toNat lo n
def Issue.bit (i : Issue) (lo : Nat) : Bool := i.imm.toNat.testBit lo
def Issue.rd (i : Issue) : Nat := i.d.toNat
def Issue.ra (i : Issue) : Nat := i.a.toNat
def Issue.rb (i : Issue) : Nat := i.b.toNat
def Issue.rc (i : Issue) : Nat := i.c.toNat
/-- CNT, bits [51:48]. -/
def Issue.cnt (i : Issue) : Nat := i.fld 16 4
/-- IMM as a signed number. -/
def Issue.simm (i : Issue) : Word := i.imm.signExtend 64

/-- The instruction word (Table 4-1). -/
def Issue.word (i : Issue) (opc : BitVec 8) : Word :=
  BitVec.ofNat 64 (opc.toNat + 2 ^ 8 * i.rd + 2 ^ 13 * i.ra + 2 ^ 18 * i.rb + 2 ^ 23 * i.rc + 2 ^ 28 * i.msk.toNat
    + 2 ^ 31 * Machine.b2n i.men + 2 ^ 32 * i.imm.toNat)

end Sys2Proof

namespace Sys2Proof.Machine

/-- Which fields an opcode uses (R87): the four register fields, the assigned bits of IMM (bit 0 is bit 32 of the word), whether MEN
is accepted (R466) and whether MSK is a selector (VSEL). -/
structure Enc where
  d : Bool
  a : Bool
  b : Bool
  c : Bool
  imm : Nat
  men : Bool
  sel : Bool
  deriving DecidableEq, Repr

def Enc.none : Enc := { d := false, a := false, b := false, c := false, imm := 0, men := false, sel := false }

/-- D, A and B. -/
def Enc.dab : Enc := { Enc.none with d := true, a := true, b := true }
/-- D and A. -/
def Enc.da : Enc := { Enc.none with d := true, a := true }
/-- A, B and C with LEN and CNT. -/
def Enc.transfer : Enc := { Enc.none with a := true, b := true, c := true, imm := 0xFFFFF }

/-- The checks of R87 and R466 that every opcode shares. -/
def Enc.ok (f : Enc) (i : Issue) : Bool :=
  (f.d || i.d = 0) && (f.a || i.a = 0) && (f.b || i.b = 0) && (f.c || i.c = 0) &&
  (i.imm.toNat &&& (2 ^ 32 - 1 - f.imm) = 0) && (f.men || !i.men) && (i.msk = 0 || i.men || f.sel)

/-- What an instruction comes to at its issue. -/
inductive Res where
  /-- It cannot issue yet; nothing changes. -/
  | hold
  /-- It faults; the state is the one before the task ends. -/
  | fault (s : State) (fs : List FaultRec)
  /-- It retires, with its effects done, and the context goes on at `pc`. -/
  | retire (s : State) (pc : Word)
  /-- It waits; the state is the one with what it has handed on. -/
  | wait (s : State) (w : Wait) (st : CtxState)
  /-- It retires and ends the task OK (END). -/
  | finish

/-- The loaded image of a context: byte addresses of its instructions (R86). -/
def Ctx.inImage (x : Ctx) (pc : Nat) : Bool := decide (x.codeStart ≤ pc) && decide (pc + 8 ≤ x.codeStart + x.codeLen) && decide (pc % 8 = 0)

/-- Outcome `r` of the instruction of context `n` of core `k`, from state `s` (R54, R61, R123). -/
def settle (s : State) (k n : Nat) (r : Res) : State :=
  match r with
  | .hold => s
  | .fault t fs => retirePoint t k n fs t
  | .retire t pc => retirePoint s k n [] (goOn t k n pc)
  | .wait t w st =>
    let x := getCtx s k n
    if x.endDue then retirePoint s k n [] s
    else modCtx t k n (fun x => { x with state := st, wait := w })
  | .finish => retirePoint s k n [] (endTask s k n stOk [])

/-- Can a context issue? It is READY on a serving core, or one with a fence to meet at its retire point (R398), and the clocks run (R362). -/
def canIssue (s : State) (k n : Nat) : Bool :=
  (getCtx s k n).state = .ready && (coreServing s k || (getCtx s k n).fenceDue) && !s.clock.stopped

/-- An instruction issues where its context can; the fetch and encoding checks come first (R86, R87, R88). -/
def issue (f : Enc) (i : Issue) (s : State) (body : State → Ctx → Res) : State :=
  let k := i.core
  let n := i.ctx
  if canIssue s k n then
    let s := modCore s k (·.upset i.upsets)
    let x := getCtx s k n
    if !x.inImage x.pc.toNat then settle s k n (.fault s [fIllegal x.pc])
    else if !f.ok i then settle s k n (.fault s [fIllegal x.pc])
    else settle s k n (body s x)
  else s

/-- A held instruction runs again, once the clocks run (R47, R120, R362). -/
def resume (i : Issue) (s : State) (body : State → Ctx → Res) : State :=
  if s.clock.stopped then s else settle s i.core i.ctx (body s (getCtx s i.core i.ctx))

/-- ILLEGAL_OP of the instruction at the context's pc. -/
def illegal (s : State) (x : Ctx) : Res := .fault s [fIllegal x.pc]

/-- The context's next instruction. -/
def nextPc (x : Ctx) : Word := x.pc + 8

/-- Retire with the context's registers changed. -/
def retireCtx (s : State) (i : Issue) (x : Ctx) : Res := .retire (setCtx s i.core i.ctx x) (nextPc x)

/-- The scratchpad's size (R160). -/
def spmSize : Nat := 49152

/-- Bytes `[a, a+n)` outside the scratchpad fault BOUND with the first address (R93). -/
def boundFault (a n : Nat) : List FaultRec := if spmSize < a + n then [fBound 0 a] else []

/-- A register value with a signed offset added, 64-bit and wrapping like every scalar sum (log 16). -/
def addrOf (v : Word) (off : Int) : Nat := (v + BitVec.ofInt 64 off).toNat

/-- Lanes under a mask (R466): a lane whose bit is 0 keeps its value. -/
def maskLanes (men : Bool) (m : BitVec 16) (old new : Line) : Line :=
  if men then ofLanes (fun j => if m.getLsbD j then lane new j else lane old j) else new

/-- The instruction's mask. -/
def maskOf (i : Issue) (x : Ctx) : BitVec 16 := if i.men then x.m i.msk.toNat else 0xFFFF

end Sys2Proof.Machine
end

