-- ==== Sys2Proof/Machine/Tiles.lean ====
section
/-! DEFINITION. Tiles in the scratchpad: format bytes, sizes, elements, the sparse stream and its checker, operand ranges
(03 R70, R77 to R79; 05 R124 to R141). -/

namespace Sys2Proof.Machine

/-- Is a format byte legal (R70)? -/
def fbyteOk (b : Nat) : Bool :=
  let f := b % 16
  let sc := b.testBit 4
  decide (f ≤ 7) && decide (b < 64) && !(!sc && (f = 5 || f = 6)) && !(sc && f ≤ 2)

/-- Bytes of one tile row (R78). -/
def rowBytes (f : Nat) : Nat := 4 * elemBits f

/-- Size of a dense tile (Table 3-5). -/
def denseSize (fb : Nat) : Nat := 32 * rowBytes (fb % 16) + (if fb.testBit 4 then 64 else 0)

/-- Length in bytes of a stream of `pairs` pairs (R124, R128). -/
def streamLen (f pairs : Nat) : Nat := ceilDiv (pairs * (4 + elemBits f)) 8

/-- Size of a sparse tile (Table 5-1). -/
def sparseSize (fb pairs : Nat) : Nat :=
  64 * ceilDiv (16 + streamLen (fb % 16) pairs) 64 + (if fb.testBit 4 then 64 else 0)

/-- The rate class of an engine format (Table 2-1); FP32 and reserved codes have none. -/
def rateClass (f : Nat) : Option Nat :=
  match f with
  | 6 => some 0
  | 3 => some 1 | 4 => some 1 | 5 => some 1 | 7 => some 1
  | 1 => some 2 | 2 => some 2
  | _ => none

/-- First byte and byte count that hold element (r, c) of a dense tile at offset 0 (R77, R78). -/
def elemSpan (f r c : Nat) : Nat × Nat :=
  match elemBits f with
  | 4 => (r * rowBytes f + c / 2, 1)
  | 6 => (r * rowBytes f + c / 4 * 3, 3)
  | b => (r * rowBytes f + c * (b / 8), b / 8)

/-- The code of element (r, c) of the dense tile at `a`. -/
def denseElem (s : State) (k a f r c : Nat) : Nat :=
  let p := elemSpan f r c
  let v := spmBytes s k (a + p.1) p.2
  match elemBits f with
  | 4 => field v (4 * (c % 2)) 4
  | 6 => field v (6 * (c % 4)) 6
  | _ => v

/-! ### The sparse tile (R124 to R133) -/

/-- The metadata of Table 5-3 as its 128 bits. -/
structure Meta where
  raw : Nat
  deriving DecidableEq, Repr

def Meta.fbyte (m : Meta) : Nat := field m.raw 0 8
def Meta.struct_ (m : Meta) : Nat := field m.raw 8 3
def Meta.train (m : Meta) : Bool := m.raw.testBit 11
def Meta.pairs (m : Meta) : Nat := field m.raw 16 11
def Meta.nnz (m : Meta) : Nat := field m.raw 32 11
def Meta.vrows (m : Meta) : Nat := field m.raw 48 5
def Meta.vcols (m : Meta) : Nat := field m.raw 53 5
def Meta.check (m : Meta) : Nat := field m.raw 64 16
def Meta.rsv (m : Meta) : Nat := field m.raw 12 4 + field m.raw 27 5 + field m.raw 43 5 + field m.raw 58 6 + field m.raw 80 48

def metaAt (s : State) (k a : Nat) : Meta := ⟨spmBytes s k a 16⟩

/-- Fletcher-16 over `n` stream bytes (R127). -/
def fletcher (v : Nat) : Nat → Nat → Nat → Nat
  | 0, s1, s2 => s2 * 256 + s1
  | n + 1, s1, s2 =>
    let s1' := (s1 + v % 256) % 255
    fletcher (v / 256) n s1' ((s2 + s1') % 255)

/-- Decoding of the pair stream (R130): the stored elements as (position, code), or nothing on a stream fault. `w` is the pair width,
`kax` the tile's K_AXIS. -/
def decodePairs (w : Nat) (kax : Bool) (vrows vcols : Nat) : Nat → Nat → Nat → List (Nat × Nat) → Option (List (Nat × Nat))
  | 0, _, _, acc => some acc.reverse
  | j + 1, bits, pos, acc =>
    let run := bits % 16
    let v := (bits / 16) % 2 ^ (w - 4)
    let rest := bits / 2 ^ w
    if run = 15 then
      let pos := if v = 0 then (pos / 32 + 1) * 32 else pos + 14 + v
      if pos > 1024 then none else decodePairs w kax vrows vcols j rest pos acc
    else
      let pos := pos + run
      if pos ≥ 1024 then none
      else
        let row := if kax then pos % 32 else pos / 32
        let col := if kax then pos / 32 else pos % 32
        if row > vrows || col > vcols then none
        else decodePairs w kax vrows vcols j rest (pos + 1) ((pos, v) :: acc)

/-- The stored elements of a sparse tile, or nothing on a stream fault of any kind (R130, R135 step 4 without CHECK). -/
def tileElems (s : State) (k a : Nat) : Option (List (Nat × Nat)) :=
  let m := metaAt s k a
  let f := m.fbyte % 16
  let w := 4 + elemBits f
  let slen := streamLen f m.pairs
  let stream := spmBytes s k (a + 16) slen
  let padLen := 64 * ceilDiv (16 + slen) 64 - (16 + slen)
  match decodePairs w (m.fbyte.testBit 5) m.vrows m.vcols m.pairs stream 0 [] with
  | none => none
  | some l =>
    if l.length ≠ m.nnz ∨ stream >>> (w * m.pairs) ≠ 0 ∨ spmBytes s k (a + 16 + slen) padLen ≠ 0 then none else some l

/-- n and m of a declared structure n:m. -/
def structOf (st : Nat) : Option (Nat × Nat) :=
  match st with
  | 1 => some (1, 4) | 2 => some (2, 4) | 3 => some (2, 8) | 4 => some (4, 8) | _ => none

/-- Over-declared (R131, R132)? Positions are along the lines. -/
def overDeclared (st : Nat) (train : Bool) (ps : List Nat) : Bool :=
  match structOf st with
  | none => false
  | some (n, m) =>
    let along := (List.range (1024 / m)).any fun g => decide (n < (ps.filter fun p => p / m = g).length)
    let across := train && (List.range 256).any fun g =>
      -- group g: line quad g / 32, k index g mod 32
      decide (n < (ps.filter fun p => p / 32 / 4 = g / 32 ∧ p % 32 = g % 32).length)
    along || across

/-- What the checker finds of one tile. -/
inductive TileFind where
  | fail (f : FaultRec)
  | pass (nnz : Nat) (extra : Bool)
  deriving DecidableEq, Repr

/-- R135 for entry `b` of the directory at `dir`, expecting format byte `fb`; `pc` is the ESPARSE's address. Answers the tile's address
with what is found, and the correctable words met. -/
def checkTile (s : State) (k dir b fb : Nat) (strict : Bool) (pc : Word) : Nat × TileFind × List Nat :=
  let r1 := spmRead s k (dir + 4 * b) 4
  match r1.bad with
  | some w => (0, .fail (fSpmUe w), r1.ce)
  | none =>
    let a := r1.data % 65536
    if r1.data / 65536 ≠ 0 ∨ a % 64 ≠ 0 then (a, .fail (fIllegal pc), r1.ce)
    else if a ≥ spmSize then (a, .fail (fBound 0 a), r1.ce)
    else
      let r2 := spmRead s k a 16
      let ce := r1.ce ++ r2.ce
      match r2.bad with
      | some w => (a, .fail (fSpmUe w), ce)
      | none =>
        let m : Meta := ⟨r2.data⟩
        let st := m.struct_
        if m.fbyte ≠ fb ∨ !fbyteOk m.fbyte ∨ m.fbyte % 16 = 0 ∨ st > 4 ∨ (m.train ∧ st > 2) ∨ m.pairs > 1024 ∨ m.nnz > 1024 ∨
            m.nnz > m.pairs ∨ m.rsv ≠ 0 then (a, .fail (fIllegal pc), ce)
        else
          let size := sparseSize m.fbyte m.pairs
          if a + size > spmSize then (a, .fail (fBound 0 a), ce)
          else
            let r3 := spmRead s k (a + 16) (size - 16)
            let ce := ce ++ r3.ce
            match r3.bad with
            | some w => (a, .fail (fSpmUe w), ce)
            | none =>
              let slen := streamLen (m.fbyte % 16) m.pairs
              let bad (st : Status) : FaultRec := { status := st, bits := 0x10, space := 0, addr := BitVec.ofNat 48 a }
              if fletcher (spmBytes s k (a + 16) slen) slen 0 0 ≠ m.check then (a, .fail (bad stSparseIndex), ce)
              else match tileElems s k a with
                | none => (a, .fail (bad stSparseIndex), ce)
                | some l =>
                  let extra := overDeclared st m.train (l.map (·.1))
                  if extra && strict then (a, .fail (bad stSparseDecl), ce) else (a, .pass m.nnz extra, ce)

/-- What the checker finds of a whole operation: the first failure, or the distinct tiles as (address, format byte, NNZ, over). -/
structure OpFind where
  fail : Option FaultRec
  tiles : List (Nat × Nat × Nat × Bool)
  ce : List Nat
  deriving DecidableEq, Repr

/-- The tiles an operation names for block `b`: directory and format byte of A, then of B (R135). -/
def EngOp.dirs (o : EngOp) : List (Nat × Nat) :=
  (if o.spa then [(o.aAddr, o.fba.toNat)] else []) ++ (if o.spb then [(o.bAddr, o.fbb.toNat)] else [])

def checkOp (s : State) (k : Nat) (o : EngOp) (strict : Bool) : OpFind :=
  ((List.range o.nblk).flatMap fun b => o.dirs.map fun d => (b, d)).foldl (fun acc (b, dir, fb) =>
    if acc.fail.isSome then acc
    else match checkTile s k dir b fb strict o.pc with
      | (_, .fail f, ce) => { acc with fail := some f, ce := acc.ce ++ ce }
      | (a, .pass nnz extra, ce) =>
        let t := (a, fb, nnz, extra)
        { acc with tiles := if acc.tiles.contains t then acc.tiles else acc.tiles ++ [t], ce := acc.ce ++ ce })
    { fail := none, tiles := [], ce := [] }

/-! ### Operand ranges (R120, R137) -/

/-- What the checker has read of tile `b` of side A or B: 0 nothing, 1 its directory entry, 2 its metadata too. It reads block after block,
A before B, of each tile the entry and then the metadata (R135). -/
def EngOp.tileStage (o : EngOp) (b : Nat) (sideB : Bool) : Nat :=
  match o.check with
  | .passed => 2
  | .taken => Nat.min 2 (o.stage - 2 * (if o.spa && o.spb then 2 * b + b2n sideB else b))
  | _ => 0

/-- The scratchpad ranges (start, length) that an operation keeps from being written. A tile of a sparse operand covers the whole scratchpad
until the checker has read its entry, then the largest size of its format (Table 5-2), and its own size from its metadata on (R137). -/
def EngOp.ranges (s : State) (k : Nat) (o : EngOp) : List (Nat × Nat) :=
  let side (sp sideB : Bool) (a stride fb : Nat) : List (Nat × Nat) :=
    if !sp then [(a, (o.nblk - 1) * stride + denseSize fb)]
    else (a, 4 * o.nblk) :: (List.range o.nblk).map fun b =>
      let t := spmBytes s k (a + 4 * b) 2
      match o.tileStage b sideB with
      | 0 => (0, spmSize)
      | 1 => (t, sparseSize fb 1024)
      | _ => (t, sparseSize fb (metaAt s k t).pairs)
  side o.spa false o.aAddr o.aStride o.fba.toNat ++ side o.spb true o.bAddr o.bStride o.fbb.toNat

/-- Does a write of `[a, a+n)` meet an operand range of an operation that is queued or running on the core (R120)? One that the checker still
holds for a task that has ended holds no range (DESIGN CHOICE, log 133). -/
def rangeBusy (s : State) (k a n : Nat) : Bool :=
  (getCore s k).engines.any fun e => e.2.live.any fun o => (o.ranges s k).any fun r => decide (a < r.1 + r.2) && decide (r.1 < a + n)

end Sys2Proof.Machine
end

