-- ==== Sys2Proof/Machine/Distance.lean ====
section
/-! DEFINITION. Where routers, endpoints and panels lie, the links between routers, and distances: the Distance Table's figures, and the
banks that the hub computes (09 R208, R212, R218, R228, R233, 12 R274, R275). -/

namespace Sys2Proof.Machine

/-! ### The torus and the optical dies -/

/-- Coordinates of a panel number in the torus (R275). -/
def torusX (n : Nat) : Nat := n % 8
def torusY (n : Nat) : Nat := n / 8 % 8
def torusZ (n : Nat) : Nat := n / 64

/-- The step along one ring: 0 stay, 1 the + direction, 2 the − direction; the shorter way, + on a tie (R275). -/
def ringStep (size src dst : Nat) : Nat :=
  let d := (dst + size - src) % size
  if d = 0 then 0 else if d ≤ size - d then 1 else 2

/-- First routing direction from panel `a` to `b`: 0 +X, 1 −X, 2 +Y, 3 −Y, 4 +Z, 5 −Z; none when they are one panel. -/
def torusDir (a b : Nat) : Option Nat :=
  match ringStep 8 (torusX a) (torusX b), ringStep 8 (torusY a) (torusY b), ringStep 16 (torusZ a) (torusZ b) with
  | 0, 0, 0 => none
  | 0, 0, z => some (3 + z)
  | 0, y, _ => some (1 + y)
  | x, _, _ => some (x - 1)

/-- Optical dies of a direction (Table 12-1); 6 is the twin link. -/
def opticalDies (dir : Nat) : List Nat :=
  match dir with
  | 0 => [3, 9, 15, 21, 30, 36, 42]
  | 1 => [6, 12, 18, 27, 33, 39, 45]
  | 2 => [4, 10, 16, 22, 31, 37, 43]
  | 3 => [7, 13, 19, 28, 34, 40, 46]
  | 4 => [5, 11, 17, 23, 32, 38, 44]
  | 5 => [8, 14, 20, 29, 35, 41, 47]
  | _ => [0, 1, 2, 24, 25, 26]

/-- An attachment router of an optical die: the first of its eight on the left side (R212). -/
def opticalXs (oe : Nat) : Nat × Nat :=
  match oe % 3 with | 0 => (127, 128) | 1 => (319, 320) | _ => (511, 512)
/-- Panel die row of an optical die: H0 row r is 7 − r, H1 row r is 8 + r. -/
def opticalRow (oe : Nat) : Nat := if oe < 24 then 7 - oe / 3 else 8 + (oe - 24) / 3
def dist (a b : Nat) : Nat := Nat.max a b - Nat.min a b
/-- Nearest attachment router of an optical die to a point, and its distance. -/
def opticalNear (oe x y : Nat) : Nat × Nat × Nat :=
  let xs := opticalXs oe
  let ax := if dist x xs.1 ≤ dist x xs.2 then xs.1 else xs.2
  let y0 := 64 * opticalRow oe + 28
  let ay := Nat.max y0 (Nat.min (y0 + 7) y)
  (dist x ax + dist y ay, ax, ay)

/-- The optical die whose attachment router lies at a point (R212). -/
def oeAt (x y : Nat) : Option Nat :=
  (List.range 48).find? fun oe =>
    (x = (opticalXs oe).1 || x = (opticalXs oe).2) && opticalRow oe = y / 64 && decide (28 ≤ y % 64) && decide (y % 64 ≤ 35)

/-! ### Links between routers (R207, R208, R263) -/

/-- A router that carries nothing: of a dark die, of a dark cluster, of a core whose site takes no part (R218). -/
def routerDead (s : State) (k : Nat) : Bool := (getDie s (siteOf k)).dark || (getClu s (clusterOf k)).lost

/-- The position `n` routers away on an output, if it lies on the panel. -/
def meshStep (x y o n : Nat) : Option (Nat × Nat) :=
  match o with
  | 0 => if y + n ≤ 1023 then some (x, y + n) else none
  | 1 => if x + n ≤ 639 then some (x + n, y) else none
  | 2 => if n ≤ y then some (x, y - n) else none
  | 3 => if n ≤ x then some (x - n, y) else none
  | _ => none

/-- A die link: key `4 * site + side`. -/
def getLink (s : State) (site side : Nat) : Link := Tbl.get s.links (4 * site + side) Link.reset

/-- Number of a core's router pair along a side of its die. -/
def pairNo (k side : Nat) : Nat := if side % 2 = 0 then coreX k % 64 else coreY k % 64

/-- Clocks of a link between two neighbouring routers (Table 9-1). -/
def linkClocks (a b : Nat) : Nat :=
  if siteOf a = siteOf b then 1 else if (coreY a ≤ 511) ≠ (coreY b ≤ 511) then 13 else 9

/-- The neighbour `n` routers away on output `o`, where neither that router is dead nor the link between is cut: a cut is a side of a site and
a router pair. -/
def linkIn (dead : Nat → Bool) (cut : Nat → Nat → Nat → Bool) (k o n : Nat) : Option Nat :=
  match meshStep (coreX k) (coreY k) o n with
  | none => none
  | some (x, y) =>
    let j := coreAt x y
    if dead j then none
    else if siteOf j ≠ siteOf k && (cut (siteOf k) o (pairNo k o) || cut (siteOf j) ((o + 2) % 4) (pairNo k o)) then none
    else some j

/-- Has the router a link to the router `n` away on output `o`, and where does it lead? -/
def meshLink (s : State) (k o n : Nat) : Option Nat :=
  linkIn (routerDead s) (fun site side pair => (getLink s site side).out.contains pair) k o n

/-! ### Holes and distances (R218, R233) -/

/-- The holes of the panel as it stands. -/
def holesOf (s : State) : Holes :=
  { dark := (s.dies.filter fun d => d.2.dark).map (·.1), clusters := (s.clusters.filter fun u => u.2.lost).map (·.1)
    cuts := (s.links.filter fun l => l.2.out ≠ []).map fun l => (l.1, l.2.out) }

/-- A router's neighbour with these holes. -/
def Holes.link (h : Holes) (k o : Nat) : Option Nat :=
  linkIn (fun j => h.dark.contains (siteOf j) || h.clusters.contains (clusterOf j))
    (fun site side pair => (Tbl.get h.cuts (4 * site + side) []).contains pair) k o 1

/-- Seams between two neighbouring routers; 64 for the spine, which is none (R208). -/
def seamOf (a b : Nat) : Nat := if siteOf a = siteOf b then 0 else if (coreY a ≤ 511) ≠ (coreY b ≤ 511) then 64 else 1

/-- The routers one hop beyond a layer that are not yet reached, each with the fewest seams on a shortest way to it. -/
def nextLayer (h : Holes) (seen : List Nat) (layer : Tbl Nat) : Tbl Nat :=
  layer.foldl (fun t k => (List.range 4).foldl (fun t o => match h.link k.1 o with
    | some j =>
      let w := k.2 + seamOf k.1 j
      if seen.contains j || decide (Tbl.get t j w < w) then t else Tbl.put t j w
    | none => t) t) []

/-- Hops and seams of a shortest way from a layer of routers to a set, going outward layer by layer. -/
def hopsOut (h : Holes) (b : List Nat) : Nat → Nat → List Nat → Tbl Nat → Option (Nat × Nat)
  | 0, _, _, _ => none
  | fuel + 1, n, seen, layer =>
    match layer.filter fun k => b.contains k.1 with
    | k :: r => some (n, r.foldl (fun w x => Nat.min w x.2) k.2)
    | [] =>
      if layer = [] then none
      else
        let l := nextLayer h seen layer
        hopsOut h b fuel (n + 1) (seen ++ l.map (·.1)) l

/-- Hops and seams between two routers of the mesh without holes. -/
def plainPath (j k : Nat) : Nat × Nat :=
  let spine := (coreY j ≤ 511) ≠ (coreY k ≤ 511)
  (dist (coreX j) (coreX k) + dist (coreY j) (coreY k),
    dist (coreX j / 64) (coreX k / 64) + dist (coreY j / 64) (coreY k / 64) - b2n spine + 64 * b2n spine)

/-- The shorter of two ways, the one with fewer seams of two that are equally long. -/
def shorter (a b : Nat × Nat) : Nat × Nat := if b.1 < a.1 || (b.1 = a.1 && decide (b.2 < a.2)) then b else a

/-- The shortest way between two sets of routers of the mesh without holes; 4,095 hops where a set is empty. -/
def plainWay (a b : List Nat) : Nat × Nat := (a.flatMap fun j => b.map fun k => plainPath j k).foldl shorter (4095, 0)

/-- The shortest way between two sets of routers, its hops and its seams; 4,095 hops where there is none. -/
def wayTo (h : Holes) (a b : List Nat) : Nat × Nat :=
  if h = Holes.reset then plainWay a b
  else (hopsOut h b 4095 0 a ((a.foldl (fun t k => Tbl.put t k 0) []))).getD (4095, 0)

def portRouters (cl : Nat) : List Nat := [27, 28, 35, 36].map (cl * 64 + ·)
def hubRouters (h : Nat) : List Nat := (List.range 32).map fun i => coreAt (304 + i) (511 + h)
def opticalRouters (oe : Nat) : List Nat :=
  let xs := opticalXs oe
  ((List.range 8).map fun i => [coreAt xs.1 (64 * opticalRow oe + 28 + i), coreAt xs.2 (64 * opticalRow oe + 28 + i)]).flatten

/-- The dies of a direction in service: those of a half that is out serve none (R34, R274). -/
def diesOf (s : State) (dir : Nat) : List Nat := (opticalDies dir).filter fun oe => (getHalf s (if oe < 24 then 0 else 1)).inService

/-- The holes of the Distance Table by which frames that belong to no partition are routed: that of the lowest partition that has one
(DESIGN CHOICE, log 140). -/
def tableHoles (s : State) : Holes := match s.parts.find? fun q => q.2.dist ≠ DistTable.reset with | some q => q.2.dist.holes | none => holesOf s

/-- The die of a direction with the lowest HOPS from a set of routers, the lower number on a tie (R275, R277). -/
def nearestOptical (s : State) (h : Holes) (dir : Nat) (from_ : List Nat) : Nat :=
  let l := (diesOf s dir).map fun o => (o, (wayTo h from_ (opticalRouters o)).1)
  ((l.foldl (fun (b : Option (Nat × Nat)) x => match b with
    | none => some x
    | some y => if x.2 < y.2 then some x else b) none).map (·.1)).getD ((opticalDies dir).getD 0 0)

/-- The die by which a frame that starts at an optical die leaves for a panel: of the first direction of its way (R275). -/
def exitFrom (s : State) (oe dst : Nat) : Nat :=
  match torusDir s.sys.panel dst with
  | some d => nearestOptical s (tableHoles s) d (opticalRouters oe)
  | none => oe

/-! ### The banks that the hub computes (R211, R218, R219, R224, R228) -/

/-- Does a half come back in the epoch change under way (R449 step 5)? -/
def halfEnters (s : State) (h : Nat) : Bool := s.boot.halfPhase = 12 && s.boot.half.any fun x => x.1 = h

/-- The bank that the hub computes from the partitions, the redundancy map and the trained links. -/
def hubBank (s : State) : Bank :=
  { parts := Tbl.map s.parts fun _ q =>
      { sites := q.sites, numbering := q.numbering, mcast := (match q.map with | some m => m.mcast | none => [])
        circuits := match q.map with | some m => m.circuits | none => [] }
    holes := holesOf s
    unreach := (List.range 160).filter fun d => (getDie s d).dark || (getDie s d).fenced || !(halfServes s d || halfEnters s (d / 80)) }

/-- Hops from a router to the nearest router of a site or of a cluster. -/
def hopsToAny (h : Holes) (k : Nat) (near : Nat → Bool) : Nat → Nat → List Nat → Tbl Nat → Option Nat
  | 0, _, _, _ => none
  | fuel + 1, n, seen, layer =>
    if layer.any fun x => near x.1 then some n
    else if layer = [] then none
    else
      let l := nextLayer h seen layer
      hopsToAny h k near fuel (n + 1) (seen ++ l.map (·.1)) l

/-- The route entry that the hub gives a router for a target: 5 where the target cannot be reached; 0 where the mesh has no hole, or the
coordinate rule's first direction `d` lies on a shortest way; else the first direction that does. `near` says which routers are the
target's. DESIGN CHOICE (log 116): the spec does not say how the hub finds the way round a hole. -/
def entryFor (h : Holes) (k : Nat) (near : Nat → Bool) (d : Option Nat) : Nat :=
  if h = Holes.reset then 0
  else
    let hops (j : Nat) := hopsToAny h j near 4095 0 [j] [(j, 0)]
    match hops k with
    | none => 5
    | some n =>
      let good := (List.range 4).filter fun o => (h.link k o).any fun j => hops j = some (n - 1)
      if n = 0 || d.any (good.contains ·) then 0 else (good.head?.map (· + 1)).getD 5

end Sys2Proof.Machine
end

