-- ==== Sys2Proof/Machine/Transfer.lean ====
section
/-! DEFINITION. Transfers between the scratchpad and memory outside the core: the instructions' checks and the requests they hand to
the cluster's controller (R99 to R103, R170 to R178, R204, R213, R277, R303). -/

namespace Sys2Proof.Machine

/-! ### What a controller knows of handles and windows -/

/-- The descriptor that the controller of cluster `cl` holds of a handle (R172). -/
def handleAt (s : State) (p h cl : Nat) : Handle :=
  let q := getPart s p
  match Tbl.find (Tbl.get q.lags h []) cl with
  | some d => d
  | none => Tbl.get q.handles h Handle.reset

def Handle.lines (h : Handle) : Nat := h.linesM1.toNat + 1

/-- Number of a partition's map handles, M (R171). -/
def mapM (q : Partition) : Nat := match q.map with | some m => m.m | none => 0

/-- Is the handle of the pool from which the Ledger binds KV handles (R171, R203)? With a map loaded no command binds one (R325). -/
def isKv (s : State) (p h : Nat) : Bool := (getPart s p).map.isSome && decide (mapM (getPart s p) ≤ h)

/-- The home channel of a partition's KV handles: cluster 0 of its die 0 (R203). -/
def homeCluster (s : State) (p : Nat) : Nat := (getPart s p).sites.getD 0 0 * 64

/-- The cluster whose channel a KIND 0 handle names; a KV handle reaches the issuing core's own (R204). -/
def handleCluster (s : State) (p h : Nat) (d : Handle) (own : Nat) : Nat :=
  if isKv s p h then own else (getPart s p).sites.getD d.die.toNat 0 * 64 + d.cluster.toNat

/-- Line of the channel, or of the named core's scratchpad, at an offset in lines. -/
def handleLine (d : Handle) (off : Nat) : Nat := if d.kind then d.start.toNat + off else 64 * d.start.toNat + off

def Window.lines (w : Window) : Nat := w.linesM1.toNat + 1
/-- Bits `[128+lo+n-1 : 128+lo]` of a window descriptor. -/
def Window.fld (w : Window) (lo n : Nat) : Nat := field w.hi.toNat lo n

def getWindow (s : State) (p w : Nat) : Window := Tbl.get (getPart s p).windows w Window.reset

/-- The descriptor that the controller of cluster `cl` holds of a window (R172, R177). -/
def windowAt (s : State) (p w cl : Nat) : Window :=
  match Tbl.find (Tbl.get (getPart s p).winLags w []) cl with
  | some d => d
  | none => getWindow s p w

/-- The cluster and channel line of a line of an inbound window; over a KV handle it is the home channel's (R204). -/
def windowLine (s : State) (p win line : Nat) : Nat × Nat :=
  let w := getWindow s p win
  let h := w.fld 0 12
  let d := Tbl.get (getPart s p).handles h Handle.reset
  (handleCluster s p h d (homeCluster s p), handleLine d (w.fld 32 20 + line))

/-- The inbound window as the controller of the channel behind it holds it. -/
def inboundAt (s : State) (p win : Nat) : Window := windowAt s p win (windowLine s p win 0).1

/-! ### Inbound windows (R178) -/

/-- Who asks: a session by RoCEv2 or by a guest rule, or a partition of a panel. -/
inductive Source where
  | session (n : Nat)
  | panel (num part : Nat)
  deriving DecidableEq, Repr

/-- The panel fence covers every window: the safe state, or a panel reset that has not ended. -/
def panelFenced (s : State) : Bool := s.state = .safe || s.state = .safeNoId

/-- Check 5 of Table 7-8. -/
def Window.permits (w : Window) (src : Source) : Bool :=
  match src with
  | .session n => (w.fld 64 16).testBit n
  | .panel num part => decide (w.fld 80 10 ≤ num) && decide (num ≤ w.fld 96 10) && (w.fld 112 16).testBit part

/-- The first failing check of Table 7-8, for `len` bytes from byte offset `off`; without `gen` check 3 does not apply. -/
def inboundRefusal (s : State) (p win : Nat) (gen : Option (BitVec 16)) (src : Source) (write : Bool) (off len : Nat) : Option Status :=
  let w := inboundAt s p win
  if panelFenced s ∨ (getPart s p).fenced ∨ (win ≤ 255 ∧ w.state = 2) then some stFenced
  else if win > 255 ∨ w.outbound ∨ w.state ≠ 1 then some stBadArgument
  else if gen.any (· ≠ w.gen) then some stBadArgument
  else if w.expiry ≠ 0 ∧ w.expiry ≤ s.tally then some stBadArgument
  else if !w.permits src then some stBadArgument
  else if !(w.dir.getLsbD (if write then 0 else 1)) then some stBadArgument
  else if off % 64 ≠ 0 ∨ len % 64 ≠ 0 ∨ 64 * w.lines < off + len then some stBadArgument
  else none

/-- The checks again, for one line of a transfer between partitions of this panel (R180). -/
def WinUse.refusal (u : WinUse) (s : State) (write : Bool) : Option Status :=
  inboundRefusal s u.part u.win (some u.gen) (.panel s.sys.panel u.src) write (64 * u.line) 64

/-! ### Requests -/

/-- A core notes a read it has asked for. -/
def expectRead (s : State) (k line lines cnt : Nat) : State :=
  modCore s k fun c => { c with reads := c.reads ++
    [{ line := line, lines := lines, cnt := cnt, ep := 0, tx := 0, ty := 0, tag := none, left := lines }] }

/-- A core notes a write it has asked for. -/
def expectWrite (s : State) (k line lines cnt ep tx ty : Nat) : State :=
  modCore s k fun c => { c with writes := c.writes ++
    [{ line := line, lines := lines, cnt := cnt, ep := BitVec.ofNat 2 ep, tx := tx, ty := ty, tag := none, left := lines }] }

/-- Body of READ_REQ and WRITE_REQ (Table 9-7). -/
def reqBody (chLine lines spLine cnt : Nat) : Nat := chLine + 2 ^ 20 * (lines - 1) + 2 ^ 30 * spLine + 2 ^ 40 * cnt

/-- Reads of `lines` channel lines queued at a channel's controller for a core. -/
def queueReads (s : State) (cl line lines x y spLine cnt : Nat) (via : Option WinUse := none) : State :=
  modClu s cl fun u => { u with
    nextArr := u.nextArr + 1
    reads := u.reads ++ (List.range lines).map fun j =>
      { line := line + j, dest := .core (BitVec.ofNat 10 x) (BitVec.ofNat 10 y) (spLine + j) cnt, arr := u.nextArr,
        via := via.map fun w => { w with line := w.line + j } } }

/-- A controller grants the lines of a write: a tag, the job, and WRITE_GRANT to the core (R213). -/
def grantWrite (s : State) (cl x y cnt line lines : Nat) (via : Option WinUse := none) : State :=
  let u := getClu s cl
  let p := portCore cl
  let s := setClu s cl { u with
    nextTag := u.nextTag + 1
    writes := u.writes ++ [{ tag := u.nextTag, x := BitVec.ofNat 10 x, y := BitVec.ofNat 10 y, cnt := cnt, line := line,
                             lines := lines, got := [], start := s.tally, via := via }] }
  sendCtrl s 3 (coreX p) (coreY p) x y (u.nextTag.toNat + 2 ^ 26 * lines)

/-- The lines of a channel asked for a core: its own controller serves them, another's gets READ_REQ (R213). -/
def requestRead (s : State) (k cl chLine lines spLine cnt : Nat) : State :=
  let s := expectRead s k spLine lines cnt
  if cl = clusterOf k then queueReads s cl chLine lines (coreX k) (coreY k) spLine cnt
  else sendCtrl s 1 (coreX k) (coreY k) (coreX (portCore cl)) (coreY (portCore cl)) (reqBody chLine lines spLine cnt)

def requestWrite (s : State) (k cl chLine lines spLine cnt : Nat) : State :=
  let p := portCore cl
  let s := expectWrite s k spLine lines cnt 0 (coreX p) (coreY p)
  if cl = clusterOf k then grantWrite s cl (coreX k) (coreY k) cnt chLine lines
  else sendCtrl s 2 (coreX k) (coreY k) (coreX p) (coreY p) (reqBody chLine lines spLine cnt)

/-- A refused transfer: its lines are counted without being moved (R103, R174). -/
def refuseLines (s : State) (k cnt lines : Nat) (st : Status) : State :=
  sendCountOnly s (clusterOf k) (coreX k) (coreY k) cnt lines st

/-- One line of a KIND 1 read: the named core's transfer engine reads it and sends it, or it is counted with the SPM mark (R174). -/
def sendSpmLine (s : State) (src k srcLine spLine cnt : Nat) : State :=
  let r := spmRead s src (64 * srcLine) 64
  let s := noteRead s src r
  match r.bad with
  | some _ => countOnlyAt (modCore s k (·.readDone cnt (some spLine) 1)) k cnt 1 stEcc true
  | none => emit s (.inject src
      { epoch := s.epoch.cur, hops := 0, payload := BitVec.ofNat 512 r.data,
        hdr := .unicast false (BitVec.ofNat 4 cnt) (BitVec.ofNat 10 spLine) (BitVec.ofNat 10 (coreX k)) (BitVec.ofNat 10 (coreY k)) 0
          false })

/-- The core that a KIND 1 handle names, where it still serves (R174). -/
def namedCore (s : State) (p : Nat) (d : Handle) : Option Nat :=
  match (getPart s p).numbering[d.lcn.toNat]? with
  | some k => if coreFenced s k then none else some k
  | none => none

/-- A handle read of `lines` lines from line `off` of the buffer. -/
def handleRead (s : State) (k p h : Nat) (d : Handle) (off lines spLine cnt : Nat) : State :=
  if d.kind then
    match namedCore s p d with
    | none => refuseLines (expectRead s k spLine lines cnt) k cnt lines stFenced
    | some src => (List.range lines).foldl (fun s j => sendSpmLine s src k (handleLine d (off + j)) (spLine + j) cnt)
        (expectRead s k spLine lines cnt)
  else requestRead s k (handleCluster s p h d (clusterOf k)) (handleLine d off) lines spLine cnt

/-- A handle write: to a channel, or to the named core, whose transfer engine grants a tag (R174). -/
def handleWrite (s : State) (k p h : Nat) (d : Handle) (off lines spLine cnt : Nat) : State :=
  if d.kind then
    match namedCore s p d with
    | none => refuseLines (expectWrite s k spLine lines cnt 3 0 0) k cnt lines stFenced
    | some dst =>
      let s := expectWrite s k spLine lines cnt 3 (coreX dst) (coreY dst)
      let c := getCore s dst
      let g : Grant := { tag := c.nextTag, line := handleLine d off, lines := lines, cnt := cnt, x := BitVec.ofNat 10 (coreX k),
                         y := BitVec.ofNat 10 (coreY k), left := lines }
      let s := setCore s dst { c with nextTag := c.nextTag + 1, grants := c.grants ++ [g] }
      sendCtrl s 3 (coreX dst) (coreY dst) (coreX k) (coreY k) (g.tag.toNat + 2 ^ 26 * lines)
  else requestWrite s k (handleCluster s p h d (clusterOf k)) (handleLine d off) lines spLine cnt

/-! ### Handle transfers -/

/-- Is LEN outside 1 to 768 (R99)? Such a transfer is ILLEGAL_OP, and the ranges that LEN would give are not looked at (DEDUCED, log 99). -/
def lenBad (lines : Nat) : Bool := lines = 0 || decide (768 < lines)

/-- Faults of the form of a transfer, of the addressing mode where `mode` says that it does not admit the instruction, and of the scratchpad
range (R93, R99, R101); R15 ranks them. -/
def transferForm (x : Ctx) (mode : Bool) (off sp lines : Nat) : List FaultRec :=
  (if mode ∨ off % 64 ≠ 0 ∨ sp % 64 ≠ 0 ∨ lenBad lines then [fIllegal x.pc] else []) ++
    if lenBad lines then [] else boundFault sp (64 * lines)

/-- The handle check of R102 for a range of `n` bytes from byte offset `off`, where there is one to look at. Base-bound addressing admits no
handle to check (R101). CORE.FAULTADDR takes the offset the range begins at (DEDUCED, log 92). -/
def handleFault (s : State) (x : Ctx) (k : Nat) (h : Word) (off : Nat) (n : Option Nat) (wr : Bool) : List FaultRec :=
  if x.bb then []
  else match partOfCore s k with
    | none => [fHandle off]
    | some p =>
      let d := handleAt s p h.toNat (clusterOf k)
      if h.toNat > 4095 ∨ d.state ≠ 1 ∨ (wr ∧ !d.wr) ∨ n.any (fun n => decide (64 * d.lines < off + n)) then [fHandle off] else []

/-- The bytes that LEN lines cover, where LEN is legal. -/
def lenBytes (lines : Nat) : Option Nat := if lenBad lines then none else some (64 * lines)

/-- HLD and HST. `opc` is the opcode kept while the instruction waits for an operand range. -/
def bodyHandle (wr : Bool) (i : Issue) (s : State) (x : Ctx) : Res :=
  let k := i.core
  let h := x.s i.ra
  let off := (x.s i.rb).toNat
  let sp := (x.s i.rc).toNat
  let n := i.fld 0 16
  match transferForm x x.bb off sp n ++ handleFault s x k h off (lenBytes n) wr with
  | [] =>
    let p := (partOfCore s k).getD 0
    let d := handleAt s p h.toNat (clusterOf k)
    if wr then
      -- a buffer in the core's own scratchpad is written like a local destination (R120)
      if d.kind && namedCore s p d = some k && rangeBusy s k (64 * handleLine d (off / 64)) (64 * n) then
        .wait s (.range 0x31 i) .waitEngine
      else .retire (handleWrite s k p h.toNat d (off / 64) n (sp / 64) i.cnt) (nextPc x)
    else if rangeBusy s k sp (64 * n) then .wait s (.range 0x30 i) .waitEngine
    else .retire (handleRead s k p h.toNat d (off / 64) n (sp / 64) i.cnt) (nextPc x)
  | fs => .fault s fs

def execHld (i : Issue) (s : State) : Out := .next (issue Enc.transfer i s (bodyHandle false i))
def execHst (i : Issue) (s : State) : Out := .next (issue Enc.transfer i s (bodyHandle true i))

/-- Selected rows of an HLDR bitmap (R100). -/
def bitmapRows (bits n : Nat) : List Nat := (List.range n).filter fun r => bits.testBit r

/-- HLDR. A bitmap word that reads uncorrectable faults like the source of any other instruction that reads the scratchpad, for want of a line
of its own in Table 7-2 (DESIGN CHOICE, log 131: Table 4-10 lists no such status for HLDR). -/
def bodyHldr (i : Issue) (s : State) (x : Ctx) : Res :=
  let k := i.core
  let h := x.s i.ra
  let off := (x.s i.rb).toNat
  let sp := (x.s i.rc).toNat
  let bm := (x.s i.rd).toNat
  let len := i.fld 0 8
  let n8 := i.fld 8 8
  -- every scratchpad address of Table 4-4 is a multiple of 64, the bitmap's too (log 100)
  let form := (if x.bb ∨ off % 64 ≠ 0 ∨ sp % 64 ≠ 0 ∨ bm % 64 ≠ 0 ∨ len = 0 ∨ n8 = 0 then [fIllegal x.pc] else []) ++ boundFault bm n8
  -- the bitmap is read where its bytes lie in the scratchpad
  let r := if boundFault bm n8 = [] then spmRead s k bm n8 else { data := 0, bad := none, ce := [] }
  let u := noteRead s k r
  let rows := if r.bad.isSome then [] else bitmapRows r.data (8 * n8)
  let top := match rows.getLast? with | some t => 64 * ((t + 1) * len) | none => 1
  let spm := if rows = [] then [] else boundFault sp (64 * len * rows.length)
  match form ++ (match r.bad with | some w => [fSpmUe w] | none => []) ++ spm ++ handleFault s x k h off (some top) false with
  | [] =>
    if rows ≠ [] ∧ rangeBusy s k sp (64 * len * rows.length) then .wait s (.range 0x32 i) .waitEngine
    else
      let p := (partOfCore s k).getD 0
      let d := handleAt s p h.toNat (clusterOf k)
      .retire (((List.range rows.length).zip rows).foldl (fun s (j, t) =>
        handleRead s k p h.toNat d (off / 64 + t * len) len (sp / 64 + j * len) i.cnt) u) (nextPc x)
  | fs => .fault (if r.bad.isSome then u else s) fs

def execHldr (i : Issue) (s : State) : Out := .next (issue { Enc.transfer with d := true } i s (bodyHldr i))

/-! ### Base-bound transfers (R63, R101) -/

/-- Is a line at byte offset `off` permitted (R63)? -/
def bbPermits (x : Ctx) (off : Nat) : Bool :=
  x.boundEn && decide (off + 64 ≤ 64 * x.limit.toNat) && decide (64 * x.base.toNat + off + 64 ≤ 2 ^ 26)

/-- The first line of a base-bound transfer that is not permitted. -/
def bbFault (x : Ctx) (off n : Nat) : List FaultRec :=
  match (List.range n).find? fun j => !bbPermits x (off + 64 * j) with
  | some j => [fBound 1 (off + 64 * j)]
  | none => []

def bodyBase (wr : Bool) (i : Issue) (s : State) (x : Ctx) : Res :=
  let k := i.core
  let off := (x.s i.rb).toNat
  let sp := (x.s i.rc).toNat
  let n := i.fld 0 16
  match transferForm x (!x.bb) off sp n ++ (if !x.bb || lenBad n then [] else bbFault x off n) with
  | [] =>
    let ch := x.base.toNat + off / 64
    if wr then .retire (requestWrite s k (clusterOf k) ch n (sp / 64) i.cnt) (nextPc x)
    else if rangeBusy s k sp (64 * n) then .wait s (.range 0x33 i) .waitEngine
    else .retire (requestRead s k (clusterOf k) ch n (sp / 64) i.cnt) (nextPc x)
  | fs => .fault s fs

def execBld (i : Issue) (s : State) : Out := .next (issue { Enc.transfer with a := false } i s (bodyBase false i))
def execBst (i : Issue) (s : State) : Out := .next (issue { Enc.transfer with a := false } i s (bodyBase true i))

/-! ### Window transfers (R103, R176, R277, R303) -/

/-- Why an outbound window turns a transfer away, if it does (R103, R176, R178). -/
def windowRefusal (s : State) (p w cl off n : Nat) (put : Bool) : Option Status :=
  let d := windowAt s p w cl
  if (getPart s p).fenced ∨ (w ≤ 255 ∧ d.state = 2) then some stFenced
  else if w > 255 ∨ d.state ≠ 1 ∨ !d.outbound then some stBadArgument
  else if d.expiry ≠ 0 ∧ d.expiry ≤ s.tally then some stBadArgument
  else if !(if put then d.dir.getLsbD 0 else d.dir.getLsbD 1) then some stBadArgument
  else if off / 64 + n > d.lines then some stBadArgument
  else if d.target ∧ !put then some stBadArgument
  else if d.target ∧ !((Tbl.find s.sessions (d.fld 0 4)).any fun t => t.est && t.qp.any fun q => !q.error) then some stBadArgument
  else none

/-- Lines of a WPUT read from the scratchpad: the readable lines in order, and how many were uncorrectable. -/
def sourceLines (s : State) (k line : Nat) : Nat → State × List (Nat × Line) × Nat
  | 0 => (s, [], 0)
  | n + 1 =>
    let (s, l, bad) := sourceLines s k line n
    let r := spmRead s k (64 * (line + n)) 64
    let s := noteRead s k r
    match r.bad with
    | some _ => (s, l, bad + 1)
    | none => (s, l ++ [(n, BitVec.ofNat 512 r.data)], bad)

/-- The panel's RDMA WRITE of one run of lines on a session's queue pair (R296, R303). Over a port that is down, and in the safe state, none
is issued: it goes out when the transport sends it again (R32, R306). -/
def rdmaSend (s : State) (sess : Nat) (imm : Option (BitVec 32)) (va : Word) (rkey : BitVec 32) (payload : Bytes) (x y cnt lines : Nat) :
    State :=
  match Tbl.find s.sessions sess with
  | some t =>
    match t.qp with
    | some q =>
      let packets := Nat.max 1 (ceilDiv payload.length 4096)
      let w : QpWrite := { psn := q.sendPsn, packets := packets, imm := imm, va := va, rkey := rkey, payload := payload,
                           x := BitVec.ofNat 10 x, y := BitVec.ofNat 10 y, cnt := cnt, lines := lines }
      let q := { q with sendPsn := q.sendPsn + BitVec.ofNat 24 packets, out := q.out ++ [w] }
      let s := { s with sessions := Tbl.put s.sessions sess { t with qp := some q } }
      if portAlive s q.port && !panelFenced s then emit s (.rdma sess w (roceHead s sess)) else s
    | none => s
  | none => s

/-- A transfer whose far window is one of this panel's own: the whole request is checked at that window, and its lines then go between the
core and the channel behind it, each checked again there (R178, R180, R239; log 42). `note ep x y` is the state with the core waiting. -/
def ownPanel (note : Nat → Nat → Nat → State) (k p : Nat) (d : Window) (off n spLine cnt : Nat) (put : Bool) : State :=
  let s := note 0 0 0
  let far := d.fld 12 4
  let win := d.fld 16 8
  match inboundRefusal s far win (some d.farGen) (.panel s.sys.panel p) put (64 * off) (64 * n) with
  | some st => refuseLines s k cnt n st
  | none =>
    let (cl, line) := windowLine s far win off
    let via : WinUse := { part := far, win := win, gen := d.farGen, src := p, line := off }
    if put then
      grantWrite (note 0 (coreX (portCore cl)) (coreY (portCore cl))) cl (coreX k) (coreY k) cnt line n (some via)
    else queueReads s cl line n (coreX k) (coreY k) spLine cnt (some via)

def bodyWindow (put : Bool) (i : Issue) (s : State) (x : Ctx) : Res :=
  let k := i.core
  let w := (x.s i.ra).toNat
  let off := (x.s i.rb).toNat
  let sp := (x.s i.rc).toNat
  let n := i.fld 0 16
  match transferForm x (x.bb || (partOfCore s k).isNone) off sp n with
  | [] =>
    let p := (partOfCore s k).getD 0
    if !put && rangeBusy s k sp (64 * n) then .wait s (.range 0x36 i) .waitEngine
    else
      let note (s : State) (ep tx ty : Nat) : State :=
        if put then expectWrite s k (sp / 64) n i.cnt ep tx ty else expectRead s k (sp / 64) n i.cnt
      match windowRefusal s p w (clusterOf k) off n put with
      | some st => .retire (refuseLines (note s 1 0 0) k i.cnt n st) (nextPc x)
      | none =>
        let d := windowAt s p w (clusterOf k)
        if d.target then
          -- a host: one RDMA WRITE per run of readable source lines (R303); each line counts when the host acknowledges it
          let (u, l, bad) := sourceLines (note s 2 0 0) k (sp / 64) n
          let u := if bad = 0 then u else countOnlyAt u k i.cnt bad stEcc true
          .retire (l.foldl (fun u (j, v) => rdmaSend u (d.fld 0 4) none (BitVec.ofNat 64 (d.fld 64 64 + off + 64 * j))
            (BitVec.ofNat 32 (d.fld 32 32)) (leBytes 64 v.toNat) (coreX k) (coreY k) i.cnt 1) u) (nextPc x)
        else
          match torusDir s.sys.panel (d.fld 0 10) with
          | none => .retire (ownPanel (note s) k p d (off / 64) n (sp / 64) i.cnt put) (nextPc x)
          | some dir =>
            let oe := nearestOptical s (getPart s p).dist.holes dir (portRouters (clusterOf k))
            let (_, ax, ay) := opticalNear oe (coreX k) (coreY k)
            let body := w + 2 ^ 8 * (off / 64) + 2 ^ 28 * (n - 1) + 2 ^ 38 * (sp / 64) + 2 ^ 48 * i.cnt
            .retire (sendCtrl (note s 1 ax ay) (if put then 0x10 else 0x11) (coreX k) (coreY k) ax ay body) (nextPc x)
  | fs => .fault s fs

def execWput (i : Issue) (s : State) : Out := .next (issue Enc.transfer i s (bodyWindow true i))
def execWget (i : Issue) (s : State) : Out := .next (issue Enc.transfer i s (bodyWindow false i))

end Sys2Proof.Machine
end

