-- ==== Sys2Proof/Machine/Fabric.lean ====
section
/-! DEFINITION. Sends, arrival counters and the packets that reach a core (R94 to R98, R104, R105, R211 to R213, R220, R222, R227). -/

namespace Sys2Proof.Machine

/-! ### Sends -/

/-- Faults of a send's addresses and total (R104, R211). -/
def sendFaults (i : Issue) (x : Ctx) : List FaultRec :=
  let sp := (x.s i.rb).toNat
  let dp := (x.s i.rc).toNat
  (if sp % 64 ≠ 0 ∨ dp % 64 ≠ 0 ∨ (i.bit 20 ∧ field (x.s i.rd).toNat 0 16 = 0) then [fIllegal x.pc] else [])
    ++ boundFault sp 64 ++ boundFault dp 64

/-- The total that travels with LAST. -/
def sendTotal (i : Issue) (x : Ctx) : BitVec 16 := if i.bit 20 then (x.s i.rd).setWidth 16 else 0

/-- The fields a send uses: D only with LAST (R87). -/
def encSend (i : Issue) : Enc := { Enc.none with a := true, b := true, c := true, d := i.bit 20, imm := 0x1F0000 }

/-- The source line is read and `mk` makes the packets that wait at the router's injection input. -/
def sendWith (i : Issue) (s : State) (x : Ctx) (mk : Line → List DataPacket) : Res :=
  let k := i.core
  let r := spmRead s k (x.s i.rb).toNat 64
  let t := noteRead s k r
  match r.bad with
  | some w => .fault t [fSpmUe w]
  | none =>
    let ps := mk (BitVec.ofNat 512 r.data)
    .wait (modCore t k fun c => { c with inj := c.inj ++ ps.map fun p => (i.ctx, p) }) (.accept ps.length) .waitFabric

/-- A packet as a core injects it: the epoch in force and no hops (R228). -/
def mkData (s : State) (h : DataHdr) (v : Line) : DataPacket := { epoch := s.epoch.cur, hops := 0, hdr := h, payload := v }

/-- A unicast header to a physical core. -/
def hdrTo (i : Issue) (x : Ctx) (dst : Nat) : DataHdr :=
  .unicast (i.bit 20) (BitVec.ofNat 4 i.cnt) (BitVec.ofNat 10 ((x.s i.rc).toNat / 64)) (BitVec.ofNat 10 (coreX dst))
    (BitVec.ofNat 10 (coreY dst)) (sendTotal i x) false

def bodySend (i : Issue) (s : State) (x : Ctx) : Res :=
  let k := i.core
  let dst := translate s k (x.s i.ra).toNat
  match (if dst.isNone then [fIllegal x.pc] else []) ++ sendFaults i x with
  | [] =>
    let d := dst.getD 0
    if d = k ∧ rangeBusy s k (x.s i.rc).toNat 64 then .wait s (.range 0x40 i) .waitEngine
    else sendWith i s x fun v => [mkData s (hdrTo i x d) v]
  | fs => .fault s fs

def execSend (i : Issue) (s : State) : Out := .next (issue (encSend i) i s (bodySend i))

/-- What the bank of an epoch holds at a router for the partition of its site (R228). -/
def bankPart (s : State) (k : Nat) (e : Bool) : Option BankPart := (bankOf s e).at_ (siteOf k)

/-- The multicast descriptors of the bank of an epoch at a router (R219, R228). -/
def mcastAt (s : State) (k : Nat) (e : Bool) (m : Nat) : Option (BitVec 128) := (bankPart s k e).bind fun q => q.mcast[m]?

/-- The index of the descriptor equal to 16 bytes, if the bank in force holds one (R220). -/
def mcastMatch (s : State) (k : Nat) (d : BitVec 128) : Option Nat :=
  (List.range 16).find? fun m => mcastAt s k s.epoch.cur m = some d

/-- Die-phase header of MSEND (R220). -/
def mcastHdr (note : Bool) (cnt line m : Nat) (d : BitVec 128) : DataHdr :=
  let f (lo : Nat) := field d.toNat lo 10
  .mcastDie note (BitVec.ofNat 4 cnt) (BitVec.ofNat 10 line) (BitVec.ofNat 4 (f 20 / 64)) (BitVec.ofNat 4 (f 30 / 64))
    (BitVec.ofNat 4 (f 0 / 64)) (BitVec.ofNat 4 (f 10 / 64)) (BitVec.ofNat 4 m) 0

/-- Is the core a destination of descriptor `d`, by the logical numbering of the bank of an epoch (R219, R228)? -/
def mcastDest (s : State) (e : Bool) (d k : Nat) : Bool :=
  let x := coreX k
  let y := coreY k
  decide (field d 0 10 ≤ x) && decide (x ≤ field d 10 10) && decide (field d 20 10 ≤ y) && decide (y ≤ field d 30 10) &&
  (x - field d 0 10) % 2 ^ field d 40 3 == 0 && (y - field d 20 10) % 2 ^ field d 43 3 == 0 &&
  (!d.testBit 46 || d.testBit (64 + clusterOf k % 64)) &&
  (match bankPart s k e with | some q => q.numbering.contains k | none => false)

def bodyMsend (i : Issue) (s : State) (x : Ctx) : Res :=
  let k := i.core
  let a := (x.s i.ra).toNat
  match sendFaults i x ++ boundFault a 16 with
  | [] =>
    let r := spmRead s k a 16
    let t := noteRead s k r
    match r.bad with
    | some w => .fault t [fSpmUe w]
    | none =>
      let d := BitVec.ofNat 128 r.data
      match mcastMatch s k d with
      | none => illegal t x
      | some m =>
        if mcastDest s s.epoch.cur d.toNat k && rangeBusy s k (x.s i.rc).toNat 64 then .wait s (.range 0x41 i) .waitEngine
        else
          let line := (x.s i.rc).toNat / 64
          sendWith i t x fun v =>
            mkData s (mcastHdr false i.cnt line m d) v ::
              (if i.bit 20 then [mkData s (mcastHdr true i.cnt line m d) (BitVec.ofNat 512 (sendTotal i x).toNat)] else [])
  | fs => .fault s fs

def execMsend (i : Issue) (s : State) : Out := .next (issue (encSend i) i s (bodyMsend i))

/-- The slot entry of a router, slot and output in the bank of an epoch, which holds the map's circuits (R224). -/
def slotAt (s : State) (k : Nat) (e : Bool) (slot out : Nat) : Slot :=
    let cs := match bankPart s k e with | some q => q.circuits | none => []
    match cs.find? fun c => c.x = coreX k ∧ c.y = coreY k ∧ c.slot = slot ∧ c.out = out with
    | some c => { state := if c.kind = 0 then 1 else 2, inp := BitVec.ofNat 3 c.inp, circ := BitVec.ofNat 10 c.circ }
    | none => { state := 0, inp := 0, circ := 0 }

/-- Does the router inject circuit `c` from input `inp` in a slot (R227)? -/
def injectsIn (s : State) (k : Nat) (e : Bool) (inp c slot : Nat) : Bool :=
  (List.range 6).any fun o =>
    let v := slotAt s k e slot o
    v.state = 1 && v.inp.toNat = inp && v.circ.toNat = c

/-- Does circuit `c` deliver to the router's own core in a slot (R226)? -/
def deliversIn (s : State) (k : Nat) (e : Bool) (c slot : Nat) : Bool :=
  let v := slotAt s k e slot 4
  v.state = 1 && v.circ.toNat = c

def bodyCsend (i : Issue) (s : State) (x : Ctx) : Res :=
  let k := i.core
  let c := (x.s i.ra).toNat
  let ok := (List.range 16).any (injectsIn s k s.epoch.cur 4 c)
  match (if !ok then [fIllegal x.pc] else []) ++ sendFaults i x with
  | [] =>
    if (List.range 16).any (deliversIn s k s.epoch.cur c) && rangeBusy s k (x.s i.rc).toNat 64 then .wait s (.range 0x42 i) .waitEngine
    else sendWith i s x fun v =>
      [mkData s (.unicast (i.bit 20) (BitVec.ofNat 4 i.cnt) (BitVec.ofNat 10 ((x.s i.rc).toNat / 64)) (BitVec.ofNat 10 c) 0
        (sendTotal i x) true) v]
  | fs => .fault s fs

def execCsend (i : Issue) (s : State) : Out := .next (issue (encSend i) i s (bodyCsend i))

/-- CABORT: an ABORT packet to the named core; the instruction does not wait (R105). -/
def execCabort (i : Issue) (s : State) : Out :=
  .next (issue { Enc.none with a := true, b := true } i s fun s x =>
    let k := i.core
    match translate s k (x.s i.ra).toNat with
    | none => illegal s x
    | some d => .retire (sendCtrl s 8 (coreX k) (coreY k) (coreX d) (coreY d) (field (x.s i.rb).toNat 0 16)) (nextPc x))

/-! ### Arming and waiting (R95, R97) -/

/-- Timeout of ARM in nanoseconds: 100 µs where TMO is 0 (Table 4-3). -/
def armNs (i : Issue) : Nat :=
  let t := i.fld 20 8
  if t = 0 then 100000 else if i.bit 28 then t * 1000000 else t * 1000

def execArm (i : Issue) (s : State) : Out :=
  .next (issue { Enc.none with a := true, imm := 0x1FFF0000 } i s fun s x =>
    let k := i.core
    let c := getCore s k
    let v := c.cnt i.cnt
    if v.armed then illegal s x
    else
      let total := (x.s i.ra).setWidth 16
      .retire (setCore s k (c.setCnt i.cnt { v with
        armed := true, owner := i.ctx, discard := false, total := if total = 0 then v.total else total,
        deadline := dieTally s (siteOf k) + BitVec.ofNat 64 (armNs i) })) (nextPc x))

def execWaitc (i : Issue) (s : State) : Out :=
  .next (issue { Enc.none with d := true, imm := 0xF0000 } i s fun s x =>
    if !((getCore s i.core).cnt i.cnt).armed then illegal s x else .wait s (.counter i.cnt i.rd) .waitFabric)

/-- Has the counter an error mark (case 2 of R97)? -/
def Counter.ue (v : Counter) : Bool := v.ueDram || v.ueSpm
/-- Case 1 of R97. -/
def Counter.full (v : Counter) : Bool := v.total ≠ 0 && decide (v.total.toNat ≤ v.count.toNat) && !v.ue

/-- What a context that waits in WAITC waits for. -/
def waitcOf (s : State) (k n : Nat) : Option (Nat × Nat) :=
  let x := getCtx s k n
  match x.wait with
  | .counter c d => if x.state = .waitFabric then some (c, d) else none
  | _ => none

/-- Case 1: the status goes to sD, the count keeps what lies beyond TOTAL, and the counter is free for the next round. -/
def execWaitcComplete (core ctx : Nat) (s : State) : Out :=
  .next (match waitcOf s core ctx with
    | none => s
    | some (n, rd) =>
      let c := getCore s core
      let v := c.cnt n
      if !v.full then s
      else
        let x := c.ctx ctx
        let c := c.setCnt n { v with count := v.count - v.total.setWidth 32, total := 0, status := stOk, armed := false }
        let t := setCore s core (c.setCtx ctx (x.setS rd (v.status.setWidth 64)))
        settle s core ctx (.retire t (nextPc x)))

/-- The faults of case 2, with the free value that stands for their address. -/
def Counter.ueFaults (v : Counter) (w : Word) : List FaultRec :=
  (if v.ueDram then [fNoAddr stEcc 0x08 w] else []) ++ (if v.ueSpm then [fNoAddr stEcc 0x04 w] else [])

/-- The fault that ends a context's WAITC now, if one does: case 2, else case 3. -/
def waitcFault (s : State) (core ctx : Nat) : Option (List FaultRec) :=
  (waitcOf s core ctx).bind fun (n, _) =>
    let v := (getCore s core).cnt n
    if v.ue then some (v.ueFaults (freeWord s))
    else if v.full || dieTally s (siteOf core) < v.deadline then none
    else some [fNoAddr stTimeout 0x40 (freeWord s)]

/-- The wait of a context ends without its instruction's retiring, by what `t` has pending for it; a WAITC whose error mark or deadline ends its
wait now decides (R123). -/
def endWait (s t : State) (k n : Nat) : State :=
  match waitcFault s k n with
  | some fs => retirePoint (bumpFree t) k n fs t
  | none => retirePoint t k n [] t

/-- Case 2. -/
def execWaitcUeFault (core ctx : Nat) (s : State) : Out :=
  .next (match waitcOf s core ctx with
    | none => s
    | some (n, _) =>
      let v := (getCore s core).cnt n
      if !v.ue then s else settle s core ctx (.fault (bumpFree s) (v.ueFaults (freeWord s))))

/-- Case 3, tested after the others. -/
def execArrivalDeadlineExpiry (core ctx : Nat) (s : State) : Out :=
  .next (match waitcOf s core ctx with
    | none => s
    | some (n, _) =>
      let v := (getCore s core).cnt n
      if v.ue || v.full || dieTally s (siteOf core) < v.deadline then s
      else settle s core ctx (.fault (bumpFree s) [fNoAddr stTimeout 0x40 (freeWord s)]))

/-! ### Lines and notices that arrive -/

/-- A task one of whose counters has counted another core's line is not relaunched (R409). -/
def markForeign (s : State) (k cnt : Nat) : State :=
  let v := (getCore s k).cnt cnt
  if v.armed then modCtx s k v.owner fun x => { x with launch := x.launch.map fun l => { l with foreign := true } } else s

/-- Is a line one that the core itself has asked for, or a stream's? -/
def ownLine (s : State) (k cnt line : Nat) (circ : Option Nat) : Bool :=
  (getCore s k).reads.any (fun x => decide (x.cnt = cnt) && decide (x.line ≤ line) && decide (line < x.line + x.lines)) ||
  (match circ with
   | some c => ((partOfCore s k).bind fun p => (getPart s p).map).any fun q => q.streams.any fun e => e.circ = c
   | none => false)

/-- A line is written at the core and then counted (R94, R96); a counter that discards drops it (R98). -/
def arriveLine (s : State) (k cnt line : Nat) (v : Line) (last : Option (BitVec 16)) (own : Bool) : State :=
  let s1 := modCore s k (·.readDone cnt (some line) 1)
  if line ≥ 768 then s
  else if ((getCore s k).cnt cnt).discard then discardLine s1 k 1
  else
    let s2 := spmArrive s1 k line v
    let s3 := if own then s2 else markForeign s2 k cnt
    modCore s3 k fun c =>
      let n := (c.cnt cnt).add 1
      c.setCnt cnt (match last with | some t => n.last t | none => n)

def execLineArrival (core : Nat) (p : DataPacket) (s : State) : Out :=
  .next (match p.hdr with
    | .unicast flag cnt line dx _ total circ =>
      let own := ownLine s core cnt.toNat line.toNat (if circ then some dx.toNat else none)
      arriveLine s core cnt.toNat line.toNat p.payload (if flag then some total else none) own
    | .mcastCore flag cnt line _ _ _ _ _ _ _ =>
      if flag then s else arriveLine s core cnt.toNat line.toNat p.payload none false
    | _ => s)

/-- A NOTE acts on the counter under R96 and is neither counted nor written (R222). -/
def execNote (core : Nat) (p : DataPacket) (s : State) : Out :=
  .next (match p.hdr with
    | .mcastCore flag cnt _ _ _ _ _ _ _ _ =>
      let v := (getCore s core).cnt cnt.toNat
      if flag && !v.discard then modCore s core fun c => c.setCnt cnt.toNat (v.last (p.payload.setWidth 16)) else s
    | _ => s)

/-- COMMIT: committed lines are counted (R213). -/
def execCommit (core : Nat) (p : CtrlPacket) (s : State) : Out :=
  .next (if p.ctype ≠ 4 then s
    else
      let n := field p.body.toNat 4 10
      let cnt := field p.body.toNat 0 4
      countOnlyAt (modCore s core (·.writeDone cnt n)) core cnt n stOk false)

/-- COUNT_ONLY: lines counted without data, with their status (R94, R103, R213). -/
def execCountOnly (core : Nat) (p : CtrlPacket) (s : State) : Out :=
  .next (if p.ctype ≠ 5 then s
    else
      let n := field p.body.toNat 4 10
      let cnt := field p.body.toNat 0 4
      countOnlyAt (modCore s core (·.countDone cnt n)) core cnt n (BitVec.ofNat 16 (field p.body.toNat 14 16)) false)

/-! ### Grants and tagged lines (R212, R213, R163) -/

/-- A granted line is in, or will not come; a write with every line accounted for is done. -/
def WriteJob.account (w : WriteJob) (seq : Nat) : Option WriteJob :=
  let got := w.got ++ [seq]
  if got.length = w.lines then none else some { w with got := got }

/-- One line fewer is to come under a grant. -/
def Grant.one (g : Grant) : Option Grant := if g.left ≤ 1 then none else some { g with left := g.left - 1 }

/-- The endpoint learns that a granted line is in or will not come. -/
def forgetSeq (s : State) (ep : BitVec 2) (x y : Nat) (tag : BitVec 16) (seq : Nat) : State :=
  if ep = 0 then
    modClu s (clusterOf (coreAt x y)) fun u =>
      let ws := u.writes.filterMap fun w => if w.tag = tag then w.account seq else some w
      { u with writes := ws }
  else if ep = 3 then
    modCore s (coreAt x y) fun c =>
      let gs := c.grants.filterMap fun g => if g.tag = tag then g.one else some g
      { c with grants := gs }
  else
    -- tags are the granting die's own: the die is the one whose router the grant came from
    match oeAt x y with
    | none => s
    | some oe =>
      let o := Tbl.get s.optDies oe OptDie.reset
      match Tbl.find o.xfers tag.toNat with
      | none => s
      | some f =>
        if f.get then s
        else
          let left := f.left.filter (· ≠ seq)
          let xs := if left = [] then Tbl.drop o.xfers tag.toNat else Tbl.put o.xfers tag.toNat { f with left := left, at_ := Tbl.drop f.at_ seq }
          { s with optDies := Tbl.put s.optDies oe { o with xfers := xs } }

/-- Source lines of a granted transfer go out as tagged packets; an uncorrectable one is counted with the SPM mark (R163). -/
def sendGranted (s : State) (k : Nat) (ep : BitVec 2) (x y : Nat) (tag : BitVec 16) (w : CoreXfer) (first : Nat) : Nat → State
  | 0 => s
  | n + 1 =>
    let s := sendGranted s k ep x y tag w first n
    let seq := first + n
    let r := spmRead s k (64 * (w.line + seq)) 64
    let s := noteRead s k r
    match r.bad with
    | some _ => forgetSeq (countOnlyAt (modCore s k (·.writeDone w.cnt 1)) k w.cnt 1 stEcc true) ep x y tag seq
    | none => emit s (.inject k
        { epoch := s.epoch.cur, hops := 0, payload := BitVec.ofNat 512 r.data,
          hdr := .tagged ep (BitVec.ofNat 10 x) (BitVec.ofNat 10 y) tag (BitVec.ofNat 10 seq) 0 })

/-- A grant reaches the core: the transfer it names is the one with its tag, else the oldest of that endpoint without one (log 18). -/
def takeGrant (s : State) (k : Nat) (ep : CoreXfer → Bool) (p : CtrlPacket) : State :=
  let tag : BitVec 16 := p.body.setWidth 16
  let x := p.sx.toNat
  let y := p.sy.toNat
  let mine (w : CoreXfer) : Bool := ep w && decide (w.tx = x) && decide (w.ty = y)
  let c := getCore s k
  let pick := match c.writes.find? fun w => mine w && w.tag = some tag with
    | some w => some w
    | none => c.writes.find? fun w => mine w && w.tag.isNone
  match pick with
  | none => s
  | some w =>
    let first := field p.body.toNat 16 10
    let n := Nat.min (field p.body.toNat 26 10) (w.lines - first)
    let s := modCore s k fun c => { c with writes := c.writes.map fun v => if v = w then { v with tag := some tag } else v }
    sendGranted s k w.ep x y tag w first n

def execWriteGrant (core : Nat) (p : CtrlPacket) (s : State) : Out :=
  .next (if p.ctype = 3 then takeGrant s core (fun w => w.ep = 0 || w.ep = 3) p else s)

def execXgrant (core : Nat) (p : CtrlPacket) (s : State) : Out :=
  .next (if p.ctype = 0x12 then takeGrant s core (fun w => w.ep = 1) p else s)

/-- A tagged line at a core's transfer engine (EP 3): written at the line its tag maps to, and counted by whom the grant names. -/
def taggedAtCore (s : State) (k : Nat) (tag : BitVec 16) (seq : Nat) (v : Line) : State :=
  match (getCore s k).grants.find? fun g => g.tag = tag with
  | none => s
  | some g =>
    if seq ≥ g.lines then s
    else
      let s := forgetSeq s 3 (coreX k) (coreY k) tag seq
      if g.x.toNat = coreX k ∧ g.y.toNat = coreY k then arriveLine s k g.cnt (g.line + seq) v none true
      else if coreFenced s k || !inNumbering s k then
        -- the named core has been fenced or has left: the line is counted without being written (R174)
        sendCtrl s 5 (coreX k) (coreY k) g.x.toNat g.y.toNat (countBody g.cnt 1 stFenced.toNat)
      else
        sendCtrl (spmArrive s k (g.line + seq) v) 4 (coreX k) (coreY k) g.x.toNat g.y.toNat (countBody g.cnt 1 0)

/-- A tagged line at a channel port (EP 0): it waits to be committed. -/
def taggedAtChannel (s : State) (cl : Nat) (tag : BitVec 16) (seq : Nat) (v : Line) : State :=
  match (getClu s cl).writes.find? fun w => w.tag = tag with
  | none => s
  | some w =>
    if seq ≥ w.lines ∨ w.got.contains seq then s
    else
      let win := w.via.map fun u => { u with line := u.line + seq }
      let job : CommitJob := { line := w.line + seq, data := v, x := w.x, y := w.y, cnt := w.cnt, arr := (getClu s cl).nextArr, via := win }
      modClu (forgetSeq s 0 (coreX (portCore cl)) (coreY (portCore cl)) tag seq) cl fun u => { u with
        commits := u.commits ++ [job], nextArr := u.nextArr + 1 }

/-- The controller's 50 µs for granted lines end: the missing ones are counted with TIMEOUT (R236). -/
def execTaggedLineTimeout (cl tag : Nat) (s : State) : Out :=
  .next (match (getClu s cl).writes.find? fun w => w.tag.toNat = tag with
    | none => s
    | some w =>
      if now s < w.start.toNat + 50000 then s
      else
        let s := modClu s cl fun u => { u with writes := u.writes.filter fun v => v.tag ≠ w.tag }
        sendCountOnly s cl w.x.toNat w.y.toNat w.cnt (w.lines - w.got.length) stTimeout)

/-- A channel controller receives a read request (R213). -/
def execReadReq (cl : Nat) (p : CtrlPacket) (s : State) : Out :=
  .next (if p.ctype = 1 then
      queueReads s cl (field p.body.toNat 0 20) (field p.body.toNat 20 10 + 1) p.sx.toNat p.sy.toNat (field p.body.toNat 30 10)
        (field p.body.toNat 40 4)
    else s)

/-- A channel controller receives a write request and grants its lines (R213). -/
def execWriteReq (cl : Nat) (p : CtrlPacket) (s : State) : Out :=
  .next (if p.ctype = 2 then
      grantWrite s cl p.sx.toNat p.sy.toNat (field p.body.toNat 40 4) (field p.body.toNat 0 20) (field p.body.toNat 20 10 + 1)
    else s)

end Sys2Proof.Machine
end

