-- ==== Sys2Proof/Machine/Router.lean ====
section
/-! DEFINITION. Routers of the two meshes (09 R207 to R228, R235, R237). Outputs: 0 N, 1 E, 2 S, 3 W, 4 ejection, 5 endpoint; the
express channel's are 8 to 11. -/

namespace Sys2Proof.Machine

/-! ### Checks (R235) -/

/-- One byte into CRC-32C, reflected. -/
def crc32cByte (c b : Nat) : Nat :=
  (List.range 8).foldl (fun c _ => if c % 2 = 1 then (c / 2) ^^^ 0x82F63B78 else c / 2) (c ^^^ b)

def crc32c (l : List Byte) : Nat := (l.foldl (fun c b => crc32cByte c b.toNat) 0xFFFFFFFF) ^^^ 0xFFFFFFFF

/-- One byte into CRC-16, not reflected. -/
def crc16Byte (c b : Nat) : Nat :=
  (List.range 8).foldl (fun c _ => if c.testBit 15 then ((c * 2) % 65536) ^^^ 0x1021 else (c * 2) % 65536) (c ^^^ (b * 256))

def crc16 (l : List Byte) : Nat := l.foldl (fun c b => crc16Byte c b.toNat) 0xFFFF

/-- The 8 bytes of a data header (Tables 9-2 to 9-5). -/
def dataHeader (p : DataPacket) : Nat :=
  let w (l : List (Nat × Nat)) : Nat := l.foldl (fun a f => a + f.1 * 2 ^ f.2) 0
  let common := b2n p.epoch * 4 + p.hops.toNat * 16
  match p.hdr with
  | .unicast f c l x y t k =>
    common + w [(b2n f, 3), (c.toNat, 12), (l.toNat, 16), (x.toNat, 26), (y.toNat, 36), (t.toNat, 46), (b2n k, 62)]
  | .tagged e x y t q g =>
    common + w [(1, 0), (e.toNat, 12), (x.toNat, 14), (y.toNat, 24), (t.toNat, 34), (q.toNat, 50), (g.toNat, 60)]
  | .mcastDie f c l r0 r1 c0 c1 m g =>
    common + w [(2, 0), (b2n f, 3), (c.toNat, 12), (l.toNat, 16), (r0.toNat, 26), (r1.toNat, 30), (c0.toNat, 34), (c1.toNat, 38),
      (m.toNat, 42), (g.toNat, 46)]
  | .mcastCore f c l dr dc u0 u1 v0 v1 m =>
    common + w [(3, 0), (b2n f, 3), (c.toNat, 12), (l.toNat, 16), (dr.toNat, 26), (dc.toNat, 30), (u0.toNat, 34), (u1.toNat, 40),
      (v0.toNat, 46), (v1.toNat, 52), (m.toNat, 58)]

/-- The 16 bytes of a control packet (Table 9-6). -/
def ctrlWord (p : CtrlPacket) : Nat :=
  p.ctype.toNat + 2 ^ 6 * b2n p.epoch + 2 ^ 8 * p.hops.toNat + 2 ^ 16 * p.leg.toNat + 2 ^ 20 * p.dx.toNat + 2 ^ 30 * p.dy.toNat
    + 2 ^ 40 * p.sx.toNat + 2 ^ 50 * p.sy.toNat + 2 ^ 64 * p.body.toNat

def dataCrc (p : DataPacket) : BitVec 32 := BitVec.ofNat 32 (crc32c (leBytes 8 (dataHeader p) ++ leBytes 64 p.payload.toNat))
def ctrlCrc (p : CtrlPacket) : BitVec 16 := BitVec.ofNat 16 (crc16 (leBytes 16 (ctrlWord p)))

/-! ### Links and positions -/

/-- Lanes of a die link (Table 19-4). -/
def dieLanes : Nat := 2048

/-- A flit discarded on the link from the router `n` away on a side, between dies: the 17th of the die link within 1 ms, both directions taken
together, sends every lane to be retrained (R235, R262). -/
def noteDiscard (s : State) (k side n : Nat) : State :=
  match meshStep (coreX k) (coreY k) side n with
  | none => s
  | some (x, y) =>
    let near := 4 * siteOf k + side
    let far := 4 * siteOf (coreAt x y) + (side + 2) % 4
    if siteOf (coreAt x y) = siteOf k then s
    else
      let recent (l : Nat) := (Tbl.get s.links l Link.reset).discards.filter fun t => decide (now s < t.toNat + 1000000)
      let put (s : State) (l : Nat) (ts : List Word) (all : Bool) : State :=
        let x := Tbl.get s.links l Link.reset
        { s with links := Tbl.put s.links l { x with discards := ts, due := if all then List.range dieLanes else x.due } }
      if 16 ≤ (recent near).length + (recent far).length then put (put s near [] true) far [] true
      else put s near (recent near ++ [s.tally]) false

/-- Output directions that bring a packet nearer to a point, the larger remaining distance first, y first on a tie (R216). -/
def productive (x y tx ty : Nat) : List Nat :=
  let h := if tx = x then [] else if x < tx then [1] else [3]
  let v := if ty = y then [] else if y < ty then [0] else [2]
  if dist x tx > dist y ty then h ++ v else v ++ h

/-- Those of the four directions that are not listed, clockwise from the last one listed. -/
def clockwise (l : List Nat) : List Nat :=
  let start := match l.getLast? with | some d => d + 1 | none => 0
  ((List.range 4).map fun i => (start + i) % 4).filter fun d => !l.contains d

/-- Nearest point to a router in the square of side `n` that holds a point. -/
def nearIn (k n tx ty : Nat) : Nat × Nat :=
  (Nat.max (n * (tx / n)) (Nat.min (n * (tx / n) + (n - 1)) (coreX k)), Nat.max (n * (ty / n)) (Nat.min (n * (ty / n) + (n - 1)) (coreY k)))

/-- The route entry of a target at a router in the bank of an epoch: by die if it lies in another die, else by cluster if in another cluster
(R216, R218). -/
def routeEntry (s : State) (k : Nat) (e : Bool) (tx ty : Nat) : Nat :=
  let t := coreAt tx ty
  let b := bankOf s e
  let first (n : Nat) := (productive (coreX k) (coreY k) (nearIn k n tx ty).1 (nearIn k n tx ty).2).head?
  if siteOf t ≠ siteOf k then
    if b.unreach.contains (siteOf t) then 5 else entryFor b.holes k (fun j => siteOf j = siteOf t) (first 64)
  else if clusterOf t ≠ clusterOf k then entryFor b.holes k (fun j => clusterOf j = clusterOf t) (first 8)
  else 0

/-- `pref(p)` for a target point; none when it is unreachable (R216). -/
def pref (s : State) (k : Nat) (e : Bool) (tx ty : Nat) : Option (List Nat) :=
  let d := routeEntry s k e tx ty
  if d = 5 then none
  else
    let first := if 1 ≤ d ∧ d ≤ 4 then [d - 1] else []
    let l := first ++ (productive (coreX k) (coreY k) tx ty).filter fun o => !first.contains o
    some (l ++ clockwise l)

def clamp (a lo hi : Nat) : Nat := Nat.max lo (Nat.min hi a)

/-- The point a packet is routed toward: its destination, or the nearest point of its rectangle (R220, R221). -/
def hdrTarget (h : DataHdr) (x y : Nat) : Nat × Nat :=
  match h with
  | .unicast _ _ _ dx dy _ _ => (dx.toNat, dy.toNat)
  | .tagged _ dx dy _ _ _ => (dx.toNat, dy.toNat)
  | .mcastDie _ _ _ r0 r1 c0 c1 _ _ =>
    let r := clamp (y / 64) r0.toNat r1.toNat
    let c := clamp (x / 64) c0.toNat c1.toNat
    (clamp x (64 * c) (64 * c + 63), clamp y (64 * r) (64 * r + 63))
  | .mcastCore _ _ _ dr dc u0 u1 v0 v1 _ =>
    (clamp x (64 * dc.toNat + u0.toNat) (64 * dc.toNat + u1.toNat), clamp y (64 * dr.toNat + v0.toNat) (64 * dr.toNat + v1.toNat))

/-- Does a packet of the form count legs (R217)? -/
def hdrLeg (h : DataHdr) : Option (BitVec 4) :=
  match h with
  | .tagged _ _ _ _ _ g => some g
  | .mcastDie _ _ _ _ _ _ _ _ g => some g
  | _ => none

def hdrSetLeg (h : DataHdr) (g : BitVec 4) : DataHdr :=
  match h with
  | .tagged e x y t q _ => .tagged e x y t q g
  | .mcastDie f c l r0 r1 c0 c1 m _ => .mcastDie f c l r0 r1 c0 c1 m g
  | h => h

/-- HOPS and LEG of a packet that leaves on a link to router `j` (R217). -/
def leaveOn (k j : Nat) (productiveDir : Bool) (hops : BitVec 8) (leg : Option (BitVec 4)) : BitVec 8 × Option (BitVec 4) :=
  match leg with
  | some g => if g < 15 ∧ siteOf j ≠ siteOf k ∧ productiveDir then (0, some (g + 1)) else (hops + 1, some g)
  | none => (hops + 1, none)

/-- A data packet leaves in a clock on mesh output `o` (R217, R223). -/
def sendFlit (s : State) (k clock o : Nat) (p : DataPacket) : State :=
  let (tx, ty) := hdrTarget p.hdr (coreX k) (coreY k)
  match meshLink s k o 1 with
  | none => s
  | some j =>
    let (h, g) := leaveOn k j ((productive (coreX k) (coreY k) tx ty).contains o) p.hops (hdrLeg p.hdr)
    let p := { p with hops := h, hdr := match g with | some g => hdrSetLeg p.hdr g | none => p.hdr }
    emit s (.flit k o p (clock + linkClocks k j))

/-- Endpoint `ep` of Table 9-4 attaches at the router (R212). -/
def epHere (k ep : Nat) : Bool :=
  let x := coreX k
  let y := coreY k
  match ep with
  | 0 => [27, 28, 35, 36].contains (posOf k)
  | 1 => [127, 128, 319, 320, 511, 512].contains x && decide (28 ≤ y % 64) && decide (y % 64 ≤ 35)
  | 2 => (y = 511 || y = 512) && decide (304 ≤ x) && decide (x ≤ 335)
  | _ => true

/-- The output on which a packet ends here, with the endpoint it is handed to; 4 is the core itself. -/
def endsHere (p : DataPacket) (k : Nat) : Option (Nat × Nat) :=
  match p.hdr with
  | .unicast _ _ _ dx dy _ false => if dx.toNat = coreX k ∧ dy.toNat = coreY k then some (4, 4) else none
  | .tagged ep dx dy _ _ _ =>
    if dx.toNat = coreX k ∧ dy.toNat = coreY k ∧ epHere k ep.toNat then some (if ep = 3 then 4 else 5, ep.toNat) else none
  | _ => none

/-- Does the packet carry a line rather than a notice (Table 9-15)? -/
def isNote (p : DataPacket) : Bool :=
  match p.hdr with
  | .mcastDie f _ _ _ _ _ _ _ _ => f
  | .mcastCore f _ _ _ _ _ _ _ _ _ => f
  | _ => false

/-- A packet handed to the core or an endpoint; a line ejected to the core is counted (R237). -/
def handOver (s : State) (k out ep : Nat) (p : DataPacket) : State :=
  let s := if out = 4 && !isNote p then modClu s (clusterOf k) fun u => { u with ejected := satAdd u.ejected 1 } else s
  emit s (.endpoint k ep p)

/-- The clock of a router command: clocks since mesh alignment, and from them the slot (R223). -/
def clockAt (s : State) (c : RouterClock) : Nat := s.meshHalf / 2 + c.clock

/-- A packet's turn in a router's clock: the clock, the outputs that packets before it take, and the packets on mesh inputs that come after. -/
structure Turn where
  clock : Nat
  stretched : Bool
  used : List Nat
  later : List DataPacket

/-- Is an output free in the turn (R216, R224, R356)? -/
def outFree (s : State) (k : Nat) (t : Turn) (e : Bool) (o : Nat) : Bool :=
  !t.used.contains o && decide ((slotAt s k e (t.clock % 16) o).state = 0) &&
  (if o < 4 then (meshLink s k o 1).isSome else if o = 4 then !t.stretched else true)

/-- The bank of an epoch that is neither in force nor still kept is retired (R229). -/
def epochRetired (s : State) (e : Bool) : Bool := e ≠ s.epoch.cur && s.epoch.kept.isNone

def dropMisc (s : State) (k : Nat) : State := modClu s (clusterOf k) fun u => { u with dropMisc := satAdd u.dropMisc 1 }
def dropHops (s : State) (k : Nat) : State := modClu s (clusterOf k) fun u => { u with dropHops := satAdd u.dropHops 1 }
def dropUnreach (s : State) (k : Nat) : State := modClu s (clusterOf k) fun u => { u with dropUnreach := satAdd u.dropUnreach 1 }
def countDeflect (s : State) (k : Nat) : State := modClu s (clusterOf k) fun u => { u with deflect := satAdd u.deflect 1 }

/-! ### Multicast (R219, R221) -/

/-- Is there a destination of descriptor `d` in the rectangle `[x0, x1] × [y0, y1]`, for the partition of router `k`? -/
def anyDest (s : State) (e : Bool) (k d x0 x1 y0 y1 : Nat) : Bool :=
  match bankPart s k e with
  | none => false
  | some q => q.numbering.any fun j =>
      decide (x0 ≤ coreX j) && decide (coreX j ≤ x1) && decide (y0 ≤ coreY j) && decide (coreY j ≤ y1) && mcastDest s e d j

/-- Copies of a core-phase packet at a router inside its sub-rectangle, those that hold a destination. -/
def coreCopies (s : State) (k d : Nat) (p : DataPacket) : List DataPacket :=
  match p.hdr with
  | .mcastCore f c l dr dc u0 u1 v0 v1 m =>
    let xo := coreX k % 64
    let yo := coreY k % 64
    let parts := (if u0.toNat < xo then [(u0.toNat, xo - 1, v0.toNat, v1.toNat)] else []) ++
      (if xo < u1.toNat then [(xo + 1, u1.toNat, v0.toNat, v1.toNat)] else []) ++
      (if v0.toNat < yo then [(xo, xo, v0.toNat, yo - 1)] else []) ++
      (if yo < v1.toNat then [(xo, xo, yo + 1, v1.toNat)] else [])
    (parts.filter fun (a, b, c, d') => anyDest s p.epoch k d (64 * dc.toNat + a) (64 * dc.toNat + b) (64 * dr.toNat + c) (64 * dr.toNat + d')).map
      fun (a, b, a', b') => { p with hdr := .mcastCore f c l dr dc (BitVec.ofNat 6 a) (BitVec.ofNat 6 b) (BitVec.ofNat 6 a')
                                       (BitVec.ofNat 6 b') m }
  | _ => []

/-- Die-phase copies for the rest of the die rectangle, those that hold a destination. -/
def dieCopies (s : State) (k d : Nat) (p : DataPacket) : List DataPacket :=
  match p.hdr with
  | .mcastDie f c l r0 r1 c0 c1 m g =>
    let r := coreY k / 64
    let q := coreX k / 64
    let parts := (if c0.toNat < q then [(r0.toNat, r1.toNat, c0.toNat, q - 1)] else []) ++
      (if q < c1.toNat then [(r0.toNat, r1.toNat, q + 1, c1.toNat)] else []) ++
      (if r0.toNat < r then [(r0.toNat, r - 1, q, q)] else []) ++
      (if r < r1.toNat then [(r + 1, r1.toNat, q, q)] else [])
    (parts.filter fun (a, b, a', b') => anyDest s p.epoch k d (64 * a') (64 * b' + 63) (64 * a) (64 * b + 63)).map
      fun (a, b, a', b') => { p with hdr := .mcastDie f c l (BitVec.ofNat 4 a) (BitVec.ofNat 4 b) (BitVec.ofNat 4 a') (BitVec.ofNat 4 b')
                                       m g }
  | _ => []

/-- The core-phase packet that a die-phase packet becomes in the router's own die (R221). -/
def reheader (k d : Nat) (p : DataPacket) : DataPacket :=
  match p.hdr with
  | .mcastDie f c l _ _ _ _ m _ =>
    let r := coreY k / 64
    let q := coreX k / 64
    let lo (a b : Nat) : Nat := clamp a b (b + 63) - b
    let h : DataHdr := .mcastCore f c l (BitVec.ofNat 4 r) (BitVec.ofNat 4 q)
        (BitVec.ofNat 6 (lo (field d 0 10) (64 * q))) (BitVec.ofNat 6 (lo (field d 10 10) (64 * q)))
        (BitVec.ofNat 6 (lo (field d 20 10) (64 * r))) (BitVec.ofNat 6 (lo (field d 30 10) (64 * r))) m
    { p with hops := 0, hdr := h }
  | _ => p

/-- Is the router inside the packet's rectangle, where it splits? -/
def inRect (k : Nat) (h : DataHdr) : Bool :=
  match h with
  | .mcastDie .. => decide (hdrTarget h (coreX k) (coreY k) = (coreX k, coreY k))
  | .mcastCore .. => decide (hdrTarget h (coreX k) (coreY k) = (coreX k, coreY k))
  | _ => false

/-- What a packet inside its rectangle comes to: whether the own core receives it, the copies, and the packet that goes on whole, if
the converted packet lies outside its sub-rectangle. -/
def splitOf (s : State) (k d : Nat) (p : DataPacket) : Option DataPacket × List DataPacket :=
  match p.hdr with
  | .mcastDie .. =>
    let q := reheader k d p
    let rest := dieCopies s k d p
    match q.hdr with
    | .mcastCore _ _ _ dr dc u0 u1 v0 v1 _ =>
      if !anyDest s p.epoch k d (64 * dc.toNat + u0.toNat) (64 * dc.toNat + u1.toNat) (64 * dr.toNat + v0.toNat) (64 * dr.toNat + v1.toNat) then
        (none, rest)
      else if inRect k q.hdr then (if mcastDest s p.epoch d k then some q else none, coreCopies s k d q ++ rest)
      else (none, q :: rest)
    | _ => (none, rest)
  | .mcastCore .. => (if mcastDest s p.epoch d k then some p else none, coreCopies s k d p)
  | _ => (none, [])

/-- First preferences of the copies, if all are reachable. -/
def firstPrefs (s : State) (k : Nat) : List DataPacket → Option (List Nat)
  | [] => some []
  | q :: r =>
    let (tx, ty) := hdrTarget q.hdr (coreX k) (coreY k)
    match pref s k q.epoch tx ty, firstPrefs s k r with
    | some (o :: _), some l => some (o :: l)
    | _, _ => none

/-- Is the router one of the packet's target die, which alone judges whether its sub-rectangle holds a destination (R221)? -/
def inTargetDie (k : Nat) (h : DataHdr) : Bool :=
  match h with
  | .mcastCore _ _ _ dr dc _ _ _ _ _ => decide (coreY k / 64 = dr.toNat) && decide (coreX k / 64 = dc.toNat)
  | _ => false

def isCirc (h : DataHdr) : Bool := match h with | .unicast _ _ _ _ _ _ c => c | _ => false

/-! ### One packet in one clock (R216, R217, R221) -/

/-- Why a router drops a packet: the hop limit, an unreachable target, a cause of DROP_MISC, or an empty multicast part, which no counter
counts. -/
inductive Drop where | hops | unreach | misc | empty
  deriving DecidableEq, Repr

/-- What becomes of a packet in its clock: dropped, handed to the core (output 4) or an endpoint, split, sent on whole, or held for want of
an output, which R215 excludes on a mesh input. -/
inductive Hop where
  | drop (d : Drop)
  | take (o ep : Nat)
  /-- The packet that the own core receives, the copies with their outputs, and whether the rest is dropped at the hop limit. -/
  | split (own : Option DataPacket) (copies : List (DataPacket × Nat)) (late : Bool)
  | whole (o : Nat) (deflected : Bool)
  | held

/-- The packet goes on whole: unreachable, else on the first free output of `pref`. `away` says that it was for this router and was turned away. -/
def wholeHop (s : State) (k : Nat) (t : Turn) (p : DataPacket) (away : Bool) : Hop :=
  let (tx, ty) := hdrTarget p.hdr (coreX k) (coreY k)
  match pref s k p.epoch tx ty with
  | none => .drop .unreach
  | some l =>
    match l.find? (outFree s k t p.epoch) with
    | none => .held
    | some o => .whole o (away || decide (l.head? ≠ some o))

/-- Mesh and ejection outputs that later packets in the age order need, each leaving whole if it is not taken here; none if one finds none. -/
def othersFit (s : State) (k : Nat) : Turn → List DataPacket → Bool
  | _, [] => true
  | t, p :: r =>
    if isCirc p.hdr || epochRetired s p.epoch then othersFit s k t r
    else
      let here := (endsHere p k).filter fun x => outFree s k t p.epoch x.1
      match here with
      | some (o, _) => othersFit s k { t with used := o :: t.used } r
      | none =>
        if p.hops = 255 then othersFit s k t r
        else match wholeHop s k t p false with
          | .whole o _ => othersFit s k { t with used := o :: t.used } r
          | .drop _ => othersFit s k t r
          | _ => false

/-- The outputs of a split that fits, R221's all or nothing. -/
def splitFits (s : State) (k : Nat) (t : Turn) (p : DataPacket) (own : Option DataPacket) (copies : List DataPacket) : Option (List Nat) :=
  match firstPrefs s k copies with
  | none => none
  | some os =>
    let mine := os ++ (if own.isSome then [4] else [])
    if os.Nodup ∧ mine.all (outFree s k t p.epoch) ∧ othersFit s k { t with used := mine ++ t.used } t.later then some os else none

/-- A multicast packet inside its rectangle, with its descriptor: it splits, or leaves whole. -/
def splitHop (s : State) (k : Nat) (t : Turn) (p : DataPacket) (d : Nat) : Hop :=
  let (own, copies) := splitOf s k d p
  if own.isNone && copies.isEmpty then .drop .empty
  else if p.hops = 255 then
    -- the delivery due here is made before the packet is dropped; with nothing left of it, nothing is dropped (R217)
    match own with
    | some q => if outFree s k t p.epoch 4 then .split (some q) [] (!copies.isEmpty) else .drop .hops
    | none => .drop .hops
  else match splitFits s k t p own copies with
    | some os => .split own (copies.zip os) false
    | none => wholeHop s k t p false

/-- MIDX of a multicast packet. -/
def hdrMidx (h : DataHdr) : Nat :=
  match h with | .mcastDie _ _ _ _ _ _ _ m _ => m.toNat | .mcastCore _ _ _ _ _ _ _ _ _ m => m.toNat | _ => 0

/-- Does the sub-rectangle of a core-phase packet in its target die hold a destination? -/
def partHolds (s : State) (k : Nat) (p : DataPacket) : Bool :=
  match p.hdr, mcastAt s k p.epoch (hdrMidx p.hdr) with
  | .mcastCore _ _ _ dr dc u0 u1 v0 v1 _, some d =>
    anyDest s p.epoch k d.toNat (64 * dc.toNat + u0.toNat) (64 * dc.toNat + u1.toNat) (64 * dr.toNat + v0.toNat) (64 * dr.toNat + v1.toNat)
  | _, _ => false

/-- An ordinary packet on a mesh input in its turn. -/
def hopOf (s : State) (k : Nat) (t : Turn) (p : DataPacket) : Hop :=
  if epochRetired s p.epoch then .drop .misc
  else match endsHere p k with
    | some (o, ep) =>
      if outFree s k t p.epoch o then .take o ep else if p.hops = 255 then .drop .hops else wholeHop s k t p true
    | none =>
      if inRect k p.hdr then
        match mcastAt s k p.epoch (hdrMidx p.hdr) with
        | none => .drop .empty
        | some d => splitHop s k t p d.toNat
      else if p.hops = 255 then .drop .hops
      else if inTargetDie k p.hdr && !partHolds s k p then .drop .empty
      else wholeHop s k t p false

/-- An ordinary packet at an injection input: it ends here or leaves whole; a multicast packet splits at a later router. -/
def injectHop (s : State) (k : Nat) (t : Turn) (p : DataPacket) : Hop :=
  match endsHere p k with
  | some (o, ep) => if outFree s k t p.epoch o then .take o ep else wholeHop s k t p true
  | none => wholeHop s k t p false

/-- Outputs that a packet takes. -/
def Hop.outs : Hop → List Nat
  | .take o _ => [o]
  | .split own l _ => (if own.isSome then [4] else []) ++ l.map (·.2)
  | .whole o _ => [o]
  | _ => []

def noteDrop (s : State) (k : Nat) : Drop → State
  | .hops => dropHops s k
  | .unreach => dropUnreach s k
  | .misc => dropMisc s k
  | .empty => s

/-- The effect of what becomes of a packet; none where it is held. -/
def doHop (s : State) (k clock : Nat) (p : DataPacket) : Hop → Option State
  | .drop d => some (noteDrop s k d)
  | .take o ep => some (handOver s k o ep p)
  | .split own l late =>
    let s := match own with | some q => handOver s k 4 4 q | none => s
    let s := if late then dropHops s k else s
    some (l.foldl (fun s (q, o) => sendFlit s k clock o q) s)
  | .whole o deflected => some (sendFlit (if deflected then countDeflect s k else s) k clock o p)
  | .held => none

/-- Outputs that the slots of the clock reserve for a circuit packet of an input (R216, R226); at the core's input, those of its circuit. -/
def circOuts (s : State) (k inp clock : Nat) (p : DataPacket) : List Nat :=
  let circ := match p.hdr with | .unicast _ _ _ dx _ _ _ => if inp = 4 then some dx.toNat else none | _ => none
  if epochRetired s p.epoch then []
  else (List.range 6).filter fun o =>
    let v := slotAt s k p.epoch (clock % 16) o
    v.state = 1 && v.inp.toNat = inp && (match circ with | some n => decide (v.circ.toNat = n) | none => true)

/-- Circuit copies. -/
def circuitCopy (s : State) (k inp clock : Nat) (p : DataPacket) : Option State :=
  let outs := circOuts s k inp clock p
  if outs = [] then none
  else
    let late := p.hops = 255 && outs.any (· < 4)
    let s := if late then dropHops s k else s
    some (outs.foldl (fun s o =>
      if o < 4 then (if p.hops = 255 then s else sendFlit s k clock o p)
      else handOver s k o (if o = 4 then 4 else 5) p) s)

/-- Outputs that the circuit packets of a clock take; with two banks alive they may stand against slots of the other bank (R216, R228). -/
def circUsed (s : State) (k : Nat) (c : RouterClock) : List Nat :=
  (c.data.filter fun x => isCirc x.2.hdr).flatMap fun x => circOuts s k x.1 (clockAt s c) x.2

/-! ### The order of the packets in a clock (R216) -/

/-- A packet's age. -/
def ageOf (p : DataPacket) : Nat := ((hdrLeg p.hdr).getD 0).toNat * 256 + p.hops.toNat

/-- Does an input of age `a` come before one of age `b`: the older first, ties in the order N, E, S, W rotated by the clock? -/
def comesBefore (clock : Nat) (a b : Nat × Nat) : Bool :=
  decide (b.2 < a.2) || (decide (a.2 = b.2) && decide ((a.1 + 4 - clock % 4) % 4 < (b.1 + 4 - clock % 4) % 4))

/-- Packets in order, each put before the first that it comes before. -/
def insAge (clock : Nat) (x : Nat × DataPacket) : List (Nat × DataPacket) → List (Nat × DataPacket)
  | [] => [x]
  | y :: r => if comesBefore clock (x.1, ageOf x.2) (y.1, ageOf y.2) then x :: y :: r else y :: insAge clock x r

/-- The ordinary packets on the mesh inputs of a clock but `inp`, in age order. -/
def meshOthers (c : RouterClock) (clock inp : Nat) : List (Nat × DataPacket) :=
  (c.data.filter fun x => decide (x.1 < 4) && decide (x.1 ≠ inp) && !isCirc x.2.hdr).foldl (fun l x => insAge clock x l) []

/-- The turn after packets that come first, each with those after it. -/
def turnAfter (s : State) (k : Nat) (t : Turn) : List DataPacket → Turn
  | [] => t
  | p :: r => turnAfter s k { t with used := (hopOf s k { t with later := r ++ t.later } p).outs ++ t.used } r

/-- The turn of a packet on mesh input `inp`. -/
def turnOf (s : State) (k inp : Nat) (c : RouterClock) (p : DataPacket) : Turn :=
  let n := clockAt s c
  let others := meshOthers c n inp
  let early := others.filter fun x => comesBefore n (x.1, ageOf x.2) (inp, ageOf p)
  let after := others.filter fun x => !comesBefore n (x.1, ageOf x.2) (inp, ageOf p)
  let t := turnAfter s k ⟨n, c.stretched, circUsed s k c, p :: after.map (·.2)⟩ (early.map (·.2))
  { t with later := after.map (·.2) }

/-- The turn of the core's injection: after the packets on the mesh inputs. -/
def coreTurn (s : State) (k : Nat) (c : RouterClock) : Turn :=
  let n := clockAt s c
  turnAfter s k ⟨n, c.stretched, circUsed s k c, []⟩ ((meshOthers c n 4).map (·.2))

/-- The turn of an endpoint's injection: after the core's, the one that the clock names or else the packet that waits. -/
def endpointTurn (s : State) (k : Nat) (c : RouterClock) : Turn :=
  let t := coreTurn s k c
  let first : Option DataPacket := match c.data.find? fun x => x.1 = 4 with
    | some x => some x.2
    | none => (getCore s k).inj.head?.map fun x => x.2
  match first with
  | some p => if isCirc p.hdr then { t with used := circOuts s k 4 t.clock { p with epoch := s.epoch.cur } ++ t.used } else { t with used := (injectHop s k t { p with epoch := s.epoch.cur }).outs ++ t.used }
  | none => t

/-! ### The commands of the data mesh -/

/-- DATA_PACKET_AT_ROUTER: `inp` 0 to 3 is a mesh input, 5 the injection of an endpoint attached here, whose packet takes the epoch in force
(R228). A packet that finds no output waits at its injection. -/
def execDataPacketAtRouter (router inp : Nat) (k : RouterClock) (p : DataPacket) (crc : BitVec 32) (s : State) : Out :=
  .next (
    if routerDead s router || s.clock.stopped then s
    else if inp < 4 then
      if crc ≠ dataCrc p then
        modClu (noteDiscard s router inp 1) (clusterOf router) fun u => { u with crcData := satAdd u.crcData 1 }
      else if isCirc p.hdr then
        if epochRetired s p.epoch then dropMisc s router else (circuitCopy s router inp (clockAt s k) p).getD (dropMisc s router)
      else (doHop s router (clockAt s k) p (hopOf s router (turnOf s router inp k p) p)).getD s
    else
      let p := { p with epoch := s.epoch.cur }
      if isCirc p.hdr then (circuitCopy s router inp (clockAt s k) p).getD s
      else (doHop s router (clockAt s k) p (injectHop s router (endpointTurn s router k) p)).getD s)

/-- The oldest packet at the core's injection input goes out under the epoch in force, and the send that gave its last packet retires (R104,
R215, R222, R228). -/
def execRouterInjectionAccept (core : Nat) (k : RouterClock) (s : State) : Out :=
  .next (if s.clock.stopped then s else match (getCore s core).inj with
    | [] => s
    | (n, q) :: rest =>
      let p := { q with epoch := s.epoch.cur }
      let s1 := modCore s core fun c => { c with inj := rest }
      let sent :=
        if isCirc p.hdr then
          circuitCopy s1 core 4 (clockAt s k) p
        else doHop s1 core (clockAt s k) p (injectHop s1 core (coreTurn s core k) p)
      match sent with
      | none => s
      | some t =>
        match (getCtx s core n).wait with
        | .accept left =>
          if left ≤ 1 then settle s core n (.retire t (nextPc (getCtx s core n)))
          else modCtx t core n fun x => { x with wait := .accept (left - 1) }
        | _ => t)

/-! ### The control mesh (R213, R214) -/

/-- The plane that a CTYPE names (Tables 9-7, 12-3); none for a reserved one. -/
def ctrlPlane (c : Nat) : Option Nat :=
  if c = 1 || c = 2 then some 0
  else if 3 ≤ c && c ≤ 5 then some 1
  else if 8 ≤ c && c ≤ 0x0F then some 2
  else if c = 0x10 || c = 0x11 then some 0
  else if c = 0x12 then some 1
  else if 0x20 ≤ c && c ≤ 0x27 then some 3
  else none

/-- An express station's position of a cluster. -/
def station (x y : Nat) : Nat × Nat := (x / 8 * 8, y / 8 * 8)

/-- Channel and target of a control packet at a router (R214): express or plane, the point it goes to, and whether it is past its station. A
packet to a destination 8 or more away goes on its plane to the station of its source, on the express channel to that of its destination,
and on its plane from there; `past` holds the last leg (log 115). -/
def ctrlTarget (p : CtrlPacket) (x y inp : Nat) (past : Bool) : Bool × Bool × Nat × Nat :=
  let src := station p.sx.toNat p.sy.toNat
  let dst := station p.dx.toNat p.dy.toNat
  if past || dist p.sx.toNat p.dx.toNat + dist p.sy.toNat p.dy.toNat < 8 then (past, false, p.dx.toNat, p.dy.toNat)
  else if (x, y) = dst && (8 ≤ inp || decide (src = dst)) then (true, false, p.dx.toNat, p.dy.toNat)
  else if 8 ≤ inp || decide ((x, y) = src) then (false, true, dst.1, dst.2)
  else (false, false, src.1, src.2)

/-- An output as it is counted among those in use: the planes have outputs of their own, the express channel (8 to 11) is one (Table 9-1). -/
def ctrlKey (p : CtrlPacket) (o : Nat) : Nat := if 8 ≤ o then o else 16 + 8 * (ctrlPlane p.ctype.toNat).getD 0 + o

/-- Is an output of a packet's plane or of the express channel free? -/
def ctrlFree (s : State) (k : Nat) (used : List Nat) (p : CtrlPacket) (o : Nat) : Bool :=
  !used.contains (ctrlKey p o) && (if 8 ≤ o then (meshLink s k (o - 8) 8).isSome else (meshLink s k o 1).isSome)

/-- What becomes of a control packet: dropped, ejected, sent on an output with what it goes toward, or held. -/
inductive CtrlHop where
  | drop (d : Drop)
  | eject
  | out (o : Nat) (past deflected : Bool) (tx ty : Nat)
  | held

/-- A control packet on an input of its channel, with the outputs that packets before it take. Where the express channel takes none of its
outputs, in the order of preference, it deflects onto those of its plane (DESIGN CHOICE, log 138). In a stretched cycle the core's ejection is
not free (R356). -/
def ctrlHopOf (s : State) (k inp : Nat) (past stretched : Bool) (used : List Nat) (p : CtrlPacket) : CtrlHop :=
  let x := coreX k
  let y := coreY k
  let here := p.dx.toNat = x ∧ p.dy.toNat = y
  if epochRetired s p.epoch || (ctrlPlane p.ctype.toNat).isNone then .drop .misc
  else if here ∧ !stretched ∧ !used.contains (ctrlKey p 4) then .eject
  else if p.hops = 255 then .drop .hops
  else
    let (past, express, tx, ty) := ctrlTarget p x y inp past
    match pref s k p.epoch tx ty with
    | none => .drop .unreach
    | some l =>
      let l := if express then l.map (8 + ·) ++ l else l
      match l.find? (ctrlFree s k used p) with
      | none => .held
      | some o => .out o past (here || decide (l.head? ≠ some o)) tx ty

def CtrlHop.outs : CtrlHop → List Nat
  | .eject => [4]
  | .out o _ _ _ _ => [o]
  | _ => []

/-- Its effect; `plane` is the plane of its CTYPE. -/
def doCtrlHop (s : State) (k plane : Nat) (past : Bool) (p : CtrlPacket) : CtrlHop → State
  | .drop d => noteDrop s k d
  | .eject => emit s (.ctrlOut k 4 plane past p)
  | .held => s
  | .out o past deflected tx ty =>
    match meshLink s k (o % 8) (if 8 ≤ o then 8 else 1) with
    | none => s
    | some j =>
      let (h, g) := leaveOn k j ((productive (coreX k) (coreY k) tx ty).contains (o % 8)) p.hops (some p.leg)
      emit (if deflected then countDeflect s k else s) (.ctrlOut k o plane past { p with hops := h, leg := g.getD p.leg })

def ctrlAge (p : CtrlPacket) : Nat := p.leg.toNat * 256 + p.hops.toNat

/-- Is a control input a mesh input, of a plane or of the express channel? -/
def ctrlMesh (inp : Nat) : Bool := inp < 4 || 8 ≤ inp

/-- Does one control input come before another: the mesh inputs by age, then the core's injection, then the endpoints'? -/
def ctrlBefore (clock : Nat) (a b : Nat × CtrlPacket) : Bool :=
  if ctrlMesh a.1 && ctrlMesh b.1 then
    comesBefore clock (a.1, ctrlAge a.2) (b.1, ctrlAge b.2) || (decide (ctrlAge a.2 = ctrlAge b.2 ∧ a.1 % 4 = b.1 % 4 ∧ a.1 < b.1))
  else ctrlMesh a.1 || (!ctrlMesh b.1 && decide (a.1 < b.1))

def insCtrl (clock : Nat) (x : Nat × Bool × CtrlPacket) : List (Nat × Bool × CtrlPacket) → List (Nat × Bool × CtrlPacket)
  | [] => [x]
  | y :: r => if ctrlBefore clock (x.1, x.2.2) (y.1, y.2.2) then x :: y :: r else y :: insCtrl clock x r

/-- Outputs of the control channels that the packets before `p` in its clock take (R216). -/
def ctrlUsed (s : State) (router inp : Nat) (k : RouterClock) (p : CtrlPacket) : List Nat :=
  let n := clockAt s k
  let first := (k.ctrl.filter fun x => decide (x.1 ≠ inp) && ctrlBefore n (x.1, x.2.2) (inp, p)).foldl (fun l x => insCtrl n x l) []
  first.foldl (fun u x => (ctrlHopOf s router x.1 x.2.1 k.stretched u x.2.2).outs.map (ctrlKey x.2.2) ++ u) []

/-- CONTROL_PACKET_AT_ROUTER: `inp` 0 to 3 is an input of the plane, 4 and 5 the injections, 8 to 11 the express channel's. -/
def execControlPacketAtRouter (router inp : Nat) (k : RouterClock) (a : CtrlAt) (crc : BitVec 16) (s : State) : Out :=
  .next (
    if routerDead s router || s.clock.stopped then s
    else if ctrlMesh inp && crc ≠ ctrlCrc a.p then
      modClu (noteDiscard s router (inp % 8) (if 8 ≤ inp then 8 else 1)) (clusterOf router) fun u => { u with crcCtrl := satAdd u.crcCtrl 1 }
    else
      let p := if ctrlMesh inp then a.p else { a.p with epoch := s.epoch.cur }
      doCtrlHop s router ((ctrlPlane p.ctype.toNat).getD 0) a.past p (ctrlHopOf s router inp a.past k.stretched (ctrlUsed s router inp k p) p))

end Sys2Proof.Machine
end

