-- ==== Sys2Proof/Machine/Posting.lean ====
section
/-! DEFINITION. What the hubs send to hosts: Teller messages with their tags, completions, events, token streams, receipts; Escrow
records; the change of a handle descriptor; the end of a request (07 R170 to R173, 12 R288 to R290, 13 R298 to R303, 14 R309 to R331). -/

namespace Sys2Proof.Machine

def stDigest : Status := 0x0801#16
def stRingFull : Status := 0x0901#16
def stStale : Status := 0x0902#16
def stUnsupported : Status := 0x0903#16

/-! ### Messages (R309 to R312) -/

/-- Header bytes 0 to 31 (Table 14-1). -/
def msgHead (m : Msg) : List Byte :=
  leBytes 32 (m.ver.toNat + 2 ^ 8 * m.cls.toNat + 2 ^ 12 * m.sess.toNat + 2 ^ 16 * m.mbox.toNat + 2 ^ 22 * b2n m.interim
    + 2 ^ 23 * b2n m.resend + 2 ^ 32 * m.cmd.toNat + 2 ^ 48 * m.status.toNat + 2 ^ 64 * m.payload.length + 2 ^ 80 * m.frag.toNat
    + 2 ^ 88 * m.nfrag.toNat + 2 ^ 96 * m.rseq.toNat + 2 ^ 128 * m.seq.toNat
    + 2 ^ 24 * field m.rsv.toNat 0 8 + 2 ^ 77 * field m.rsv.toNat 8 3 + 2 ^ 192 * field m.rsv.toNat 11 64)

/-- The tag of a message under a key (R311). -/
def msgTag (key : Bytes) (m : Msg) : BitVec 256 :=
  BitVec.ofNat 256 (leNat (kmac256 key (msgHead m ++ m.payload) (ascii "GP144-TELLER-3") 32))

def Msg.none : Msg :=
  { port := 0, ip := 0, udp := 0, ver := 3, cls := 0, sess := 0, mbox := 0, interim := false, resend := false, cmd := 0, status := 0,
    frag := 0, nfrag := 0, rseq := 0, seq := 0, mac := 0, payload := [] }

def modSess (s : State) (n : Nat) (f : Session → Session) : State :=
  match Tbl.find s.sessions n with
  | some t => { s with sessions := Tbl.put s.sessions n (f t) }
  | none => s

/-! ### Escrow (R288 to R290) -/

/-- Does the panel stream records to a partner? Not in the safe state: the records of the requests that it ends are kept (Table 18-7). -/
def escrowStreams (s : State) : Bool := (s.twin.role = .primary || s.twin.pending = some .primary) && !panelFenced s

/-- CRC-32C of header bits [95:0] and the payload (R276). -/
def e2eOf (f : OptFrame) : BitVec 32 :=
  let h := f.otype.toNat + 2 ^ 4 * f.src.toNat + 2 ^ 14 * f.spart.toNat + 2 ^ 18 * f.dst.toNat + 2 ^ 28 * f.dpart.toNat
    + 2 ^ 32 * f.win.toNat + 2 ^ 40 * f.gen.toNat + 2 ^ 56 * f.line.toNat + 2 ^ 76 * f.seq.toNat
  BitVec.ofNat 32 (crc32c (leBytes 12 h ++ leBytes 64 f.payload.toNat))

/-- The twin dies in service (R20, R34). -/
def twinDies (s : State) : List Nat := diesOf s 6

/-- Resend buffer of a die: 8 MiB of 80-byte frames (R279). -/
def resendFull (s : State) (oe : Nat) : Bool :=
  decide (8 * 2 ^ 20 < 80 * (sumNat (s.assured.map fun a => (a.2.sent.filter fun f => f.oe = oe).length) +
    (s.twin.unacked.filter fun u => u.oe = oe && u.sends ≠ 0).length + 1))

/-- A record's 16-byte header and body (Tables 12-5, 12-6), cut into lines. -/
def EscrowRec.lines (r : EscrowRec) : List Line :=
  let b := leBytes 2 r.kind ++ leBytes 2 r.body.length ++ leBytes 4 0 ++ leBytes 8 r.req.toNat ++ r.body
  (List.range (ceilDiv b.length 64)).map fun i => BitVec.ofNat 512 (leNat ((b.drop (64 * i)).take 64))

/-- A frame to the partner, with the twin link's next SEQ and its E2E (R279, R280). -/
def twinFrame (s : State) (otype : Nat) (v : Line) : OptFrame :=
  let f : OptFrame := { otype := BitVec.ofNat 4 otype, src := BitVec.ofNat 10 s.sys.panel, spart := 0, dst := BitVec.ofNat 10 s.twin.partner,
                        dpart := 0, win := 0, gen := 0, line := 0, seq := BitVec.ofNat 20 s.twin.nextSeq, e2e := 0, payload := v }
  { f with e2e := e2eOf f }

/-- An unacknowledged ESCROW frame goes out by a twin die with room in its resend buffer: the one its SEQ falls to, of those in service. -/
def launchFrame (s : State) (u : EscSent) : State :=
  let ds := twinDies s
  let oe := ds.getD (u.seq % ds.length) 0
  if ds = [] || resendFull s oe || panelFenced s then s
  else
    let l := s.twin.unacked.map fun v => if v.seq = u.seq then { v with oe := oe, sentAt := s.tally, sends := v.sends + 1 } else v
    emit { s with twin := { s.twin with unacked := l } } (.frame oe u.frame)

/-- One line of a record is numbered and kept until it is acknowledged. -/
def escrowLine (s : State) (kind key : Nat) (v : Line) : State :=
  let q := s.twin.nextSeq
  let u : EscSent := { seq := q, kind := kind, key := key, frame := twinFrame s 9 v, oe := 0, sentAt := s.tally, sends := 0 }
  launchFrame { s with twin := { s.twin with nextSeq := (q + 1) % 2 ^ 20, unacked := s.twin.unacked ++ [u] } } u

/-- A record goes to the Shadow, if there is one, and waits for its acknowledgement; `key` is its request or session. Each of its lines is a
frame of its own (log 119). -/
def escrowSend (s : State) (kind key req : Nat) (body : Bytes) : State :=
  if escrowStreams s then
    (EscrowRec.lines { kind := kind, req := BitVec.ofNat 64 req, body := body }).foldl (fun s v => escrowLine s kind key v) s
  else s

/-- Body of an admission record (Table 12-6). -/
def admissionBody (sess : Nat) (f : SubFields) : Bytes :=
  leBytes 1 sess ++ leBytes 1 f.cls ++ leBytes 2 f.job ++ leBytes 8 f.seed.toNat ++ leBytes 4 f.temp.toNat ++ leBytes 4 f.topp.toNat
    ++ leBytes 4 f.topk.toNat ++ leBytes 4 f.maxout ++ leBytes 4 f.plen
    ++ ((List.range 8).map fun i => leBytes 4 (f.stops.getD i 0).toNat).flatten ++ (f.prompt.map fun t => leBytes 4 t.toNat).flatten

/-- The chain digest (R289). -/
def digest0 (req : Nat) (seed : Word) : Bytes := sha3_256 (leBytes 8 req ++ leBytes 8 seed.toNat)
def digestNext (d : Bytes) (tok : BitVec 32) (pos : Nat) : Bytes := sha3_256 (d ++ leBytes 4 tok.toNat ++ leBytes 4 pos)

/-- Bytes of Escrow: the records of the active requests, of the sessions and of the step marks, and a Shadow's copy (R288). -/
def escrowUsed (s : State) : Nat :=
  sumNat (s.requests.map fun r => if r.2.state = 4 then 0 else 16 + 64 + 4 * r.2.sub.plen + 56) + 112 * s.sessions.length +
    32 * sumNat (s.jobs.map fun j => j.2.marked.length) + sumNat (s.twin.records.map fun r => 16 + r.body.length)

/-- XOR of two byte strings. -/
def xorBytes (a b : Bytes) : Bytes := (a.zip b).map fun p => p.1 ^^^ p.2

/-- Body of a session record: the keys wrapped under the pair key (R428). -/
def sessionBody (pair : Bytes) (n : Nat) (t : Session) : Bytes :=
  let h := leBytes 1 n ++ leBytes 1 0 ++ leBytes 2 t.udp.toNat ++ leBytes 16 t.ip.toNat ++ leBytes 4 t.estNum.toNat
  let w := xorBytes (t.khp ++ t.kph) (kmac256 pair h (ascii "GP144-WRAP") 64)
  h ++ w ++ kmac256 pair (h ++ w) (ascii "GP144-WRAP-TAG") 8

/-! ### Handle descriptors (R170 to R173) -/

/-- The clusters whose controllers hold a partition's handle table. -/
def partClusters (q : Partition) : List Nat := (q.sites.map fun d => (List.range 64).map (d * 64 + ·)).flatten

/-- The hub changes a descriptor: each controller keeps what it holds until it applies the change (R172). -/
def changeHandle (s : State) (p h : Nat) (d : Handle) : State :=
  let q := getPart s p
  let old := Tbl.get q.handles h Handle.reset
  let lag := Tbl.get q.lags h []
  let lag := (partClusters q).foldl (fun t c => if Tbl.has t c then t else Tbl.put t c old) lag
  emit (setPart s p { q with handles := Tbl.put q.handles h d, lags := if lag = [] then q.lags else Tbl.put q.lags h lag })
    (.handleWrites p h)

/-- The window is closed (R177, R180). -/
def closeWindow (w : Window) : Window := { w with state := 0 }

/-- Handle number of an inbound window. -/
def Window.handle (w : Window) : Nat := w.fld 0 12

/-- The hub closes a window: each controller goes by the descriptor it holds until it applies the close (R172, R177). -/
def closeEverywhere (s : State) (p w : Nat) : State :=
  let q := getPart s p
  let old := Tbl.get q.windows w Window.reset
  let lag := (partClusters q).foldl (fun t c => if Tbl.has t c then t else Tbl.put t c old) (Tbl.get q.winLags w [])
  setPart s p { q with windows := Tbl.put q.windows w (closeWindow old), winLags := if lag = [] then q.winLags else Tbl.put q.winLags w lag }

/-- Number of a window's descriptor among those that HANDLE_DESCRIPTOR_UPDATE names: the handles come first (log 76). -/
def windowNumber (w : Nat) : Nat := 4096 + w

/-- When the invalidation of a handle is complete, its moments begin (R173). -/
def startInval (s : State) (p h : Nat) : State :=
  let busy := (partsOfJob s (jobOfPart s p)).contains p && !(getJob s (jobOfPart s p)).steps.isEmpty
  let tasks := ((getPart s p).numbering.filter fun k => Tbl.has s.cores k).foldl (fun l k =>
    l ++ ((List.range 4).filter fun n => (getCtx s k n).state.running).map fun n => (k, n, (getCtx s k n).task)) []
  modPart s p fun q =>
    let i : Inval := { at_ := s.tally, idle := !busy, ended := s.tally, steps := q.steps + (getJob s (jobOfPart s p)).steps.length, tasks := tasks }
    { q with invals := Tbl.put q.invals h i }

/-- Invalidation: STATE 2, and every inbound window over the handle closes in the same propagation (R173, R180). -/
def invalidateHandle (s : State) (p h : Nat) : State :=
  let d := Tbl.get (getPart s p).handles h Handle.reset
  let s := changeHandle s p h { d with state := 2 }
  let onIt := ((getPart s p).windows.filter fun w => !w.2.outbound && w.2.state ≠ 0 && w.2.handle = h).map (·.1)
  let s := onIt.foldl (fun s w => closeEverywhere s p w) s
  if Tbl.has (getPart s p).lags h then s else startInval s p h

/-! ### The end of a request and of a session (R205, R288, R316) -/

/-- The request has ended: its KV handles are invalidated (R205), its Escrow records are freed by a completion record, its tokens stand. -/
def closeRequest (s : State) (req : Nat) (st : Status) : State :=
  match Tbl.find s.requests req with
  | none => s
  | some r =>
    let s := { s with requests := Tbl.put s.requests req { r with state := 4, status := st, endedAt := s.tally } }
    let s := r.kvh.foldl (fun s h => invalidateHandle s h.1 h.2) s
    escrowSend s 3 req req (leBytes 2 st.toNat ++ leBytes 2 0 ++ leBytes 4 r.released)

/-- The active requests for which `f` holds, by number. -/
def activeReqs (s : State) (f : Request → Bool) : List Nat := (s.requests.filter fun r => r.2.state ≠ 4 && f r.2).map (·.1)

/-- Is a request of the partition active? -/
def partBusy (s : State) (p : Nat) : Bool := activeReqs s (fun r => (partsOfJob s r.sub.job).contains p) ≠ []

/-- A queue pair is gone or in error: the lines it still carried are counted with status `st` (log 29). -/
def failLines (s : State) (l : List QpWrite) (st : Status) : State :=
  l.foldl (fun s w => if w.lines = 0 then s
    else sendCtrl s 5 (hubX w.x.toNat) (hubY s) w.x.toNat w.y.toNat (countBody w.cnt w.lines st.toNat)) s

/-- A session ends (R316): its requests with ABORTED, and everything that is its own goes. -/
def dropSession (s : State) (n : Nat) : State :=
  let s := (activeReqs s fun r => r.sess = n).foldl (fun s r => closeRequest s r stAborted) s
  let out := match (Tbl.find s.sessions n).bind (·.qp) with | some q => q.out | none => []
  let s := failLines s out stTimeout
  let ps := Tbl.map s.parts fun _ q => { q with windows := Tbl.map q.windows fun _ w =>
    if w.outbound && w.target && w.state ≠ 0 && w.fld 0 4 = n then closeWindow w
    else if !w.outbound then { w with hi := w.hi &&& ~~~ (BitVec.ofNat 128 (2 ^ (64 + n))) } else w }
  let gs := Tbl.map s.guests fun _ g => { g with rules := Tbl.keep g.rules fun _ r => !decide (field r.toNat 12 4 = n) }
  -- an ended session's requests belong to no session that may take its number later
  let rs := Tbl.map s.requests fun _ r => if r.sess = n then { r with sess := 16 } else r
  { s with
    parts := ps, guests := gs, requests := rs, sessions := Tbl.drop s.sessions n, tickets := Tbl.keep s.tickets fun _ t => t.sess ≠ n,
    waits := s.waits.filter fun w => w.reply.sess ≠ n }

/-! ### Messages of a session (R309 to R312, R318) -/

/-- A message of an established session: numbered and tagged (R310 to R312); a port that is down carries none. A session whose SEQ has
reached 2^63 ends. -/
def sendMsg (s : State) (n port : Nat) (m : Msg) : State :=
  match Tbl.find s.sessions n with
  | none => s
  | some t =>
    if 2 ^ 63 ≤ t.seqOut.toNat then dropSession s n
    else if !portAlive s port then s
    else
    let m := { m with port := port, ip := t.ip, udp := t.udp, sess := if m.cls = 5 then 0 else BitVec.ofNat 4 n, seq := t.seqOut }
    let m := { m with mac := msgTag t.kph m }
    emit { s with sessions := Tbl.put s.sessions n { t with seqOut := t.seqOut + 1 } } (.teller m (tellerHead s t.ip))

/-- A completion message (R309, R318). -/
def sendCompletion (s : State) (r : Reply) (st : Status) (p : Bytes) (interim resend : Bool) : State :=
  sendMsg s r.sess r.port
    { Msg.none with cls := 1, mbox := BitVec.ofNat 6 r.mbox, cmd := r.cmd, status := st, rseq := BitVec.ofNat 32 r.rseq,
                    interim := interim, resend := resend, payload := p }

/-- NEXT after a completion: the lowest RSEQ from it on that has not completed (R29, R318). -/
def nextFrom (kept : List (Nat × Done)) : Nat → Nat → Nat
  | 0, q => q
  | n + 1, q => if kept.any (fun d => d.1 = q) then nextFrom kept n (q + 1) else q

/-- A mailbox with a request completed: the completion is kept among the last 64, and NEXT passes it (R318). -/
def Mailbox.completed (b : Mailbox) (q : Nat) (d : Done) : Mailbox :=
  let kept := ((q, d) :: b.kept).take 64
  { b with running := b.running.filter (· ≠ q), held := Tbl.drop b.held q, kept := kept, next := nextFrom kept 64 b.next }

/-- A command completes: its completion is kept and sent (R318). -/
def complete (s : State) (r : Reply) (st : Status) (p : Bytes) : State :=
  match Tbl.find s.sessions r.sess with
  | none => s
  | some t =>
    if t.estNum ≠ r.est then s
    else
    let b := (Tbl.get t.boxes r.mbox Mailbox.reset).completed r.rseq { cmd := r.cmd, status := st, payload := p }
    sendCompletion { s with sessions := Tbl.put s.sessions r.sess { t with boxes := Tbl.put t.boxes r.mbox b } } r st p false false

/-- Has a controller still to apply a change of a handle's descriptor or, from 4096, of a window's (R172)? -/
def lagging (s : State) (x : Nat × Nat) : Bool :=
  if x.2 < 4096 then Tbl.has (getPart s x.1).lags x.2 else Tbl.has (getPart s x.1).winLags (x.2 - 4096)

/-- A completion that may have to wait for descriptor changes or acknowledgements (R172, R290). -/
def completeAfter (s : State) (r : Reply) (st : Status) (p : Bytes) (changes : List (Nat × Nat)) (seqs : List Nat) : State :=
  let changes := changes.filter (lagging s)
  if changes = [] ∧ seqs = [] then complete s r st p
  else { s with waits := s.waits ++ [{ reply := r, status := st, payload := p, handles := changes, seqs := seqs }] }

/-- Completions that wait for nothing more are sent, in their order. -/
def sendReady (s : State) : State :=
  let ready := s.waits.filter fun w => w.handles = [] && w.seqs = []
  ready.foldl (fun s w => complete s w.reply w.status w.payload)
    { s with waits := s.waits.filter fun w => !(w.handles = [] && w.seqs = []) }

/-! ### Events (R331) -/

/-- The 16 bytes common to every event body. -/
def eventHead (s : State) (lost : BitVec 16) : Bytes := leBytes 8 (now s) ++ leBytes 2 lost.toNat ++ leBytes 6 0

/-- An event is sent, again or for the first time. -/
def sendEvent (s : State) (n eseq : Nat) : State :=
  match Tbl.find s.sessions n with
  | none => s
  | some t =>
    match Tbl.find t.events eseq with
    | none => s
    | some e =>
      let t := { t with events := Tbl.put t.events eseq { e with sentAt := s.tally } }
      sendMsg { s with sessions := Tbl.put s.sessions n t } n t.port
        { Msg.none with cls := 2, cmd := e.code, rseq := BitVec.ofNat 32 eseq, payload := e.body }

/-- An event to one session; with 4,096 unacknowledged, one of codes 1 to 8 is discarded and counted in LOST. -/
def eventTo (s : State) (n code : Nat) (body : Bytes) : State :=
  match Tbl.find s.sessions n with
  | none => s
  | some t =>
    if t.events.length ≥ 4096 ∧ code ≤ 8 then
      { s with sessions := Tbl.put s.sessions n { t with lostEvents := satAdd t.lostEvents 1 } }
    else
      let e : EventRec := { code := BitVec.ofNat 16 code, body := eventHead s t.lostEvents ++ body, sentAt := s.tally }
      let t' := { t with eseq := t.eseq + 1, events := Tbl.put t.events t.eseq e, lostEvents := 0 }
      sendEvent { s with sessions := Tbl.put s.sessions n t' } n t.eseq

/-- A subscribed event to every session whose mask names it (Table 14-13). -/
def postEvent (s : State) (code : Nat) (body : Bytes) : State :=
  s.sessions.foldl (fun s t => if t.2.est && t.2.mask.getLsbD code then eventTo s t.1 code body else s) s

/-- Reset count of the window that ends now (R411). -/
def inWindow (s : State) : List Word :=
  s.resets.times.filter fun t => decide (now s < t.toNat + s.resets.window * 1000000000)

/-- FAULT event (Table 14-13). `extra` names map-handle ranges in a spare's event (R405). -/
def faultEvent (s : State) (domain part : Nat) (st : Status) (rung : Nat) (extra : Bytes) : State :=
  postEvent s 6 (leBytes 1 domain ++ leBytes 1 part ++ leBytes 2 st.toNat ++ leBytes 1 (inWindow s).length ++ leBytes 1 rung ++ extra)

def powerEvent (s : State) (cause half value : Nat) : State :=
  postEvent s 7 (leBytes 1 cause ++ leBytes 1 half ++ leBytes 2 0 ++ leBytes 4 value)

def twinEvent (s : State) (cause : Nat) : State := postEvent s 5 (leBytes 1 cause)
def hubEvent (s : State) (hub cause : Nat) : State := postEvent s 8 (leBytes 1 hub ++ leBytes 1 cause)
def guestEvent (s : State) (site cause : Nat) (gclass : BitVec 16) : State :=
  postEvent s 2 (leBytes 1 site ++ leBytes 1 cause ++ leBytes 2 gclass.toNat)
def dramEvent (s : State) (site cluster line handle cause : Nat) : State :=
  postEvent s 1 (leBytes 1 site ++ leBytes 1 cluster ++ leBytes 2 0 ++ leBytes 4 line ++ leBytes 2 handle ++ leBytes 1 cause)
def jobEvent (s : State) (job : Nat) (st : Status) (epoch : BitVec 32) (lost : List Nat) : State :=
  postEvent s 3 (leBytes 2 job ++ leBytes 2 st.toNat ++ leBytes 4 epoch.toNat ++ leBytes 2 lost.length
    ++ (lost.map (leBytes 2)).flatten)

/-! ### Streams (R298 to R304) -/

/-- A token block (Table 13-5). -/
def tokenBlock (req first : Nat) (toks : List (BitVec 32)) (endMark : Bool) (st : Status) : Bytes :=
  let b := leBytes 8 req ++ leBytes 4 first ++ leBytes 1 toks.length ++ leBytes 1 (b2n endMark) ++ leBytes 2 st.toNat
    ++ (toks.map fun t => leBytes 4 t.toNat).flatten
  b ++ List.replicate ((8 - b.length % 8) % 8) 0

/-- The requests whose END block a datagram carries. -/
def endsIn : Nat → Bytes → List Nat
  | 0, _ => []
  | n + 1, b =>
    let len := 16 + (4 * at_ b 12 1 + 7) / 8 * 8
    (if at_ b 13 1 % 2 = 1 then [at_ b 0 8] else []) ++ endsIn n (b.drop len)

/-- Bytes a session's retention store holds. -/
def Session.held (t : Session) : Nat := sumNat (t.retained.map fun r => r.2.payload.length)

/-- Lines that a payload takes of a ring of `ring` lines, `used` of them in use, whose next free line is `at0`, with those it skips at the
ring's end (R303). In a ring that is wholly free the skipped lines are free with it. -/
def ringNeed (ring used at0 len : Nat) : Nat :=
  let n := ceilDiv len 64
  if at0 + n ≤ ring || used = 0 then n else ring - at0 + n

/-- Lines of the host ring in use. -/
def Session.ringUsed (t : Session) : Nat := sumNat (t.retained.map fun r => r.2.ring)

/-- The window of a session's ring, and its lines. -/
def ringWin (s : State) (t : Session) : Window := Tbl.get (getPart s t.winPart).windows t.win Window.reset
def ringLines (s : State) (t : Session) : Nat := (ringWin s t).linesM1.toNat + 1

/-- How far a datagram's number lies above another: SSEQ runs from 1 to 2^32 - 1 and on to 1 (R298). -/
def sseqDist (cum q : Nat) : Nat := (q + (2 ^ 32 - 1) - cum % (2 ^ 32 - 1)) % (2 ^ 32 - 1)

/-- A datagram number put in its place among others, in the order of SSEQ after `cum`. -/
def insSeq (cum q : Nat) : List Nat → List Nat
  | [] => [q]
  | x :: r => if sseqDist cum q ≤ sseqDist cum x then q :: x :: r else x :: insSeq cum q r

/-- The retained datagrams for which `f` holds, in the order of SSEQ. -/
def Session.inOrder (t : Session) (f : Retained → Bool) : List Nat :=
  (t.retained.filter fun d => f d.2).foldl (fun l d => insSeq t.cum d.1 l) []

/-- Does the session's stream go out by RDMA now (R303)? -/
def Session.byRdma (t : Session) : Bool := t.rdma && (match t.qp with | some q => !q.error && q.port = t.port | none => false)

/-- REQUEST_DONE with the receipt (R331, R371). -/
def postReceipt (s : State) (r : Request) (req : Nat) : State :=
  eventTo s r.sess 0x10
    (leBytes 8 req ++ leBytes 2 r.status.toNat ++ leBytes 1 r.sub.cls ++ leBytes 1 r.cls ++ leBytes 4 r.released
        ++ leBytes 4 r.sub.plen ++ leBytes 4 (maxBv r.drops r.dropsKept).toNat ++
        leBytes 4 (maxBv r.dropTokens r.dropTokensKept).toNat ++ leBytes 4 0 ++ leBytes 8 r.dir
        ++ leBytes 8 r.ovh)

/-- A request's END block has gone out for the first time: REQUEST_DONE follows once the period in which it ended is closed, for the receipt
covers it (R331, R371; DEDUCED, log 121). -/
def requestDone (s : State) (req : Nat) : State :=
  match Tbl.find s.requests req with
  | none => s
  | some r =>
    if r.endSent then s
    else
      let s := { s with requests := Tbl.put s.requests req { r with endSent := true } }
      if r.charged then postReceipt s r req else s

/-- Does a datagram go by RDMA: its first transmission, with delivery by RDMA, outside the safe state (R303, R306)? -/
def goesByRdma (s : State) (t : Session) (d : Retained) : Bool := d.sends = 0 && t.byRdma && !panelFenced s

/-- Can a datagram go out: its port is alive, and its payload has room in the ring (R301, R303)? -/
def canSend (s : State) (t : Session) (d : Retained) : Bool :=
  portAlive s t.port &&
    (!goesByRdma s t d || decide (t.ringUsed + ringNeed (ringLines s t) t.ringUsed t.ringAt d.payload.length ≤ ringLines s t))

/-- A retained datagram is sent, with RESEND and a fresh SENT; after a first sending the requests that end in it are reported (R300 to R303,
log 98). -/
def transmit (s : State) (n sseq : Nat) : State :=
  match Tbl.find s.sessions n with
  | none => s
  | some t =>
    match Tbl.find t.retained sseq with
    | none => s
    | some d =>
      if !canSend s t d then s
      else
      let p := leBytes 4 sseq ++ sub_ d.payload 4 2 ++ leBytes 2 (b2n (0 < d.sends)) ++ leBytes 8 (now s) ++ d.payload.drop 16
      let rd := goesByRdma s t d
      let need := ringNeed (ringLines s t) t.ringUsed t.ringAt p.length
      let at0 := if t.ringAt + ceilDiv p.length 64 ≤ ringLines s t then t.ringAt else 0
      let d' := { d with sentAt := s.tally, sends := d.sends + 1, udp := !rd, ring := if rd then need else d.ring }
      let t' := { t with retained := Tbl.put t.retained sseq d', ringAt := if rd then at0 + ceilDiv p.length 64 else t.ringAt }
      let s := if 0 < d.sends then modHub s t.port fun h => { h with resends := satAdd h.resends 1 } else s
      let s := { s with sessions := Tbl.put s.sessions n t' }
      let w := ringWin s t
      let s :=
        if rd then
          rdmaSend s n (some (BitVec.ofNat 32 sseq)) (BitVec.ofNat 64 (w.fld 64 64 + 64 * at0)) (BitVec.ofNat 32 (w.fld 32 32)) p 0 0 0 0
        else sendMsg s n t.port { Msg.none with cls := 3, payload := p }
      if d.sends = 0 then (endsIn (at_ p 4 2) (p.drop 16)).foldl requestDone s else s

/-- Datagrams of a list go out one after another, as far as one after another can: those behind one that cannot wait with it. -/
def sendEach (n : Nat) : List Nat → State → State
  | [], s => s
  | q :: l, s =>
    match (Tbl.find s.sessions n).bind fun t => (Tbl.find t.retained q).map fun d => (t, d) with
    | none => sendEach n l s
    | some (t, d) => if canSend s t d then sendEach n l (transmit s n q) else s

/-- Datagrams that have not been sent yet go out in order, unless the session's sending has stopped (R300). -/
def sendWaiting (s : State) (n : Nat) : State :=
  match Tbl.find s.sessions n with
  | none => s
  | some t => if t.stopped then s else sendEach n (t.inOrder fun d => d.sends = 0) s

/-- One datagram of blocks is kept, and goes out behind those that wait (R298, R300). -/
def pushDatagram (s : State) (n : Nat) (blocks : List Bytes) : State :=
  match Tbl.find s.sessions n with
  | none => s
  | some t =>
    let q := t.sseq.toNat
    let p := leBytes 4 q ++ leBytes 2 blocks.length ++ leBytes 10 0 ++ blocks.flatten
    let t' := { t with
      sseq := if t.sseq = 0xFFFFFFFF then 1 else t.sseq + 1
      retained := Tbl.put t.retained q { payload := p, sentAt := s.tally, sends := 0, ring := 0, udp := true, seen := false } }
    sendWaiting { s with sessions := Tbl.put s.sessions n t' } n

/-- Blocks cut into datagrams of at most 4,096 bytes and 255 blocks. -/
def chunkBlocks : List Bytes → List Bytes → Nat → List (List Bytes)
  | [], [], _ => []
  | [], cur, _ => [cur]
  | b :: r, cur, len =>
    if cur ≠ [] ∧ (len + b.length > 4096 ∨ cur.length ≥ 255) then cur :: chunkBlocks r [b] (16 + b.length)
    else chunkBlocks r (cur ++ [b]) (len + b.length)

def pushBlocks (s : State) (n : Nat) (blocks : List Bytes) : State := (chunkBlocks blocks [] 16).foldl (fun s c => pushDatagram s n c) s

/-- Blocks of one request join its stream, behind any of it that wait for the Shadow. -/
def pushOne (s : State) (req : Nat) (block : Bytes) : State :=
  match Tbl.find s.requests req with
  | none => s
  | some r =>
    match s.twin.held.reverse.find? fun h => h.2.1 = req with
    | some h => { s with twin := { s.twin with held := s.twin.held ++ [(h.1, req, block)] } }
    | none => pushBlocks s r.sess [block]

/-! ### The end of a request (R252, R299, R316, R329) -/

/-- A request ends with an error mark after its retained blocks (R299). -/
def endRequest (s : State) (req : Nat) (st : Status) : State :=
  match Tbl.find s.requests req with
  | none => s
  | some r =>
    if r.state = 4 then s
    else pushOne (closeRequest s req st) req (tokenBlock req (r.released + 1) [] true st)

/-- A session ends: the error marks of its requests go out first (R299, R316). -/
def endSession (s : State) (n : Nat) : State :=
  dropSession ((activeReqs s fun r => r.sess = n).foldl (fun s r => endRequest s r stAborted) s) n

/-- Every datagram sent and not acknowledged goes out again in SSEQ order, ahead of new ones. -/
def resendAll (s : State) (n : Nat) : State :=
  match Tbl.find s.sessions n with
  | none => s
  | some t =>
    sendWaiting ((t.inOrder fun d => 0 < d.sends && !d.seen).foldl (fun s q => transmit s n q) s) n

end Sys2Proof.Machine
end

