-- ==== Sys2Proof/Machine/Ledger.lean ====
section
/-! DEFINITION. The Ledger's figures and its admission decision (08 R202 to R205, 17 R369 to R382). -/

namespace Sys2Proof.Machine

/-! ### Dies and allowance -/

/-- Compute dies in service that are not spares (R34). -/
def activeDies (s : State) : Nat :=
  ((List.range 160).filter fun d => let x := getDie s d; !(x.spare || x.dark || x.retired) && halfServes s d).length

/-- Energy allowance of a partition in force, µJ per period (R372). -/
def allowOf (s : State) (p : Nat) : Nat :=
  let l := (getPart s p).ledger
  if l.allow = 0 then 25600000 * (getPart s p).sites.length / Nat.max 1 (activeDies s) else l.allow

def mean (l : List Nat) : Nat := if l = [] then 0 else sumNat l / l.length

/-- Mean energy of the last 8 periods, and its part charged to Reserved requests. -/
def last8Of (l : PartLedger) : Nat := mean (l.last8.map (·.1))
def ruseOf (l : PartLedger) : Nat := mean (l.last8.map (·.2))
def admOf (l : PartLedger) : Nat := sumNat l.adm8

/-- S: the mean step period over the periods that fed tokens, in nanoseconds; 0 while none is measured (R378). -/
def stepNs (l : PartLedger) : Nat :=
  let n := sumNat (l.gaps.map (·.2))
  if n = 0 then 0 else sumNat (l.gaps.map (·.1)) / n

/-- A step begins: the time since the start of the one before it is one step period. -/
def PartLedger.stepBegins (l : PartLedger) (t : Word) : PartLedger :=
  match l.lastStart with
  | some a => { l with gapSum := l.gapSum + (t - a).toNat, gapCount := l.gapCount + 1, lastStart := some t }
  | none => { l with lastStart := some t }

/-- EPT as charges and tokens (R378); no tokens until 64 periods with tokens exist. -/
def eptOf (l : PartLedger) : Nat × Nat :=
  if l.fed.length < 64 then (0, 0) else (sumNat (l.fed.map (·.1)), sumNat (l.fed.map (·.2)))

/-- Chunk size of a partition's map. -/
def chunkOf (q : Partition) : Nat := match q.map with | some m => m.step.chunk | none => 512

/-- Marginal rate of a request on a partition, µJ per period (R378). -/
def rateOf (q : Partition) (plen maxout : Nat) : Nat :=
  let (c, t) := eptOf q.ledger
  let d := t * (ceilDiv plen (chunkOf q) + maxout) * stepNs q.ledger
  if d = 0 then 0 else ceilDiv (c * (plen + maxout) * 1024 * 1000) d

/-! ### KV pages (R202, R203, R205) -/

def kvLo (q : Partition) : Nat := match q.map with | some m => m.kvlo | none => 0
def kvHi (q : Partition) : Nat := match q.map with | some m => m.kvhi | none => 0
def tokB (q : Partition) : Nat := match q.map with | some m => m.tokb | none => 0

/-- Granules a request needs in every channel (R203). -/
def granulesOf (q : Partition) (n : Nat) : Nat := ceilDiv (n * tokB q) 4096

/-- Granule ranges of the pool's handles that are bound or not yet free. -/
def kvTaken (q : Partition) : List (Nat × Nat) :=
  (q.handles.filter fun h => mapM q ≤ h.1 && h.2.state ≠ 0).map fun h => (h.2.start.toNat, h.2.start.toNat + ceilDiv h.2.lines 64)

def granuleFree (taken : List (Nat × Nat)) (g : Nat) : Bool := !taken.any fun r => decide (r.1 ≤ g) && decide (g < r.2)

def freeGranules (q : Partition) : Nat :=
  let t := kvTaken q
  ((List.range (kvHi q - kvLo q)).filter fun i => granuleFree t (kvLo q + i)).length

/-- The lowest START of a run of `g` free granules (R205). -/
def freeRun (q : Partition) (g : Nat) : Option Nat :=
  let t := kvTaken q
  ((List.range (kvHi q - kvLo q + 1 - g)).find? fun i => (List.range g).all fun j => granuleFree t (kvLo q + i + j)).map (kvLo q + ·)

/-- The free handle of the pool that the Ledger binds: the lowest (R203 names none; DESIGN CHOICE, log 97). -/
def freeHandle (q : Partition) : Option Nat :=
  (List.range 4096).find? fun h => mapM q ≤ h && (Tbl.get q.handles h Handle.reset).state = 0 && !Tbl.has q.lags h

/-! ### Slots (R253) -/

/-- Slots of a job: the value its partitions' maps share. -/
def jobSlots (s : State) (j : Nat) : Nat :=
  match (partsOfJob s j).head? with
  | some p => match (getPart s p).map with | some m => m.step.slots | none => 0
  | none => 0

/-- Requests of a job that hold a slot or wait for one. -/
def slotsTaken (s : State) (j : Nat) : Nat :=
  (s.requests.filter fun r => r.2.sub.job = j && (r.2.slot.isSome || r.2.state ≠ 4)).length

/-! ### The decision (R379 to R381) -/

/-- AGE of a ticket in milliseconds. -/
def ageMs (s : State) (t : Ticket) : Nat := (now s - t.first.toNat) / 1000000

/-- A class after promotion counts as Standard (R380). -/
def Ticket.cls (t : Ticket) : Nat := if t.promoted then Nat.min t.sub.cls 1 else t.sub.cls

/-- A ticket is active until WAIT + 10 ms after its answer (R380). -/
def Ticket.isActive (s : State) (t : Ticket) : Bool := t.active && decide (now s < t.last.toNat + (t.wait + 10) * 1000000)

/-- Does ticket `a` of class `ca` and age `ia` rank above `b`? -/
def ranksAbove (ca ia a cb ib b : Nat) : Bool := ca < cb || (ca = cb && (ib < ia || (ib = ia && a < b)))

/-- Claims of higher-ranked active tickets on a partition: their m and their granules. -/
def claimsOn (s : State) (p tick cls age : Nat) : Nat × Nat :=
  s.tickets.foldl (fun acc t =>
    if t.1 ≠ tick && t.2.isActive s && ranksAbove t.2.cls (ageMs s t.2) t.1 cls age tick then
      t.2.claims.foldl (fun acc c => if c.1 = p then (acc.1 + c.2.1, acc.2 + c.2.2) else acc) acc
    else acc) (0, 0)

/-- KRES of a partition. -/
def kresOf (s : State) (p : Nat) : Nat :=
  let q := getPart s p
  if q.ledger.resv = 0 then 0 else (kvHi q - kvLo q) * q.ledger.resv / Nat.max 1 (allowOf s p)

def classLimit (s : State) (p cls : Nat) : Nat :=
  let l := (getPart s p).ledger
  if cls = 0 then allowOf s p else allowOf s p - (l.resv - ruseOf l)

/-- Aging limit of a job (R328). -/
def agingOf (s : State) (j : Nat) : Nat := maxNat ((partsOfJob s j).map fun p => (getPart s p).ledger.aging)

/-- Shortest prefix of the active requests, fewest remaining tokens first, that covers a deficit (R381): the remaining tokens of its
last request. -/
def coverAt (needM needG needS : Nat) : List (Nat × Nat × Nat) → Option Nat
  | [] => none
  | (rem, m, g) :: r => if needM ≤ m ∧ needG ≤ g ∧ needS ≤ 1 then some rem else coverAt (needM - m) (needG - g) (needS - 1) r

/-- Insertion by remaining tokens. -/
def insRem (x : Nat × Nat × Nat) : List (Nat × Nat × Nat) → List (Nat × Nat × Nat)
  | [] => [x]
  | y :: r => if x.1 ≤ y.1 then x :: y :: r else y :: insRem x r

/-- WAIT in milliseconds for a deficit on partition `p` (R381). -/
def waitMs (s : State) (p needM needG needS : Nat) : Nat :=
  let q := getPart s p
  let l := (s.requests.filter fun r => r.2.state ≠ 4 && (partsOfJob s r.2.sub.job).contains p).map fun r =>
    (r.2.sub.maxout - r.2.released, sumNat (r.2.rates.map fun c => if c.1 = p then c.2 else 0),
      granulesOf q (r.2.sub.plen + r.2.sub.maxout))
  match coverAt needM needG needS (l.foldl (fun acc x => insRem x acc) []) with
  | some rem => Nat.max 1 (Nat.min 10000 (ceilDiv ((rem + 1) * stepNs q.ledger) 1000000))
  | none => 10000

/-- What a partition lacks for a request that would fit: m, granules and slots; none when it has room. -/
def lackOf (s : State) (p j cls tick age plen maxout : Nat) : Option (Nat × Nat × Nat) :=
  let q := getPart s p
  let g := granulesOf q (plen + maxout)
  let m := rateOf q plen maxout
  let c := claimsOn s p tick cls age
  let free := freeGranules q - (if cls = 0 then 0 else kresOf s p) - c.2
  let want := last8Of q.ledger + admOf q.ledger + c.1 + m
  let noSlot := jobSlots s j ≤ slotsTaken s j
  let noKv := free < g || (freeRun q g).isNone || (freeHandle q).isNone
  if noSlot || noKv || classLimit s p cls < want then
    some (want - classLimit s p cls, if noKv then Nat.max 1 (g - free) else 0, if noSlot then 1 else 0)
  else none

/-- Is a phase recorded as failed in the redundancy map? -/
def phaseFailed (s : State) (cl n : Nat) : Bool :=
  let key := 4 + 2 ^ 8 * (cl / 64) + 2 ^ 16 * (cl % 64) + 2 ^ 32 * n
  (s.vault.recs ++ s.vault.writing.map (·.record)).any fun r => r.type = 0x20 && r.key = key

/-- Phases of a cluster that may be used, as PH_OK. -/
def phasesOk (s : State) (cl : Nat) : BitVec 4 :=
  (List.range 4).foldl (fun b n => if phaseFailed s cl n then b else b ||| BitVec.ofNat 4 (2 ^ n)) 0

/-- May a cluster be powered at all (R342, R345)? -/
def wakeable (s : State) (cl : Nat) : Bool :=
  let d := getDie s (cl / 64)
  let u := getClu s cl
  !(d.dark || d.retired) && u.pwrState ≠ 3 && 3 ≤ (bitsOf 4 (phasesOk s cl).toNat).length

def clustersOf (sites : List Nat) : List Nat := (sites.map fun d => (List.range 64).map (d * 64 + ·)).flatten

/-- How long a die's queued wakes and the one in progress still take, in nanoseconds: 3 µs each, and the 20 µs that each waits while the die
has no headroom (R343, R344; log 59). -/
def dieWakeNs (s : State) (site : Nat) : Nat :=
  let d := getDie s site
  let run := maxNat ((clustersOf [site]).filterMap fun c => (getClu s c).onStart.map fun t => t.toNat + 3000 - now s)
  run + d.wakes.length * (if 9000 < d.current + 600 then 23000 else 3000)

/-- WAIT of a partition whose clusters wake (R375). -/
def wakeWaitMs (s : State) (p : Nat) : Nat := Nat.max 1 (ceilDiv (maxNat ((getPart s p).sites.map (dieWakeNs s))) 1000000)

/-- A numbered core whose cluster is off and whose wake the hub refuses: the partition lacks capacity (R345). -/
def lacksClusters (s : State) (p : Nat) : Bool :=
  (getPart s p).ledger.waking &&
    ((getPart s p).numbering.any fun k =>
      let cl := clusterOf k
      (getClu s cl).pwrState ≠ 1 && (getClu s cl).pwrState ≠ 2 && !wakeable s cl)

/-- The Ledger's decision: its status and, when DEFERRED, WAIT (R379). -/
def decideAdmission (s : State) (sub : SubFields) (cls tick age : Nat) : Status × Nat :=
  let ps := partsOfJob s sub.job
  let n := sub.plen + sub.maxout
  if ps.any fun p => (getPart s p).ledger.pmode = 3 then (stRefusedPolicy, 0)
  else if ps.any fun p =>
      let q := getPart s p
      lacksClusters s p || tokB q = 0 || kvHi q - kvLo q - (if cls = 0 then 0 else kresOf s p) < granulesOf q n then (stRefusedCapacity, 0)
  else if 384 * 2 ^ 20 < escrowUsed s + 16 + 64 + 4 * sub.plen + 56 then (stRefusedCapacity, 0)
  else if ps.any fun p =>
      let q := getPart s p
      classLimit s p cls < mean q.ledger.idle + rateOf q sub.plen sub.maxout then (stRefusedEnergy, 0)
  else match ps.find? fun p => (getPart s p).ledger.waking with
    | some _ => (stDeferred, maxNat ((ps.filter fun p => (getPart s p).ledger.waking).map (wakeWaitMs s)))
    | none =>
      match ps.findSome? fun p => (lackOf s p sub.job cls tick age sub.plen sub.maxout).map fun l => (p, l) with
      | some (p, m, g, sl) => (stDeferred, waitMs s p m g sl)
      | none => (stOk, 0)

/-- A ticket's claims on every partition of its job. -/
def claimsOf (s : State) (sub : SubFields) : List (Nat × Nat × Nat) :=
  (partsOfJob s sub.job).map fun p =>
    let q := getPart s p
    (p, rateOf q sub.plen sub.maxout, granulesOf q (sub.plen + sub.maxout))

/-- KV handle of a request on one partition (R203, R205). -/
def bindKv (s : State) (p n : Nat) : State × Option Nat :=
  let q := getPart s p
  let g := granulesOf q n
  match freeHandle q, freeRun q g with
  | some h, some st =>
    let old := Tbl.get q.handles h Handle.reset
    (changeHandle s p h { state := 1, kind := false, wr := true, die := 0, cluster := 0, lcn := 0, start := BitVec.ofNat 14 st,
                          linesM1 := BitVec.ofNat 20 (64 * g - 1), gen := old.gen + 1 }, some h)
  | _, _ => (s, none)

/-- A request as it is admitted. -/
def newRequest (s : State) (sess req : Nat) (sub : SubFields) (cls : Nat) (kvh rates : List (Nat × Nat)) : Request :=
  { sess := sess, sub := sub, cls := cls, state := 0, status := stOk, endedAt := s.tally, released := 0, computed := 0,
    digest := digest0 req sub.seed, escIdx := 0, escPos := 0, escDigest := digest0 req sub.seed, fed := 0, nin := 0, sample := false,
    slot := none, kvh := kvh, drops := 0, dropTokens := 0, dropsKept := 0, dropTokensKept := 0, dir := 0, ovh := 0, rates := rates, endSent := false, charged := false }

/-- Admission on every partition of the job: KV handles bound, the rates added, the Escrow record kept and sent. Answers the request's
number. -/
def admitReq (s : State) (sess : Nat) (sub : SubFields) (cls : Nat) : State × Nat :=
  let req := s.nextReq
  let ps := partsOfJob s sub.job
  let rates := ps.map fun p => (p, rateOf (getPart s p) sub.plen sub.maxout)
  let (s, kvh) := ps.foldl (fun (acc : State × List (Nat × Nat)) p =>
    match bindKv acc.1 p (sub.plen + sub.maxout) with
    | (t, some h) => (t, acc.2 ++ [(p, h)])
    | (t, none) => (t, acc.2)) (s, [])
  let s := rates.foldl (fun s r => modPart s r.1 fun q => { q with
    ledger := { q.ledger with busy := true, adm8 := match q.ledger.adm8 with | a :: l => (a + r.2) :: l | [] => [r.2] } }) s
  let s := { s with nextReq := req + 1, requests := Tbl.put s.requests req (newRequest s sess req sub cls kvh rates) }
  (escrowSend s 1 req req (admissionBody sess sub), req)

/-! ### Attribution (R369, R370) -/

/-- Index of the largest share, the first on a tie. -/
def largest (l : List (Nat × Nat)) : Option Nat :=
  (l.foldl (fun (b : Option (Nat × Nat)) x => match b with
    | none => some x
    | some y => if y.2 < x.2 then some x else some y) none).map (·.1)

/-- `total` split over `(request, weight)` in proportion to the weights out of `den`, rounded down, the remainder of `sum` to the largest
share; requests in rising order. -/
def splitShares (total sum den : Nat) (w : List (Nat × Nat)) : List (Nat × Nat) :=
  let sh := w.map fun x => (x.1, if den = 0 then 0 else total * x.2 / den)
  let left := sum - sumNat (sh.map (·.2))
  match largest sh with
  | some k => sh.map fun x => if x.1 = k then (x.1, x.2 + left) else x
  | none => []

/-- Direct charges of one partition: by request. -/
def directShares (s : State) (p edir : Nat) : List (Nat × Nat) :=
  let l := (getPart s p).ledger
  let w := l.tokens.filter fun t => 0 < t.2
  let sum := sumNat (w.map (·.2))
  if sum = 0 then [] else splitShares edir (edir * sum / (sum + l.lostTokens)) (sum + l.lostTokens) w

/-- Overhead by request: in proportion to this period's direct charges, in equal shares if there are none. -/
def overheadShares (o : Nat) (active : List Nat) (dir : List (Nat × Nat)) : List (Nat × Nat) :=
  let d := active.map fun r => (r, sumNat ((dir.filter fun x => x.1 = r).map (·.2)))
  let sum := sumNat (d.map (·.2))
  if sum = 0 then splitShares o o active.length (active.map fun r => (r, 1)) else splitShares o o sum d

end Sys2Proof.Machine
end

