-- ==== Sys2Proof/Machine/Report.lean ====
section
/-! DEFINITION. STATUS bytes 0 to 7 and the generation of attestation reports (Table 14-5, 19 R426, 12 R291). -/

namespace Sys2Proof.Machine

/-- May the Shadow take over (R291)? -/
def mayTakeOver (s : State) : Bool :=
  s.twin.role = .shadow && s.twin.attached && decide (s.twin.lastBeat.toNat + 20000000 ≤ now s) && (!s.pins.twinPresent || s.twin.takeover)

/-- STATE of STATUS. -/
def stateCode (s : State) : Nat := match s.state with | .serving => 0 | .safe => 1 | .safeNoId => 1 | .bringUp => 2

/-- COMP: 0 Joined, 1 Half-degraded on H0, 2 on H1. -/
def compCode (s : State) : Nat :=
  match s.half0.inService, s.half1.inService with | true, false => 1 | false, true => 2 | _, _ => 0

def roleCode (s : State) : Nat := match s.twin.role with | .solo => 0 | .primary => 1 | .shadow => 2

/-- The first 8 bytes of STATUS (R426). -/
def statusHead (s : State) : Bytes :=
  leBytes 1 (stateCode s) ++ leBytes 1 (compCode s) ++ leBytes 1 (roleCode s) ++
    leBytes 1 (b2n s.twin.attached + 2 * b2n (s.twin.takeover || mayTakeOver s)) ++ leBytes 1 (b2n s.hub0.up + 2 * b2n s.hub1.up) ++ leBytes 1 0 ++
    leBytes 2 (activeDies s)

/-- The fields of a report that are not the session's own, before they are hashed (Table 19-7). -/
structure ReportKey where
  idDig : Bytes
  fw0 : Bytes
  fw1 : Bytes
  config : Option Bytes
  owner : Bytes
  counters : Tbl Nat
  maps : List (Nat × Option Bytes × Bytes)
  guests : List (Nat × Bytes)
  status : Bytes
  deriving DecidableEq, Repr

def reportKey (s : State) : ReportKey :=
  { idDig := s.vault.idDig, fw0 := s.hub0.fwMeas, fw1 := s.hub1.fwMeas, config := s.vault.config.map (·.digest), owner := s.vault.ownerKey,
    counters := s.vault.counters, maps := s.parts.map fun q => (q.1, q.2.map.map (·.loader), q.2.mapMeas),
    guests := (s.guests.map fun g => (g.1, g.2.meas)).filter fun g => g.2 ≠ [], status := statusHead s }

/-- A session's report is generated: GEN rises, its time is now, and its signature is a new free value (log 7). -/
def renewReport (s : State) (n : Nat) : State :=
  match Tbl.find s.sessions n with
  | none => s
  | some t =>
    { s with
      freeCtr := s.freeCtr + 38
      sessions := Tbl.put s.sessions n { t with repGen := t.repGen + 1, repTime := s.tally, repFree := s.freeCtr } }

/-- After a command that takes `s` to `t`, the reports whose fields have changed are generated anew (R426). -/
def withReports (s t : State) : State :=
  if t.sessions = [] then t
  else if reportKey s = reportKey t then t
  else (t.sessions.map (·.1)).foldl renewReport t

/-- A command that can change what a report says. -/
def report (s t : State) : Out := .next (withReports s t)

end Sys2Proof.Machine
end

