-- ==== Sys2Proof/Machine/Recovery.lean ====
section
/-! DEFINITION. Shared operations of recovery: Vault records, the safe state, launching tasks, numbering and spares, fencing and resetting
a context, an engine, a core, a partition and the panel, abandoning a step (10 R257 to R260, 18 R389 to R413, 19 R416 to R419, R432). -/

namespace Sys2Proof.Machine

/-! ### Vault records (R416, R419) -/

/-- A record joins the journal; the flash dies hold it once VAULT_RECORD_WRITTEN has come for each. It takes its SEQ when it is programmed. -/
def vaultPut (s : State) (type key : Nat) (body : Bytes) (signed : Bool) : State :=
  let r : VaultRec := { type := BitVec.ofNat 16 type, signed := signed, seq := 0, key := key, body := body, half := 0, on0 := false, on1 := false }
  { s with vault := { s.vault with writing := s.vault.writing ++ [{ record := r, copy := false, acts := [] }] } }

/-- The last of a list changed. -/
def onLast {α : Type} (f : α → α) : List α → List α
  | [] => []
  | [x] => [f x]
  | x :: y :: l => x :: onLast f (y :: l)

/-- What waits for the record put last. -/
def afterWrites (s : State) (a : VaultAct) : State :=
  { s with vault := { s.vault with writing := onLast (fun w => { w with acts := w.acts ++ [a] }) s.vault.writing } }

/-- Bytes that a record takes: header, body and check, up to the next multiple of 64. -/
def recordSize (r : VaultRec) : Nat := ceilDiv (32 + r.body.length + (if r.signed then 2420 else 32)) 64 * 64

/-- The region of a record: 0 configuration, 1 redundancy map, 2 state, 3 loader store; factory records have none (Table 19-1). The key of a
COMPACT is twice its region and its half. -/
def recordRegion (r : VaultRec) : Option Nat :=
  let t := r.type.toNat
  if t = 1 || t = 2 then some 0 else if t = 0x20 then some 1 else if 0x10 ≤ t && t ≤ 0x14 then some 2 else if t = 3 then some (r.key / 2) else none

/-- Start and size of a region that is split into halves (Table 19-1). -/
def regionRange (g : Nat) : Nat × Nat :=
  if g = 0 then (0x02100000, 0x200000) else if g = 1 then (0x02300000, 0x800000) else if g = 2 then (0x02B00000, 0x200000) else (0x01100000, 0x1000000)

/-- Half of a region. -/
def regionHalf (g : Nat) : Nat := (regionRange g).2 / 2

def sameKey (a b : VaultRec) : Bool := a.type = b.type && a.key = b.key

/-- The half that held a region's records until a COMPACT came is erased. -/
def eraseHalf (v : Vault) (g : Nat) : Vault :=
  let old := Tbl.get v.halves g 0
  let recs := v.recs.filter fun r => !(recordRegion r = some g && r.half = old)
  { v with
    recs := recs, halves := Tbl.put v.halves g (1 - old)
    used := Tbl.put v.used g (sumNat ((recs.filter fun r => recordRegion r = some g).map recordSize)) }

/-- A record is programmed, on VLT0 alone or on both dies. Held by both it replaces the earlier one of its type and key; a compaction's copy
leaves that to its COMPACT (R416, R417). -/
def holdWrite (v : Vault) (w : VaultWrite) (both : Bool) : Vault :=
  let g := recordRegion w.record
  let h := Tbl.get v.halves (g.getD 0) 0
  let r := { w.record with seq := v.seq, half := if w.copy then 1 - h else h, on0 := true, on1 := both }
  let old := if w.copy || !both then v.recs else v.recs.filter fun x => !sameKey x r
  let mark := both && r.type.toNat = 0x13
  let v := { v with
    recs := old ++ [r], seq := v.seq + 1
    used := match g with | some g => if w.copy then v.used else Tbl.put v.used g (Tbl.get v.used g 0 + recordSize r) | none => v.used
    checkpoints := if mark then Tbl.put v.checkpoints r.key (at_ r.body 4 4) else v.checkpoints
    raising := if mark && !v.writing.any (fun x => sameKey x.record r) then Tbl.drop v.raising r.key else v.raising }
  match g with
  | some g => if both && r.type.toNat = 3 then eraseHalf v g else v
  | none => v

/-- The Vault after a loss of power: the record that was being programmed is on VLT0 alone or on no die, which of the two nothing says (a free
value, log 7); those behind it are lost (R433). -/
def vaultAfterLoss (one : Bool) (v : Vault) : Vault :=
  match v.writing with
  | [] => v
  | w :: _ => if one then holdWrite { v with writing := [] } w false else { v with writing := [] }

/-- A write under way is cut off as by a loss of power (Table 21-7). -/
def cutVault (s : State) : Vault := vaultAfterLoss ((freeWord s).getLsbD 0) s.vault

/-- Records that stand: of one type and key the one with the highest SEQ (R418). -/
def standing (l : List VaultRec) : List VaultRec := l.filter fun r => !l.any fun x => sameKey x r && r.seq < x.seq

/-- A REDUNDANCY record (Table 19-4). -/
def vaultRedundancy (s : State) (kind site cluster side index data : Nat) : State :=
  let key := kind + 2 ^ 8 * site + 2 ^ 16 * cluster + 2 ^ 22 * side + 2 ^ 32 * index
  vaultPut s 0x20 key (leBytes 8 key ++ leBytes 8 data) false

/-! ### Launching a task (R432) -/

/-- Fields of an image header (Table 19-8). -/
def imgSvn (b : Bytes) : Nat := at_ b 4 4
def imgCode (b : Bytes) : Nat := at_ b 8 4
def imgData (b : Bytes) : Nat := at_ b 12 4
def imgAddr (b : Bytes) : Nat := at_ b 16 2
def imgEntry (b : Bytes) : Nat := at_ b 18 2

/-- The activated image with a measurement, in the partition's latest activations or the loader store. -/
def imageOf (s : State) (p : Nat) (digest : Bytes) : Option Bytes :=
  match (getPart s p).images.find? fun b => sha3_256 b = digest with
  | some b => some b
  | none => (s.vault.loaders.find? fun b => sha3_256 b.2 = digest).map (·.2)

/-- The images of the four contexts of a core: core program `lcn mod` the number of programs (log 20). -/
def coreImages (s : State) (p k : Nat) : List (Option Bytes) :=
  match (getPart s p).map with
  | none => []
  | some m =>
    let n := m.loader.length / 128
    let prog := if n = 0 then 0 else (lcnOf (getPart s p) k).getD 0 % n
    (List.range 4).map fun c =>
      let d := sub_ m.loader (128 * prog + 32 * c) 32
      if n = 0 ∨ d.all (· = 0) then none else imageOf s p d

/-- Bytes written to a core's scratchpad by the loader, bank and Till alike. -/
def loadBytes (s : State) (k a : Nat) (b : Bytes) : State :=
  (List.range (ceilDiv b.length 8)).foldl (fun s j =>
    let part := (b.drop (8 * j)).take 8
    spmWrite s k (a + 8 * j) part.length (leNat part)) s

/-- The data of an image in the scratchpad. -/
def loadData (s : State) (k : Nat) (img : Bytes) : State :=
  loadBytes s k (imgAddr img) ((img.drop (64 + imgCode img)).take (imgData img))

/-- The unit list of a core, at 0xBF00 (R432). -/
def writeUnits (s : State) (p k : Nat) : State :=
  let us := Tbl.get (getPart s p).units k []
  loadBytes s k 0xBF00 (leBytes 2 us.length ++ (us.map (leBytes 2)).flatten)

/-- Code start of each context: in context order (R432). -/
def codeStarts : List (Option Bytes) → Nat → List (Nat × Option Bytes)
  | [], _ => []
  | none :: r, a => (a, none) :: codeStarts r a
  | some b :: r, a => (a, some b) :: codeStarts r (a + imgCode b)

/-- One context starts (R432): its registers are at 0 but for what the launch sets, and LAST_STATUS still names the task that ended last
(R59; DEDUCED, log 91). -/
def launchCtx (s : State) (p k n start : Nat) (img : Bytes) : State :=
  let s := if (getCtx s k n).state.running then noteTaskEnd s k n (getCtx s k n).task else s
  let q := getPart s p
  let task := q.nextTask
  let s := setPart s p { q with nextTask := if task = 0xFFFF then 1 else task + 1 }
  let s := modCore s k fun c => { c with istore := (List.range (imgCode img / 8)).foldl (fun t j =>
    Tbl.put t (start / 8 + j) (BitVec.ofNat 64 (at_ img (64 + 8 * j) 8))) c.istore }
  let s := loadData s k img
  let entry := BitVec.ofNat 64 (start + imgEntry img)
  let last := (getCtx s k n).lastStatus
  setCtx (modCore s k (·.freshFor n)) k n { Ctx.reset with
    state := .ready, lastStatus := last, pc := entry, regs := [(1, 0xBF00), (2, task.setWidth 64)], task := task, codeStart := start, codeLen := imgCode img,
    bb := (match q.map with | some m => m.bb | none => false), loader := (at_ img 2 1).testBit 4, wdStart := s.tally,
    launch := some { entry := entry, madeCarr := false, foreign := false, relaunched := false, window := none } }

/-- The hub writes a core's unit list and launches its images, on no fenced context (R398). -/
def launchCore (s : State) (p k : Nat) : State :=
  let s := modCore (writeUnits s p k) k fun c => { c with ueLines := [] }
  ((codeStarts (coreImages s p k) 0).zip (List.range 4)).foldl (fun s x =>
    match x.1.2 with
    | some b => if (getCore s k).hostFenced.getLsbD x.2 || (getCtx s k x.2).state = .fenced then s else launchCtx s p k x.2 x.1.1 b
    | none => s) s

def launchPart (s : State) (p : Nat) : State := (getPart s p).numbering.foldl (fun s k => launchCore s p k) s

/-- The images are launched again, where addressing is not Base-bound: those run once (R437). -/
def relaunchPart (s : State) (p : Nat) : State := if (getPart s p).map.any (·.bb) then s else launchPart s p

/-! ### Numbering and units (R5, R6, R240, R404) -/

/-- Cores of a die that take part: not bad, not lost, their cluster neither (R5). -/
def dieCores (s : State) (site : Nat) : List Nat :=
  if (getDie s site).dark || (getDie s site).retired then []
  else ((List.range 4096).map (site * 4096 + ·)).filter fun k =>
    !(s.badCores.contains k || (getCore s k).lost || (getClu s (clusterOf k)).lost || (getClu s (clusterOf k)).crossFault)

/-- A router that writes a bank: one that carries packets, of a half in service (R218, R229). -/
def writesBank (s : State) (k : Nat) : Bool := k < 655360 && !routerDead s k && halfServes s (siteOf k)

/-- How many routers write their bank: 4,096 of each die in service, 64 fewer for each dark cluster. -/
def bankWriters (s : State) : Nat :=
  let live (d : Nat) : Bool := !(getDie s d).dark && halfServes s d
  4096 * ((List.range 160).filter live).length - 64 * (s.clusters.filter fun u => u.2.lost && live (u.1 / 64)).length

/-- Has every router acknowledged its bank (R229, step 1)? -/
def bankWritten (s : State) : Bool := bankWriters s ≤ (s.epoch.acked.filter (writesBank s)).length

/-- Is a bank change of one of these partitions under way, before T_switch? -/
def changing (s : State) (ps : List Nat) : Bool :=
  ((s.epoch.writesAt.isSome || s.epoch.switchAt.isSome) && s.epoch.parts.any (ps.contains ·)) ||
    (match s.epoch.next with | some l => l.any (ps.contains ·) | none => false)

/-- Is a partition between steps (R6, R229)? An abandoned step is not in flight. -/
def betweenSteps (s : State) (p : Nat) : Bool := (getJob s (jobOfPart s p)).steps.all (·.abandoned)

/-- The bank not in force is written in every router and core (R229, step 1). -/
def writeBank (s : State) (ps : List Nat) : State :=
  let b := hubBank s
  let s := if s.epoch.cur then { s with bank0 := b } else { s with bank1 := b }
  emit { s with epoch := { s.epoch with writesAt := some s.tally, acked := [], parts := ps } } (.bankWrites (b2n !s.epoch.cur))

def joinNat (a b : List Nat) : List Nat := a ++ b.filter fun x => !a.contains x

/-- The hub rebuilds the banks: for the partitions named, their translation, descriptors or circuits change; with none named, only the route
tables do (R218, R229, R263). Writes in progress begin again; a change after T_switch is chosen waits for the old bank's end. -/
def startEpoch (s : State) (ps : List Nat) : State :=
  let e := s.epoch
  if e.switchAt.isSome || e.kept.isSome then { s with epoch := { e with next := some (joinNat (e.next.getD []) ps) } }
  else writeBank s (if e.writesAt.isSome then joinNat e.parts ps else ps)

/-- With every write acknowledged and every changed partition between steps, the hub names T_switch, 10 µs ahead (R229, step 2). Their next
steps wait for it, so that it falls between steps (DEDUCED, log 117). -/
def tryAnnounce (s : State) : State :=
  if s.epoch.writesAt.isSome && s.epoch.parts.all (betweenSteps s) && bankWritten s then
    let t := s.tally + 10000
    emit { s with epoch := { s.epoch with writesAt := none, acked := [], switchAt := some t } } (.announce t)
  else s

/-- The logical numbering of a partition: its dies in map order, their cores in rising number (R5, log 21). -/
def setNumbering (s : State) (p : Nat) : State :=
  modPart s p fun q => { q with numbering := (q.sites.map (dieCores s)).flatten }

/-- The bank to which a partition's present numbering belongs. -/
def bankFor (s : State) (p : Nat) : Bool :=
  let e := s.epoch
  if (match e.next with | some l => l.contains p | none => false) then (if e.switchAt.isSome then e.cur else !e.cur)
  else if (e.writesAt.isSome || e.switchAt.isSome) && e.parts.contains p then !e.cur
  else e.cur

/-- The hub builds the partition's Distance Table (R233). -/
def buildDist (s : State) (p : Nat) : State :=
  modPart s p fun q => { q with distGen := q.distGen + 1, dist := { bank := bankFor s p, numbering := q.numbering, clusters := (partClusters q).filter fun cl => Tbl.has s.clusters cl, holes := holesOf s } }

/-- The logical numbering and the Distance Table are rebuilt, and the banks follow (R6, R233). -/
def renumber (s : State) (p : Nat) : State := buildDist (startEpoch (setNumbering s p) [p]) p

/-- A renumbering for a loss: where the channels of an abandoned step are still to be reset it waits for that (R258 steps 2 and 4); `full` is not
the numbering alone. -/
def renumberAfter (s : State) (p : Nat) (full : Bool) : State :=
  if (getJob s (jobOfPart s p)).resetDue then
    modPart s p fun q => { q with numberDue := some (full || q.numberDue.getD false) }
  else if full then renumber s p else setNumbering s p

/-- A renumbering that has waited. -/
def renumberNow (s : State) (p : Nat) : State :=
  match (getPart s p).numberDue with
  | none => s
  | some full =>
    let s := modPart s p fun q => { q with numberDue := none }
    if full then renumber s p else setNumbering s p

/-- The receiver with the fewest units, ties to the lowest `tie`, then to the lower number; at most 127 units each (R404, R432). -/
def fewest (units : Tbl (List Nat)) (tie : Nat → Nat) (l : List Nat) : Option Nat :=
  (l.filter fun k => (Tbl.get units k []).length < 127).foldl (fun (b : Option Nat) k =>
    let n (k : Nat) := (Tbl.get units k []).length
    match b with
    | none => some k
    | some j => if n k < n j || (n k = n j && (tie k < tie j || (tie k = tie j && k < j))) then some k else some j) none

def insUnit (u : Nat) (l : List Nat) : List Nat := (l.filter (· < u)) ++ u :: l.filter (u < ·)

/-- Units move whole, in rising index, each to the receiver the rule names; none where one has no receiver with room (R432). -/
def moveUnits : Tbl (List Nat) → List Nat → (Tbl (List Nat) → Option Nat) → Option (Tbl (List Nat))
  | units, [], _ => some units
  | units, u :: us, pick => match pick units with
    | some k => moveUnits (Tbl.put units k (insUnit u (Tbl.get units k []))) us pick
    | none => none

/-- The unit lists after a relocation; false where it is refused, and the lists stay (R432). -/
def relocated (s : State) (p : Nat) (units : Option (Tbl (List Nat))) : State × Bool :=
  match units with
  | some u => (modPart s p fun q => { q with units := u }, true)
  | none => (s, false)

/-- Units of a lost core go to the other cores of its cluster. -/
def relocateCore (s : State) (p k : Nat) : State × Bool :=
  let q := getPart s p
  let others := (List.range 64).map (clusterOf k * 64 + ·) |>.filter fun j => j ≠ k && q.numbering.contains j && !(getCore s j).lost
  relocated s p (moveUnits (Tbl.drop q.units k) (Tbl.get q.units k []) fun t => fewest t portDist others)

/-- HOPS of the pair matrix of a partition's Distance Table between two clusters of one die (R233, Table 9-14): with its detours round the
holes. -/
def pairHops (s : State) (p a b : Nat) : Nat := (wayTo (getPart s p).dist.holes (portRouters a) (portRouters b)).1

/-- Units of a lost cluster go to the other clusters of its die, and there to the core with the fewest. -/
def relocateCluster (s : State) (p cl : Nat) : State × Bool :=
  let q := getPart s p
  let mine := (List.range 64).map (cl * 64 + ·)
  let us := (mine.map fun k => Tbl.get q.units k []).flatten.foldl (fun l u => insUnit u l) []
  let units := mine.foldl (fun t k => Tbl.drop t k) q.units
  let cls := ((List.range 64).map (cl / 64 * 64 + ·)).filter fun c => c ≠ cl && !(getClu s c).lost
  let coresOf (c : Nat) := ((List.range 64).map (c * 64 + ·)).filter fun k => q.numbering.contains k && !(getCore s k).lost
  let pick (t : Tbl (List Nat)) : Option Nat :=
    let load (c : Nat) := sumNat ((coresOf c).map fun k => (Tbl.get t k []).length)
    let best := (cls.filter fun c => coresOf c ≠ []).foldl (fun (b : Option Nat) c => match b with
      | none => some c
      | some d => if load c < load d || (load c = load d && pairHops s p cl c < pairHops s p cl d) then some c else some d) none
    best.bind fun c => fewest t portDist (coresOf c)
  relocated s p (moveUnits units us pick)

/-! ### Parking, dark clusters -/

/-- Turning a cluster off for park (R345). -/
def parkCluster (s : State) (cl : Nat) : State :=
  modClu s cl fun u => if u.pwrState = 3 then u else { u with pwrState := 0, onStart := none }

/-! ### Ramp-downs and wakes (R344, R346, R350) -/

/-- A ramp-down begins at `t`; `aux` puts the auxiliary outputs in its scope (R350). -/
def startRamp (s : State) (h : Nat) (t : Word) (aux : Bool) : State :=
  modHalf s h fun x => match x.ramp with
    | some (t0, a) => { x with ramp := some (t0, a || aux) }
    | none => { x with ramp := some (t, aux) }

/-- MFR_RAMPDOWN to a half's stages: 0 the whole panel, 1 their own half (R346). -/
def mfrRampdown (s : State) (h arg : Nat) : State := emit s (.pmbus h 0x1F 0xD1 arg)

/-- Requests that arrive in one clock go in ascending cluster index (R344). -/
def insWake (w : WakeReq) : List WakeReq → List WakeReq
  | [] => [w]
  | x :: r => if x.t0 = w.t0 && w.cl < x.cl then w :: x :: r else x :: insWake w r

/-- A wake request joins its die's queue. -/
def requestWake (s : State) (cl : Nat) : State :=
  let u := getClu s cl
  if !wakeable s cl || u.pwrState = 1 || u.pwrState = 2 then s
  else modDie s (cl / 64) fun d =>
    if d.wakes.any fun w => w.cl = cl then d else { d with wakes := insWake { cl := cl, t0 := s.tally, waited := false } d.wakes }

/-- Is a cluster of the die on its way up? -/
def dieWaking (s : State) (site : Nat) : Bool := (clustersOf [site]).any fun c => (getClu s c).onStart.isSome

/-- The service of the next wake begins: its 20 µs count from here (R344). -/
def nextWake (s : State) (site : Nat) : State :=
  modDie s site fun d => { d with wakes := match d.wakes with | w :: r => { w with t0 := s.tally } :: r | [] => [] }

/-! ### Guest sites (R265, R267, R269, R272) -/

def getGuest (s : State) (g : Nat) : Guest := Tbl.get s.guests g Guest.reset
def modGuest (s : State) (g : Nat) (f : Guest → Guest) : State := { s with guests := Tbl.put s.guests g (f (getGuest s g)) }

/-- Has the site's link exchanged CAP words of one version (R266)? -/
def Guest.ready (g : Guest) : Bool := g.link && g.capSent && g.capGot && g.admitted

/-- A message of the Gate to a guest. -/
def sendPlp (s : State) (site mtype : Nat) (tag : BitVec 12) (st : Status) (arg : Word) (v : Option Line) : State :=
  emit s (.plp site { mtype := BitVec.ofNat 4 mtype, data := v.isSome, tag := tag, status := st, arg := arg, rsv := 0, line := v.getD 0 })

def ruleFld (r : BitVec 128) (lo n : Nat) : Nat := field r.toNat lo n
def ruleValid (r : BitVec 128) : Bool := r.getLsbD 0
/-- Number of lines of a rule's range. -/
def ruleLines (r : BitVec 128) : Nat := ruleFld r 100 20 + 1

/-- The valid rule that covers a guest address: under Windowed only KIND 0 rules reach anything. -/
def coveringRule (g : Guest) (arg : Word) : Option (BitVec 128) :=
  let line := arg.toNat / 64
  if arg.toNat % 64 ≠ 0 then none
  else ((g.rules.find? fun r =>
    ruleValid r.2 && (g.mode = 2 || ruleFld r.2 1 2 = 0) && decide (ruleFld r.2 64 36 ≤ line) &&
      decide (line < ruleFld r.2 64 36 + ruleLines r.2)).map (·.2))

/-- Where the line that a guest's address names lies, by the rule that covers it whatever the site's mode. -/
def guestPlace (s : State) (site : Nat) (arg : Word) : Option (Bool × Nat × Nat) :=
  match coveringRule { getGuest s site with mode := 2 } arg with
  | none => none
  | some r =>
    let p := ruleFld r 8 4
    let tgt := ruleFld r 16 12
    let off := arg.toNat / 64 - ruleFld r 64 36
    let d := Tbl.get (getPart s p).handles (if ruleFld r 1 2 = 0 then (getWindow s p tgt).handle else tgt) Handle.reset
    if ruleFld r 1 2 = 0 then some (false, windowLine s p tgt off)
    else if d.kind then
      ((getPart s p).numbering[d.lcn.toNat]?).bind fun k => if handleLine d off < 768 then some (true, k, handleLine d off) else none
    else some (false, handleCluster s p tgt d (homeCluster s p), handleLine d off)

/-- A WR answered TIMEOUT, FENCED or ECC_UNCORRECTABLE leaves its line undefined (R267): a free value. -/
def undefineLine (s : State) (place : Option (Bool × Nat × Nat)) : State :=
  match place with
  | none => s
  | some (true, k, line) => bumpFree (spmArrive s k line (freeLine s))
  | some (false, cl, line) => bumpFree { s with mem := Mem.writeN s.mem (dramAddr cl (64 * line)) 64 (freeLine s).toNat }

/-- The completion of a request: RDC or WRC with its tag and address. -/
def answerGuest (s : State) (site : Nat) (r : GuestReq) (st : Status) (v : Option Line) : State :=
  let s := if r.write && (st = stTimeout || st = stFenced || st = stEcc) then undefineLine s r.place else s
  sendPlp s site (if r.write then 4 else 3) r.tag st r.arg v

/-- NOTICE: bit 0 fenced or bit 1 returned, and the mode. -/
def sendNotice (s : State) (site bits : Nat) : State :=
  let g := getGuest s site
  if g.ready then sendPlp s site 8 0 stOk (BitVec.ofNat 64 (bits + 4 * g.mode.toNat)) none else s

/-- A site is fenced (R272): its outstanding requests are answered FENCED, NOTICE goes out and a GUEST event is posted. -/
def fenceSite (s : State) (site cause : Nat) : State :=
  let g := getGuest s site
  if g.fenced then s
  else
    let s := g.reqs.foldl (fun s r => answerGuest s site r stFenced none) s
    let s := modGuest s site fun g => { g with fenced := true, reqs := [] }
    guestEvent (sendNotice s site 1) site cause g.gclass

/-- A GUEST_MODE or GUEST_RETURN that waits for an attestation is refused; a return that waits for the CAP exchange of a site whose power it
restored ends TIMEOUT (log 22). -/
def dropWant (s : State) (site : Nat) : State :=
  let g := getGuest s site
  match g.want with
  | some (_, _, r) =>
    complete (modGuest s site fun g => { g with want := none }) r (if g.ready then stModeConflict else stTimeout) []
  | none => s

/-- A site fenced Closed; what waits for its attestation is refused (log 22). -/
def fenceClosed (s : State) (site cause : Nat) : State :=
  fenceSite (modGuest (dropWant s site) site fun g => { g with mode := 0, attq := none }) site cause

/-- The safe state and the loss of a hub fence sites Closed, as a link fault (log 22). -/
def closeSites (s : State) (sites : List Nat) : State := sites.foldl (fun s g => fenceClosed s g 4) s

/-! ### The alert (R457) -/

/-- SB.STATUS.ALERT is set on both hubs: ALERT# goes low, with an in-band interrupt where it is enabled (Table 21-6, R457). -/
def raiseAlert (s : State) : State :=
  [0, 1].foldl (fun s h =>
    let x := getHub s h
    if x.alert then s
    else
      let s := emit (setHub s h { x with alert := true }) (.pin (if h = 0 then "ALERT0#" else "ALERT1#") false)
      if x.events.getLsbD 0 then emit s (.ibi h) else s) s

/-! ### Fencing and resetting (R395 to R400) -/

/-- Is the position an attachment router of the leading hub? -/
def atHub (s : State) (x y : Nat) : Bool := decide (304 ≤ x) && decide (x ≤ 335) && decide (y = hubY s)

/-- A fence reaches a context (R398). It acts on a task as an abort: a wait ends now, with the fault that decides it if there is one, and a
context that can issue meets it at its next retire point; the context then reads FENCED. -/
def fenceCtx (s : State) (k n : Nat) : State :=
  let x := getCtx s k n
  if !x.state.running then modCtx s k n fun x => { x with state := .fenced }
  else
    let t := modCtx s k n fun x => { x with fenceDue := true }
    if x.state = .ready then t else endWait s t k n

/-- A context of a core that is lost or goes dark: its task ends at once, with what is pending for it, else ABORTED. -/
def stopCtx (s : State) (k n : Nat) : State :=
  let x := getCtx s k n
  if !x.state.running then modCtx s k n fun x => { x with state := .fenced }
  else
    let t := modCtx s k n fun x => { x with fenceDue := true }
    retirePoint t k n [] t

/-- UNFENCE of a context; a fence that has not ended its task yet is withdrawn. -/
def unfenceCtx (s : State) (k n : Nat) : State :=
  if (getCore s k).hostFenced.getLsbD n then s
  else modCtx s k n fun x => { x with state := if x.state = .fenced then .idle else x.state, fenceDue := false }

/-- Rung 2: an engine's queue is emptied and the suspects' sets become +0.0; the other contexts' sets stay. -/
def resetEngine (s : State) (k e : Nat) : State :=
  modCore s k fun c =>
    let sus := Tbl.get c.suspects e 0
    let c := (List.range 4).foldl (fun c n => if sus.getLsbD n then (c.setAcc e (2 * n) 0).setAcc e (2 * n + 1) 0 else c) c
    c.setEng e Engine.reset

/-- Scratchpad zero, Till invalid, everything of the core at reset but HANGREC and what marks it lost or fenced; its tasks have ended (R169,
R173, R414). -/
def wipeCore (s : State) (k : Nat) : State :=
  let c := getCore s k
  let lo := spmAddr k 0
  let s := ((List.range 4).filter fun n => (c.ctx n).state.running).foldl (fun s n => noteTaskEnd s k n (c.ctx n).task) s
  setCore { s with mem := s.mem.filter fun m => !(decide (lo ≤ m.1) && decide (m.1 < lo + 65536)) } k
    { Core.reset with
      ctxs := (bitsOf 4 c.hostFenced.toNat).map (fun n => (n, { Ctx.reset with state := .fenced })), hang := c.hang, fenced := c.fenced,
      lost := c.lost, hostFenced := c.hostFenced, nextOp := c.nextOp, nextTag := c.nextTag }

/-- A core reset (R169): lines still to come under a grant to another core are counted FENCED there (R174), and fences that waited for the
core's tasks are acknowledged. -/
def resetCore (s : State) (k : Nat) : State :=
  let c := getCore s k
  let s := c.grants.foldl (fun s g => if g.x.toNat = coreX k ∧ g.y.toNat = coreY k then s
    else sendCtrl s 5 (coreX k) (coreY k) g.x.toNat g.y.toNat (countBody g.cnt g.left stFenced.toNat)) s
  ackFences (wipeCore s k) (clusterOf k)

/-- A full recalibration of a channel is complete, and so is what asked for it (R191, R323). What arrived in its slices is served before later
requests (R192). -/
def recalDone (s : State) (cl : Nat) : State :=
  let replies := (getClu s cl).recalReply
  let s := modClu s cl fun u => { u with
    inSlice := false, slicesLeft := 0, heldTo := u.nextArr, recalCount := satAdd u.recalCount 1, lastRecal := s.tally, recalTemp := u.dieTemp
    recalReply := [] }
  replies.foldl (fun s r => complete s r stOk []) s

/-- The controller and clearing node of a cluster restart, and its channel is recalibrated once, which ends a slice that is under way (R400). Its
counters return to 0 only at a panel reset. -/
def resetCluster (s : State) (cl : Nat) : State :=
  recalDone (modClu s cl fun u => { u with
    reads := [], writes := [], commits := [], runs := [], fences := [], fenced := u.lost, selfRefresh := false, crossFault := false }) cl

/-- Clock enable stopped, header opened: the cores lose their instruction stores and scratchpads (R345, R375). -/
def parkOff (s : State) (cl : Nat) : State :=
  let ks := ((List.range 64).map (cl * 64 + ·)).filter fun k => Tbl.has s.cores k
  parkCluster (ks.foldl resetCore s) cl

/-! ### The safe state (R411 to R413) -/

/-- Streams end with error marks, requests end FENCED, windows and guests are fenced, clusters park, the latch is written (Table 18-7). -/
def enterSafe (s : State) (cause : Nat) : State :=
  if s.state = .safe ∨ s.state = .safeNoId then s
  else
    let s := raiseAlert { s with state := .safe, safeCause := BitVec.ofNat 4 cause }
    let s := vaultPut { s with vault := { s.vault with latch := true, latchCause := BitVec.ofNat 4 cause } } 0x12 0
      (leBytes 1 1 ++ leBytes 1 cause) false
    let s := (activeReqs s fun _ => true).foldl (fun s r => endRequest s r stFenced) s
    let s := closeSites s (List.range 8)
    let s := { s with parts := Tbl.map s.parts fun _ q => { q with
      windows := Tbl.map q.windows fun _ w => if w.state = 1 then { w with state := 2 } else w } }
    (clustersOf (s.parts.map fun q => q.2.sites).flatten).foldl parkOff s

/-- The power-cycle request to the tray (R412). -/
def requestPowerCycle (s : State) : State :=
  if s.pins.pwrCyc then s else raiseAlert (emit { s with pins := { s.pins with pwrCyc := true } } (.pin "PWRCYC_REQ#" false))

/-- One event counted; at LIMIT the panel enters its safe state and asks for a power cycle (R411). -/
def countReset (s : State) : State :=
  let ts := inWindow s ++ [s.tally]
  let s := { s with resets := { s.resets with times := ts, total := s.resets.total + 1 } }
  if s.resets.limit.toNat ≤ ts.length then requestPowerCycle (enterSafe s 1) else s

/-! ### Channels, steps and requests (R248, R258, R289) -/

/-- Open generations of a partition's channels are discarded (R248). -/
def resetChans (s : State) (p : Nat) : State :=
  let q := getPart s p
  -- a context's arrival on a discarded generation never reads as cleared
  let gone (x : Ctx) : Ctx := { x with arrGen := Tbl.map x.arrGen fun ch g =>
    match g with | some n => if n < (Tbl.get q.chans ch Chan.reset).cleared then g else none | none => none }
  let s := { s with cores := Tbl.map s.cores fun k c =>
    if q.numbering.contains k then { c with ctxs := Tbl.map c.ctxs fun _ x => gone x } else c }
  let s := modPart s p fun q => { q with chans := Tbl.map q.chans fun _ c => { Chan.reset with gen := c.gen + 1, cleared := c.cleared } }
  let cls := partClusters (getPart s p)
  cls.foldl (fun s cl => modClu s cl fun u => { u with
    runs := []
    reads := u.reads.filter fun r => match r.dest with | .stream .. => false | .core .. => true }) s

/-- Every channel of a job's partitions is reset. -/
def resetJobChans (s : State) (j : Nat) : State :=
  modJob ((partsOfJob s j).foldl resetChans s) j fun x => { x with ups := [], upAt := [] }

/-- The channels are reset once no fence of the abandonment is outstanding, and the renumbering that waits follows (R258 steps 1, 2 and 4). -/
def resetFenced (s : State) (j : Nat) : State :=
  let x := getJob s j
  if x.resetDue && x.acks = [] then
    (partsOfJob s j).foldl renumberNow (modJob (resetJobChans s j) j fun x => { x with resetDue := false })
  else s

/-- The steps in flight of a job leave it without having ended: an invalidation waits for none of them (R173). -/
def dropSteps (s : State) (j : Nat) : State :=
  tryAnnounce ((partsOfJob s j).foldl
    (fun s p => modPart s p fun q => { q with invals := Tbl.map q.invals fun _ i => { i with steps := Nat.min i.steps q.steps } })
    (modJob s j fun x => { x with steps := [] }))

/-- Nothing of a job's recovery is left: its steps have gone, its channels are reset, no fence or report is waited for. -/
def quitSteps (s : State) (j : Nat) : State :=
  modJob (resetJobChans (dropSteps s j) j) j fun x => { x with
    acks := [], aborts := [], resetDue := false, ueHandles := [], fromZero := false, rung := 0, counted := false, replayed := [] }

/-- A request is recomputed from Escrow: it goes through its prompt and tokens again (R289, R407). -/
def recompute (s : State) (req : Nat) : State :=
  match Tbl.find s.requests req with
  | none => s
  | some r =>
    if r.state = 4 then s
    else
      -- the slot it leaves is written idle with the next entries (R250)
      let s := match r.slot with
        | some n => modJob s r.sub.job fun x => { x with vacated := joinNat x.vacated [n] }
        | none => s
      { s with requests := Tbl.put s.requests req { r with
      state := 3, computed := 0, fed := 0, nin := 0, sample := false, digest := digest0 req r.sub.seed, slot := none
      drops := 0, dropTokens := 0, dropsKept := maxBv r.drops r.dropsKept, dropTokensKept := maxBv r.dropTokens r.dropTokensKept } }

/-- The contexts of a job that run tasks, by core. -/
def busyCtxs (s : State) (j : Nat) : List (Nat × Nat) :=
  ((partsOfJob s j).flatMap fun p => (getPart s p).numbering).flatMap fun k =>
    ((List.range 4).filter fun n => (getCtx s k n).state.running).map fun n => (k, n)

/-- Their clusters. -/
def busyClusters (s : State) (j : Nat) : List Nat := ((busyCtxs s j).map fun x => clusterOf x.1).foldl (fun l c => if l.contains c then l else l ++ [c]) []

/-- Body of FENCE (Table 18-2): scope, contexts, engine, position, unfence. -/
def fenceBody (scope mask eng pos : Nat) (un : Bool) : Nat := scope + 4 * mask + 64 * eng + 256 * pos + 2 ^ 14 * b2n un

/-- FENCE to the controller of a cluster. -/
def sendFence (s : State) (cl scope mask eng pos : Nat) (un : Bool) : State :=
  let k := portCore cl
  sendCtrl s 0x0B (hubX (coreX k)) (hubY s) (coreX k) (coreY k) (fenceBody scope mask eng pos un)

/-- The hub waits 1 ms for the FENCE_ACK of a fence of a job (R396). -/
def awaitAck (s : State) (j cl body : Nat) : State := modJob s j fun x => { x with acks := x.acks ++ [(cl, body, s.tally)] }

/-- FENCE whose FENCE_ACK the hub waits for. -/
def fenceFor (s : State) (j cl scope mask eng pos : Nat) : State :=
  awaitAck (sendFence s cl scope mask eng pos false) j cl (fenceBody scope mask eng pos false)

/-- No FENCE_ACK of a cluster that is lost is waited for. -/
def forgetAcks (s : State) (cl : Nat) : State :=
  { modClu s cl (fun u => { u with fences := [] }) with
    jobs := Tbl.map s.jobs fun _ x => { x with acks := x.acks.filter fun a => a.1 ≠ cl } }

/-- Groups of a step that have not been released. -/
def Step.open_ (t : Step) (split : Bool) : Bool := !t.relA || (split && !t.relB)

/-- Is the job's map split into two groups? -/
def jobSplit (s : State) (j : Nat) : Bool :=
  match (partsOfJob s j).head? with
  | some p => match (getPart s p).map with | some m => 0 < m.step.split | none => false
  | none => false

/-- Requests of a group of a job: group A is slots below SPLIT, or all (R249). -/
def groupReqs (s : State) (j : Nat) (b : Bool) : List Nat :=
  let split := match (partsOfJob s j).head? with
    | some p => (match (getPart s p).map with | some m => m.step.split | none => 0)
    | none => 0
  activeReqs s fun r => r.sub.job = j && (match r.slot with
    | some n => if split = 0 then !b else (decide (split ≤ n)) = b
    | none => false)

/-- The requests that the step in hand feeds in a group, ended ones among them: their slots are written idle only after it (R250, R252). -/
def fedReqs (s : State) (j : Nat) (b : Bool) : Tbl Request :=
  let split := match (getPart s ((partsOfJob s j).headD 0)).map with | some m => m.step.split | none => 0
  s.requests.filter fun r => r.2.sub.job = j && 0 < r.2.nin &&
    (match r.2.slot with | some n => if split = 0 then !b else (decide (split ≤ n)) = b | none => false)

/-- Every admitted request of a job is recomputed from Escrow (R407). -/
def recomputeJob (s : State) (j : Nat) : State := (activeReqs s fun r => r.sub.job = j).foldl recompute s

/-- A partition that cannot go on is fenced: no spare remains (R406), or its domain is fenced by hand. -/
def fencePart (s : State) (p : Nat) : State :=
  modPart s p fun q => { q with
    fenced := true, windows := Tbl.map q.windows fun _ w => if w.state = 1 then { w with state := 2 } else w }

/-- UNFENCE of a partition restores the windows whose expiry has not passed (R180, R399). -/
def unfencePart (s : State) (p : Nat) : State :=
  modPart s p fun q => { q with
    fenced := false, fenceAt := none
    windows := Tbl.map q.windows fun _ w =>
      if w.state = 2 then { w with state := if w.expiry ≠ 0 ∧ w.expiry ≤ s.tally then 0 else 1 } else w }

/-- Host fences whose clusters answer no more, or have been reset, complete (R397). -/
def fenceWaitsEnd (s : State) (cls : List Nat) : State :=
  (s.fenceWaits.filter fun w => cls.contains w.cl).foldl (fun s w => complete s w.reply stOk [])
    { s with fenceWaits := s.fenceWaits.filter fun w => !cls.contains w.cl }

/-- A partition's fence has taken its work: what waited for it completes (R397). -/
def fenceEnded (s : State) (p : Nat) : State :=
  match (getPart s p).fenceAt with
  | none => s
  | some (_, r) =>
    let s := modPart s p fun q => { q with fenceAt := none }
    let s := match r with | some r => complete s r stOk [] | none => s
    match s.panelFence with
    | none => s
    | some r => if s.parts.any fun q => q.2.fenceAt.isSome then s else complete { s with panelFence := none } r stOk []

/-- The highest rung of the last faulted step (Table 18-10). -/
def noteRung (s : State) (r : Nat) : State := { s with resets := { s.resets with lastRung := BitVec.ofNat 3 r } }

/-! ### Losses (R403 to R406) -/

/-- No spare remains (R406): nothing is left to replay, and a new map may be committed at once. -/
def noSpare (s : State) (p : Nat) : State :=
  let j := jobOfPart s p
  let s := fencePart s p
  let s := (activeReqs s fun r => r.sub.job = j).foldl (fun s r => endRequest s r stFenced) s
  modPart (quitSteps s j) p fun q => { q with lacking := true }

/-- A core is lost: fenced, out of the numbering, its units moved (R403, R404). Where a list would pass 127 units the relocation is refused, and the
partition waits for a smaller map as in R406 (R432; DEDUCED, log 151). -/
def loseCore (s : State) (k : Nat) : State :=
  match partOfCore s k with
  | none => modCore s k fun c => { c with lost := true }
  | some p =>
    let s := (List.range 4).foldl (fun s n => stopCtx s k n) s
    let (s, ok) := relocateCore s p k
    let s := modCore s k fun c => { c with lost := true, fenced := true }
    let s := faultEvent (renumberAfter s p true) 4 p (if ok then stFenced else stBadArgument) 1 []
    if ok then s else noSpare s p

/-- Map-handle ranges of lost dies for the FAULT event: handle and lines (R405). -/
def rangesOf (s : State) (p : Nat) (dieIdx : List Nat) : Bytes :=
  let q := getPart s p
  ((q.handles.filter fun h => h.1 < mapM q && h.2.state = 1 && !h.2.kind && dieIdx.contains h.2.die.toNat).map fun h =>
    leBytes 2 h.1 ++ leBytes 2 0 ++ leBytes 4 h.2.lines).flatten

/-- The free spare nearest to a lost die (R405). -/
def nearestSpare (s : State) (site : Nat) : Option Nat :=
  let d (x : Nat) := dist (dieRow x) (dieRow site) + dist (dieCol x) (dieCol site)
  ((List.range 160).filter fun x =>
    let y := getDie s x
    y.spare && !y.dark && !y.retired && !y.fenced && halfServes s x).foldl (fun (b : Option Nat) x => match b with
    | none => some x
    | some y => if d x < d y then some x else some y) none

/-- One lost die is replaced by a spare, which wakes and warms up; without one it leaves service all the same and the partition is fenced. -/
def replaceDie (s : State) (p site : Nat) : State :=
  match nearestSpare s site with
  | none => noSpare (modDie s site fun d => { d with retired := true }) p
  | some x =>
    let s := modDie s site fun d => { d with retired := true }
    let s := vaultRedundancy s 6 site 0 0 0 0
    let s := modDie s x fun d => { d with spare := false, transit := false }
    let s := (clustersOf [x]).foldl requestWake s
    let move (k : Nat) := x * 4096 + k % 4096
    let units := (getPart s p).units.foldl (fun t u => if siteOf u.1 = site then Tbl.put (Tbl.drop t u.1) (move u.1) u.2 else t)
      (getPart s p).units
    let s := modPart s p fun q => { q with sites := q.sites.map fun d => if d = site then x else d, units := units }
    { s with replacing := s.replacing ++ [{ part := p, lost := site, spare := x, warm := false, copied := false }] }

/-- Dies of one partition are lost, in rising site index: the FAULT event names their map-handle ranges, unless a twin is attached,
spares are chosen and the requests rebuilt (R405, R407). -/
def losePartDies (s : State) (p : Nat) (sites : List Nat) (domain : Nat) : State :=
  let q := getPart s p
  let s := if s.twin.attached then s else faultEvent s domain p stFenced 3 (rangesOf s p (sites.map fun d => q.sites.idxOf d))
  recomputeJob (renumberAfter (sites.foldl (fun s d => replaceDie s p d) s) p false) (jobOfPart s p)

/-- The tasks on the cores of some clusters end, and no FENCE_ACK of the clusters is waited for. -/
def stopCores (s : State) (cls : List Nat) : State :=
  let s := (s.cores.filter fun c => cls.contains (clusterOf c.1)).foldl (fun s c => (List.range 4).foldl (fun s n => stopCtx s c.1 n) s) s
  cls.foldl (fun s cl => if Tbl.has s.clusters cl then forgetAcks s cl else s) s

/-- Dies are lost, in rising site index (R403, R405); one of no partition leaves the spare pool and the serving dies. -/
def loseDies (s : State) (sites : List Nat) (domain : Nat) : State :=
  let s := stopCores s (clustersOf sites)
  let s := startEpoch (sites.foldl (fun s d => modDie s d fun x => { x with fenced := true }) s) []
  let ps := sites.foldl (fun l d => match partOfSite s d with
    | some p => if l.contains p then l else l ++ [p]
    | none => l) []
  let s := (sites.filter fun d => (partOfSite s d).isNone).foldl (fun s d =>
    modDie s d fun x => { x with retired := x.retired || !x.dark, spare := false }) s
  ps.foldl (fun s p => losePartDies s p (sites.filter fun d => partOfSite s d = some p) domain) s

/-- A cluster is lost: its units move within the die while its channel serves, else the die is replaced (Table 18-5). -/
def loseCluster (s : State) (cl : Nat) (channelOut : Bool) : State :=
  let waking := (getClu s cl).onStart.isSome || ((getDie s (cl / 64)).wakes.head?.any fun w => w.cl = cl)
  let s := modClu (stopCores s [cl]) cl fun u => { u with lost := true, channelOut := channelOut, pwrState := 3, onStart := none }
  let s := modDie s (cl / 64) fun d => { d with wakes := d.wakes.filter fun w => w.cl ≠ cl }
  let s := if waking then nextWake s (cl / 64) else s
  match partOfSite s (cl / 64) with
  | none => s
  | some p =>
    if channelOut then loseDies s [cl / 64] 6
    else
      let (s, ok) := relocateCluster s p cl
      let s := faultEvent (renumberAfter s p true) 5 p (if ok then stFenced else stBadArgument) 1 []
      if ok then recomputeJob s (jobOfPart s p) else noSpare s p

/-! ### Leaving service between steps (R6, R191, R198, R383) -/

/-- The bound handle whose range holds a line of a channel; 0xFFFF for none (Table 14-13). -/
def handleOfLine (s : State) (cl line : Nat) : Nat :=
  match partOfSite s (cl / 64) with
  | none => 0xFFFF
  | some p =>
    match (getPart s p).handles.find? fun h =>
        h.2.state = 1 && !h.2.kind && (isKv s p h.1 || handleCluster s p h.1 h.2 cl = cl) &&
          decide (64 * h.2.start.toNat ≤ line) && decide (line < 64 * h.2.start.toNat + h.2.lines) with
    | some h => h.1
    | none => 0xFFFF

/-- Is the cluster to leave service between steps, and is its channel then out of service (Table 18-5)? -/
def mustLeave (s : State) (cl : Nat) : Option Bool :=
  let u := getClu s cl
  if u.lost then none
  else if u.hotDram then some true
  else if u.exhausted then
    some (u.exhLines.any fun l => match partOfSite s (cl / 64) with
      | some p => decide (handleOfLine s cl l < mapM (getPart s p))
      | none => false)
  else if u.hotLogic then some false
  else none

/-- The crossings of a cluster's cores are realigned: the cluster serves again. One that faults in the step after is lost (R354, R403). -/
def realign (s : State) (cl : Nat) : State :=
  let s := sendFence s cl 3 15 0 0 true
  let aligned (c : Core) : Core := { c with cross := if c.cross = 1 then 2 else 0 }
  let s := { s with cores := Tbl.map s.cores fun k c => if clusterOf k = cl then aligned c else c }
  let s := (s.cores.filter fun c => clusterOf c.1 = cl).foldl (fun s c => (List.range 4).foldl (fun s n => unfenceCtx s c.1 n) s) s
  modClu s cl fun u => { u with crossFault := false, fenced := false }

/-- Clusters of a partition whose crossings a fault has put out are realigned between steps, and their cores return (R354); those that
must leave then do so (R6). -/
def leaveService (s : State) (p : Nat) : State :=
  if !(getJob s (jobOfPart s p)).steps.isEmpty then s
  else
    let cls := partClusters (getPart s p)
    let s := { s with cores := Tbl.map s.cores fun k c => if c.cross = 2 && cls.contains (clusterOf k) then { c with cross := 0 } else c }
    let back := cls.filter fun cl => Tbl.has s.clusters cl && (getClu s cl).crossFault && !(getClu s cl).lost
    let s := back.foldl realign s
    let s := if back = [] then s else renumber s p
    let gone := cls.filter fun cl => Tbl.has s.clusters cl && (mustLeave s cl).isSome
    let s := gone.foldl (fun s cl => match mustLeave s cl with
      | some o => loseCluster s cl o
      | none => s) s
    if (gone = [] ∧ back = []) ∨ s.replacing.any (fun r => r.part = p) ∨ (getPart s p).map.isNone then s else relaunchPart s p

def leaveIfIdle (s : State) (cl : Nat) : State :=
  match partOfSite s (cl / 64) with
  | some p => leaveService s p
  | none => s

/-- Does a cluster of the job wait for the end of its steps to leave service, or to return to it? -/
def jobLeaving (s : State) (j : Nat) : Bool :=
  (partsOfJob s j).any fun p => (partClusters (getPart s p)).any fun cl => Tbl.has s.clusters cl &&
    ((mustLeave s cl).isSome || ((getClu s cl).crossFault && !(getClu s cl).lost))

end Sys2Proof.Machine
end

