-- ==== Sys2Proof/Machine/Channel.lean ====
section
/-! DEFINITION. The bonded DRAM channel: its addresses, its bad-line table, its codes, and one read or write of one line (08 R183 to R189,
R195 to R199). -/

namespace Sys2Proof.Machine

/-! ### Address and table (R184, R195) -/

def lineBank (line : Nat) : Nat := line % 16
def lineCol (line : Nat) : Nat := line / 16 % 32
def lineRow (line : Nat) : Nat := line / 512

/-- An entry as Table 8-6 lays it out. -/
def BadLine.word (b : BadLine) : Nat :=
  b.type.toNat + 2 ^ 2 * b.bank.toNat + 2 ^ 6 * b.row.toNat + 2 ^ 17 * b.column.toNat + 2 ^ 22 * b.spareRow.toNat
    + 2 ^ 26 * b.spareCol.toNat + 2 ^ 32 * b.cause.toNat

def BadLine.ofWord (v : Nat) : BadLine :=
  { type := BitVec.ofNat 2 v, bank := BitVec.ofNat 4 (v >>> 2), row := BitVec.ofNat 11 (v >>> 6), column := BitVec.ofNat 5 (v >>> 17),
    spareRow := BitVec.ofNat 4 (v >>> 22), spareCol := BitVec.ofNat 5 (v >>> 26), cause := BitVec.ofNat 8 (v >>> 32) }

/-- The entry names the line (types 1 and 3). -/
def BadLine.names (b : BadLine) (line : Nat) : Bool :=
  (b.type = 1 || b.type = 3) && b.bank.toNat = lineBank line && b.row.toNat = lineRow line && b.column.toNat = lineCol line

def pendingEntry (u : Cluster) (line : Nat) : Option (Nat × BadLine) := u.bad.find? fun e => e.2.type = 3 && e.2.names line
def lineEntry (u : Cluster) (line : Nat) : Option (Nat × BadLine) := u.bad.find? fun e => e.2.names line

/-- Lines that wait for a write to cure them. -/
def pendingLines (u : Cluster) : List Nat :=
  (u.bad.filter fun e => e.2.type = 3).map fun e => e.2.row.toNat * 512 + e.2.column.toNat * 16 + e.2.bank.toNat

/-- A spare row that serves a row remap, or line remaps. -/
def spareWhole (u : Cluster) (bank sr : Nat) : Bool := u.bad.any fun e => e.2.type = 2 && e.2.bank.toNat = bank && e.2.spareRow.toNat = sr
def spareLine (u : Cluster) (bank sr : Nat) : Bool :=
  u.bad.any fun e => (e.2.type = 1 || e.2.type = 3) && e.2.bank.toNat = bank && e.2.spareRow.toNat = sr
def slotUsed (u : Cluster) (bank sr col : Nat) : Bool :=
  u.bad.any fun e => (e.2.type = 1 || e.2.type = 3) && e.2.bank.toNat = bank && e.2.spareRow.toNat = sr && e.2.spareCol.toNat = col

/-- A free spare row of a bank, the lowest. -/
def freeSpareRow (u : Cluster) (bank : Nat) : Option Nat := (List.range 16).find? fun r => !spareWhole u bank r && !spareLine u bank r

/-- A free line slot: in a spare row that serves line remaps, else in a free spare row (R198), always the lowest (DESIGN CHOICE, log 137). -/
def freeSlot (u : Cluster) (bank : Nat) : Option (Nat × Nat) :=
  let shared := (List.range 16).filter fun r => spareLine u bank r && !spareWhole u bank r
  match shared.findSome? fun r => ((List.range 32).find? fun c => !slotUsed u bank r c).map fun c => (r, c) with
  | some x => some x
  | none => (freeSpareRow u bank).map fun r => (r, 0)

def freeEntry (u : Cluster) : Option Nat := (List.range 256).find? fun i => !Tbl.has u.bad i

/-- A table change, with its record in the redundancy map (R197, R419). -/
def putBad (s : State) (cl i : Nat) (b : Option BadLine) : State :=
  let s := modClu s cl fun u => { u with bad := match b with | some b => Tbl.put u.bad i b | none => Tbl.drop u.bad i }
  vaultRedundancy s 2 (cl / 64) (cl % 64) 0 i (match b with | some b => b.word | none => 0)

/-! ### Remaps (R196, R198) -/

/-- No remap is possible: the channel is exhausted (R198). -/
def exhaust (s : State) (cl line : Nat) : State :=
  let s := modClu s cl fun u => { u with
    exhausted := true, exhLines := if u.exhLines.contains line then u.exhLines else u.exhLines ++ [line] }
  dramEvent s (cl / 64) (cl % 64) line (handleOfLine s cl line) 1

/-- Promotion of a row with four line remaps (R196): pending ones count among the four, the first entry freed takes the TYPE 2, and the copy
counts no corrected line (DESIGN CHOICE, log 137). -/
def promote (s : State) (cl line : Nat) : State :=
  let u := getClu s cl
  let bank := lineBank line
  let row := lineRow line
  let mine := u.bad.filter fun e => (e.2.type = 1 || e.2.type = 3) && e.2.bank.toNat = bank && e.2.row.toNat = row
  match freeSpareRow u bank with
  | none => s
  | some sr =>
    if mine.length < 4 then s
    else
      let done := mine.filter fun e => e.2.type = 1
      let pend := mine.filter fun e => e.2.type = 3
      match (done.head?.map (·.1)).orElse fun _ => freeEntry u with
      | none => s
      | some i =>
        let s := done.foldl (fun s e => putBad s cl e.1 none) s
        let s := pend.foldl (fun s e => putBad s cl e.1 (some { e.2 with spareRow := BitVec.ofNat 4 sr, spareCol := e.2.column })) s
        let s := putBad s cl i (some { type := 2, bank := BitVec.ofNat 4 bank, row := BitVec.ofNat 11 row, column := 0,
                                       spareRow := BitVec.ofNat 4 sr, spareCol := 0, cause := 5 })
        modClu s cl fun u => { u with lineErr := Tbl.keep u.lineErr fun l n =>
          !(lineBank l = bank && lineRow l = row && decide (n < 5)) }

/-- A line is remapped (`pend`: entered as pending) with its cause. One that has an entry keeps it and takes a new slot, the old one going free
(DESIGN CHOICE, log 137). -/
def remap (s : State) (cl line cause : Nat) (pend : Bool) : State :=
  let u := getClu s cl
  if pend && (pendingEntry u line).isSome then s
  else
    let entry := match lineEntry u line with | some e => some e.1 | none => freeEntry u
    match entry, freeSlot u (lineBank line) with
    | some i, some (r, c) =>
      promote (putBad s cl i (some
        { type := if pend then 3 else 1, bank := BitVec.ofNat 4 (lineBank line), row := BitVec.ofNat 11 (lineRow line),
          column := BitVec.ofNat 5 (lineCol line), spareRow := BitVec.ofNat 4 r, spareCol := BitVec.ofNat 5 c,
          cause := BitVec.ofNat 8 cause })) cl line
    | _, _ => leaveIfIdle (exhaust s cl line) cl

/-! ### Reads and writes (R187 to R189, R199) -/

/-- What the decoder makes of a line. -/
inductive Decoded where
  | good (v : Line) (symbols : Nat)
  | bad
  deriving DecidableEq, Repr

/-- A read that finds no more than the line already holds. -/
def cleanRead : ArrayRead := { fresh := 0, inner := false, miscorrect := none }

def storedLine (s : State) (cl line : Nat) : Line := BitVec.ofNat 512 (Mem.readN s.mem (dramAddr cl (64 * line)) 64)

/-- Symbols in error that a read meets. -/
def symbolsAt (u : Cluster) (line : Nat) (r : ArrayRead) : Nat := Nat.min 72 (Tbl.get u.lineErr line 0 + r.fresh)

/-- A pending line and one that the exhausted channel could not remap read as uncorrectable (R196, R198). Another codeword lies within 4
symbols of a miscorrected pattern, in how many is a free value (R188, log 7). -/
def decodeLine (s : State) (cl line : Nat) (r : ArrayRead) : Decoded :=
  let u := getClu s cl
  let n := symbolsAt u line r
  if (pendingEntry u line).isSome || u.exhLines.contains line then .bad
  else if n ≤ 4 then .good (storedLine s cl line) n
  else match r.miscorrect with
    | some v => .good v (1 + (freeWord s).toNat % 4)
    | none => .bad

def noteErr (s : State) (cl line n : Nat) : State :=
  modClu s cl fun u => { u with lineErr := if n = 0 then Tbl.drop u.lineErr line else Tbl.put u.lineErr line n }

/-- A line is read and decoded: what the decoder says, and the counts it leaves (R187, R188; log 106). -/
def readDecoded (s : State) (cl line : Nat) (r : ArrayRead) : State × Decoded :=
  let n := symbolsAt (getClu s cl) line r
  let d := decodeLine s cl line r
  let s := noteErr (if 4 < n then bumpFree s else s) cl line n
  (modClu s cl fun u => { u with
    innerCe := if r.inner then satAdd u.innerCe 1 else u.innerCe
    outerCe := match d with | .good _ k => if 0 < k then satAdd u.outerCe 1 else u.outerCe | .bad => u.outerCe }, d)

/-- A corrected line is written back with fresh check symbols (R188, R190, R193). -/
def rewriteLine (s : State) (cl line : Nat) (v : Line) : State :=
  noteErr { s with mem := Mem.writeN s.mem (dramAddr cl (64 * line)) 64 v.toNat } cl line 0

/-- Is a line of a map handle's range, so that only a rewrite of the range restores it (R201)? -/
def mapLine (s : State) (cl line : Nat) : Bool :=
  match partOfSite s (cl / 64) with
  | some p => decide (handleOfLine s cl line < mapM (getPart s p))
  | none => false

/-- A demand read that finds a line uncorrectable (R199): counted, entered as pending once; the host hears of a map handle's line that no
twin restores (R201, log 102). -/
def demandUe (s : State) (cl line : Nat) : State :=
  let u := getClu s cl
  let s := modClu s cl fun u => { u with ueRead := satAdd u.ueRead 1 }
  if u.exhLines.contains line || (pendingEntry u line).isSome then s
  else
    let s := remap s cl line 3 true
    if mapLine s cl line && !s.twin.attached then dramEvent s (cl / 64) (cl % 64) line (handleOfLine s cl line) 0 else s

/-- A demand read of one line: its data, and what it leaves in the channel (R188, R194, R199). -/
def demandRead (s : State) (cl line : Nat) (r : ArrayRead) : State × Option Line :=
  match readDecoded s cl line r with
  | (s, .good v k) =>
    if k = 3 ∨ k = 4 then
      let t := remap (rewriteLine s cl line v) cl line 1 false
      if (getClu t cl).exhLines.contains line then (modClu t cl fun u => { u with ueRead := satAdd u.ueRead 1 }, none)
      else (t, some v)
    else (s, some v)
  | (s, .bad) => (demandUe s cl line, none)

/-- A write of one line cures it and completes a pending remap, but for a line that the exhausted channel could not remap. -/
def commitLine (s : State) (cl line : Nat) (v : Line) : State :=
  let s := { s with mem := Mem.writeN s.mem (dramAddr cl (64 * line)) 64 v.toNat }
  let u := getClu s cl
  if u.exhLines.contains line then s
  else
    let s := noteErr s cl line 0
    match pendingEntry u line with
    | none => s
    | some (i, b) =>
      if spareWhole u (lineBank line) b.spareRow.toNat then putBad s cl i none
      else putBad s cl i (some { b with type := 1 })

/-! ### The hub's own accesses (R195, R250, R251) -/

/-- The lines of a channel that `n` bytes from byte offset `off` touch. -/
def linesOf (off n : Nat) : List Nat := (List.range (ceilDiv (off % 64 + n) 64)).map (off / 64 + ·)

/-- Bytes of a line with those of `b`, which begin at channel offset `off`, in their place. -/
def mergeBytes (old : Line) (line off : Nat) (b : Bytes) : Line :=
  BitVec.ofNat 512 (leNat ((List.range 64).map fun i =>
    if off ≤ 64 * line + i ∧ 64 * line + i < off + b.length then b.getD (64 * line + i - off) 0 else BitVec.ofNat 8 (old.toNat >>> (8 * i))))

/-- Does a channel answer: is its die powered and in place, its controller in service? -/
def channelServes (s : State) (cl : Nat) : Bool :=
  let d := getDie s (cl / 64)
  !(d.dark || d.retired || (getClu s cl).channelOut)

/-- Is the channel in a slice, so that a request waits for its end (R192)? -/
def inSlice (s : State) (cl : Nat) : Bool := (getClu s cl).inSlice && channelServes s cl && !(getClu s cl).fenced

/-- A request from outside the cores joins those that wait for the end of a channel's slice. -/
def holdAt (s : State) (cl : Nat) (w : OuterRequest) : State :=
  modClu s cl fun u => { u with waits := u.waits ++ [{ arr := u.nextArr, work := w }], nextArr := u.nextArr + 1 }

/-- The hub writes bytes of a channel: whole lines, those around the bytes keeping what was last written (log 103). -/
def putBytes (s : State) (cl off : Nat) (b : Bytes) : State :=
  (linesOf off b.length).foldl (fun s l => commitLine s cl l (mergeBytes (storedLine s cl l) l off b)) s

/-- The hub's write waits through a slice as any request does (R192). -/
def hubWrite (s : State) (cl off : Nat) (b : Bytes) : State := if inSlice s cl then holdAt s cl (.hub off b) else putBytes s cl off b

/-- What a read of the hub's own finds in the array beyond what is known of the line: free values (R187, R188; log 7). -/
def freeRead (s : State) : ArrayRead :=
  let v := (freeWord s).toNat
  { fresh := field v 0 7, inner := v.testBit 7, miscorrect := if v.testBit 8 then some (freeLine s) else none }

/-- One line by a demand read of the hub's own. -/
def hubRead (s : State) (cl line : Nat) : State × Option Line := demandRead (bumpFree s) cl line (freeRead s)

/-- Lines read one after another as demand reads; none when the channel could not decode one of them. -/
def hubReads (s : State) (cl : Nat) (ls : List Nat) : State × Option (List Line) :=
  ls.foldl (fun acc l => match hubRead acc.1 cl l with
    | (s, some v) => (s, acc.2.map fun vs => vs ++ [v])
    | (s, none) => (s, none)) (s, some [])

end Sys2Proof.Machine
end

