-- ==== Sys2Proof/Machine/Clearing.lean ====
section
/-! DEFINITION. Clearing channels as the cores see them, weight streams, the hub's step tables and the begin of a step (04 R106, 10 R241 to
R243, R248 to R254). -/

namespace Sys2Proof.Machine

/-! ### The instructions (R106) -/

def Issue.ch (i : Issue) : Nat := field i.imm.toNat 0 4

/-- The partition of a core and its entry for a channel. -/
def clearEntry (s : State) (k ch : Nat) : Option (Nat × ClearEntry) :=
  match partOfCore s k with
  | none => none
  | some p => match (getPart s p).map with
    | some m => (m.clear[ch]?).map fun e => (p, e)
    | none => none

def enrolled (s : State) (k n ch : Nat) : Bool :=
  match clearEntry s k ch with
  | some (_, e) => e.ctxmask.getLsbD n
  | none => false

/-- Generation `g` of the channel has cleared as far as the core has been told (R246); one that a reset has discarded never does (R248). -/
def clearedAt (c : Core) (ch : Nat) (g : Option Nat) : Bool := match g with | some n => decide (n < Tbl.get c.seen ch 0) | none => false

/-- The channels a joined channel of a job is made of: the same channel of every partition of the scope (R246). -/
def chanScope (s : State) (p ch : Nat) : List Nat :=
  let join := match (getPart s p).map with | some m => (match m.clear[ch]? with | some e => e.join | none => false) | none => false
  if join then partsOfJob s (jobOfPart s p) else [p]

/-- Tally time of the first contribution in the scope. -/
def firstRise (s : State) (p ch : Nat) : Option Word :=
  ((chanScope s p ch).filterMap fun q => (Tbl.get (getPart s q).chans ch Chan.reset).first).foldl
    (fun (b : Option Word) t => match b with | none => some t | some u => if t < u then some t else some u) none

/-- A context arrives on the current generation. -/
def arrive (s : State) (p k n ch : Nat) : State :=
  let c := Tbl.get (getPart s p).chans ch Chan.reset
  let s := modPart s p fun q => { q with chans := Tbl.put q.chans ch { c with
    arrived := Tbl.put c.arrived k (Tbl.get c.arrived k 0 ||| BitVec.ofNat 4 (2 ^ n)), first := some (c.first.getD s.tally) } }
  modCtx s k n fun x => { x with
    arrGen := Tbl.put x.arrGen ch (some c.gen), launch := x.launch.map fun l => { l with madeCarr := true } }

def encCh : Enc := { Enc.none with imm := 0xF }

/-- CARR: at the next clearing after its own last arrival has cleared at the core. -/
def bodyCarr (k n ch : Nat) (s : State) (x : Ctx) : Res :=
  match clearEntry s k ch with
  | none => illegal s x
  | some (p, e) =>
    if !e.ctxmask.getLsbD n then illegal s x
    else match Tbl.find x.arrGen ch with
      | some g =>
        if clearedAt (getCore s k) ch g then .retire (arrive s p k n ch) (nextPc x) else .wait s (.arrive ch) .waitClear
      | none => .retire (arrive s p k n ch) (nextPc x)

def execCarr (i : Issue) (s : State) : Out := .next (issue encCh i s (bodyCarr i.core i.ctx (Issue.ch i)))

def execCarrAfterClear (core ctx : Nat) (s : State) : Out :=
  .next (match (getCtx s core ctx).wait with
    | .arrive ch =>
      match bodyCarr core ctx ch s (getCtx s core ctx) with
      | .retire t pc => settle s core ctx (.retire t pc)
      | _ => s
    | _ => s)

def execCwait (i : Issue) (s : State) : Out :=
  .next (issue encCh i s fun s x =>
    match Tbl.find x.arrGen (Issue.ch i) with
    | none => illegal s x
    | some g =>
      if clearedAt (getCore s i.core) (Issue.ch i) g then .retire s (nextPc x) else .wait s (.clear (Issue.ch i)) .waitClear)

def execCwaitRetire (core ctx : Nat) (s : State) : Out :=
  .next (match (getCtx s core ctx).wait with
    | .clear ch =>
      let x := getCtx s core ctx
      match Tbl.find x.arrGen ch with
      | some g => if clearedAt (getCore s core) ch g then settle s core ctx (.retire s (nextPc x)) else s
      | none => s
    | _ => s)

/-- CTEST reports the condition of CWAIT and, like it, needs a CARR of the task (R106). -/
def execCtest (i : Issue) (s : State) : Out :=
  .next (issue { encCh with d := true } i s fun s x =>
    match Tbl.find x.arrGen (Issue.ch i) with
    | none => illegal s x
    | some g => retireCtx s i (x.setS i.rd (if clearedAt (getCore s i.core) (Issue.ch i) g then 1 else 0)))

/-! ### Weight streams (R241 to R243) -/

/-- Key of a stream's run at its channel. -/
def streamKey (p idx : Nat) : Nat := p * 256 + idx

/-- The channel of a stream's handle. -/
def streamCluster (s : State) (p : Nat) (e : StreamEntry) : Nat :=
  let d := Tbl.get (getPart s p).handles e.handle Handle.reset
  (getPart s p).sites.getD d.die.toNat 0 * 64 + d.cluster.toNat

/-- Run `n` of a stream is queued at its channel's controller (R242). -/
def startRun (s : State) (p idx n : Nat) (e : StreamEntry) : State :=
  let d := Tbl.get (getPart s p).handles e.handle Handle.reset
  let first := 64 * d.start.toNat + e.off + n % e.nrun * e.lstride
  modClu s (streamCluster s p e) fun u => { u with
    runs := Tbl.put u.runs (streamKey p idx) { running := true, queued := none }, nextArr := u.nextArr + 1
    reads := u.reads ++ (List.range e.lines).map fun i =>
      { line := first + i, dest := .stream (streamKey p idx) (e.fl && i + 1 = e.lines) (e.dline + i % e.ring), arr := u.nextArr, via := none } }

/-- A clearing of a trigger channel: its streams start or queue the run of its number; a second one queued is a map fault (R242). -/
def triggerStreams (s : State) (p ch : Nat) : State × Bool :=
  match (getPart s p).map with
  | none => (s, false)
  | some m =>
    let n := Tbl.get (getPart s p).trigs ch 0
    let s := modPart s p fun q => { q with trigs := Tbl.put q.trigs ch (n + 1) }
    (m.streams.zip (List.range m.streams.length)).foldl (fun acc x =>
      let (e, idx) := x
      if e.trig ≠ ch then acc
      else
        let (s, bad) := acc
        let r := Tbl.get (getClu s (streamCluster s p e)).runs (streamKey p idx) { running := false, queued := none }
        if !r.running then (startRun s p idx n e, bad)
        else if r.queued.isSome then (s, true)
        else (modClu s (streamCluster s p e) fun u => { u with
          runs := Tbl.put u.runs (streamKey p idx) { r with queued := some n } }, bad)) (s, false)

/-- The last line of a run has gone: the queued run starts (R242). -/
def endRun (s : State) (p idx : Nat) (e : StreamEntry) : State :=
  let cl := streamCluster s p e
  match Tbl.find (getClu s cl).runs (streamKey p idx) with
  | none => s
  | some r =>
    match r.queued with
    | some n => startRun s p idx n e
    | none => modClu s cl fun u => { u with runs := Tbl.put u.runs (streamKey p idx) { r with running := false } }

/-! ### Step tables in memory (R250, R251) -/

/-- The channel of a KIND 0 map handle. -/
def bufCluster (q : Partition) (d : Handle) : Nat := q.sites.getD d.die.toNat 0 * 64 + d.cluster.toNat

/-- The hub reads bytes of a handle's buffer: each line by a demand read of its channel, each word of a scratchpad by a read that consumes
it. What the reads leave, and the bytes, lowest first in a number, if all of them could be read (R162, R195, R199). -/
def readBuf (s : State) (p h off n : Nat) : State × Option Nat :=
  let q := getPart s p
  let d := Tbl.get q.handles h Handle.reset
  if d.kind then
    match q.numbering[d.lcn.toNat]? with
    | some k =>
      let r := spmRead s k (64 * d.start.toNat + off) n
      (noteRead s k r, if r.bad.isNone then some r.data else none)
    | none => (s, none)
  else
    let a := 4096 * d.start.toNat + off
    let (t, vs) := hubReads s (bufCluster q d) (linesOf a n)
    (t, vs.map fun vs => field (vs.foldr (fun v x => v.toNat + 2 ^ 512 * x) 0) (8 * (a % 64)) (8 * n))

/-- Bytes of a handle's buffer written by the hub; nothing beyond its end. -/
def writeBuf (s : State) (p h off : Nat) (b : Bytes) : State :=
  let q := getPart s p
  let d := Tbl.get q.handles h Handle.reset
  if 64 * d.lines < off + b.length then s
  else if d.kind then
    match q.numbering[d.lcn.toNat]? with
    | some k => loadBytes s k (64 * d.start.toNat + off) b
    | none => s
  else hubWrite s (bufCluster q d) (4096 * d.start.toNat + off) b

/-- At a map load the hub writes every slot's entry: all idle, NIN 0 (R250). -/
def clearSlots (s : State) (p : Nat) : State :=
  match (getPart s p).map with
  | some m => if m.bb then s else (List.range m.step.slots).foldl (fun s n => writeBuf s p m.step.sloth (32 * n) (leBytes 32 0)) s
  | none => s

/-- A request's slot entry on a partition (Table 10-3). -/
def slotEntry (r : Request) (p chunk slot : Nat) : Bytes :=
  let pre := r.fed < r.sub.plen
  let pos := if pre then r.fed else r.sub.plen + r.computed - 1
  let kvh := ((r.kvh.find? fun h => h.1 = p).map (·.2)).getD 0
  let inoff := if pre then 4 * chunk * slot else 0
  leBytes 8 r.sub.seed.toNat ++ leBytes 8 (pos + 2 ^ 32 * r.nin + 2 ^ 44 * b2n r.sample + 2 ^ 45 * b2n (!pre) + 2 ^ 48 * kvh)
    ++ leBytes 4 r.sub.temp.toNat ++ leBytes 4 r.sub.topp.toNat ++ leBytes 4 r.sub.topk.toNat ++ leBytes 4 inoff

/-- NIN and SAMPLE of the next step (R250, R253). -/
def Request.plan (r : Request) (chunk : Nat) : Request :=
  if r.fed < r.sub.plen then
    let n := Nat.min chunk (r.sub.plen - r.fed)
    { r with nin := n, sample := r.fed + n = r.sub.plen, state := if r.state = 3 then 3 else 1 }
  else { r with nin := 1, sample := true }

/-- A request's entry, and the prompt tokens it feeds, written on every partition of the job. -/
def writeSlot (s : State) (j req : Nat) : State :=
  match Tbl.find s.requests req with
  | none => s
  | some r =>
    match r.slot with
    | none => s
    | some slot =>
      let ps := partsOfJob s j
      let live := r.state ≠ 4
      let fresh := r.nin = 0
      let r := if live then r.plan (chunkOf (getPart s (ps.headD 0))) else { r with nin := 0, sample := false, slot := none }
      let s := { s with requests := Tbl.put s.requests req r }
      ps.foldl (fun s p =>
        match (getPart s p).map with
        | none => s
        | some m =>
          let s := writeBuf s p m.step.sloth (32 * slot) (if live then slotEntry r p m.step.chunk slot else leBytes 32 0)
          let s := if live && fresh then modPart s p fun q => { q with ledger := { q.ledger with fedCount := q.ledger.fedCount + r.nin } } else s
          if live && decide (r.fed < r.sub.plen) then
            writeBuf s p m.step.inh (4 * m.step.chunk * slot) (((r.sub.prompt.drop r.fed).take r.nin).map fun t => leBytes 4 t.toNat).flatten
          else s) s

/-- Split of the job's map; 0 is one group. -/
def splitOfJob (s : State) (j : Nat) : Nat :=
  match (getPart s ((partsOfJob s j).headD 0)).map with | some m => m.step.split | none => 0

def inGroup (split slot : Nat) (b : Bool) : Bool := if split = 0 then !b else decide (split ≤ slot) = b

/-- Waiting requests take the group's free slots in rising order (R253, R407). -/
def assignSlots (s : State) (j : Nat) (b : Bool) : State :=
  let split := splitOfJob s j
  (activeReqs s fun r => r.sub.job = j && r.slot.isNone).foldl (fun s r =>
    let used := (s.requests.filter fun x => x.2.sub.job = j).filterMap fun x => x.2.slot
    match (List.range (jobSlots s j)).find? fun n => inGroup split n b && !used.contains n with
    | none => s
    | some n =>
      match Tbl.find s.requests r with
      | some x => { s with requests := Tbl.put s.requests r { x with slot := some n } }
      | none => s) s

/-- Slots of the group that a recomputed request has left are idle from the next step on (R250). -/
def clearVacated (s : State) (j : Nat) (b : Bool) : State :=
  let split := splitOfJob s j
  let mine := (getJob s j).vacated.filter fun n => inGroup split n b
  let s := modJob s j fun x => { x with vacated := x.vacated.filter fun n => !inGroup split n b }
  (partsOfJob s j).foldl (fun s p => match (getPart s p).map with
    | some m => mine.foldl (fun s n => writeBuf s p m.step.sloth (32 * n) (leBytes 32 0)) s
    | none => s) s

/-- The slot entries of a group for the next step (R252.5). -/
def writeGroup (s : State) (j : Nat) (b : Bool) : State :=
  let split := splitOfJob s j
  let free := (s.requests.filter fun r => r.2.sub.job = j && r.2.state = 4 &&
    (match r.2.slot with | some n => inGroup split n b | none => false)).map (·.1)
  let s := clearVacated (free.foldl (fun s r => writeSlot s j r) s) j b
  let s := assignSlots s j b
  (activeReqs s fun r => r.sub.job = j && (match r.slot with | some n => inGroup split n b | none => false)).foldl
    (fun s r => writeSlot s j r) s

/-- Once no request of the job is recomputed, the predictor mode that a takeover displaced applies again (R439). -/
def restorePred (s : State) (j : Nat) : State :=
  if activeReqs s (fun r => r.sub.job = j && r.state = 3) ≠ [] then s
  else (partsOfJob s j).foldl (fun s p => modPart s p fun q => match q.predKept with
    | some md => { q with map := q.map.map fun m => { m with pred := { m.pred with mode := md } }, predKept := none }
    | none => q) s

/-- The next step of a job begins, if a request is active (R254) and no bank change of its partitions is under way (R229, log 117). -/
def beginStep (s : State) (j : Nat) : State :=
  if activeReqs s (fun r => r.sub.job = j) = [] || changing s (partsOfJob s j) then s
  else
    let s := modJob (restorePred s j) j fun x => { x with
      nextStep := x.nextStep + 1, compatible := s.sys.compatible
      steps := x.steps ++ [{ num := x.nextStep, relA := false, relB := false, layA := 0, layB := 0, abandoned := false,
                             started := s.tally }] }
    -- a task may be relaunched once in each step (R409)
    let ks := (partsOfJob s j).flatMap fun p => (getPart s p).numbering
    let fresh (c : Core) : Core := { c with ctxs := Tbl.map c.ctxs fun _ x => { x with launch := x.launch.map fun l => { l with relaunched := false } } }
    let s := { s with cores := Tbl.map s.cores fun k c => if ks.contains k then fresh c else c }
    (partsOfJob s j).foldl (fun s p => modPart s p fun q =>
      { q with ledger := q.ledger.stepBegins s.tally, invals := Tbl.map q.invals fun _ i => { i with idle := false } }) s

/-- May the job's steps run: a map on every partition, none fenced, drained of nothing, no recovery under way? -/
def jobServes (s : State) (j : Nat) : Bool :=
  let ps := partsOfJob s j
  s.state = .serving && ps ≠ [] && ps.all (fun p => (getPart s p).map.isSome && !(getPart s p).fenced) && (getJob s j).rung = 0 &&
    (getJob s j).lostAt.isNone && !jobLeaving s j && !(s.replacing.any fun r => ps.contains r.part)

/-- An idle job with requests begins its next step: both groups' entries are written (R253). The time it was idle is no step period. -/
def kickJob (s : State) (j : Nat) : State :=
  if jobServes s j && (getJob s j).steps.isEmpty then
    let s := (partsOfJob s j).foldl (fun s p => modPart s p fun q => { q with ledger := { q.ledger with lastStart := none } }) s
    beginStep (writeGroup (writeGroup s j false) j true) j
  else s

end Sys2Proof.Machine
end

