-- ==== Sys2Proof/Machine/Resets.lean ====
section
/-! DEFINITION. Abandoning the steps of a job, and the resets of a partition and of the panel (08 R201, 10 R258 to R260, 18 R395, R396, R400). -/

namespace Sys2Proof.Machine

/-! ### Restoring map handles (R201, R400) -/

/-- Channel lines of a KIND 0 handle. -/
def Handle.chanLines (d : Handle) : List Nat := (List.range d.lines).map (handleLine d)

/-- A map handle's range is rewritten from the twin, whose map data is the panel's own: each line as it was last written (R201; log 101). -/
def rewriteRange (s : State) (p h : Nat) : State :=
  let q := getPart s p
  let d := Tbl.get q.handles h Handle.reset
  if d.kind then s
  else if inSlice s (bufCluster q d) then holdAt s (bufCluster q d) (.rewrite p h)
  else d.chanLines.foldl (fun s l => commitLine s (bufCluster q d) l (storedLine s (bufCluster q d) l)) s

/-- Every map handle's range is read once through the outer code; one with an unreadable line is restored, by the twin where one is
attached, else by the host after its DRAM event (R201, R400). -/
def readMaps (s : State) (p : Nat) : State :=
  let q := getPart s p
  (q.handles.filter fun h => h.1 < mapM q && h.2.state = 1 && !h.2.kind).foldl (fun s h =>
    let (t, bad) := hubReads s (bufCluster q h.2) h.2.chanLines
    if bad.isNone && t.twin.attached then rewriteRange t p h.1 else t) s

/-! ### Resets (R400) -/

/-- Steps 5 to 7 of a reset (R400): the loaders, the Distance Table, the map handles read through, the requests recomputed; the partition serves
and the reset's completion goes out. -/
def finishReset (s : State) (p : Nat) : State :=
  let r := (getPart s p).resetting.bind (·.2)
  let s := renumber (unfencePart s p) p
  let s := if (getPart s p).map.isSome then readMaps (relaunchPart s p) p else s
  let s := recomputeJob (modPart s p fun q => { q with resetting := none }) (jobOfPart s p)
  match r with | some r => complete s r stOk [] | none => s

/-- A reset that has not ended keeps its completion. -/
def awaitReset (s : State) (p : Nat) (r : Reply) : State :=
  match (getPart s p).resetting with
  | some (t, _) => modPart s p fun q => { q with resetting := some (t, some r) }
  | none => complete s r stOk []

/-- Partition reset (R400): everything of its dies restarts, DRAM keeps its contents, loaders are launched, the map handles
read through and requests recomputed. -/
def resetPartition (s : State) (p : Nat) : State :=
  let q := getPart s p
  let j := jobOfPart s p
  let s := fenceWaitsEnd (fenceEnded (fencePart s p) p) (clustersOf q.sites)
  let s := modPart s p fun q => { q with numberDue := none, resetNext := none }
  -- the channels go into self-refresh, and leave it under the controllers that have restarted
  let s := (clustersOf q.sites).foldl (fun s cl => if Tbl.has s.clusters cl then modClu s cl fun u => { u with selfRefresh := true } else s) s
  let ks := (q.sites.map fun d => (List.range 4096).map (d * 4096 + ·)).flatten
  let live := ks.filter fun k => Tbl.has s.cores k
  let s := live.foldl resetCore s
  let s := (clustersOf q.sites).foldl (fun s cl => if Tbl.has s.clusters cl then resetCluster s cl else s) s
  let s := { s with links := Tbl.map s.links fun l x => if q.sites.contains (l / 4) then { x with due := [], steered := [], bare := [], discards := [] } else x }
  let s := quitSteps s j
  -- a die that fails the check is lost (R403)
  let s := loseDies s (q.sites.filter fun d => !(getDie s d).retired && ((getDie s d).dark || (getDie s d).fenced)) 6
  let s := if (getPart s p).lacking then s
    else if s.replacing.any (fun r => r.part = p) then modPart s p fun q => { q with resetting := some (s.tally, q.resetting.bind (·.2)) }
    else finishReset s p
  match q.resetNext with | some r => awaitReset s p r | none => s

/-- Registers of Table 17-6 at a panel reset (R388); what the Ledger itself keeps is not reset (R400). A parked partition is in Full then, and
its clusters wake. -/
def PartLedger.cleared (l : PartLedger) : PartLedger :=
  { l with
    pmode := 0, waking := l.waking || l.pmode = 3, next := if l.pmode = 3 then none else l.next, allow := 0, resv := 0, last := 0,
    fed := [], gaps := [], lastStart := none, lcap := 16, reqstep := 24 }
def PanelLedger.cleared (l : PanelLedger) : PanelLedger :=
  { l with
    ein := 0, pin := 0, ovh := 0, guest := 0, unch := 0, unchTotal := 0, tin := 0, tout := 0, tclu := 0, tdram := 0, tstage := 0, limits := 0,
    flow := 200, flowRpt := 0xFFFF, flowRptAt := none, warmDies := 0, prewarm := false }

/-- Panel reset (R400): every partition, the optical dies and the Gates; diagnostic counters return to 0. -/
def resetPanel (s : State) : State :=
  let s := (s.parts.map (·.1)).foldl resetPartition s
  let cl := Tbl.map s.clusters fun _ u => { u with
    spTiles := 0, dnTiles := 0, tolerated := 0, declFaults := 0, indexFaults := 0, ceCount := 0, ueConsumed := 0, ueWriteback := 0,
    innerCe := 0, outerCe := 0, ueRead := 0, ueScrub := 0, recalCount := 0, crcData := 0, crcCtrl := 0, dropHops := 0, dropUnreach := 0,
    dropMisc := 0, disarmed := 0, deflect := 0, ejected := 0, ctxWdog := 0, engWdog := 0, ansAborted := 0, ansDone := 0, relaunch := 0,
    stretch := 0, overruns := 0, wakeWaits := 0, wakeStretch := 0, vminSeen := false, vmin := 0, vminIdx := 0 }
  let hub (h : Hub) : Hub := { h with
    fcsErr := 0, unknown := 0, resends := 0, linkDown := 0, naks := 0, macDrop := 0, replayDrop := 0, ringFull := 0, hsReject := 0,
    sessExpired := 0 }
  let s := closeSites s (List.range 8)
  let cores := Tbl.map s.cores fun _ c => { c with hang := Core.reset.hang }
  let late := s.parts.any fun q => q.2.resetting.isSome
  let s := ((s.parts.filter fun q => q.2.ledger.pmode = 3).map fun q => partClusters q.2).flatten.foldl requestWake s
  { s with
    parts := Tbl.map s.parts fun _ q => { q with ledger := q.ledger.cleared, dist := { q.dist with bank := false } }, ledger := s.ledger.cleared
    epoch := Epoch.reset, bank0 := hubBank s, bank1 := Bank.reset
    resets := { s.resets with panelAt := if late then some s.tally else none }
    clusters := cl, hub0 := hub s.hub0, hub1 := hub s.hub1, optDies := [], guests := Tbl.map s.guests fun _ g => { g with viol := 0, denials := 0 }, cores := cores }

/-! ### Abandonment (R258 to R260, R396) -/

/-- Tokens fed in a group that is abandoned count as lost work of the period (R369). -/
def loseGroup (s : State) (j : Nat) (b : Bool) : State :=
  let n := sumNat ((fedReqs s j b).map fun r => r.2.nin)
  (partsOfJob s j).foldl (fun s p => modPart s p fun q => { q with
    ledger := { q.ledger with lostTokens := q.ledger.lostTokens + n } }) s

/-- The fourth abandonment in a row of a group ends its requests (R260). True: it did. -/
def replayLimit (s : State) (j : Nat) (b : Bool) : State × Bool :=
  let x := getJob s j
  let n := (if b then x.abandonsB else x.abandonsA) + 1
  let last := decide (4 ≤ n)
  let n := if last then 0 else n
  let s := modJob s j fun x => if b then { x with abandonsB := n } else { x with abandonsA := n }
  (if last then (groupReqs s j b).foldl (fun s r => endRequest s r stReplayLimit) s else s, last)

/-- The hub's abort of a task (R258 step 1, R408). -/
def hubAbort (s : State) (j : Nat) (x : Nat × Nat) : State :=
  let task := (getCtx s x.1 x.2).task
  modJob (hubToCore s x.1 8 (task.toNat + 2 ^ 16)) j fun y => { y with aborts := y.aborts ++ [(x.1, task)] }

/-- Has a job a step in flight that is not abandoned, and has not released all its groups? -/
def stepOpen (s : State) (j : Nat) : Bool := (getJob s j).steps.any fun t => !t.abandoned && t.open_ (jobSplit s j)

/-- Releases of the job that wait for a slice go with its steps. -/
def dropReleases (s : State) (j : Nat) : State :=
  let keeps (w : SliceWait) : Bool := match w.work with | .release i _ _ => i ≠ j | _ => true
  { s with clusters := Tbl.map s.clusters fun _ u => { u with waits := u.waits.filter keeps } }

/-- The steps in flight of a job are abandoned, once (R258 steps 1 to 3, R396): tasks are aborted and fenced, the channels reset when the fences
are acknowledged, groups not released abandoned. True: a group came to REPLAY_LIMIT. -/
def abandonGroups (s : State) (j : Nat) : State × Bool :=
  if stepOpen s j then
    let x := getJob s j
    let split := jobSplit s j
    let cls := busyClusters s j
    let s := (busyCtxs s j).foldl (fun s x => hubAbort s j x) s
    let s := cls.foldl (fun s cl => fenceFor s j cl 3 15 0 0) s
    let aOpen := x.steps.any fun t => !t.relA
    let bOpen := split && x.steps.any fun t => !t.relB
    let s := if aOpen then loseGroup s j false else s
    let s := if bOpen then loseGroup s j true else s
    let s := dropReleases s j
    let s := modJob s j fun x => { x with resetDue := true, steps := x.steps.map fun t => { t with abandoned := t.open_ split } }
    let s := resetFenced s j
    let (s, hitA) := if aOpen then replayLimit s j false else (s, false)
    let (s, hitB) := if bOpen then replayLimit s j true else (s, false)
    (s, hitA || hitB)
  else (s, false)

/-- The abandonment in hand is counted, once (R396, R411). -/
def countOnce (s : State) (j : Nat) : State :=
  if (getJob s j).counted then s else countReset (modJob s j fun x => { x with counted := true })

/-- Rung 3 of a job whose steps have been abandoned: each of its partitions is reset, and the job goes on (Table 18-3). -/
def resetJob (s : State) (j : Nat) : State :=
  let s := countOnce (noteRung s 3) j
  let s := faultEvent s 2 ((partsOfJob s j).headD 0) stFenced 3 []
  kickJob ((partsOfJob s j).foldl (fun s p => resetPartition s p) s) j

/-- The steps of a job are abandoned; REPLAY_LIMIT takes it to rung 3 (Table 18-3). -/
def abandonStep (s : State) (j : Nat) : State :=
  match abandonGroups s j with
  | (s, true) => resetJob s j
  | (s, false) => s

/-- Do the partitions of a job run no steps (R437)? -/
def jobBb (s : State) (j : Nat) : Bool := (partsOfJob s j).any fun p => (getPart s p).map.any (·.bb)

/-- One report of a fault of a job (R396): the step is abandoned once and counted once, where a watchdog has caused that or the rung is a reset's
(R411); the highest rung decides. Base-bound partitions run no step, and nothing of theirs is replayed (R437). -/
def reportStep (s : State) (j rung : Nat) (watchdog : Bool) : State :=
  if jobBb s j then s
  else match abandonGroups s j with
  | (s, true) => resetJob s j
  | (s, false) =>
    let r := Nat.max rung (getJob s j).rung
    let s := noteRung (modJob s j fun x => { x with rung := r }) r
    if (watchdog && (getJob s j).steps.any (·.abandoned)) || 3 ≤ r then countOnce s j else s

/-- Rung 3 of a job. -/
def rungPartition (s : State) (j : Nat) : State := resetJob (abandonGroups s j).1 j

/-- Rung 4: every job goes on after the reset. -/
def rungPanel (s : State) : State :=
  let s := countReset (noteRung s 4)
  let s := faultEvent s 3 0 stFenced 4 []
  if s.state = .safe then s else
    let s := (s.parts.map fun q => jobOfPart s q.1).foldl (fun s j => (abandonGroups s j).1) s
    let s := resetPanel s
    (s.parts.map fun q => jobOfPart s q.1).foldl kickJob s

/-! ### RESET by the host (R395, R400) -/

/-- RESET of a partition whose fence has ended: rung 3, with the step that is still in flight abandoned. -/
def resetNow (s : State) (p : Nat) : State :=
  match (getPart s p).resetNext with
  | none => s
  | some r =>
    let j := jobOfPart s p
    let s := modPart s p fun q => { q with resetNext := none }
    let s := faultEvent (reportStep s j 3 false) 2 p stFenced 3 []
    if s.state ≠ .serving then complete s r stFenced []
    else kickJob (awaitReset (resetPartition s p) p r) j

/-- RESET of the panel once the fences of all its partitions have ended: rung 4. -/
def panelResetNow (s : State) : State :=
  match s.panelReset with
  | none => s
  | some r =>
    if s.parts.any fun q => q.2.fenceAt.isSome then s
    else
      let s := rungPanel { s with panelReset := none }
      if s.state ≠ .serving then complete s r stFenced []
      else match s.parts.find? fun q => q.2.resetting.isSome with
        | some q => awaitReset s q.1 r
        | none => complete s r stOk []

/-- A partition's fence has taken its work: FENCE completes, and a RESET that waits goes on. -/
def fenceDone (s : State) (p : Nat) : State := panelResetNow (resetNow (fenceEnded s p) p)

end Sys2Proof.Machine
end

