-- ==== Sys2Proof/Machine/Steps.lean ====
section
/-! DEFINITION. The release of tokens, and the clearing of a generation with what it means for the steps of a job (10 R244 to R256, 12 R283
to R286, R289). -/

namespace Sys2Proof.Machine

/-! ### Release (R252, R289) -/

/-- A step record (Table 10-4): VALID, NOTOKEN, TOKEN, DROPS. -/
structure StepRec where
  valid : Bool
  noToken : Bool
  token : BitVec 32
  drops : Nat
  deriving DecidableEq, Repr

/-- Byte offset of a slot's record in RECH. -/
def recOff (m : PartMap) (parity slot : Nat) : Nat := (parity * m.step.slots + slot) * 16

/-- A record as read; only a Budgeted map's drops count (R158). -/
def stepRec (m : PartMap) (v : Nat) : StepRec :=
  { valid := v.testBit 48, noToken := v.testBit 49, token := BitVec.ofNat 32 (field v 64 32),
    drops := if m.pred.mode = 2 then field v 96 32 else 0 }

/-- The hub reads the records of slots in every partition of the job, each with its slot; none when one could not be read. -/
def readRecords (s : State) (ps : List Nat) (parity : Nat) (slots : List Nat) : State × Option (List (Nat × StepRec)) :=
  ps.foldl (fun acc p => match (getPart acc.1 p).map with
    | none => acc
    | some m => slots.foldl (fun acc n => match readBuf acc.1 p m.step.rech (recOff m parity n) 16 with
        | (t, some v) => (t, acc.2.map fun l => l ++ [(n, stepRec m v)])
        | (t, none) => (t, none)) acc) (s, some [])

/-- A channel in a slice that holds records of a partition of the job: the hub's reads wait for its end (R192). -/
def recordsHeld (s : State) (j : Nat) : Option Nat :=
  ((partsOfJob s j).filterMap fun p => (getPart s p).map.bind fun m =>
    let d := Tbl.get (getPart s p).handles m.step.rech Handle.reset
    if d.kind then none else some (bufCluster (getPart s p) d)).find? (inSlice s)

/-- What a release does to one request. -/
structure Outcome where
  req : Request
  /-- The block to release, the new Escrow record's index, position and digest, and the status if the request ends. -/
  block : Option Bytes
  escrow : Option (Nat × Nat × Bytes)
  ends : Option Status
  deriving DecidableEq, Repr

/-- The records of a request's slot, one per partition, decide (R251, R252, R289). `tokens` counts the fed tokens that met a drop. -/
def outcomeOf (req : Nat) (r : Request) (recs : List StepRec) (tokens : Nat) : Outcome :=
  let drops := sumNat (recs.map (·.drops))
  let r := { r with
    drops := satAdd r.drops drops, dropTokens := satAdd r.dropTokens tokens, nin := 0
    fed := if r.fed < r.sub.plen then r.fed + r.nin else r.fed }
  let r := { r with state := if r.fed = r.sub.plen ∧ r.state = 1 then 2 else r.state }
  let none_ : Outcome := { req := r, block := none, escrow := none, ends := none }
  if !r.sample then none_
  else if recs.any (·.noToken) then { none_ with ends := some stNoToken }
  else match recs.find? (·.valid) with
    | none => none_
    | some c =>
      let k := r.computed + 1
      let pos := r.sub.plen + k - 1
      let d := digestNext r.digest c.token pos
      let r := { r with computed := k, digest := d }
      let last := r.sub.stops.contains c.token || k = r.sub.maxout
      if k < r.escIdx then { none_ with req := r }
      else if k = r.escIdx then
        if d = r.escDigest then
          { none_ with req := r, block := some (tokenBlock req k [c.token] last 0), ends := if last then some stOk else none }
        else { none_ with req := r, ends := some stDigest }
      else
        let r := { r with
          released := k, escIdx := k, escPos := pos, escDigest := d, state := if r.state = 3 then 2 else r.state }
        { req := r, block := some (tokenBlock req k [c.token] last 0), escrow := some (k, pos, d), ends := if last then some stOk else none }

/-- Does a release's block wait for the acknowledgement of its Escrow record (R290)? -/
def holdsBlocks (s : State) : Bool := s.twin.role = .primary && s.twin.attached

/-- A block goes out at once; or it waits for its own Escrow record, or behind a block of its request that waits (R290, R299). -/
def holdBlock (s : State) (req sess : Nat) (own : Option Nat) (b : Bytes) : State × Option (Nat × Bytes) :=
  match own.or ((s.twin.held.reverse.find? fun h => h.2.1 = req).map (·.1)) with
  | some q => ({ s with twin := { s.twin with held := s.twin.held ++ [(q, req, b)] } }, none)
  | none => (s, some (sess, b))

/-- One request of the group, its effects on the state; its block, if it may go out now, is answered. -/
def applyOutcome (s : State) (req : Nat) (o : Outcome) : State × Option (Nat × Bytes) :=
  let s := { s with requests := Tbl.put s.requests req o.req }
  let own := if o.escrow.isSome && holdsBlocks s then some s.twin.nextSeq else none
  let s := match o.escrow with
    | some (k, pos, d) => escrowSend s 2 req req (leBytes 4 k ++ leBytes 4 pos ++ d)
    | none => s
  match o.ends with
  | some st =>
    if st = stOk then
      let s := closeRequest s req stOk
      match o.block with
      | some b => holdBlock s req o.req.sess own b
      | none => (s, none)
    else (endRequest s req st, none)
  | none =>
    match o.block with
    | some b => holdBlock s req o.req.sess own b
    | none => (s, none)

/-- The ring's next free line and its lines in use after a payload of `len` bytes (R303). -/
def ringAfter (ring : Nat) (r : Nat × Nat) (len : Nat) : Nat × Nat :=
  ((if r.1 + ceilDiv len 64 ≤ ring then r.1 else 0) + ceilDiv len 64, r.2 + ringNeed ring r.2 r.1 len)

/-- Have payloads of the lengths `lens`, behind those that wait, no room in a session's ring or store (R301, R303)? -/
def overflows (s : State) (t : Session) (lens : List Nat) : Bool :=
  let waiting := (t.retained.filter fun d => d.2.sends = 0).map fun d => d.2.payload.length
  let ring := ringLines s t
  if t.byRdma then ring < ((waiting ++ lens).foldl (ringAfter ring) (t.ringAt, t.ringUsed)).2 else 8 * 2 ^ 20 < t.held + sumNat lens

/-- Lengths of the payloads that a session has still to queue: blocks held for the Shadow, each by itself, and those of a release. -/
def payloadsDue (s : State) (n : Nat) (blocks : List Bytes) : List Nat :=
  let held := s.twin.held.filter fun h => (Tbl.find s.requests h.2.1).any fun r => r.sess = n
  let fresh := if holdsBlocks s then blocks.map fun b => [b] else chunkBlocks blocks [] 16
  (held.map fun h => 16 + h.2.2.length) ++ fresh.map fun c => 16 + c.flatten.length

/-- Sessions whose store a release would overflow: their active requests end with TIMEOUT. -/
def checkStores (s : State) (os : List (Nat × Outcome)) : State :=
  s.sessions.foldl (fun s t =>
    let blocks := os.filterMap fun o => if o.2.req.sess = t.1 then o.2.block else none
    if blocks ≠ [] && overflows s t.2 (payloadsDue s t.1 blocks) then
      let s := modSess s t.1 fun t => { t with overflow := true }
      (activeReqs s fun r => r.sess = t.1).foldl (fun s r => endRequest s r stTimeout) s
    else s) s

/-- Tokens of a record that met a drop: one token fed says it itself; of several the record names only the sum, so how many is a free
value between one and the least of the two (Table 6-5, log 7). -/
def dropTokensOf (s : State) (nin drops : Nat) : Nat :=
  if drops = 0 then 0 else if nin ≤ 1 then 1 else 1 + (freeWord s).toNat % Nat.min nin drops

/-- What the clearing of a release channel comes to: the group is released, a map fault (R252), or records that could not be read. -/
inductive Released where
  | done | fault | unreadable
  deriving DecidableEq, Repr

/-- A release channel of group `b` of step `t` has cleared (R252). Every slot that the step fed is read, that of a request which has ended
since too. Records that the hub cannot read fault the step as an uncorrectable line that concerns every sequence of it (R200, log 105). -/
def release (s : State) (j : Nat) (t : Step) (b : Bool) : State × Released :=
  let ps := partsOfJob s j
  let fed := fedReqs s j b
  match readRecords s ps (t.num % 2) (fed.map (·.2.slot.getD 0)) with
  | (s, none) => (s, .unreadable)
  | (s, some l) =>
  let recs (x : Request) : List StepRec := (l.filter fun c => x.slot = some c.1).map (·.2)
  if fed.any fun r => decide (1 < ((recs r.2).filter fun c => c.valid || c.noToken).length) then (s, .fault)
  else
    let os := (fed.filter fun r => r.2.state ≠ 4).map fun r =>
      (r.1, outcomeOf r.1 r.2 (recs r.2) (dropTokensOf s r.2.nin (sumNat ((recs r.2).map (·.drops)))))
    let s := bumpFree s
    let s := fed.foldl (fun s r => ps.foldl (fun s p => modPart s p fun q => { q with ledger := { q.ledger with
        tokens := Tbl.put q.ledger.tokens r.1 (Tbl.get q.ledger.tokens r.1 0 + r.2.nin) } }) s) s
    let s := checkStores s os
    let (s, blocks) := os.foldl (fun (acc : State × List (Nat × Bytes)) o =>
      match Tbl.find acc.1.requests o.1 with
      | some x =>
        if x.state = 4 then acc
        else match applyOutcome acc.1 o.1 o.2 with
          | (s, some b) => (s, acc.2 ++ [b])
          | (s, none) => (s, acc.2)
      | none => acc) (s, [])
    let s := s.sessions.foldl (fun s n => pushBlocks s n.1 ((blocks.filter fun b => b.1 = n.1).map (·.2))) s
    let s := escrowSend s 5 j 0 (leBytes 2 j ++ leBytes 2 (b2n b) ++ leBytes 4 0 ++ leBytes 8 t.num)
    (modJob s j fun x => { x with
      marked := if x.marked.contains b then x.marked else b :: x.marked
      abandonsA := if b then x.abandonsA else 0, abandonsB := if b then 0 else x.abandonsB
      steps := x.steps.map fun u => if u.num = t.num then (if b then { u with relB := true } else { u with relA := true }) else u }, .done)

/-- A step with every group released is over. -/
def Step.ended (t : Step) (split : Bool) : Bool := t.relA && (!split || t.relB)

/-- Engines leave serial mode, and the contexts whose watchdog has fired are forgotten, once the groups of every step of the replay are released
(R401, R402). -/
def endSerial (s : State) (j : Nat) : State :=
  let x := getJob s j
  if x.rung ≠ 0 || x.steps.any fun t => x.replayed.contains t.num then s
  else
    let mine (k : Nat) (c : Core) : Bool :=
      (c.serial ≠ 0 || c.wdCtx ≠ 0) && (match partOfCore s k with | some p => jobOfPart s p = j | none => false)
    let s := { s with cores := Tbl.map s.cores fun k c => if mine k c then { c with serial := 0, suspects := [], wdCtx := 0 } else c }
    modJob s j fun x => { x with serialReplay := false, replayed := [] }

/-- Steps over leave flight; the partitions count them (R173). -/
def retireSteps (s : State) (j : Nat) : State :=
  let split := jobSplit s j
  let n := ((getJob s j).steps.filter fun t => t.ended split).length
  if n = 0 then s
  else
    let s := modJob s j fun x => { x with steps := x.steps.filter fun t => !t.ended split }
    let s := endSerial s j
    tryAnnounce ((partsOfJob s j).foldl (fun s p => modPart s p fun q => { q with steps := q.steps + n }) s)

/-- A layer of the step has cleared: the group or groups that ran it go on to the next. With two groups, group A runs its first OVERLAP
layers, then group B its own, then both together, then each its last ones (R254, R259; log 107). -/
def Step.advance (t : Step) (m : MapStep) : Step :=
  let n := m.nlayer
  let h := m.overlap
  let a := { t with layA := Nat.min n (t.layA + 1) }
  let b := { t with layB := Nat.min n (t.layB + 1) }
  if m.split = 0 then a
  else if t.relA then b
  else if t.layA < h then a
  else if t.layB < h then b
  else if t.layA < n - h ∨ t.layB < n - h then
    (if t.layA < t.layB then a else if t.layB < t.layA then b else { a with layB := b.layB })
  else if t.layA < n then a
  else b

/-- What follows a release: entries for the next step, and the step after, which begins beside this one only where the map overlaps them
(R252, R254). -/
def afterRelease (s : State) (j : Nat) (m : PartMap) (b : Bool) : State :=
  let s := retireSteps s j
  let s := writeGroup s j b
  if (getJob s j).steps = [] then kickJob s j
  else if !b && 0 < m.step.overlap && decide ((getJob s j).steps.length < 2) && jobServes s j then beginStep s j
  else s

/-- Every request whose tokens a fault withholds is rebuilt from Escrow (R200). -/
def withholdAll (s : State) (j : Nat) : State := recomputeJob (reportStep s j 1 false) j

/-- Group `b` of step `num` is released, unless the step is over or abandoned by then. True: a map fault. While a channel that holds its
records is in a slice the release waits with the hub's reads (R192). -/
def releaseStep (s : State) (j num : Nat) (b : Bool) : State × Bool :=
  match (getJob s j).steps.find? fun t => t.num = num && !t.abandoned && !(if b then t.relB else t.relA),
      (getPart s ((partsOfJob s j).headD 0)).map with
  | some t, some m =>
    (match recordsHeld s j with
     | some cl => (holdAt s cl (.release j num b), false)
     | none => match release s j t b with
       | (s, .fault) => (s, true)
       | (s, .unreadable) => (withholdAll s j, false)
       | (s, .done) => (afterRelease s j m b, false))
  | _, _ => (s, false)

/-- What the clearing of channel `ch` of a job means for its steps: a layer, or the release of a group (R252, R254). True: a map fault. -/
def stepCleared (s : State) (j ch : Nat) (m : PartMap) (e : ClearEntry) : State × Bool :=
  let mine (t : Step) : Bool := !t.abandoned && (e.parity = 0 || (e.parity.toNat - 1 = t.num % 2))
  match (getJob s j).steps.find? fun t => mine t &&
      (!e.role || (ch = (if t.num % 2 = 0 then m.step.relA0 else m.step.relA1) && !t.relA) ||
        (0 < m.step.split && ch = (if t.num % 2 = 0 then m.step.relB0 else m.step.relB1) && !t.relB)) with
  | none => (s, false)
  | some t =>
    if !e.role then
      (modJob s j fun x => { x with steps := x.steps.map fun u => if u.num = t.num then u.advance m.step else u }, false)
    else releaseStep s j t.num (!(ch = (if t.num % 2 = 0 then m.step.relA0 else m.step.relA1) && !t.relA))

/-- Does the channel extend over other panels (R283)? -/
def crossPanel (s : State) (p ch : Nat) : Bool :=
  let j := jobOfPart s p
  (getJob s j).formed && 1 < (getJob s j).members.length && chanScope s p ch = partsOfJob s j &&
    (match (getPart s p).map with | some m => (match m.clear[ch]? with | some e => e.join | none => false) | none => false)

/-- A generation clears in its scope (R246): contributions fall, the next opens; streams start; steps go on. -/
def clearGen (s : State) (p ch : Nat) : State :=
  let ps := chanScope s p ch
  let j := jobOfPart s p
  let s := ps.foldl (fun s q => modPart s q fun x => { x with
    chans := Tbl.put x.chans ch { Chan.reset with
      gen := (Tbl.get x.chans ch Chan.reset).gen + 1, cleared := (Tbl.get x.chans ch Chan.reset).gen + 1 } }) s
  let s := if crossPanel s p ch then modJob s j fun x => { x with clears := Tbl.put x.clears ch (Tbl.get x.clears ch 0 + 1) } else s
  let (s, bad) := ps.foldl (fun (acc : State × Bool) q => let (s, b) := triggerStreams acc.1 q ch; (s, acc.2 || b)) (s, false)
  let (s, bad2) := match (getPart s p).map with
    | some m => (match m.clear[ch]? with | some e => stepCleared s j ch m e | none => (s, false))
    | none => (s, false)
  if bad || bad2 then reportStep s j 1 false else s

/-- Has every enrolled context of a partition arrived? -/
def partArrived (s : State) (p ch : Nat) : Bool :=
  let q := getPart s p
  match q.map with
  | none => false
  | some m => match m.clear[ch]? with
    | none => false
    | some e =>
      let c := Tbl.get q.chans ch Chan.reset
      e.ctxmask ≠ 0 && !c.held && q.numbering.all fun k => (Tbl.get c.arrived k 0 &&& e.ctxmask) = e.ctxmask

/-- Between steps, fences that waited are complete (Table 18-4), clusters that wait to leave service leave, and the job goes on (R6). -/
def boundary (s : State) (j : Nat) : State :=
  let s := if !(getJob s j).steps.isEmpty then s
    else (partsOfJob s j).foldl fenceDone s
  if (getJob s j).steps.isEmpty && jobLeaving s j then kickJob ((partsOfJob s j).foldl leaveService s) j else s

/-- The release that waited for a slice; what follows it is as at the clearing. -/
def heldRelease (s : State) (j num : Nat) (b : Bool) : State :=
  let (s, bad) := releaseStep s j num b
  boundary (if bad then reportStep s j 1 false else s) j

/-- A frame of a job (R283): CLEAR_UP or CLEAR_NOTICE, with JOB, EPOCH, the channel and the generation in its payload. -/
def jobFrame (s : State) (otype dst j ch gen : Nat) (epoch : BitVec 32) : OptFrame :=
  { otype := BitVec.ofNat 4 otype, src := BitVec.ofNat 10 s.sys.panel, spart := 0, dst := BitVec.ofNat 10 dst, dpart := 0, win := 0, gen := 0,
    line := 0, seq := 0, e2e := 0, payload := BitVec.ofNat 512 (j + 2 ^ 16 * epoch.toNat + 2 ^ 48 * ch + 2 ^ 64 * gen) }

/-- The optical die that a frame for a panel leaves by (R275), from the leading hub's position. -/
def exitDie (s : State) (dst : Nat) : Nat :=
  match torusDir s.sys.panel dst with
  | some d => nearestOptical s (tableHoles s) d (hubRouters (hubY s - 511))
  | none => 0

/-- A torus frame leaves: in Assured it is numbered, protected and kept until it is acknowledged (R278, R279). In the safe state the
lanes send idle frames only (Table 18-7). -/
def sendFrame (s : State) (oe : Nat) (f : OptFrame) : State :=
  if s.state = .safe || s.state = .safeNoId then s
  else if s.sys.assured && f.otype ≠ 4 && f.otype ≠ 8 then
    let a := Tbl.get s.assured f.dst.toNat Assured.reset
    let f := { f with seq := a.nextSeq }
    let f := { f with e2e := e2eOf f }
    let a := { a with nextSeq := a.nextSeq + 1, sent := a.sent ++ [{ frame := f, oe := oe, sentAt := s.tally, sends := 1 }] }
    emit { s with assured := Tbl.put s.assured f.dst.toNat a } (.frame oe f)
  else emit s (.frame oe f)

/-- The panel that serves as a member: a Shadow may stand in for it (R286). -/
def Job.panelOf (x : Job) (m : Nat) : Nat := Tbl.get x.subs m m

/-- The member that a panel serves as. -/
def Job.memberAt (x : Job) (p : Nat) : Option Nat := x.members.find? fun m => x.panelOf m = p

/-- Is this panel the lead of the job? -/
def leads (s : State) (j : Nat) : Bool := (getJob s j).panelOf (getJob s j).lead = s.sys.panel

/-- The members of a job that other panels serve as. -/
def others (s : State) (j : Nat) : List Nat := (getJob s j).members.filter fun m => (getJob s j).panelOf m ≠ s.sys.panel

/-- The lead's decision: its own part and every member's CLEAR_UP are in (R283). -/
def leadDecides (s : State) (p ch : Nat) : State :=
  let j := jobOfPart s p
  let x := getJob s j
  let own := (Tbl.find x.upAt ch).isSome
  let ups := Tbl.get x.ups ch []
  if own && (others s j).all (ups.contains ·) then
    let s := (others s j).foldl (fun s m => sendFrame s (exitDie s (x.panelOf m)) (jobFrame s 6 (x.panelOf m) j ch (Tbl.get x.clears ch 0) x.epoch)) s
    let s := modJob s j fun x => { x with ups := Tbl.drop x.ups ch, upAt := Tbl.drop x.upAt ch }
    boundary (clearGen s p ch) j
  else s

def execClearingGenerationClear (part ch : Nat) (s : State) : Out :=
  report s (
    let ps := chanScope s part ch
    if !(ps.all fun p => partArrived s p ch) || ps = [] then s
    else if crossPanel s part ch then
      let j := jobOfPart s part
      let x := getJob s j
      if (Tbl.find x.upAt ch).isSome then s
      else
        let s1 := modJob s j fun x => { x with upAt := Tbl.put x.upAt ch s.tally }
        if leads s j then leadDecides s1 part ch
        else sendFrame s1 (exitDie s1 (x.panelOf x.lead)) (jobFrame s1 5 (x.panelOf x.lead) j ch (Tbl.get x.clears ch 0) x.epoch)
    else boundary (clearGen s part ch) (jobOfPart s part))

/-- The notice reaches a core: the generations that have cleared at the root are cleared there (R246). -/
def execClearingNoticeArrival (core ch : Nat) (s : State) : Out :=
  .next (match partOfCore s core with
    | none => s
    | some p =>
      let g := (Tbl.get (getPart s p).chans ch Chan.reset).cleared
      if (getPart s p).numbering.contains core then modCore s core fun c => { c with seen := Tbl.put c.seen ch g } else s)

/-- Clearing nodes that never rose, for the root's record and the probes (R247, R394). -/
def silentNodes (s : State) (p ch : Nat) : List Nat :=
  let q := getPart s p
  match q.map with
  | none => []
  | some m => match m.clear[ch]? with
    | none => []
    | some e =>
      let c := Tbl.get q.chans ch Chan.reset
      (q.numbering.filter fun k => (Tbl.get c.arrived k 0 &&& e.ctxmask) ≠ e.ctxmask).foldl
        (fun l k => if l.contains (clusterOf k) then l else l ++ [clusterOf k]) []

/-- The watchdog of a generation fires (R247): the root holds it, the hub abandons the step and probes the silent nodes. A channel over panels
may wait for another one's part, although all of this panel's have risen (R283). -/
def execClearingWatchdogExpiry (part ch : Nat) (s : State) : Out :=
  report s (
    let c := Tbl.get (getPart s part).chans ch Chan.reset
    match firstRise s part ch, (getPart s part).map with
    | some t, some m =>
      match m.clear[ch]? with
      | none => s
      | some e =>
        let ps := chanScope s part ch
        if c.held || now s < t.toNat + e.wdog * 10000 || (ps.all (fun p => partArrived s p ch) && !crossPanel s part ch) then s
        else
          let silent := (ps.map fun p => (p, silentNodes s p ch))
          let s := ps.foldl (fun s p => modPart s p fun q => { q with
            chans := Tbl.put q.chans ch { (Tbl.get q.chans ch Chan.reset) with held := true }
            silent := Tbl.put q.silent ch (silentNodes s p ch) }) s
          let s := (silent.map (·.2)).flatten.foldl (fun s cl =>
            let k := portCore cl
            sendCtrl (modClu s cl fun u => { u with probedAt := some s.tally }) 0x0E (hubX (coreX k)) (hubY s) (coreX k) (coreY k) 0) s
          if m.bb then faultEvent (fencePart s part) 2 part stTimeout 0 [] else reportStep s (jobOfPart s part) 1 true
    | _, _ => s)

end Sys2Proof.Machine
end

