-- ==== Sys2Proof/Machine/Dram.lean ====
section
/-! DEFINITION. The work of a channel: who is served next, maintenance, and what an uncorrectable line affects (02 R65, 08 R190 to R194,
R200, R201). -/

namespace Sys2Proof.Machine

/-- A line on its way from a channel's port to a core. -/
def deliverLine (s : State) (cl : Nat) (x y : BitVec 10) (spLine cnt : Nat) (v : Line) : State :=
  emit s (.inject (portCore cl)
    { epoch := s.epoch.cur, hops := 0, payload := v,
      hdr := .unicast false (BitVec.ofNat 4 cnt) (BitVec.ofNat 10 spLine) x y 0 false })

/-- The port router of a channel that injects a circuit (R241). -/
def circuitPort (s : State) (cl circ : Nat) : Nat :=
  (([27, 28, 35, 36].map (cl * 64 + ·)).find? fun k => (List.range 16).any (injectsIn s k s.epoch.cur 5 circ)).getD (portCore cl)

/-! ### Who is served next (R65, R192) -/

/-- The core that a read is for; a stream's lines are for its circuit. -/
def ReadJob.core (j : ReadJob) : Option Nat :=
  match j.dest with | .core x y _ _ => some (coreAt x.toNat y.toNat) | .stream .. => none

/-- Weight of a core's requests at a channel: 2 for a port-near core of the channel's cluster (R64, R65; log 109). -/
def shareOf (cl k : Nat) : Nat := if clusterOf k = cl && decide (portDist k ≤ 2) then 2 else 1

/-- The least of some numbers. -/
def least : List Nat → Option Nat
  | [] => none
  | a :: l => some (l.foldl Nat.min a)

/-- The core served next among those with pending requests, and the lines left of its turn: the one in turn, else the next in rising number,
round again from the lowest (R65, log 109). -/
def nextCore (u : Cluster) (cl : Nat) (l : List Nat) : Option (Nat × Nat) :=
  if l.contains u.turn && 0 < u.credit then some (u.turn, u.credit - 1)
  else ((least (l.filter (u.turn < ·))).orElse fun _ => least l).map fun k => (k, shareOf cl k - 1)

/-- The oldest request that has waited through a slice: it is served before any other but a stream's (R192). -/
def Cluster.oldest (u : Cluster) : Option Nat :=
  least (((u.reads.filter fun j => j.core.isSome).map (·.arr) ++ u.commits.map (·.arr) ++ u.waits.map (·.arr)).filter (· < u.heldTo))

/-- The read served next, with the turn it leaves: a stream's line first (R65, R242). -/
def pickRead (u : Cluster) (cl : Nat) : Option (ReadJob × Nat × Nat) :=
  match u.reads.find? fun j => j.core.isNone with
  | some j => some (j, u.turn, u.credit)
  | none => match u.oldest with
    | some a => (u.reads.find? fun j => j.arr = a).map fun j => (j, u.turn, u.credit)
    | none => (nextCore u cl (u.reads.filterMap (·.core))).bind fun (k, n) => (u.reads.find? fun j => j.core = some k).map fun j => (j, k, n)

/-- The write committed next. -/
def pickCommit (u : Cluster) (cl : Nat) : Option (CommitJob × Nat × Nat) :=
  let core (j : CommitJob) := coreAt j.x.toNat j.y.toNat
  match u.oldest with
  | some a => (u.commits.find? fun j => j.arr = a).map fun j => (j, u.turn, u.credit)
  | none => (nextCore u cl (u.commits.map core)).bind fun (k, n) => (u.commits.find? fun j => core j = k).map fun j => (j, k, n)

/-- A line for a core: its data, or one count with the reason it does not come (R94, R199). -/
def answerRead (s : State) (cl : Nat) (x y : BitVec 10) (spLine cnt line : Nat) (v : Option Line) : State :=
  match v with
  | some v => deliverLine s cl x y spLine cnt v
  | none => sendCountOnly (modCore s (coreAt x.toNat y.toNat) fun c => { c with ueLines := c.ueLines ++ [(cl, line)] }) cl x.toNat y.toNat cnt 1 stEcc

/-- A map handle on which the step in hand met an uncorrectable line (R201, R243). -/
def noteUeHandle (s : State) (p h : Nat) : State :=
  modJob s (jobOfPart s p) fun x => { x with ueHandles := if x.ueHandles.contains (p, h) then x.ueHandles else x.ueHandles ++ [(p, h)] }

/-- A stream's line leaves on its circuit. One that reads uncorrectable does not: the step faults with ECC_UNCORRECTABLE on the stream's map
handle, which concerns every sequence (R200, R242, R243). -/
def answerStream (s : State) (cl key : Nat) (last isLast : Bool) (spLine : Nat) (v : Option Line) : State :=
  let p := key / 256
  match (getPart s p).map.bind fun m => m.streams[key % 256]? with
  | none => s
  | some e =>
    let s := match v with
      | some v =>
        emit s (.inject (circuitPort s cl e.circ)
          { epoch := s.epoch.cur, hops := 0, payload := v,
            hdr := .unicast last (BitVec.ofNat 4 e.cnt) (BitVec.ofNat 10 spLine) (BitVec.ofNat 10 e.circ) 0
              (if last then BitVec.ofNat 16 e.lines else 0) true })
      | none => withholdAll (noteUeHandle s p e.handle) (jobOfPart s p)
    if isLast then endRun s p (key % 256) e else s

/-- A read job is served. -/
def serveRead (s : State) (cl : Nat) (job : ReadJob) (rest : List ReadJob) (r : ArrayRead) : State :=
  match job.dest with
  | .core x y spLine cnt =>
    (match job.via.bind fun u => u.refusal s false with
     | some st => sendCountOnly s cl x.toNat y.toNat cnt 1 st
     | none =>
       let (s, v) := demandRead s cl job.line r
       answerRead s cl x y spLine cnt job.line v)
  | .stream key last spLine =>
    let (s, v) := demandRead s cl job.line r
    answerStream s cl key last (!(rest.any fun j => match j.dest with | .stream k _ _ => k = key | .core .. => false)) spLine v

/-- The channel reads the next line, unless it is in a slice or out of service. -/
def readNext (cl : Nat) (r : ArrayRead) (s : State) : State :=
  let u := getClu s cl
  if u.inSlice || u.channelOut then s
  else match pickRead u cl with
    | none => s
    | some (job, turn, credit) =>
      let rest := u.reads.erase job
      serveRead (modClu s cl fun u => { u with reads := rest, turn := turn, credit := credit }) cl job rest r

/-- The channel commits the next line and answers with COMMIT; a line that its window no longer takes is counted with the refusal. -/
def commitNext (cl : Nat) (s : State) : State :=
  let u := getClu s cl
  if u.inSlice || u.channelOut then s
  else match pickCommit u cl with
    | none => s
    | some (job, turn, credit) =>
      let s := modClu s cl fun u => { u with commits := u.commits.erase job, turn := turn, credit := credit }
      match job.via.bind fun w => w.refusal s true with
      | some st => sendCountOnly s cl job.x.toNat job.y.toNat job.cnt 1 st
      | none =>
        let s := commitLine s cl job.line job.data
        let k := portCore cl
        sendCtrl s 4 (coreX k) (coreY k) job.x.toNat job.y.toNat (countBody job.cnt 1 0)

/-! ### Maintenance (R190 to R194) -/

/-- A scrub read finds a line uncorrectable (R193). -/
def scrubUe (s : State) (cl line : Nat) : State :=
  let s := modClu s cl fun u => { u with ueScrub := satAdd u.ueScrub 1, scrubHit := Tbl.drop u.scrubHit line }
  let s := if (getClu s cl).exhLines.contains line then s else remap s cl line 3 true
  dramEvent s (cl / 64) (cl % 64) line (handleOfLine s cl line) 0

/-- Time between two visits of the patrol scrub: every line once in the scrub period of the configuration, in nanoseconds (R191). -/
def scrubGap (s : State) : Nat := s.sys.scrubHours * 3600000000000 / 2 ^ 20

/-- The next line of the channel: a corrected line is rewritten with its corrected data, and remapped where R194 says so; where that remap
fails, this read too answers uncorrectable (R193, R194, R198). -/
def execPatrolScrubVisit (cl : Nat) (r : ArrayRead) (s : State) : Out :=
  report s (
    let u := getClu s cl
    if u.inSlice || now s < u.scrubAt.toNat + scrubGap s then s
    else
      let line := u.scrubPos.toNat
      match readDecoded (modClu s cl fun u => { u with scrubPos := u.scrubPos + 1, scrubAt := s.tally }) cl line r with
      | (s, .good v k) =>
        if k = 0 then modClu s cl fun u => { u with scrubHit := Tbl.drop u.scrubHit line }
        else
          let again := Tbl.get u.scrubHit line false
          let s := modClu (rewriteLine s cl line v) cl fun u => { u with scrubHit := Tbl.put u.scrubHit line true }
          let s := if k = 3 ∨ k = 4 then remap s cl line 1 false else if again then remap s cl line 2 false else s
          if (getClu s cl).exhLines.contains line then scrubUe s cl line else s
      | (s, .bad) => scrubUe s cl line)

/-- One row of one bank is refreshed; no data changes (R190). -/
def execRefresh (cl : Nat) (s : State) : Out := .next (modClu s cl fun u => { u with refreshPos := u.refreshPos + 1 })

/-- The controller reads its DRAM die's temperature; the interval or a change of 8 K starts a full recalibration (R191). -/
def execRecalibrationTrigger (cl : Nat) (temp : BitVec 8) (s : State) : Out :=
  report s (
    let s := modClu s cl fun u => u.noteDie temp
    let u := getClu s cl
    let due := u.lastRecal.toNat + s.sys.recalS * 1000000000 ≤ now s || 8 ≤ dist u.recalTemp.toNat temp.toNat
    let s := if due && u.slicesLeft = 0 then modClu s cl fun u => { u with slicesLeft := 8 } else s
    leaveIfIdle s cl)

/-- A slice starts: not on a channel whose cluster wakes, one channel of a die at a time, and 1 ms after the start of the slice before
(R191, R192; log 96). -/
def execRecalSliceStart (cl : Nat) (s : State) : Out :=
  .next (
    let u := getClu s cl
    let other := (List.range 64).any fun c => (getClu s (cl / 64 * 64 + c)).inSlice
    if u.slicesLeft = 0 || u.inSlice || other || u.pwrState = 1 || (u.slicesLeft < 8 && now s < u.lastSlice.toNat + 1000000) then s
    else modClu s cl fun u => { u with inSlice := true, lastSlice := s.tally })

/-- The slice ends; after the eighth the recalibration is complete, and so is what asked for it (R191, R323). What has waited is served in
the order of its arrival (R192). -/
def endSlice (s : State) (cl : Nat) : State :=
  let u := getClu s cl
  if !u.inSlice then s
  else if 1 < u.slicesLeft then modClu s cl fun u => { u with inSlice := false, slicesLeft := u.slicesLeft - 1, heldTo := u.nextArr }
  else recalDone s cl

/-! ### What an uncorrectable line affects (R200, R201, R259) -/

/-- Requests that lines found uncorrectable concern: a KV handle's line its own request, any other line every request of the job, and so does
a line that lies on no channel of the panel (R200). -/
def affected (s : State) (j : Nat) (lines : List (Nat × Nat)) : List Nat :=
  let all := activeReqs s fun r => r.sub.job = j
  let of_ (x : Nat × Nat) : List Nat :=
    match partOfSite s (x.1 / 64) with
    | some p =>
      let h := handleOfLine s x.1 x.2
      if isKv s p h && decide (h < 4096) then activeReqs s fun r => r.sub.job = j && r.kvh.contains (p, h) else all
    | none => all
  if lines = [] then all else (lines.map of_).flatten.foldl (fun l r => if l.contains r then l else l ++ [r]) []

/-- A step met lines that could not be read: the map handles they lie in, and whether one lies in a buffer that the cores write, such as a
kept input (R201, R259; log 107). -/
def noteUeLines (s : State) (j : Nat) (lines : List (Nat × Nat)) : State :=
  lines.foldl (fun s x =>
    match partOfSite s (x.1 / 64) with
    | some p =>
      let h := handleOfLine s x.1 x.2
      if h < mapM (getPart s p) then
        let s := noteUeHandle s p h
        if (Tbl.get (getPart s p).handles h Handle.reset).wr then modJob s j fun x => { x with fromZero := true } else s
      else s
    | none => s) s

/-- The ranges of map handles on a lost die are copied from the twin to the spare (R405 step 5): as they were last written, or, where the lost
die's array is without power, a free value for each line (log 101). -/
def copyWeights (s : State) (r : Replacement) : State :=
  let q := getPart s r.part
  let idx := q.sites.idxOf r.spare
  let mine := q.handles.filter fun h => h.1 < mapM q && h.2.state = 1 && !h.2.kind && h.2.die.toNat = idx
  mine.foldl (fun s h => (List.range h.2.lines).foldl (fun s l =>
    let c := h.2.cluster.toNat
    let line := handleLine h.2 l
    if (getDie s r.lost).dark then bumpFree (commitLine s (r.spare * 64 + c) line (freeLine s))
    else commitLine s (r.spare * 64 + c) line (storedLine s (r.lost * 64 + c) line)) s) s

end Sys2Proof.Machine
end

