-- ==== Sys2Proof/Machine/Control.lean ====
section
/-! DEFINITION. Task control: aborts, watchdogs, fences, probes, replays, resets, spares; handle and window timers; banks and epochs
(02 R54, 07 R172, R173, R180, 09 R228, R229, 10 R258 to R260, 18 R389 to R409). -/

namespace Sys2Proof.Machine

/-! ### Aborts (R54, R123, R408) -/

/-- An abort reaches a core. A waiting task ends now, a running one at its next retire point; any other task number is answered
ALREADY_DONE. -/
def execAbortPacket (core : Nat) (p : CtrlPacket) (s : State) : Out :=
  .next (
    if p.ctype ≠ 8 then s
    else
      let task : BitVec 16 := p.body.setWidth 16
      let a : AbortReq := { sx := p.sx, sy := p.sy }
      match (List.range 4).find? fun n => (getCtx s core n).state.running && (getCtx s core n).task = task with
      | none => abortAnswer s core 0 task stAlreadyDone a
      | some n =>
        let t := modCtx s core n fun x => { x with aborts := x.aborts ++ [a] }
        if (getCtx s core n).state = .ready then t else endWait s t core n)

/-- An ABORT_ANS names the task that has answered, and its sender the core. The hub collects the answers to its own aborts; every other is
counted at the cluster of the core that sent the abort (R408; DEDUCED, log 139: at an attachment router the hub knows its own by them). -/
def execAbortAns (p : CtrlPacket) (s : State) : Out :=
  .next (
    let a := (coreAt p.sx.toNat p.sy.toNat, p.body.setWidth 16)
    let cl := clusterOf (coreAt p.dx.toNat p.dy.toNat)
    if p.ctype ≠ 9 then s
    else if atHub s p.dx.toNat p.dy.toNat && s.jobs.any (fun j => j.2.aborts.contains a) then
      { s with jobs := Tbl.map s.jobs fun _ x => { x with aborts := x.aborts.erase a } }
    else if field p.body.toNat 16 16 = stAborted.toNat then modClu s cl fun u => { u with ansAborted := satAdd u.ansAborted 1 }
    else modClu s cl fun u => { u with ansDone := satAdd u.ansDone 1 })

/-! ### Watchdogs (R389, R390, R401, R402) -/

/-- Does the context's watchdog count (R389)? -/
def Ctx.watched (x : Ctx) : Bool :=
  match x.state with
  | .ready => true
  | .waitEngine => true
  | .waitFabric => (match x.wait with | .accept _ => true | _ => false)
  | _ => false

def execContextWatchdogExpiry (core ctx : Nat) (s : State) : Out :=
  .next (
    let x := getCtx s core ctx
    if !x.watched || x.fired.isSome || now s < x.wdStart.toNat + 2000000 then s
    else
      let f : Firing := { state := BitVec.ofNat 3 x.state.code, at_ := s.tally, sent := !relaunchable s core x stCtxWatchdog }
      let s := modClu s (clusterOf core) fun u => { u with ctxWdog := satAdd u.ctxWdog 1 }
      let s := if f.sent then sendWatchdog s core ctx 0 false x.state.code x.task s.tally else s
      let t := modCtx s core ctx fun x => { x with fired := some f }
      -- a waiting task ends now, one that can issue at its next retire point
      if x.state = .ready then t else retirePoint t core ctx [] t)

/-- Contexts with an operation in an engine's queue (R47). -/
def Engine.contexts (g : Engine) : BitVec 4 := g.live.foldl (fun b o => b ||| BitVec.ofNat 4 (2 ^ o.ctx)) 0

def execEngineWatchdogExpiry (core eng : Nat) (s : State) : Out :=
  .next (
    let c := getCore s core
    let g := c.eng eng
    match g.live with
    | [] => s
    | o :: _ =>
      if g.hung || now s < g.wdStart.toNat + 250000 then s
      else
        let sus := g.contexts
        let alone := c.serial.getLsbD eng && sus = BitVec.ofNat 4 (2 ^ o.ctx)
        let s := setCore s core
          { (c.setEng eng { g with hung := true }) with
            suspects := Tbl.put c.suspects eng sus
            hang := { eng := BitVec.ofNat 2 eng, ctx := BitVec.ofNat 2 o.ctx, guilty := alone, task := o.task, opword := o.word } }
        let s := modClu s (clusterOf core) fun u => { u with engWdog := satAdd u.engWdog 1 }
        let s := sendWatchdog s core o.ctx eng true (getCtx s core o.ctx).state.code o.task s.tally
        (bitsOf 4 sus.toNat).foldl (fun s n =>
          if (getCtx s core n).state.running then endTask s core n stEngineHang [] else s) s)

/-- The hub climbs the ladder for a watchdog report (R396, R402). -/
def execWatchdog (p : CtrlPacket) (s : State) : Out :=
  report s (
    if p.ctype ≠ 0x0A then s
    else
      let b := p.body.toNat
      let core := clusterOf (coreAt p.sx.toNat p.sy.toNat) * 64 + field b 5 6
      let ctx := field b 0 2
      let eng := field b 2 2
      match partOfCore s core with
      | none => s
      | some q =>
        let j := jobOfPart s q
        let bb := jobBb s j
        if b.testBit 4 then
          let s := reportStep s j 2 true
          let s := faultEvent s 1 q stEngineHang 2 []
          let s := fenceFor s j (clusterOf core) 1 0 eng (posOf core)
          let guilty := (getCore s core).hang.guilty
          let s := resetEngine s core eng
          if guilty then loseCore s core
          else if bb then s
          else
            let s := modCore s core fun c => { c with serial := c.serial ||| BitVec.ofNat 4 (2 ^ eng) }
            modJob s j fun x => { x with serialReplay := true }
        else
          let again := (getCore s core).wdCtx.getLsbD ctx
          let s := reportStep s j 1 true
          let s := faultEvent s 0 q stCtxWatchdog 1 []
          let s := fenceFor s j (clusterOf core) 0 (2 ^ ctx) 0 (posOf core)
          let s := modCore s core fun c => { c with wdCtx := c.wdCtx ||| BitVec.ofNat 4 (2 ^ ctx) }
          if again then loseCore s core else s)

/-! ### Fences (R396 to R399) -/

/-- What a FENCE does to the contexts that its body names, and to the domain's own mark. -/
def applyFence (s : State) (cl b : Nat) : State :=
  let k := cl * 64 + field b 8 6
  let un := b.testBit 14
  let s := (fenceTargets s cl b).foldl (fun s x => if un then unfenceCtx s x.1 x.2 else fenceCtx s x.1 x.2) s
  match field b 0 2 with
  | 0 => s
  | 1 => if un then modCore s k fun c => c.setEng (field b 6 2) { c.eng (field b 6 2) with hung := false } else s
  | 2 => modCore s k fun c => { c with fenced := !un || c.lost }
  | _ => modClu s cl fun u => { u with fenced := !un || u.lost }

/-- A FENCE reaches a controller, which acknowledges it once no task runs on the contexts that it names. -/
def execFencePacket (cl : Nat) (p : CtrlPacket) (s : State) : Out :=
  .next (
    if p.ctype ≠ 0x0B || (getClu s cl).lost then s
    else
      let s := applyFence s cl p.body.toNat
      if p.body.getLsbD 14 then ackFence s cl p else ackFences (modClu s cl fun u => { u with fences := u.fences ++ [p] }) cl)

/-- Once none of an abandonment's fences awaits its FENCE_ACK, its channels are reset and the renumbering follows (R258). -/
def execFenceAck (p : CtrlPacket) (s : State) : Out :=
  .next (
    if p.ctype ≠ 0x0C then s
    else
      let cl := clusterOf (coreAt p.sx.toNat p.sy.toNat)
      let b := field p.body.toNat 0 15
      let s := { s with jobs := Tbl.map s.jobs fun _ x => { x with acks := x.acks.filter fun a => !(a.1 = cl && a.2.1 = b) } }
      let s := (s.jobs.map (·.1)).foldl resetFenced s
      match s.fenceWaits.find? fun w => w.cl = cl && w.body = b with
      | some w => complete { s with fenceWaits := s.fenceWaits.erase w } w.reply stOk []
      | none => s)

/-- No FENCE_ACK within 1 ms: the partition rung (Table 18-3). -/
def execFenceAckTimeout (job : Nat) (s : State) : Out :=
  report s (
    let x := getJob s job
    if x.acks.any (fun a => decide (a.2.2.toNat + 1000000 ≤ now s)) then rungPartition s job else s)

/-- Does a request that waits through a slice change the partition, or come from a guest (Table 18-4)? -/
def OuterRequest.refusable : OuterRequest → Bool
  | .dataWrite .. => true
  | .guest .. => true
  | _ => false

/-- It is answered FENCED. -/
def refuseOuter (s : State) (w : OuterRequest) : State :=
  match w with
  | .dataWrite _ r => complete s r stFenced []
  | .guest site _ p _ _ =>
    match (getGuest s site).reqs.find? fun q => q.tag = p.tag with
    | some q => answerGuest (modGuest s site fun g => { g with reqs := g.reqs.filter (· ≠ q) }) site q stFenced none
    | none => s
  | _ => s

/-- Teller commands that change a fenced partition, and guest requests to it, that the fence timeout finds open (Table 18-4). -/
def refuseWork (s : State) (p : Nat) : State :=
  let s := ((clustersOf (getPart s p).sites).filter fun cl => Tbl.has s.clusters cl).foldl (fun s cl =>
    let u := getClu s cl
    let s := modClu s cl fun u => { u with waits := u.waits.filter (!·.work.refusable), recalReply := [] }
    let s := u.recalReply.foldl (fun s r => complete s r stFenced []) s
    ((u.waits.map (·.work)).filter (·.refusable)).foldl refuseOuter s) s
  let rs := (getPart s p).drainReply
  rs.foldl (fun s r => complete s r stFenced []) (modPart s p fun q => { q with drainReply := [], drained := q.drained && rs.isEmpty })

/-- Work of a fenced partition that has not ended is abandoned or answered FENCED, and the FENCE completes; a RESET that waits goes on (R397, Table
18-4, R400). -/
def fenceOver (s : State) (p : Nat) : State :=
  match (getPart s p).fenceAt with
  | none => s
  | some (t, _) => if now s < t.toNat then s else fenceDone (refuseWork (abandonStep s (jobOfPart s p)) p) p

/-- A context's or an engine's fence has no timeout to wait for (R397). -/
def execFenceTimeout (d : Domain) (s : State) : Out :=
  report s (match d with
    | .context _ _ => s
    | .engine _ _ => s
    | .partition p => fenceOver s p
    | .panel => (s.parts.map (·.1)).foldl fenceOver s)

/-! ### Reports, probes, replay (R393, R394, R258 step 5) -/

/-- A task of a step ended with a status other than OK (R257, R393); with an uncorrectable line the sequences it affects are rebuilt. -/
def execTaskEnd (p : CtrlPacket) (s : State) : Out :=
  report s (
    if p.ctype ≠ 0x0D then s
    else
      let b := p.body.toNat
      let core := coreAt p.sx.toNat p.sy.toNat
      let x := getCtx s core (field b 32 2)
      match partOfCore s core with
      | none => s
      | some q =>
        let j := jobOfPart s q
        if (getPart s q).map.any (·.bb) then faultEvent s 0 q (BitVec.ofNat 16 (field b 16 16)) 0 []
        else if x.task.toNat ≠ field b 0 16 || x.state.running || (getJob s j).steps.isEmpty then s
        else
          let ue := (getCore s core).ueLines
          let s := modCore (reportStep s j 1 false) core fun c => { c with ueLines := [] }
          if field b 16 16 = stEcc.toNat && x.fault.getLsbD 3 then (affected s j ue).foldl recompute (noteUeLines s j ue) else s)

/-- Everything fenced for the abandonment returns; lost domains stay fenced (R399). -/
def unfenceJob (s : State) (j : Nat) : State :=
  let ks := ((partsOfJob s j).map fun p => (getPart s p).numbering).flatten
  let s := ks.foldl (fun s k => if Tbl.has s.cores k then (List.range 4).foldl (fun s n => unfenceCtx s k n) s else s) s
  ((partsOfJob s j).map fun p => partClusters (getPart s p)).flatten.foldl (fun s cl =>
    if (getClu s cl).fenced && !(getClu s cl).lost then modClu s cl fun u => { u with fenced := false } else s) s

/-- Is the map's LKEEP set (R259)? -/
def keepsInputs (s : State) (j : Nat) : Bool :=
  match (getPart s ((partsOfJob s j).headD 0)).map with | some m => m.step.lkeep | none => false

/-- Is a PROBE to a cluster of the job still out, so that its losses are not yet known (R258, R394)? -/
def probing (s : State) (j : Nat) : Bool :=
  (partsOfJob s j).any fun p => (partClusters (getPart s p)).any fun cl => Tbl.has s.clusters cl && (getClu s cl).probedAt.isSome

/-- The map handles that a step could not read are rewritten from the twin, where one is attached (R201). -/
def restoreHandles (s : State) (j : Nat) : State :=
  if s.twin.attached then (getJob s j).ueHandles.foldl (fun s x => rewriteRange s x.1 x.2) s else s

/-- Abandoned groups are replayed under the new numbering (R6, R258, R259): once fences are acknowledged and probes answered, spares ready
and banks switched. -/
def execStepReplay (job : Nat) (s : State) : Out :=
  .next (
    let x := getJob s job
    let ps := partsOfJob s job
    if x.rung = 0 || x.acks ≠ [] || probing s job || s.replacing.any (fun r => ps.contains r.part) || changing s ps || ps.any (fun p => (getPart s p).fenced || (getPart s p).map.isNone) || s.state ≠ .serving ||
        x.lostAt.isSome then s
    else
      let s := restoreHandles (unfenceJob s job) job
      let keep := keepsInputs s job && !x.fromZero
      let s := if activeReqs s (fun r => r.sub.job = job) = [] then dropSteps s job else s
      let s := modJob s job fun x => { x with
        rung := 0, counted := false, ueHandles := [], fromZero := false, aborts := [], replayed := x.steps.map (·.num)
        steps := x.steps.map fun t => { t with
          abandoned := false, layA := if keep then t.layA else 0, layB := if keep then t.layB else 0 } }
      let s := if (getJob s job).steps = [] then endSerial s job else s
      kickJob (ps.foldl relaunchPart s) job)

def execProbe (cl : Nat) (p : CtrlPacket) (answered : BitVec 64) (s : State) : Out :=
  .next (
    if p.ctype ≠ 0x0E || (getClu s cl).lost then s
    else
      let k := portCore cl
      sendCtrl s 0x0F (coreX k) (coreY k) p.sx.toNat p.sy.toNat answered.toNat)

/-- Contexts of a core that have not arrived on a channel whose watchdog named the core's cluster silent (R247, R394). -/
def hungCtxs (s : State) (q cl k : Nat) : BitVec 4 :=
  let part := getPart s q
  (part.silent.filter fun c => c.2.contains cl).foldl (fun b c =>
    let e : BitVec 4 := match part.map.bind fun m => m.clear[c.1]? with | some e => e.ctxmask | none => 0
    b ||| (e &&& ~~~ Tbl.get (Tbl.get part.chans c.1 Chan.reset).arrived k 0)) 0

/-- The hub classifies a silent node by its answer (R394): cores that did not answer are lost; on the others the contexts that have not arrived
are fenced and, as they acknowledge it, cleared (rung 1). -/
def execProbeAns (p : CtrlPacket) (s : State) : Out :=
  report s (
    if p.ctype ≠ 0x0F then s
    else
      let cl := clusterOf (coreAt p.sx.toNat p.sy.toNat)
      if (getClu s cl).probedAt.isNone then s
      else
        let s := modClu s cl fun u => { u with probedAt := none }
        match partOfSite s (cl / 64) with
        | none => s
        | some q =>
          let j := jobOfPart s q
          let mine := ((List.range 64).map (cl * 64 + ·)).filter ((getPart s q).numbering.contains ·)
          let hung := (mine.filter fun k => p.body.getLsbD (posOf k)).map fun k => (k, hungCtxs s q cl k)
          let s := reportStep s j 1 true
          let s := hung.foldl (fun s x => if x.2 = 0 then s else fenceFor s j cl 0 x.2.toNat 0 (posOf x.1)) s
          (mine.filter fun k => !p.body.getLsbD (posOf k)).foldl loseCore s)

/-- Dies fed by one stage: a site and its neighbour (R21). -/
def sitePair (d : Nat) : List Nat := [d / 2 * 2, d / 2 * 2 + 1]

def execProbeTimeout (cl : Nat) (wholeDie : Bool) (s : State) : Out :=
  report s (
    match (getClu s cl).probedAt with
    | none => s
    | some t =>
      if now s < t.toNat + 1000000 then s
      else
        let s := modClu s cl fun u => { u with probedAt := none }
        let rung := if wholeDie then 3 else 1
        let s := match partOfSite s (cl / 64) with | some q => reportStep s (jobOfPart s q) rung true | none => s
        if !wholeDie then loseCluster s cl false
        else
          let trip := (Tbl.get s.stages (cl / 128) Stage.reset).state
          if trip = 3 || trip = 4 then loseDies s (sitePair (cl / 64)) 7 else loseDies s [cl / 64] 6)

/-- A domain that is not serving 4 s after its reset climbs one rung (Table 18-3). -/
def execResetNotServingTimeout (d : Domain) (s : State) : Out :=
  report s (match d with
    | .partition p =>
      match (getPart s p).resetting with
      | some (t, r) =>
        if now s < t.toNat + 4000000000 then s
        else rungPanel (match r with | some r => complete s r stTimeout [] | none => s)
      | none => s
    | .panel =>
      match s.resets.panelAt with
      | some t =>
        if now s < t.toNat + 4000000000 then s
        else
          let waiting := s.parts.filterMap fun q => q.2.resetting.bind (·.2)
          let s := { s with parts := Tbl.map s.parts fun _ q => { q with resetting := q.resetting.map fun x => (x.1, none) } }
          let s := waiting.foldl (fun s r => complete s r stTimeout []) s
          requestPowerCycle (enterSafe (noteRung { s with resets := { s.resets with panelAt := none } } 5) 2)
      | none => s
    | .context _ _ => s
    | .engine _ _ => s)

/-! ### Spares (R405) -/

/-- Every spare of the partition is warm, the bank with it is in force, and it holds its weights: the loaders are launched and the Distance Table
rebuilt (R405 steps 4 to 6); a reset that waited for the spare ends. -/
def spareReady (s : State) (p : Nat) : State :=
  if s.replacing.any (fun r => r.part = p && !(r.warm && r.copied)) || !(s.replacing.any fun r => r.part = p) || changing s [p] then s
  else
    let s := { s with replacing := s.replacing.filter fun r => r.part ≠ p }
    if (getPart s p).resetting.isSome then kickJob (finishReset s p) (jobOfPart s p)
    else kickJob (relaunchPart (buildDist s p) p) (jobOfPart s p)

/-- The spare's clusters are on and warm, and its channels recalibrate; the epoch change begins once every spare of the partition is ready for
it. -/
def execSpareWarmupDone (site : Nat) (s : State) : Out :=
  .next (match s.replacing.find? fun r => r.spare = site && !r.warm with
    | none => s
    | some r =>
      if (clustersOf [site]).any fun c => wakeable s c && (getClu s c).pwrState ≠ 2 then s
      else
        let s := { s with replacing := s.replacing.map fun x => if x.spare = site then { x with warm := true } else x }
        let s := (clustersOf [site]).foldl (fun s c => modClu s c fun u => { u with slicesLeft := 8 }) s
        let s := setNumbering s r.part
        let s := if s.replacing.any (fun x => x.part = r.part && !x.warm) then s else startEpoch s [r.part]
        spareReady s r.part)

def execWeightCopyComplete (site : Nat) (s : State) : Out :=
  .next (match s.replacing.find? fun r => r.spare = site && !r.copied with
    | none => s
    | some r =>
      let s := if s.twin.attached then copyWeights s r else s
      spareReady { s with replacing := s.replacing.map fun x => if x.spare = site then { x with copied := true } else x } r.part)

/-! ### Handles and windows (R172, R173, R180) -/

/-- A change has reached the last controller: what waited for it alone completes (R172). -/
def changeDone (s : State) (p n : Nat) : State :=
  sendReady { s with waits := s.waits.map fun w => { w with handles := w.handles.filter (· ≠ (p, n)) } }

/-- A controller applies the close of a window. -/
def applyWindow (s : State) (cl p w : Nat) : State :=
  let q := getPart s p
  match Tbl.find q.winLags w with
  | none => s
  | some lag =>
    let lag := Tbl.drop lag cl
    if lag ≠ [] then setPart s p { q with winLags := Tbl.put q.winLags w lag }
    else changeDone (setPart s p { q with winLags := Tbl.drop q.winLags w }) p (windowNumber w)

/-- A controller applies the change of a handle's descriptor. -/
def applyHandle (s : State) (cl p h : Nat) : State :=
  let q := getPart s p
  match Tbl.find q.lags h with
  | none => s
  | some lag =>
    let lag := Tbl.drop lag cl
    if lag ≠ [] then setPart s p { q with lags := Tbl.put q.lags h lag }
    else
      let s := setPart s p { q with lags := Tbl.drop q.lags h }
      let d := Tbl.get q.handles h Handle.reset
      changeDone (if d.state = 2 && !Tbl.has q.invals h then startInval s p h else s) p h

/-- Inbound windows over a handle that are closing. -/
def closingOver (q : Partition) (h : Nat) : List Nat :=
  (q.winLags.filter fun w => let x := Tbl.get q.windows w.1 Window.reset; !x.outbound && x.handle = h).map (·.1)

/-- A controller applies a descriptor change (R172): of a handle, with the close of the inbound windows over it (R180), or, from number
4096, of a window (log 76), which goes with its handle where that changes too. -/
def execHandleDescriptorUpdate (cl part handle : Nat) (s : State) : Out :=
  .next (
    let q := getPart s part
    if handle < 4096 then
      let s := if (Tbl.get q.lags handle []).any (·.1 = cl) then (closingOver q handle).foldl (fun s w => applyWindow s cl part w) s else s
      applyHandle s cl part handle
    else
      let x := getWindow s part (handle - 4096)
      if !x.outbound && (Tbl.get q.lags x.handle []).any (·.1 = cl) then s else applyWindow s cl part (handle - 4096))

/-- An invalidated handle becomes free (R173). -/
def execHandleFreeTimer (part handle : Nat) (s : State) : Out :=
  .next (
    let q := getPart s part
    match Tbl.find q.invals handle with
    | none => s
    | some i =>
      if i.steps < q.steps || (i.idle && i.tasks = [] && decide (i.ended.toNat + 200000 ≤ now s)) then
        let s := setPart s part { q with invals := Tbl.drop q.invals handle }
        changeHandle s part handle { (Tbl.get q.handles handle Handle.reset) with state := 0 }
      else s)

def execWindowExpiry (part win : Nat) (s : State) : Out :=
  .next (
    let w := getWindow s part win
    if w.state = 0 || w.expiry = 0 || s.tally < w.expiry then s
    else modPart s part fun q => { q with windows := Tbl.put q.windows win (closeWindow w) })

/-! ### Compatible recovery (R409) -/

/-- The data and the unit list of a context's image as its launch wrote them (R432). -/
def reloadData (s : State) (k n : Nat) : State :=
  match partOfCore s k with
  | none => s
  | some p =>
    let s := writeUnits s p k
    match (coreImages s p k)[n]? with
    | some (some b) => loadData s k b
    | _ => s

def execCompatibleRelaunchWindowEnd (core ctx : Nat) (s : State) : Out :=
  .next (
    let x := getCtx s core ctx
    match x.launch with
    | none => s
    | some l =>
      match l.window with
      | none => s
      | some (t, st) =>
        if now s < t.toNat + 30000 || x.state ≠ .stopped then s
        else
          let c := getCore s core
          let open_ := (c.reads ++ c.writes).any fun w => (c.cnt w.cnt).owner = ctx
          if open_ || !compatNow s core then
            let s := tellFiring s core ctx x
            let s := modCtx s core ctx fun x => { x with launch := some { l with window := none }, fired := none }
            coreToHub s core 0x0D (x.task.toNat + 2 ^ 16 * st.toNat + 2 ^ 32 * ctx)
          else
            let s := reloadData s core ctx
            let s := modClu s (clusterOf core) fun u => { u with relaunch := satAdd u.relaunch 1 }
            setCtx (modCore s core (·.freshFor ctx)) core ctx { Ctx.reset with
              state := .ready, lastStatus := x.lastStatus, pc := l.entry, regs := [(1, 0xBF00), (2, x.task.setWidth 64)], task := x.task, codeStart := x.codeStart,
              codeLen := x.codeLen, bb := x.bb, loader := x.loader, wdStart := s.tally
              launch := some { l with madeCarr := false, foreign := false, relaunched := true, window := none } })

/-! ### Banks and epochs (R228, R229) -/

/-- A router, with its core, holds what the hub has written into its bank not in force and acknowledges (R229, step 1). The hub writes no
other bank. -/
def execBankWrite (unit : Nat) (bank : Bool) (s : State) : Out :=
  .next (if s.epoch.writesAt.isNone || bank = s.epoch.cur || !writesBank s unit || s.epoch.acked.contains unit then s
    else tryAnnounce { s with epoch := { s.epoch with acked := unit :: s.epoch.acked } })

/-- LIFE clocks at a step code, in nanoseconds (R217, R352). -/
def lifeNs (step : Nat) : Nat := ceilDiv (57120 * 1000) (400 + 50 * step)

/-- A half that HALF_SET takes out ramps down after its epoch change (Table 20-4). -/
def rampLeaving (s : State) (h : Nat) : State :=
  if (getHalf s h).leaving && (getHalf s h).ramp.isNone then startRamp (mfrRampdown s h 1) h s.tally false else s

/-- From T_switch every injection carries the new epoch, and the old bank is kept (R229, steps 3 and 4); steps that waited begin. -/
def execEpochSwitch (s : State) : Out :=
  .next (match s.epoch.switchAt with
    | none => s
    | some t =>
      if s.tally < t then s
      else
        let s := { s with epoch := { s.epoch with cur := !s.epoch.cur, switchAt := none, parts := [], kept := some (t, s.clock.step) } }
        let s := (s.parts.map (·.1)).foldl spareReady s
        let s := if s.epoch.next.isSome then s else [0, 1].foldl rampLeaving s
        (s.jobs.map (·.1)).foldl kickJob s)

/-- The end of the old bank: LIFE clocks at the lowest step in force since T_switch and 1 µs after it; a change that waits then begins. -/
def execEpochRetire (s : State) : Out :=
  .next (match s.epoch.kept with
    | none => s
    | some (t, step) =>
      if s.clock.stopped || s.tally < t + BitVec.ofNat 64 (lifeNs step.toNat + 1000) then s
      else
        let next := s.epoch.next
        let s := { s with epoch := { s.epoch with kept := none, next := none } }
        match next with | some ps => writeBank s ps | none => s)

/-- A bank write that no one has acknowledged for 10 ms: the panel rung (Table 18-3). -/
def execEpochWriteAckTimeout (s : State) : Out :=
  report s (match s.epoch.writesAt with
    | none => s
    | some t => if bankWritten s || now s < t.toNat + 10000000 then s else rungPanel s)

end Sys2Proof.Machine
end

