-- ==== Sys2Proof/Machine/Gate.lean ====
section
/-! DEFINITION. Inbound windows and the lines they reach (07 R178, R180); the Guest Gate: the Panel Link Protocol, its rules and its
faults (11 R264 to R272, 19 R427, 21 R460). -/

namespace Sys2Proof.Machine

/-! ### What answers a request -/

/-- A diagnostic or foreign read of one scratchpad line, dirty bytes merged: no word is consumed (R326). -/
def spmPeek (s : State) (k line : Nat) : Option Line :=
  let r := spmRead s k (64 * line) 64
  if r.bad.isSome then none else some (BitVec.ofNat 512 r.data)

/-! ### Handling a request (R270) -/

/-- What a request comes to: a completion with its data, or no answer from its target. -/
inductive GateAnswer where
  | done (st : Status) (v : Option Line)
  | silent
  deriving DecidableEq, Repr

/-- One line of a KIND 0 handle or of a window: read or written in its channel. In a slice the request `w` waits. -/
def gateChannel (s : State) (cl line : Nat) (write : Bool) (v : Line) (r : ArrayRead) (w : OuterRequest) : State × GateAnswer :=
  if !channelServes s cl then (s, .silent)
  else if (getClu s cl).fenced then (s, .done stFenced none)
  else if inSlice s cl then (holdAt s cl w, .silent)
  else if write then (commitLine s cl line v, .done stOk none)
  else match demandRead s cl line r with
    | (t, some x) => (t, .done stOk (some x))
    | (t, none) => (t, .done stEcc none)

/-- One line of a scratchpad handle; a bell counts it on a counter of the named core. -/
def gateCore (s : State) (p : Nat) (d : Handle) (off : Nat) (bell : Option Nat) (write : Bool) (v : Line) : State × GateAnswer :=
  match namedCore s p d with
  | none => (s, .done stFenced none)
  | some k =>
    let line := handleLine d off
    if write then
      (match bell with
       | some cnt => arriveLine s k cnt line v none false
       | none => spmArrive s k line v, .done stOk none)
    else
      let r := spmRead s k (64 * line) 64
      (noteRead s k r, if r.bad.isSome then .done stEcc none else .done stOk (some (BitVec.ofNat 512 r.data)))

/-- Steps 4 and 5 of R270: the target's own checks, and the line, under the rule that covers the request. -/
def gateTarget (s : State) (site : Nat) (write : Bool) (m : PlpMsg) (r : ArrayRead) (rule : BitVec 128) : State × GateAnswer :=
  let v := m.line
  let held := OuterRequest.guest site write m r rule
  let off := m.arg.toNat / 64 - ruleFld rule 64 36
  let p := ruleFld rule 8 4
  let tgt := ruleFld rule 16 12
  if ruleFld rule 1 2 = 0 then
    match inboundRefusal s p tgt none (.session (ruleFld rule 12 4)) write (64 * off) 64 with
    | some st => (s, .done st none)
    | none =>
      let (cl, line) := windowLine s p tgt off
      gateChannel s cl line write v r held
  else
    let d := Tbl.get (getPart s p).handles tgt Handle.reset
    if panelFenced s ∨ (getPart s p).fenced then (s, .done stFenced none)
    else if d.state ≠ 1 ∨ d.lines ≤ off ∨ (write ∧ !d.wr) then (s, .done stBadArgument none)
    else if ruleFld rule 1 2 = 2 then
      (if d.kind then gateCore s p d off (some (ruleFld rule 28 4)) write v else (s, .done stBadArgument none))
    else if d.kind then gateCore s p d off none write v
    else gateChannel s (handleCluster s p tgt d (homeCluster s p)) (handleLine d off) write v r held

/-- Steps 1 to 5 of R270. -/
def gateHandle (s : State) (site : Nat) (write : Bool) (m : PlpMsg) (r : ArrayRead) : State × GateAnswer :=
  let g := getGuest s site
  if g.fenced then (s, .done stFenced none)
  else if g.mode = 0 then (s, .done stRefusedPolicy none)
  else match coveringRule g m.arg with
    | none => (s, .done stBadArgument none)
    | some rule =>
      if !((BitVec.ofNat 2 (ruleFld rule 3 2)).getLsbD (if write then 0 else 1)) then (s, .done stBadArgument none)
      else gateTarget s site write m r rule

/-- A completion goes out; one other than OK or FENCED is a denial, and DENY_LIMIT of them within 1 s fence the site (R271). -/
def gateComplete (s : State) (site : Nat) (r : GuestReq) (st : Status) (v : Option Line) : State :=
  let s := modGuest s site fun g => { g with reqs := g.reqs.filter (· ≠ r) }
  let s := answerGuest s site r st v
  if st = stOk ∨ st = stFenced then s
  else
    let g := getGuest s site
    let ts := (g.denyTimes.filter fun t => decide (now s < t.toNat + 1000000000)) ++ [s.tally]
    let s := modGuest s site fun g => { g with denials := satAdd g.denials 1, denyTimes := ts }
    if s.denyLimit ≤ ts.length then fenceSite s site 3 else s

/-! ### Messages of a guest (R265 to R267, R271) -/

/-- Does a header break the protocol: a reserved type or bit, DATA that its type does not carry, a request beyond the panel's 64
credits, or a tag in use? Types of the panel are not a guest's to send. -/
def plpViolation (g : Guest) (p : PlpMsg) : Bool :=
  let t := p.mtype.toNat
  let req (write : Bool) :=
    decide (64 ≤ (g.reqs.filter fun r => r.write = write).length) || g.reqs.any fun r => r.tag = p.tag
  !(t = 1 || t = 2 || t = 5 || t = 7) || p.rsv ≠ 0 || p.data ≠ decide (t = 2 ∨ t = 7) ||
    (t = 5 && (field p.arg.toNat 24 8 ≠ 0 || field p.arg.toNat 48 16 ≠ 0)) || (t = 1 && req false) || (t = 2 && req true)

/-- Is the header all zeros, an empty slot of a flit? -/
def plpEmpty (p : PlpMsg) : Bool :=
  p.mtype = 0 && !p.data && p.tag = 0 && p.status = 0 && p.arg = 0 && p.rsv = 0

/-- A message at the Gate: ignored while the link is down or the slot empty, a violation fences the site at once, else `f` acts. -/
def plpIn (s : State) (site t : Nat) (p : PlpMsg) (f : State → State) : State :=
  let g := getGuest s site
  if !g.link || g.powerCut || plpEmpty p then s
  else if plpViolation g p then fenceSite (modGuest s site fun g => { g with viol := satAdd g.viol 1 }) site 0
  else if p.mtype.toNat ≠ t || (t ≠ 5 && !g.ready) then s
  else f s

/-- An outstanding request of a guest is handled, one that has waited (`rule`: the rule that covers it) from step 4 on (R270). A target that
gives no answer leaves it outstanding for its 50 µs (R267). -/
def guestServe (s : State) (site : Nat) (write : Bool) (p : PlpMsg) (r : ArrayRead) (rule : Option (BitVec 128)) : State :=
  match (getGuest s site).reqs.find? fun q => q.tag = p.tag && q.write = write && q.arg = p.arg with
  | none => s
  | some q =>
    match (match rule with | some x => gateTarget s site write p r x | none => gateHandle s site write p r) with
    | (t, .done st v) => gateComplete t site q st v
    | (t, .silent) => t

/-- RD or WR. -/
def guestRequest (s : State) (site : Nat) (write : Bool) (p : PlpMsg) (r : ArrayRead) : State :=
  let q : GuestReq := { tag := p.tag, write := write, arg := p.arg, at_ := s.tally, place := guestPlace s site p.arg }
  guestServe (modGuest s site fun g => { g with reqs := g.reqs ++ [q] }) site write p r none

def execRd (site : Nat) (p : PlpMsg) (r : ArrayRead) (s : State) : Out :=
  report s (plpIn s site 1 p fun s => guestRequest s site false p r)

/-- A write reads nothing of the array. -/
def execWr (site : Nat) (p : PlpMsg) (s : State) : Out :=
  report s (plpIn s site 2 p fun s => guestRequest s site true p { fresh := 0, inner := false, miscorrect := none })

/-- The request whose target has not answered in 50 µs is answered TIMEOUT (R267). -/
def execGateRequestTimeout (site tag : Nat) (s : State) : Out :=
  .next (match (getGuest s site).reqs.find? fun r => r.tag.toNat = tag with
    | none => s
    | some r =>
      if now s < r.at_.toNat + 50000 then s
      else gateComplete s site r stTimeout none)

def execGuestHoldbackTimeout (site : Nat) (s : State) : Out := .next (fenceSite s site 1)

/-! ### Capability and attestation (R266, R427) -/

/-- The panel's CAP word: version 1, 64 reads and 64 writes outstanding (R266). -/
def panelCap : Word := 1 + 64 * 2 ^ 8 + 64 * 2 ^ 16

/-- ATTQ with a fresh nonce (R427). -/
def sendAttq (s : State) (site : Nat) (nonce : BitVec 64) : State :=
  sendPlp (modGuest s site fun g => { g with attq := some (nonce, s.tally), lastAttq := s.tally }) site 6 0 stOk nonce none

/-- What waited for an accepted ATTR is done: a change to Trusted, refused if the site has been fenced since, or the return of a fenced site,
which needs the ATTR only under Trusted (R272). -/
def guestReady (s : State) (site : Nat) : State :=
  match (getGuest s site).want with
  | none => s
  | some (mode, back, r) =>
    let s := modGuest s site fun g => { g with want := none }
    if back then complete (sendNotice (modGuest s site fun g => { g with fenced := false }) site 2) r stOk []
    else if (getGuest s site).fenced then complete s r stFenced []
    else complete (modGuest s site fun g => { g with mode := BitVec.ofNat 2 mode, kept := none }) r stOk []

def execCap (site : Nat) (p : PlpMsg) (nonce : BitVec 64) (s : State) : Out :=
  .next (plpIn s site 5 p fun s =>
    let same := field p.arg.toNat 0 8 = 1
    let s := modGuest s site fun g => { g with
      capGot := true, admitted := same, gclass := BitVec.ofNat 16 (field p.arg.toNat 32 16), mode := if same then g.mode else 0 }
    if !same then dropWant s site
    else if !(getGuest s site).capSent then s
    else
      let s := sendAttq s site nonce
      -- a return that waited for the exchange; under Trusted it waits for the ATTR
      match (getGuest s site).want with
      | some (mode, true, _) => if mode = 2 then s else guestReady s site
      | _ => s)

/-- K_g of an allowed measurement (R427). -/
def allowedKey (s : State) (m : Bytes) : Option Bytes := (s.vault.config.bind fun c => c.guests.find? fun g => g.1 = m).map (·.2)

def guestAttested (s : State) (g : Guest) : Bool := g.attested && (allowedKey s g.meas).isSome

def execAttr (site : Nat) (p : PlpMsg) (s : State) : Out :=
  report s (plpIn s site 7 p fun s =>
    let g := getGuest s site
    let b := leBytes 64 p.line.toNat
    let m := b.take 32
    let ok := match g.attq, allowedKey s m with
      | some (n, t), some k =>
        p.arg = n && decide (now s < t.toNat + 10000000) &&
          decide (b.drop 32 = kmac256 k (leBytes 8 n.toNat ++ m ++ leBytes 1 site) (ascii "GP144-GUEST") 32)
      | _, _ => false
    if ok then guestReady (modGuest s site fun g => { g with meas := m, attested := true, attq := none }) site
    else fenceClosed (modGuest s site fun g => { g with attested := false }) site 2)

def execAttrTimeout (site : Nat) (s : State) : Out :=
  .next (match (getGuest s site).attq with
    | none => s
    | some (_, t) =>
      if now s < t.toNat + 10000000 then s
      else fenceClosed (modGuest s site fun g => { g with attested := false }) site 2)

/-- Every 60 s while the site runs Trusted. -/
def execAttqPeriodic (site : Nat) (nonce : BitVec 64) (s : State) : Out :=
  .next (
    let g := getGuest s site
    if !g.ready || g.mode ≠ 2 || g.fenced || now s < g.lastAttq.toNat + 60000000000 then s else sendAttq s site nonce)

/-! ### The link and the switch of a site (R264, R271, R460) -/

def execGuestLinkDown (site : Nat) (s : State) : Out :=
  .next (
    let s := modGuest s site fun g => { g with retrains := if g.link then 0 else Nat.min 3 (g.retrains + 1) }
    let s := fenceSite (dropWant s site) site 4
    modGuest s site fun g => { g with link := false, capSent := false, capGot := false, admitted := false,
                                                    modules := 0, attq := none })

/-- The link trains to a supported configuration; a link down after three retrainings waits for LINK_RETRAIN. -/
def execGuestLinkUp (site : Nat) (modules : BitVec 3) (rate16 : Bool) (s : State) : Out :=
  .next (
    let g := getGuest s site
    if g.powerCut || 3 ≤ g.retrains || modules = 0 || 4 < modules.toNat then s
    else
      let s := modGuest s site fun g => { g with
        link := true, modules := modules, rate16 := rate16, capSent := true, capGot := false, admitted := false, retrains := 0 }
      sendPlp s site 5 0 stOk panelCap none)

/-- A site beyond 1.2 times its allocation for 10 µs is cut off and fenced as by a link fault. -/
def execGuestOvercurrent (site : Nat) (s : State) : Out :=
  .next (
    let s := fenceSite (dropWant s site) site 4
    modGuest s site fun g => { g with link := false, capSent := false, capGot := false, admitted := false, powerCut := true,
                                      modules := 0, attq := none })

end Sys2Proof.Machine
end

