-- ==== Sys2Proof/Machine/Power.lean ====
section
/-! DEFINITION. Power: stages, inputs, ordered ramp-down and the loss of a half (15 R333 to R338, R346 to R350, 01 R31 to R34), regulator
phases, droop stretches and the waking of clusters (15 R339 to R345, 16 R355 to R357). -/

namespace Sys2Proof.Machine

/-! ### Stages and dies -/

def getStage (s : State) (n : Nat) : Stage := Tbl.get s.stages n Stage.reset
def modStage (s : State) (n : Nat) (f : Stage → Stage) : State := { s with stages := Tbl.put s.stages n (f (getStage s n)) }

/-- Stage `40k + j` feeds sites D(2j) and D(2j+1) of half k. -/
def stageSites (n : Nat) : List Nat := [2 * n, 2 * n + 1]
def stageHalf (n : Nat) : Nat := n / 40
def stagesOf (h : Nat) : List Nat := (List.range 40).map (40 * h + ·)
def sitesOf (h : Nat) : List Nat := (List.range 80).map (80 * h + ·)

/-- Memory of a die: its channels and its scratchpads. -/
def ofDie (d a : Nat) : Bool :=
  (decide (dramAddr (64 * d) 0 ≤ a) && decide (a < dramAddr (64 * (d + 1)) 0)) ||
  (decide (spmAddr (4096 * d) 0 ≤ a) && decide (a < spmAddr (4096 * (d + 1)) 0))

/-- The pair plane of a die has no power: its routers carry nothing, its cores and memory lose what they held. -/
def darkDie (s : State) (d : Nat) (state : BitVec 2) : State :=
  let s := modDie s d fun x => { x with dark := true, fenced := true, wakes := [] }
  let s := (clustersOf [d]).foldl (fun s c => modClu s c fun u => { u with
    pwrState := state, onStart := none, reads := [], writes := [], commits := [], runs := [], stretching := false }) s
  let s := (s.cores.filter fun c => siteOf c.1 = d).foldl (fun s c => wipeCore s c.1) s
  { s with mem := s.mem.filter fun c => !ofDie d c.1 }

/-! ### Half-degraded (R33, R34, R441) -/

/-- Partitions that hold a die of a half. -/
def partsOfHalf (s : State) (h : Nat) : List Nat := (s.parts.filter fun q => q.2.sites.any fun d => d / 80 = h).map (·.1)

/-- A half is emptied: steps on it are abandoned, its partitions fenced until they are remapped, its clusters' clock enables stopped at the
fence, its sites unreachable after an epoch change (R33, R350, R406, R441). -/
def emptyHalf (s : State) (h : Nat) : State :=
  let s := (partsOfHalf s h).foldl (fun s p =>
    let j := jobOfPart s p
    noSpare (abandonStep s j) p) s
  let s := (sitesOf h).foldl (fun s d => modDie s d fun x => { x with fenced := true }) s
  startEpoch (stopCores s (clustersOf (sitesOf h))) []

/-- A half leaves compute service at once, a forced change (R440): its main outputs are ramped down (R33, R34). -/
def takeHalfOut (s : State) (h : Nat) : State :=
  if !(getHalf s h).inService then s
  else
    let s := modHalf s h fun x => { x with inService := false, leaving := false }
    startRamp (mfrRampdown (emptyHalf s h) h 1) h s.tally false

/-- Ordered ramp-down of the whole panel with the safe state. -/
def rampPanel (s : State) (cause : Nat) (aux : Bool) : State :=
  let s := enterSafe s cause
  let s := modHalf (modHalf s 0 fun x => { x with inService := false, leaving := false }) 1 fun x => { x with inService := false, leaving := false }
  let s := mfrRampdown (mfrRampdown (stopCores s (clustersOf (sitesOf 0 ++ sitesOf 1))) 0 0) 1 0
  startRamp (startRamp s 0 s.tally aux) 1 s.tally aux

/-! ### Loss of all power (R31, Table 19-10) -/

/-- The spine has no power: the panel keeps its Vault and what the Vault holds of its configuration (R435), and nothing else.
A pair that tripped once is remembered for R337. -/
def powerOff (s : State) : State :=
  let v := cutVault s
  let s := if s.pins.pwrCyc then emit s (.pin "PWRCYC_REQ#" true) else s
  let s := if 4 ≤ s.boot.phase then emit s (.pin "SB_PWROK" false) else s
  { State.reset with
    pending := s.pending, emitted := s.emitted, freeCtr := s.freeCtr + 1, sys := s.sys, vault := v, nextEst := s.nextEst,
    stages := Tbl.map s.stages fun _ x => { Stage.reset with trippedOnce := x.trippedOnce },
    pins := { s.pins with pwrCyc := false }, denyLimit := s.denyLimit,
    half0 := { Half.reset with power := s.half0.power }, half1 := { Half.reset with power := s.half1.power } }

/-- Does a half feed the spine (Table 15-1): is an auxiliary output of its plane on? With both inputs out of range the spine stays until they
fall below 58 V (Table 15-9; log 141). -/
def spineFed (s : State) (h : Nat) : Bool :=
  (getHalf s h).power && ((stagesOf h).any (fun j => (getStage s j).auxOn) || (s.half0.outSince.isSome && s.half1.outSince.isSome) || s.boot.phase ≤ 1)

/-- The auxiliary plane of a half is down: its optical dies stop, its dies' islands too, so that the half cannot compute; without a plane the
spine is off. -/
def auxPlaneDown (s : State) (h : Nat) : State :=
  let s := takeHalfOut { s with optDies := Tbl.keep s.optDies fun o _ => decide (o / 24 ≠ h) } h
  if spineFed s 0 || spineFed s 1 then s else powerOff s

/-! ### Commands of the stages -/

/-- STATE of a stage: a ramp takes 100 µs (Table 15-10). -/
def stageNow (s : State) (n : Nat) : BitVec 3 :=
  let x := getStage s n
  match (getHalf s (stageHalf n)).ramp with
  | some (t, _) => if x.state = 2 && decide (t.toNat + 25000 * (n % 40) + 100000 ≤ now s) then 0 else x.state
  | none => x.state

/-- A stage latches its main output off (R336): both dies go dark, the step in flight is abandoned, spares come in. A pair that trips
again before its next bring-up ends is recorded as failed (R337). -/
def tripStage (s : State) (stage : Nat) (hot : Bool) : State :=
  let x := getStage s stage
  if x.state = 3 || x.state = 4 || stageNow s stage = 0 then s
  else
    let s := if s.state = .bringUp && x.trippedOnce then vaultRedundancy s 5 (2 * stage) 0 0 0 0 else s
    let s := modStage s stage fun x => { x with state := if hot then 4 else 3, trips := satAdd x.trips 1, trippedOnce := true }
    let sites := stageSites stage
    let ps := sites.filterMap (partOfSite s)
    let s := sites.foldl (fun s d => darkDie s d 3) s
    let s := match ps.head? with
      | some p => faultEvent (reportStep s (jobOfPart s p) 3 false) 7 p stFenced 3 []
      | none => faultEvent s 7 0 stFenced 3 []  -- a pair of no partition: PART reads 0 (log 145)
    let s := match ps with
      | [a, b] => if jobOfPart s a = jobOfPart s b then s else reportStep s (jobOfPart s b) 3 false
      | _ => s
    loseDies s sites 7

def execStageMainTrip (stage : Nat) (hot : Bool) (s : State) : Out := report s (tripStage s stage hot)

/-- An auxiliary output leaves its plane; with four of a half gone the guest sites get less (R338, R460), with the last the plane is down. -/
def execAuxOutputTrip (stage : Nat) (s : State) : Out :=
  report s (
    if !(getStage s stage).auxOn then s
    else
      let h := stageHalf stage
      let s := modStage s stage fun x => { x with auxOn := false, trips := satAdd x.trips 1 }
      let n := ((stagesOf h).filter fun j => !(getStage s j).auxOn).length
      let s := if n = 4 then powerEvent { s with guestCut := true } 0 h 40 else s
      if n = 40 then auxPlaneDown s h else s)

/-! ### Inputs (R335) -/

def inputInRange (v : BitVec 16) : Bool := decide (6400 ≤ v.toNat) && decide (v.toNat ≤ 8000)

/-- The time a condition has held, in nanoseconds. -/
def heldFor (s : State) (t : Option Word) (ns : Nat) : Bool :=
  match t with | some t => decide (t.toNat + ns ≤ now s) | none => false

def Half.sample (x : Half) (t : Word) (r : InputSample) : Half :=
  let keep (c : Bool) (o : Option Word) : Option Word := if c then some (o.getD t) else none
  let ok := inputInRange r.v
  { x with
    v := r.v, i := r.i, iavg := r.iavg, outSince := keep (!ok) x.outSince, inSince := keep ok x.inSince,
    over10Since := keep (decide (2250 < r.i.toNat)) x.over10Since, overSince := keep (decide (2500 < r.i.toNat)) x.overSince }

/-- The stages of a half switch both outputs off (Table 15-2). -/
def stagesOff (s : State) (h : Nat) : State :=
  let s := if (getHalf s h).inService then takeHalfOut (powerEvent s 3 h 0) h else s
  let s := modHalf s h fun x => { x with power := false, ramp := none, leaving := false }
  let s := (stagesOf h).foldl (fun s j => modStage s j fun x => { x with
    state := if x.state = 1 || x.state = 2 then 0 else x.state, auxOn := false }) s
  auxPlaneDown ((sitesOf h).foldl (fun s d => darkDie s d 0) s) h

/-- Both inputs out ramp the whole panel down; one input out, or too much current, takes its half out. Above 84 V the stages switch off. -/
def execInputSample (h0 h1 : InputSample) (s : State) : Out :=
  report s (
    let s := { s with half0 := s.half0.sample s.tally h0, half1 := s.half1.sample s.tally h1 }
    let high (h : Nat) : Bool := (getHalf s h).power && decide (8400 < (getHalf s h).v.toNat)
    let out (h : Nat) := heldFor s (getHalf s h).outSince 1000000
    if high 0 || high 1 then ([0, 1].filter high).foldl stagesOff s
    else if out 0 && out 1 && (s.half0.inService || s.half1.inService) then rampPanel s 2 true
    else
      [0, 1].foldl (fun s h =>
        let x := getHalf s h
        if !x.inService then s
        else if out h then takeHalfOut (powerEvent s 3 h (x.v.toNat * x.i.toNat / 1000)) h
        else if heldFor s x.over10Since 10000000 || heldFor s x.overSince 100000 then takeHalfOut s h
        else s) s)

/-- An input below 58 V switches its stages off; without an auxiliary plane the panel has no power. -/
def execInputBelowLockout (half : Nat) (s : State) : Out := report s (stagesOff s (half % 2))

/-! ### Ordered ramp-down (R349, R350) -/

/-- Stage j begins its ramp 25 µs × j after the starting event. -/
def execRampDownStageStart (stage : Nat) (s : State) : Out :=
  report s (match (getHalf s (stageHalf stage)).ramp with
    | none => s
    | some (t, _) =>
      if (getStage s stage).state ≠ 1 || now s < t.toNat + 25000 * (stage % 40) then s
      else (stageSites stage).foldl (fun s d => darkDie s d 0) (modStage s stage fun x => { x with state := 2 }))

/-- RESET# holds the hubs and the islands in reset once the ramp-down is over (R459). -/
def holdReset (s : State) : State :=
  let off (h : Hub) : Hub := { h with up := false, portUp := false }
  emit { s with hub0 := off s.hub0, hub1 := off s.hub1, boot := { s.boot with phase := 2 } } (.pin "SB_PWROK" false)

/-- At 2,000 µs the main outputs are down and the auxiliary outputs in scope open: the half's optical dies stop. A half that HALF_SET has taken
out is out from here (R434). -/
def execAuxOutputOpen (half : Nat) (s : State) : Out :=
  report s (
    let h := half % 2
    match (getHalf s h).ramp with
    | none => s
    | some (t, aux) =>
      if now s < t.toNat + 2000000 then s
      else
        let s := (stagesOf h).foldl (fun s j => modStage s j fun x => { x with
          state := if x.state = 2 then 0 else x.state, auxOn := x.auxOn && !aux }) s
        let s := modHalf s h fun x => { x with ramp := none, inService := x.inService && !x.leaving, leaving := false }
        let s := if s.pins.resetLow && (getHalf s (1 - h)).ramp.isNone then holdReset s else s
        if aux then auxPlaneDown s h else s)

/-- No heartbeat for 500 ms: every stage of the segment ramps both outputs down by itself (R32), counted from the last heartbeat; not while
RESET# is low, when the auxiliary outputs stay on (R459, log 34). -/
def execStageHeartbeatLoss (half : Nat) (s : State) : Out :=
  report s (
    let h := half % 2
    let x := getHalf s h
    if now s < x.heartbeat.toNat + 500000000 || x.ramp.isSome || s.pins.resetLow || !(stagesOf h).any (fun j => (getStage s j).auxOn) then s
    else startRamp (modHalf s h fun x => { x with inService := false, leaving := false }) h (x.heartbeat + 500000000) true)

/-- The hub that drives a half's segment: its own, or the survivor (R347). -/
def segmentHub (s : State) (h : Nat) : Option Nat := if hubUp s h then some h else if hubUp s (1 - h) then some (1 - h) else none

/-- Every 100 ms (R347). -/
def execHeartbeatWrite (half : Nat) (s : State) : Out :=
  .next (
    let h := half % 2
    match segmentHub s h with
    | none => s
    | some k => if now s < (getHalf s h).heartbeat.toNat + 100000000 then s else emit (modHalf s h fun x => { x with heartbeat := s.tally }) (.pmbus h 0x1F 0xD0 k))

/-! ### Telemetry (R347, R348) -/

/-- A LINEAR11 number in units of one `scale`-th: an 11-bit mantissa below a 5-bit exponent of 2, both signed (PRESUMED: PMBus Part II, log 142). -/
def linear11 (w : BitVec 16) (scale : Int) : Int :=
  let m : Int := (w.setWidth 11).toInt * scale
  let e : Int := (BitVec.ofNat 5 (w.toNat / 2 ^ 11)).toInt
  if 0 ≤ e then m * 2 ^ e.toNat else Int.tdiv m (2 ^ (-e).toNat)

/-- A LINEAR16 voltage in millivolts, with the exponent of VOUT_MODE. -/
def linear16 (w : BitVec 16) (mode : BitVec 5) : Int :=
  let m : Int := w.toNat * 1000
  let e := mode.toInt
  if 0 ≤ e then m * 2 ^ e.toNat else Int.tdiv m (2 ^ (-e).toNat)

/-- A telemetry field of 16 bits: from 0, saturating. -/
def field16 (i : Int) : BitVec 16 := BitVec.ofNat 16 (Nat.min 65535 i.toNat)

/-- A temperature in degrees, saturating. -/
def fieldTemp (i : Int) : BitVec 8 := BitVec.ofInt 8 (if i < -128 then -128 else if 127 < i then 127 else i)

/-- A command of the segment to a stage, a read one with no value. -/
def toStage (s : State) (n cmd value : Nat) : State := emit s (.pmbus (stageHalf n) (0x20 + n % 40) cmd value)

def toStages (s : State) (n : Nat) (l : List (Nat × Nat)) : State := l.foldl (fun s c => toStage s n c.1 c.2) s

/-- STATUS_WORD and the temperature of a stage as read; above 110 °C a POWER event is posted (R348). -/
def readSlow (s : State) (r : StageRead) : State :=
  let x := getStage s r.stage
  let temp := fieldTemp (linear11 r.temp 1)
  let s := modStage s r.stage fun x => { x with temp := temp, status := r.status, readAt := some s.tally, slowAt := some s.tally }
  if 110 < temp.toInt ∧ x.temp.toInt ≤ 110 then powerEvent s 2 (stageHalf r.stage) (1000 * temp.toInt.toNat) else s

/-- Currents and voltages of a stage as read. -/
def readFast (s : State) (r : StageRead) : State :=
  modStage s r.stage fun x => { x with
    vin := field16 (linear11 r.vin 100), iout := field16 (linear11 r.iout 10), vout := field16 (linear16 r.vout r.voutMode),
    iaux := field16 (linear11 r.iaux 100), readAt := some s.tally }

/-- Is a read of a stage due, `ns` after the last? -/
def readDue (s : State) (at0 : Option Word) (ns : Nat) : Bool :=
  match at0 with | some t => decide (t.toNat + ns ≤ now s) | none => true

/-- The hub that drives the segment reads currents and input voltage of both pages every 8 ms, with them the output voltage (log 143), and
temperature and STATUS_WORD every 64 ms (R347). -/
def execTelemetryPoll (r : StageRead) (s : State) : Out :=
  .next (
    let x := getStage s r.stage
    if (segmentHub s (stageHalf r.stage)).isNone || !readDue s x.readAt 8000000 then s
    else
      let s := readFast (toStages s r.stage
        [(0x00, 0), (0x88, 0), (0x8C, 0), (0x20, 0), (0x8B, 0), (0x00, 1), (0x88, 0), (0x8C, 0)]) r
      if readDue s x.slowAt 64000000 then readSlow (toStages s r.stage [(0x00, 0), (0x8D, 0), (0x79, 0)]) r else s)

/-- The alert is answered: STATUS_WORD and MFR_TRIP are read at once (R347); the trip itself is the stage's own. -/
def execSmbalert (r : StageRead) (_cause : BitVec 16) (s : State) : Out :=
  .next (if (segmentHub s (stageHalf r.stage)).isNone then s
    else modStage (toStages s r.stage [(0x79, 0), (0xD2, 0)]) r.stage fun x => { x with status := r.status, readAt := some s.tally })

/-! ### Regulator phases (R341, R342) -/

/-- With three phases the cluster runs under the 75 % cap; with fewer it goes dark. -/
def execPhaseFailure (cl phase : Nat) (s : State) : Out :=
  report s (
    if phaseFailed s cl (phase % 4) || (getClu s cl).pwrState = 3 then s
    else
      let s := vaultRedundancy s 4 (cl / 64) (cl % 64) 0 (phase % 4) 0
      let ok := phasesOk s cl
      let s := modClu s cl fun u => { u with phOk := ok }
      let p := partOfSite s (cl / 64)
      if 3 ≤ (bitsOf 4 ok.toNat).length then
        faultEvent (modClu s cl fun u => { u with cap75 := true }) 5 (p.getD 0) stOk 0 []
      else
        let s := match p with | some p => reportStep s (jobOfPart s p) 1 false | none => s
        loseCluster s cl false)

/-! ### Stretching (R355 to R357) -/

/-- Frequency of a step code in MHz (R352). -/
def stepMHz (n : Nat) : Nat := 400 + 50 * n

/-- Stretch bound of a Tally interval at the global step (R357). -/
def stretchBound (s : State) : Nat := stepMHz s.clock.step.toNat * 10240 / 16000

/-- Stretched cycles count; a cluster that goes past its bound counts one overrun and takes the 8/16 cap for this interval and the next. -/
def Cluster.addCycles (bound n : Nat) (u : Cluster) : Cluster :=
  let past := u.stretchNow ≤ bound ∧ bound < u.stretchNow + n
  { u with
    stretchNow := u.stretchNow + n, overruns := if past then satAdd u.overruns 1 else u.overruns,
    overrunLeft := if past then 2 else u.overrunLeft }

def addStretch (s : State) (cl n : Nat) : State := modClu s cl (Cluster.addCycles (stretchBound s) n)

/-- Cycles of a running droop stretch up to a time that are not yet counted: each takes two cycle times of the global step (R355). -/
def stretchRun (s : State) (u : Cluster) (t : Nat) : Nat :=
  if u.stretching then (t - u.stretchFrom.toNat) * stepMHz s.clock.step.toNat / 2000 else 0

/-- A sample below VSET − 25 mV stretches the cluster's clock (R339, R355). -/
def execDroopStretchRequest (cl : Nat) (sample : BitVec 8) (sensor : BitVec 4) (s : State) : Out :=
  .next (
    let u := getClu s cl
    if u.pwrState ≠ 2 || u.vset.toNat ≤ sample.toNat + 10 then s
    else
      let low := !u.vminSeen || decide (sample.toNat < u.vmin.toNat)
      setClu s cl { u with
        stretchFrom := if u.stretching then u.stretchFrom else s.tally, stretchSent := if u.stretching then u.stretchSent else 0
        stretching := true, vminSeen := true, vmin := if low then sample else u.vmin, vminIdx := if low then sensor else u.vminIdx })

/-- Every sensor is back: the cycles stretched that no interval has counted are counted. -/
def execStretchEnd (cl cycles : Nat) (s : State) : Out :=
  .next (
    if !(getClu s cl).stretching then s
    else addStretch (modClu s cl fun u => { u with stretching := false, stretchSent := 0 }) cl (cycles - (getClu s cl).stretchSent))

/-! ### Waking and parking clusters (R343 to R345) -/

/-- The wake at the head of the queue starts its staged turn-on (Table 15-5). -/
def turnOn (s : State) (site : Nat) (w : WakeReq) : State :=
  modClu (modDie s site fun d => { d with wakes := d.wakes.drop 1 }) w.cl fun u => { u with
    pwrState := 1, onStart := some s.tally, wakeWaits := if w.t0 ≠ s.tally then satAdd u.wakeWaits 1 else u.wakeWaits }

/-- Is there headroom for the wake at the head: 6 A of the die's 90 A (R344)? A cluster that may no longer be powered is refused (R345). -/
def serveWake (s : State) (site : Nat) : State :=
  let s := if (getDie s site).wakes.all fun w => wakeable s w.cl then s
    else nextWake (modDie s site fun d => { d with wakes := d.wakes.filter fun w => wakeable s w.cl }) site
  let d := getDie s site
  match d.wakes with
  | w :: _ => if s.clock.hold || s.clock.stopped || dieWaking s site || 9000 < d.current + 600 then s else turnOn s site w
  | [] => s

def execWakeRequest (cl : Nat) (current : Nat) (s : State) : Out :=
  .next (
    let s := requestWake s cl
    serveWake (modDie s (cl / 64) fun d => { d with current := current }) (cl / 64))

/-- Stretched cycles of a turn-on (R344). -/
def wakeCycles (s : State) : Nat := ceilDiv (stepMHz s.clock.step.toNat * 2) 5

/-- No headroom after 20 µs: the die's active clusters stretch for the turn-on, once each has the cycles left in its bound. -/
def execWakeHeadroomTimeout (site : Nat) (s : State) : Out :=
  .next (match (getDie s site).wakes with
    | [] => s
    | w :: r =>
      if !wakeable s w.cl then serveWake s site
      else if now s < w.t0.toNat + 20000 || s.clock.hold || s.clock.stopped || dieWaking s site then s
      else
        let s := if w.waited then s else
          modClu (modDie s site fun d => { d with wakes := { w with waited := true } :: r }) w.cl fun u => { u with
            wakeStretch := satAdd u.wakeStretch 1 }
        let on := (clustersOf [site]).filter fun c => (getClu s c).pwrState = 2
        let n := wakeCycles s
        if on.any fun c => stretchBound s < (getClu s c).stretchNow + n then s
        else
          let s := on.foldl (fun s c => addStretch s c n) s
          turnOn s site w)

/-- A partition that comes out of Warm-park serves once all its clusters are on: its loaders are launched (R375). -/
def wakeDone (s : State) (p : Nat) : State :=
  let q := getPart s p
  if q.ledger.waking && (partClusters q).all fun c => (getClu s c).pwrState = 2 || !wakeable s c then
    let s := modPart s p fun q => { q with ledger := { q.ledger with waking := false } }
    kickJob (if q.map.isSome then launchPart s p else s) (jobOfPart s p)
  else s

/-- Stage 4 has settled and the DPLL has locked (R343). -/
def execClusterOn (cl : Nat) (s : State) : Out :=
  .next (match (getClu s cl).onStart with
    | none => s
    | some t =>
      if now s < t.toNat + 2000 then s
      else
        let ok := phasesOk s cl
        let s := modClu s cl fun u => { u with
          pwrState := 2, onStart := none, maxSeen := false, phOk := ok, cap75 := u.cap75 || decide ((bitsOf 4 ok.toNat).length = 3) }
        let s := serveWake (nextWake s (cl / 64)) (cl / 64)
        match partOfSite s (cl / 64) with | some p => wakeDone s p | none => s)

/-- The Ledger parks clusters of no partition, of a partition in Warm-park, and of a panel in its safe state. -/
def execClusterPark (cl : Nat) (s : State) : Out :=
  .next (
    let ok := match partOfSite s (cl / 64) with
      | some p => (getPart s p).ledger.pmode = 3 || panelFenced s
      | none => true
    if ok then parkOff s cl else s)

end Sys2Proof.Machine
end

