-- ==== Sys2Proof/Machine/Links.lean ====
section
/-! DEFINITION. Lanes of die links and optical dies, and elastic crossings (11 R261 to R263, 12 R273, 16 R354). -/

namespace Sys2Proof.Machine

/-! ### Lanes -/

/-- Both kinds of link: a die link by site and side, an optical die's lanes. -/
def linkOf (s : State) (l : LinkRef) : Link :=
  match l with
  | .die site side => getLink s site (side % 4)
  | .optical oe => Tbl.get s.optLinks oe Link.reset

def setLink (s : State) (l : LinkRef) (x : Link) : State :=
  match l with
  | .die site side => { s with links := Tbl.put s.links (4 * site + side % 4) x }
  | .optical oe => { s with optLinks := Tbl.put s.optLinks oe x }

/-- Lanes of a link: 2,048 of a die link (Table 19-4), 16 of an optical die (R273). -/
def laneCount (l : LinkRef) : Nat := match l with | .die .. => dieLanes | .optical _ => 16

/-- Does the lane exist and still carry its own traffic? -/
def Link.sound (x : Link) (n : Nat) : Bool := !(x.steered.contains n || x.failed.contains n || x.bare.contains n)

/-- A trigger of R262 names a lane. -/
def laneDue (s : State) (l : LinkRef) (n : Nat) : State :=
  let x := linkOf s l
  if n < laneCount l && x.sound n && !x.due.contains n then setLink s l { x with due := x.due ++ [n] } else s

/-- Spares of the lane's repair group of 64 in use (R261). -/
def Link.sparesUsed (x : Link) (n : Nat) : Nat := ((x.steered ++ x.failed).filter fun m => m / 64 = n / 64).length

/-- At slot 0 a lane that a trigger has named is steered onto a free spare and retrains; an optical lane has no spare, and a lane whose
group has none left retrains in place. -/
def execLaneRetrainStart (l : LinkRef) (lane : Nat) (s : State) : Out :=
  .next (
    let x := linkOf s l
    if !x.due.contains lane then s
    else
      let x := { x with due := x.due.filter (· ≠ lane) }
      setLink s l (match l with
        | .die .. => if x.sparesUsed lane < 2 then { x with steered := x.steered ++ [lane] } else { x with bare := x.bare ++ [lane] }
        | .optical _ => { x with steered := x.steered ++ [lane] }))

/-- The site on the other end of a side's link (0 N, 1 E, 2 S, 3 W). -/
def siteBeside (site side : Nat) : Option Nat :=
  let r := dieRow site
  let c := dieCol site
  match side % 4 with
  | 0 => if r < 15 then some (siteAt (r + 1) c) else none
  | 1 => if c < 9 then some (siteAt r (c + 1)) else none
  | 2 => if 0 < r then some (siteAt (r - 1) c) else none
  | _ => if 0 < c then some (siteAt r (c - 1)) else none

/-- Have all 64 router pairs of a side's link left service, at either end? -/
def sideOut (s : State) (site side : Nat) : Bool :=
  match siteBeside site side with
  | none => true
  | some j => (List.range 64).all fun p => (getLink s site side).out.contains p || (getLink s j ((side + 2) % 4)).out.contains p

/-- Dies of a half that could serve. -/
def usableDies (s : State) (h : Nat) : Nat :=
  ((sitesOf h).filter fun d => let x := getDie s d; !(x.dark || x.retired)).length

/-- A router pair's link leaves service in both directions: the route tables are rebuilt; a die with no link left is lost, and with the
whole spine crossing gone the half with fewer usable dies leaves, H1 on a tie (R263, R33, log 23). -/
def linkOut (s : State) (site side pair : Nat) : State :=
  let x := getLink s site side
  let s := { s with links := Tbl.put s.links (4 * site + side) { x with out := x.out ++ [pair] } }
  let s := startEpoch s []
  let lost := (site :: (siteBeside site side).toList).filter fun d => (List.range 4).all (sideOut s d)
  let s := lost.foldl (fun s d => match partOfSite s d with
    | some p => reportStep s (jobOfPart s p) 3 false
    | none => s) s
  let s := if lost = [] then s else loseDies s lost 6
  if (List.range 10).all fun c => sideOut s (siteAt 7 c) 0 then
    takeHalfOut s (if usableDies s 0 < usableDies s 1 then 0 else 1)
  else s

/-- What waits for the lane's retraining is answered. -/
def answerLane (s : State) (l : LinkRef) (lane : Nat) : State :=
  let x := linkOf s l
  (x.replies.filter fun r => r.1 = lane).foldl (fun s r => complete s r.2 stOk [])
    (setLink s l { x with replies := x.replies.filter fun r => r.1 ≠ lane })

/-- A lane that retrained takes its traffic back. One that failed stays on its spare and is recorded; without a spare its router pair's
link leaves service; an optical lane leaves service (R262, R263, R273). Router pair `lane / 32` of the side (log 24). -/
def execLaneRetrainDone (l : LinkRef) (lane : Nat) (ok : Bool) (s : State) : Out :=
  report s (
    let x := linkOf s l
    let on := x.steered.contains lane
    if !(on || x.bare.contains lane) then s
    else
      let y := { x with steered := x.steered.filter (· ≠ lane), bare := x.bare.filter (· ≠ lane) }
      let s :=
        if ok then setLink s l y
        else match l with
          | .optical oe => vaultRedundancy (setLink s l { y with failed := y.failed ++ [lane] }) 7 oe 0 0 lane 0
          | .die site side =>
            if on then vaultRedundancy (setLink s l { y with failed := y.failed ++ [lane] }) 3 site 0 (side % 4) lane 0
            else linkOut (setLink s l { y with failed := y.failed ++ [lane] }) site (side % 4) (lane / 32)
      answerLane s l lane)

/-- Lanes whose eye margin is below the trained limit are to be retrained (R262). -/
def execEyeMarginSample (l : LinkRef) (below : List Nat) (s : State) : Out := .next (below.foldl (fun s n => laneDue s l n) s)

/-! ### Crossings (R354) -/

/-- The crossing between a core and the fabric (R354): the core's cluster is fenced and leaves the numbering until the next step boundary, where
its crossings are realigned; a core whose crossing faults again in the step after that is lost (R403; DEDUCED, log 83). With a cluster of the
other half out as well, the panel is reset (Table 18-3). -/
def coreCross (s : State) (k : Nat) : State :=
  let cl := clusterOf k
  let u := getClu s cl
  if u.lost || (getCore s k).lost || (getCore s k).cross = 1 then s
  else if (getCore s k).cross = 2 then
    loseCore (match partOfCore s k with | some p => reportStep s (jobOfPart s p) 1 false | none => s) k
  else
    let s := modClu (modCore s k fun c => { c with cross := 1 }) cl fun u => { u with crossFault := true }
    if s.clusters.any fun c => c.2.crossFault && c.1 / 5120 ≠ cl / 5120 then rungPanel s
    else
      let s := sendFence s cl 3 15 0 0 false
      let s := (s.cores.filter fun c => clusterOf c.1 = cl).foldl (fun s c => (List.range 4).foldl (fun s n => fenceCtx s c.1 n) s) s
      let s := modClu s cl fun u => { u with fenced := true }
      match partOfCore s k with
      -- no step runs on the dies of no partition: it is between steps
      | none => realign s cl
      | some p =>
        let s := reportStep s (jobOfPart s p) 1 false
        boundary (renumberAfter s p true) (jobOfPart s p)

def execCrossFault (x : Crossing) (s : State) : Out :=
  report s (match x with
    | .link site side lane => laneDue s (.die site side) lane
    | .core k => coreCross s k)

end Sys2Proof.Machine
end

