-- ==== Sys2Proof/Machine/Clocks.lean ====
section
/-! DEFINITION. Clocks and Tally: references, interval boundaries, margins, changes of the global step (16 R352 to R365). -/

namespace Sys2Proof.Machine

/-! ### References (R353) -/

/-- The islands of a half run on their own oscillators, and the half leaves compute service. -/
def execReferenceLoss (half : Nat) (s : State) : Out :=
  report s (
    let h := half % 2
    if !(getHalf s h).refOk then s
    else
      let s := modHalf s h fun x => { x with refOk := false }
      let s := (sitesOf h).foldl (fun s d => modDie s d fun x => { x with island := { x.island with osc := true } }) s
      takeHalfOut s h)

def execReferenceReturn (half : Nat) (s : State) : Out :=
  .next (
    let h := half % 2
    let s := modHalf s h fun x => { x with refOk := true }
    (sitesOf h).foldl (fun s d => modDie s d fun x => { x with island := { x.island with osc := false } }) s)

/-! ### Margins (R358, R359) -/

/-- VSET codes of 0.55 V and 0.85 V (R340). -/
def vsetLow : Nat := 60
def vsetHigh : Nat := 180

/-- A rise takes effect at once, a fall is one code. -/
def nextVset (old need ageOff : Nat) : Nat :=
  let v := Nat.max vsetLow (Nat.min vsetHigh (need + ageOff))
  if old ≤ v then v else old - 1

/-- The margin cap at a step (R359). -/
def marginCap (maxStep step : Nat) : Nat := if maxStep < step then 16 * stepMHz maxStep / stepMHz step else 16

/-- The cap after an evaluation: once MAXSTEP has fallen below the step, a cap holds until a step at or below MAXSTEP takes effect. -/
def nextMarginCap (old maxStep step : Nat) : Nat := if maxStep < step then marginCap maxStep step else old

/-- The result of one monitor. At 115 °C the island stops the cluster's clock and the die is fenced (R383); what must leave service does
so between steps. -/
def evalMargin (s : State) (m : MonitorRead) : State :=
  if 10240 ≤ m.cl then { s with clock := { s.clock with regions := Tbl.put s.clock.regions (m.cl - 10240) m.maxStep } }
  else if (getClu s m.cl).pwrState ≠ 2 then s
  else
    let s := modClu s m.cl fun u => { u with
      vset := BitVec.ofNat 8 (nextVset u.vset.toNat m.need.toNat m.ageOff.toNat), maxSeen := true, maxStep := m.maxStep, temp := m.temp,
      hotLogic := u.hotLogic || decide (105 ≤ m.temp.toInt),
      ageOff := m.ageOff, vminSeen := true, vmin := m.vmin, vminIdx := m.vminIdx, capMargin := nextMarginCap u.capMargin m.maxStep.toNat s.clock.step.toNat }
    if 115 ≤ m.temp.toInt then
      let d := m.cl / 64
      let s := match partOfSite s d with | some p => reportStep s (jobOfPart s p) 3 false | none => s
      loseDies (parkOff s m.cl) [d] 6
    else if 105 ≤ m.temp.toInt then leaveIfIdle s m.cl
    else s

/-! ### The global step (R360 to R362) -/

/-- The highest step requested by a partition outside Warm-park; 24 where none is (R374). -/
def requestedStep (s : State) : Nat :=
  let l := (s.parts.filter fun p => p.2.ledger.pmode ≠ 3).map fun p => if p.2.ledger.pmode = 2 then p.2.ledger.reqstep else 24
  if l = [] then 24 else maxNat l

/-- The lowest MAXSTEP over all regions that report: a cluster once it has since it is on, a fabric region while its die has power. -/
def lowestStep (s : State) : Nat :=
  let l := ((s.clusters.filter fun c => c.2.pwrState = 2 && c.2.maxSeen).map fun c => c.2.maxStep.toNat) ++
    ((s.clock.regions.filter fun r => !(r.1 < 160 && (getDie s r.1).dark)).map fun r => r.2.toNat)
  l.foldl Nat.min 24

/-- The first interval boundary at least 128 µs away (R361). -/
def changeTime (t : Nat) : Nat := ceilDiv (t + 128000) 10240 * 10240

/-- One evaluation of the global step by a hub in service: an announcement, if a change is due and none is pending. -/
def evalStep (s : State) : State :=
  if !(hubUp s 0 || hubUp s 1) then s
  else
    let req := requestedStep s
    let low := lowestStep s
    let s := { s with clock := { s.clock with req := BitVec.ofNat 5 req, minAllow := BitVec.ofNat 5 low, evalAt := s.tally } }
    let c := s.clock
    let n := Nat.min req low
    if c.pending || n = c.step.toNat || (c.step.toNat < n && now s < c.since.toNat + 1024000) then s
    else
      let t := BitVec.ofNat 64 (changeTime (now s))
      emit (journal { s with clock := { c with next := BitVec.ofNat 5 n, pending := true, tChange := t } } (.clock t)) (.announce t)

/-- Every 1,024 µs, and as soon as a MAXSTEP lies below the step in force (R360). -/
def execClockStepEvaluation (s : State) : Out :=
  .next (if s.clock.evalAt.toNat + 1024000 ≤ now s || lowestStep s < s.clock.step.toNat then evalStep s else s)

/-- From 10 µs before the change no wake is granted. -/
def execWakeHoldStart (s : State) : Out :=
  .next (if s.clock.pending && s.clock.tChange.toNat ≤ now s + 10000 then { s with clock := { s.clock with hold := true } } else s)

/-- Every fabric and cluster clock stops at the change time. -/
def execClockStop (s : State) : Out :=
  .next (if s.clock.pending && s.clock.tChange ≤ s.tally then { s with clock := { s.clock with stopped := true, hold := true } } else s)

/-- The time a wake has been held does not count toward its 20 µs (R362). -/
def releaseWakes (s : State) : State :=
  let from_ := s.clock.tChange.toNat - 10000
  { s with dies := Tbl.map s.dies fun _ d => { d with wakes := match d.wakes with
    | w :: r => { w with t0 := w.t0 + (s.tally - BitVec.ofNat 64 (Nat.max w.t0.toNat from_)) } :: r
    | [] => [] } }

/-- All clocks restart together at the new step (R362). The retention span of the old epoch is extended by the pause (R363). A half that
returns joins here (R449). -/
def execClockRestart (s : State) : Out :=
  .next (
    let c := s.clock
    if !c.stopped || now s < c.tChange.toNat + 4000 then s
    else
      let s := releaseWakes s
      let join := c.joining
      let pause := s.tally - c.tChange
      let s := { s with
        clock := { c with step := c.next, pending := false, stopped := false, hold := false, changes := satAdd c.changes 1,
                          since := s.tally, joining := none }
        epoch := { s.epoch with kept := s.epoch.kept.map fun x =>
          if c.tChange < x.1 + BitVec.ofNat 64 (lifeNs x.2.toNat + 1000) then (x.1 + pause, if c.next < x.2 then c.next else x.2) else x }
        clusters := Tbl.map s.clusters fun _ u => { u with capMargin := if u.pwrState = 2 && u.maxSeen then marginCap u.maxStep.toNat c.next.toNat else 16 } }
      match join with
      | some _ => { s with boot := { s.boot with halfPhase := if s.boot.half.isSome then 10 else 0 } }
      | none => s)

/-! ### Interval boundaries (R357, R358, R365) -/

/-- An island at the reference pulse: it latches its own count, takes it against the boundary with the line delay that it measured, and steers
the difference away over the next interval. One on its own oscillator, or without a pulse, keeps its steering and counts a miss. -/
def Island.pulse (i : Island) (line : Int) (driven : Bool) : Island :=
  if driven && !i.osc then { i with latched := i.off + line, steer := i.delay - (i.off + line), missed := 0, hold := false }
  else { i with missed := i.missed + 1, hold := decide (16 ≤ i.missed + 1) }

/-- The cluster at an interval's end `t`: a droop stretch that runs counts in it up to there, and the bound starts afresh (R357). -/
def nextInterval (s : State) (t : Nat) (u : Cluster) : Cluster :=
  let n := stretchRun s u t
  let u := { u.addCycles (stretchBound s) n with
    stretchFrom := if u.stretching then BitVec.ofNat 64 t else u.stretchFrom, stretchSent := u.stretchSent + n }
  { u with stretch := BitVec.ofNat 12 (Nat.min 4095 u.stretchNow), stretchNow := 0, overrunLeft := u.overrunLeft - 1 }

/-- An interval begins: stretch bounds start afresh, margins are re-evaluated, the islands latch the pulse that a hub in service drives. A
MAXSTEP below the step in force is evaluated at once (R360). -/
def execTallyIntervalBoundary (m : List MonitorRead) (s : State) : Out :=
  report s (
    if now s / 10240 = s.clock.interval then s
    else
      let driven := hubUp s 0 || hubUp s 1
      let s := { s with
        clock := { s.clock with interval := now s / 10240 }
        clusters := Tbl.map s.clusters fun _ u => nextInterval s (now s / 10240 * 10240) u
        dies := Tbl.map s.dies fun d x => { x with island := x.island.pulse (Config.lineDelay d) driven } }
      let s := m.foldl evalMargin s
      if lowestStep s < s.clock.step.toNat then evalStep s else s)

end Sys2Proof.Machine
end

