-- ==== Sys2Proof/Machine/Cooling.lean ====
section
/-! DEFINITION. The Ledger's period: attribution, power modes and caps (17 R367 to R377, R383), coolant (R384, R387), warm-keeping
(R385, R386). -/

namespace Sys2Proof.Machine

/-! ### Attribution (R369, R370) -/

def addTok (t : Tbl Nat) (r n : Nat) : Tbl Nat := Tbl.put t r (Tbl.get t r 0 + n)

/-- Tokens fed by request in non-abandoned steps of a partition in flight during the period: those released in it and those whose group
is still open, of requests that have ended since too. -/
def periodTokens (s : State) (p : Nat) : Tbl Nat :=
  let j := jobOfPart s p
  let steps := (getJob s j).steps.filter fun t => !t.abandoned
  let a := if steps.any fun t => !t.relA then fedReqs s j false else []
  let b := if jobSplit s j && steps.any fun t => !t.relB then fedReqs s j true else []
  (a ++ b).foldl (fun t r => addTok t r.1 r.2.nin) (getPart s p).ledger.tokens

def dieEnergy (e : PeriodEnergy) (sites : List Nat) : Nat := sumNat (sites.map fun d => Tbl.get e.dies d 0)

/-- Requests active in the period that closes: one that ended in it is charged for it (R369, R371). -/
def periodReqs (s : State) : List Nat := (s.requests.filter fun r => !r.2.charged).map (·.1)

/-- Charges of the period: by partition its direct charges by request; the overhead O; the overhead by request. -/
def chargeShares (s : State) (e : PeriodEnergy) : List (Nat × List (Nat × Nat)) × Nat × List (Nat × Nat) :=
  let active := periodReqs s
  let dirs := s.parts.map fun q => (q.1, directShares s q.1 (dieEnergy e q.2.sites))
  let all := (dirs.map (·.2)).flatten
  let o := e.inH0 + e.inH1 - e.guest - sumNat (all.map (·.2))
  (dirs, o, overheadShares o active all)

/-- One partition's figures of the period: what it drew, what of it is charged, what went to Reserved requests. -/
structure PartPeriod where
  energy : Nat
  charged : Nat
  reserved : Nat
  deriving DecidableEq, Repr

/-- What of a request's overhead falls to a partition: in proportion to its direct charges there, or an equal part for each partition of its
job where it has none (DEDUCED, log 146). -/
def overheadOf (s : State) (p : Nat) (mine all : List (Nat × Nat)) (c : Nat × Nat) : Nat :=
  let sum (l : List (Nat × Nat)) := sumNat ((l.filter fun x => x.1 = c.1).map (·.2))
  if 0 < sum all then c.2 * sum mine / sum all
  else match Tbl.find s.requests c.1 with
    | some r => let ps := partsOfJob s r.sub.job; if ps.contains p then c.2 / ps.length else 0
    | none => 0

/-- A partition's energy (R373): its direct charges plus their overhead; with no request of its own active in the period, the energy of its
dies, none of which is charged (R379's IDLE; log 146). -/
def partPeriod (s : State) (e : PeriodEnergy) (p : Nat) (dirs : List (Nat × List (Nat × Nat))) (ovh : List (Nat × Nat)) : PartPeriod :=
  let mine := ((dirs.filter fun d => d.1 = p).map (·.2)).flatten
  let all := (dirs.map (·.2)).flatten
  let reserved (c : Nat × Nat) : Bool := match Tbl.find s.requests c.1 with | some r => r.cls = 0 | none => false
  let share (c : Nat × Nat) : Nat := overheadOf s p mine all c
  let charged := sumNat (mine.map (·.2)) + sumNat (ovh.map share)
  { energy := if (getPart s p).ledger.busy || partBusy s p then charged else dieEnergy e (getPart s p).sites
    charged := charged
    reserved := sumNat ((mine.filter reserved).map (·.2)) + sumNat ((ovh.filter reserved).map share) }

/-! ### Power modes (R372 to R375) -/

/-- LCAP and REQSTEP after a period of `energy` (R373, R374). -/
def stepMode (l : PartLedger) (energy allow step : Nat) : PartLedger :=
  let sum := l.sum64 + energy
  let n := l.periods + 1
  let l := { l with periods := n % 64, sum64 := if n = 64 then 0 else sum }
  match l.pmode.toNat with
  | 1 =>
    if allow < energy then { l with lcap := Nat.max 4 (l.lcap - 1), lowRun := 0 }
    else if 10 * energy < 9 * allow then
      (if l.lowRun = 7 then { l with lcap := Nat.min 16 (l.lcap + 1), lowRun := 0 } else { l with lowRun := l.lowRun + 1 })
    else { l with lowRun := 0 }
  | 2 =>
    let r := if n ≠ 64 then l.reqstep
      else if 64 * allow < sum then l.reqstep - 1
      else if 100 * sum < 85 * 64 * allow then Nat.min 24 (l.reqstep + 1)
      else l.reqstep
    { l with reqstep := r, lcap := if r < step then 16 * stepMHz r / stepMHz step else 16 }
  | _ => { l with lcap := 16, lowRun := 0 }

/-- A LEDGER_SET takes effect; Warm-park waits while a request is active, parks the clusters, and its end wakes them (R375). -/
def applySetting (s : State) (p : Nat) : State :=
  let q := getPart s p
  match q.ledger.next with
  | none => s
  | some (m, allow, resv, aging) =>
    if m = 3 && partBusy s p then s
    else
      let old := q.ledger.pmode
      let l := { q.ledger with pmode := m, allow := allow, resv := resv, aging := aging, next := none }
      let l := if m = old then l
        else { l with lcap := 16, lowRun := 0, periods := 0, sum64 := 0, reqstep := 24 }
      let l := { l with waking := if old = 3 ∧ m ≠ 3 then true else l.waking && m ≠ 3 }
      let s := setPart s p { q with ledger := l }
      if m = 3 then (partClusters q).foldl parkOff s
      else if old = 3 then wakeDone ((partClusters q).foldl requestWake s) p
      else s

/-! ### Caps (R376, R377, R383) -/

/-- A cap of n/16 stepped by one period: down while `hot`, up by one after `need` periods in a row while `cool`. -/
def stepCap (cap run : Nat) (hot cool : Bool) (need : Nat) : Nat × Nat :=
  if hot then (Nat.max 1 (cap - 1), 0)
  else if cool && cap < 16 then (if run + 1 = need then (cap + 1, 0) else (cap, run + 1))
  else (cap, 0)

/-- Panel envelope in µJ per period, and its release point (R376, R384). -/
def envelope (l : PanelLedger) : Nat := 25600000 - 1024000 * l.envLower
def envelopeLow (l : PanelLedger) : Nat := 24576000 - 1024000 * l.envLower

/-- Envelope and half-input caps; the first that applies and the last that is lifted are reported. -/
def stepPanelCaps (s : State) : State :=
  let l := s.ledger
  let avg := mean l.avg10
  let rise := l.limits.getLsbD 1
  let (ec, er) := stepCap l.envCap l.envLow (decide (envelope l < avg) || rise) (decide (avg < envelopeLow l)) 8
  let half (x : Half) : Half :=
    let (c, r) := stepCap x.cap x.lowRun (decide (2000 < x.iavg.toNat)) (decide (x.iavg.toNat < 1920)) 8
    { x with cap := c, lowRun := r }
  let before := l.envCap < 16 || s.half0.cap < 16 || s.half1.cap < 16
  let (old0, old1) := (s.half0.cap, s.half1.cap)
  let s := { s with ledger := { l with envCap := ec, envLow := er }, half0 := half s.half0, half1 := half s.half1 }
  let after := ec < 16 || s.half0.cap < 16 || s.half1.cap < 16
  -- the envelope's first cap, and that of each half on its own input (Table 15-3)
  let s := if 16 ≤ l.envCap && ec < 16 then powerEvent s 0 0 (avg / 1024) else s
  let s := if 16 ≤ old0 && s.half0.cap < 16 then powerEvent s 0 0 (avg / 1024) else s
  let s := if 16 ≤ old1 && s.half1.cap < 16 then powerEvent s 0 1 (avg / 1024) else s
  if before && !after then powerEvent s 1 0 (avg / 1024) else s

/-- The thermal caps of one cluster; the first application of each is reported. -/
def stepThermal (s : State) (cl : Nat) : State :=
  let u := getClu s cl
  let t := u.temp.toInt
  let d := u.dieTemp.toNat
  let (c, r) := stepCap u.capTherm u.coolPeriods (decide (95 ≤ t)) (decide (t ≤ 90)) 64
  let (cd, rd) := stepCap u.capThermDram u.coolDram (decide (90 ≤ d)) (decide (d ≤ 85)) 64
  let s := setClu s cl { u with capTherm := c, coolPeriods := r, capThermDram := cd, coolDram := rd }
  let s := if u.capTherm = 16 && c < 16 then powerEvent s 2 (cl / 5120) (1000 * t.toNat) else s
  if u.capThermDram = 16 && cd < 16 then powerEvent s 2 (cl / 5120) (1000 * d) else s

/-- A stage above 110 °C caps both dies of its pair; the event is posted when the temperature is read (R348). -/
def stepStages (s : State) : State :=
  { s with stages := Tbl.map s.stages fun _ x =>
      let (c, r) := stepCap x.cap x.coolPeriods (decide (110 < x.temp.toInt)) (decide (x.temp.toInt ≤ 105)) 64
      { x with cap := c, coolPeriods := r } }

/-- The Ledger cap of a cluster: the lowest of its caps (R377). -/
def ledgerCap (s : State) (cl : Nat) (u : Cluster) : Nat :=
  let l := match partOfSite s (cl / 64) with | some p => (getPart s p).ledger.lcap | none => 16
  [s.ledger.envCap, (match (getDie s (cl / 64)).heatCap with | some c => Nat.max 1 c | none => 16), (getHalf s (cl / 5120)).cap, u.capTherm, u.capThermDram, (getStage s (cl / 128)).cap].foldl Nat.min l

/-- Cap in force and its sources: phase, Ledger, margin, overrun (R359, CAP and CAP_SRC). -/
def capInForce (s : State) (u : Cluster) : Nat × Nat :=
  let a := if u.cap75 then 12 else 16
  -- a stretch that runs may have passed the bound already (R357)
  let o := if 0 < u.overrunLeft || stretchBound s < u.stretchNow + stretchRun s u (now s) then 8 else 16
  let c := [u.capLedger, u.capMargin, o].foldl Nat.min a
  (c, b2n (a < 16) + 2 * b2n (u.capLedger < 16) + 4 * b2n (u.capMargin < 16) + 8 * b2n (o < 16))

/-! ### Warm-keeping (R385, R386) -/

/-- The forecast, absent after 60 s: F1, F10, F60 in watts. -/
def forecastOf (s : State) : Nat × Nat × Nat :=
  let l := s.ledger
  match l.fAt with
  | some t => if now s ≤ t.toNat + 60000000000 then (l.f1.toNat, l.f10.toNat, l.f60.toNat) else (0, 0, 0)
  | none => (0, 0, 0)

/-- Dies of partitions outside Warm-park. -/
def servingDies (s : State) : Nat := sumNat (s.parts.map fun q => if q.2.ledger.pmode = 3 then 0 else q.2.sites.length)

/-- D_need(F): P_die is the mean power per serving die over the last 64 periods, 130 W if no die has served in them. -/
def dNeed (s : State) (f : Nat) : Nat :=
  let l := s.ledger.dieMean
  let (e, n) := (sumNat (l.map (·.1)), sumNat (l.map (·.2)))
  if n = 0 then ceilDiv f 130 else if e = 0 then 0 else ceilDiv (f * 1024 * n) e

/-- The Warm-park partitions, in ascending number, whose dies cover a need. -/
def warmParts : List (Nat × Partition) → Nat → List (Nat × Partition)
  | [], _ => []
  | q :: r, n => if n = 0 then [] else q :: warmParts r (n - q.2.sites.length)

def meanInt (l : List Int) : Int := l.foldl (· + ·) 0 / (l.length : Int)

/-- T_work of a die. -/
def tWork (s : State) (d : Nat) : Int := let l := (getDie s d).tHist; if l = [] then 75 else meanInt l

/-- Mean temperature of a die's clusters: of those that are on and have reported, for the others report nothing (R358). -/
def dieTemp (s : State) (d : Nat) : Option Int :=
  let l := (clustersOf [d]).filterMap fun c => let u := getClu s c; if u.pwrState = 2 && u.maxSeen then some u.temp.toInt else none
  if l = [] then none else some (meanInt l)

/-- The heat pattern has run over the scratchpads of a die's clusters: what it leaves there is open (log 7). -/
def heatRuns (s : State) (d : Nat) : State :=
  let ks := (((clustersOf [d]).filter fun c => (getClu s c).pwrState = 2).map fun c => (List.range 64).map (c * 64 + ·)).flatten
  ks.foldl (fun s k => (List.range 1024).foldl (fun s i => bumpFree (spmWriteLine s k i (2 ^ 64 - 1) (freeLine s).toNat)) s) s

/-- The cap of the heat pattern for the next period: down above 40 W or above the target, up below the target where the next sixteenth keeps
within 40 W; 0 holds the pattern still (log 147). -/
def nextHeat (cap energy : Nat) (temp : Option Int) (target : Int) : Nat :=
  if 40960 < energy then cap - 1
  else match temp with
    | some t => if target < t then cap - 1 else if t < target && cap < 16 && decide (energy * (cap + 1) ≤ 40960 * Nat.max 1 cap) then cap + 1 else cap
    | none => Nat.max 1 cap

/-- A die held warm has its clusters on and the heat pattern running under the cap that holds the target. -/
def holdWarm (s : State) (e : PeriodEnergy) (pre : Bool) (d : Nat) : State :=
  let s := (clustersOf [d]).foldl requestWake s
  let s := if 0 < (getDie s d).heatCap.getD 0 then heatRuns s d else s
  let cap := nextHeat ((getDie s d).heatCap.getD 0) (Tbl.get e.dies d 0) (dieTemp s d) (tWork s d - (if pre then 5 else 15))
  modDie s d fun x => { x with heatCap := some cap }

/-- A parked die that is not held has its clusters parked and cools freely. -/
def coolFreely (s : State) (d : Nat) : State :=
  let s := (clustersOf [d]).foldl (fun s c => if (getClu s c).pwrState = 2 then parkOff s c else s) s
  modDie s d fun x => { x with wakes := [] }

/-- Dies held warm run the heat pattern; the others cool freely. -/
def keepWarm (s : State) (e : PeriodEnergy) : State :=
  let (_, f10, f60) := forecastOf s
  let have_ := servingDies s
  let pre := have_ < dNeed s f10
  let parked := s.parts.filter fun q => q.2.ledger.pmode = 3
  let held := warmParts parked (if have_ < dNeed s f60 then dNeed s f60 - have_ else dNeed s f10 - have_)
  let dies := (held.map fun q => q.2.sites).flatten
  let s := { s with ledger := { s.ledger with warmDies := BitVec.ofNat 8 dies.length, prewarm := pre },
                    dies := Tbl.map s.dies fun d x => if dies.contains d then x else { x with heatCap := none } }
  ((parked.map fun q => q.2.sites).flatten).foldl (fun s d => if dies.contains d then holdWarm s e pre d else coolFreely s d) s

/-! ### The period boundary -/

/-- A partition's own figures are brought up to date. -/
def closePeriod (s : State) (p : Nat) (f : PartPeriod) : State :=
  let on := partBusy s p
  let allow := allowOf s p
  modPart s p fun q =>
    let l := q.ledger
    let none_ := l.fedCount = 0 && l.tokens.all fun t => t.2 = 0
    let fed := if none_ then l.fed else ((f.charged, l.fedCount) :: l.fed).take 64
    let gaps := if none_ then l.gaps else ((l.gapSum, l.gapCount) :: l.gaps).take 64
    let l := { l with
      total := l.total + f.energy, last := f.energy, last8 := ((f.energy, f.reserved) :: l.last8).take 8,
      adm8 := (0 :: l.adm8).take 9, fed := fed, busy := on, idle := if !(l.busy || on) then (f.energy :: l.idle).take 64 else l.idle,
      tokens := [], lostTokens := 0, fedCount := 0, gaps := gaps, gapSum := 0, gapCount := 0 }
    { q with ledger := stepMode l f.energy allow s.clock.step.toNat }

/-- The hottest readings, and the limits in force (HUB.THERM). -/
def noteThermal (s : State) : State :=
  let on := s.clusters.filter fun c => c.2.pwrState = 2
  let t (l : List Int) : Int := l.foldl max (l.headD 0)
  let lim := b2n (s.ledger.limits.getLsbD 0) + 2 * b2n (s.ledger.limits.getLsbD 1)
    + 4 * b2n (s.clusters.any fun c => c.2.capTherm < 16) + 8 * b2n (s.clusters.any fun c => c.2.capThermDram < 16)
    + 16 * b2n (s.stages.any fun x => x.2.cap < 16) + 32 * b2n (s.ledger.envCap < 16 || s.half0.cap < 16 || s.half1.cap < 16)
  { s with ledger := { s.ledger with
    tclu := BitVec.ofInt 8 (t (on.map fun c => c.2.temp.toInt)), tdram := BitVec.ofNat 8 (maxNat (s.clusters.map fun c => c.2.dieTemp.toNat)),
    tstage := BitVec.ofInt 8 (t (s.stages.map fun x => x.2.temp.toInt)), limits := BitVec.ofNat 6 lim } }

/-- The period of requests that ended in it is closed: their receipts are whole, and REQUEST_DONE goes out where the END block has (R371). -/
def closeReceipts (s : State) : State :=
  let due := s.requests.filter fun r => r.2.state = 4 && !r.2.charged
  let s := { s with requests := Tbl.map s.requests fun _ r => if r.state = 4 then { r with charged := true } else r }
  due.foldl (fun s r => if r.2.endSent then postReceipt s r.2 r.1 else s) s

def execLedgerPeriodBoundary (e : PeriodEnergy) (s : State) : Out :=
  report s (
    if now s / 1024000 = s.clock.period then s
    else
      let s := { s with clock := { s.clock with period := now s / 1024000 } }
      let s := s.parts.foldl (fun s q => modPart s q.1 fun x => { x with ledger := { x.ledger with tokens := periodTokens s q.1 } }) s
      let ein := e.inH0 + e.inH1
      let idle := periodReqs s = []
      let (dirs, o, ovh) := chargeShares s e
      let figs := s.parts.map fun q => (q.1, partPeriod s e q.1 dirs (if idle then [] else ovh))
      let charge (s : State) (r d v : Nat) : State := match Tbl.find s.requests r with
        | some x => if x.charged then s else { s with requests := Tbl.put s.requests r { x with dir := x.dir + d, ovh := x.ovh + v } }
        | none => s
      let s := if idle then s
        else ovh.foldl (fun s c => charge s c.1 0 c.2) (((dirs.map (·.2)).flatten).foldl (fun s c => charge s c.1 c.2 0) s)
      let s := closeReceipts s
      let serving := (s.parts.filter fun q => q.2.ledger.pmode ≠ 3).map fun q => q.2.sites
      let s := { s with ledger := { s.ledger with
        ein := s.ledger.ein + BitVec.ofNat 64 ein, pin := BitVec.ofNat 32 ein, ovh := BitVec.ofNat 32 (if idle then 0 else o),
        guest := BitVec.ofNat 32 e.guest, unch := BitVec.ofNat 32 (if idle then ein - e.guest else 0),
        unchTotal := s.ledger.unchTotal + (if idle then ein - e.guest else 0), avg10 := (ein :: s.ledger.avg10).take 10,
        avg1000 := (ein :: s.ledger.avg1000).take 1000,
        dieMean := ((dieEnergy e serving.flatten, serving.flatten.length) :: s.ledger.dieMean).take 64 } }
      let s := figs.foldl (fun s f => closePeriod s f.1 f.2) s
      let s := e.dramTemp.foldl (fun s t => leaveIfIdle (modClu s t.1 fun u => u.noteDie (BitVec.ofNat 8 t.2)) t.1) s
      let s := serving.flatten.foldl (fun s d => match dieTemp s d with
        | some t => modDie s d fun x => { x with tHist := (t :: x.tHist).take 58594 }
        | none => s) s
      let s := (s.parts.map (·.1)).foldl (fun s p => wakeDone (applySetting s p) p) s
      let s := stepStages (stepPanelCaps s)
      let s := (s.clusters.map (·.1)).foldl stepThermal s
      let s := { s with clusters := Tbl.map s.clusters fun c u => { u with capLedger := ledgerCap s c u } }
      noteThermal (keepWarm s e))

/-! ### Coolant (R384, R387) -/

/-- Temperatures in 0.01 °C. A condition counts once it has held; the limits of Table 17-5. -/
def execCoolantSample (tin tout : BitVec 16) (s : State) : Out :=
  report s (
    let i := tin.toInt
    let o := tout.toInt
    let keep (c : Bool) (x : Option Word) : Option Word := if c then some (x.getD s.tally) else none
    let l := s.ledger
    let l := { l with
      tin := tin, tout := tout, lowIn := keep (decide (i < 1500)) l.lowIn, highIn := keep (decide (4500 < i)) l.highIn,
      hotIn := keep (decide (5000 ≤ i)) l.hotIn, rise11 := keep (decide (1100 < o - i)) l.rise11,
      rise15 := keep (decide (1500 < o - i)) l.rise15 }
    let low := heldFor s l.lowIn 10000000000
    let high := heldFor s l.highIn 10000000000
    let inlet := low || high
    let rise := heldFor s l.rise11 1000000000 || (l.limits.getLsbD 1 && decide (1000 < o - i))
    let was := l.limits
    let lim := (was &&& 0x3C) ||| BitVec.ofNat 6 (b2n inlet + 2 * b2n rise)
    let s := { s with ledger := { l with limits := lim, envLower := if high then (i.toNat - 4500) / 100 else 0 } }
    let s := if low && !was.getLsbD 0 then powerEvent s 2 0 (BitVec.ofInt 32 (10 * i)).toNat else s
    if (heldFor s l.hotIn 1000000000 || heldFor s l.rise15 1000000000 || 5800 < o) && (s.half0.inService || s.half1.inService) then
      rampPanel s 3 false
    else s)

/-- Requested flow in 0.1 L/min: 1.6 L/min per kW (R387). -/
def flowWanted (s : State) : Nat :=
  let (f1, f10, _) := forecastOf s
  let p := Nat.max (mean s.ledger.avg1000 / 1024) (Nat.max f1 f10)
  Nat.max 200 (Nat.min 480 (16 * p / 1000))

def execCoolantFlowUpdate (s : State) : Out :=
  .next (
    let f := flowWanted s
    let l := s.ledger
    if dist f l.flow.toNat < 10 || (match l.flowAt with | some t => decide (now s < t.toNat + 1000000000) | none => false) then s
    else raiseAlert { s with ledger := { l with flow := BitVec.ofNat 16 f, flowAt := some s.tally } })

end Sys2Proof.Machine
end

