-- ==== Sys2Proof/Machine/Optical.lean ====
section
/-! DEFINITION. The optical dies: window transfers between panels, Assured traffic, time between panels, jobs across panels, twins
(09 R212, 12 R273 to R292, 14 R317, 19 R428). -/

namespace Sys2Proof.Machine

/-! ### Frames in and out (R275, R276, R279) -/

def getOe (s : State) (oe : Nat) : OptDie := Tbl.get s.optDies oe OptDie.reset
def modOe (s : State) (oe : Nat) (f : OptDie → OptDie) : State := { s with optDies := Tbl.put s.optDies oe (f (getOe s oe)) }

/-- Direction of an optical die (Table 12-1); 6 is the twin link. -/
def dirOf (oe : Nat) : Nat := ((List.range 6).find? fun d => (opticalDies d).contains oe).getD 6

/-- The neighbour of a panel in a direction. -/
def neighbour (n dir : Nat) : Nat :=
  let x := torusX n
  let y := torusY n
  let z := torusZ n
  match dir with
  | 0 => (x + 1) % 8 + 8 * y + 64 * z
  | 1 => (x + 7) % 8 + 8 * y + 64 * z
  | 2 => x + 8 * ((y + 1) % 8) + 64 * z
  | 3 => x + 8 * ((y + 7) % 8) + 64 * z
  | 4 => x + 8 * y + 64 * ((z + 1) % 16)
  | _ => x + 8 * y + 64 * ((z + 15) % 16)

/-- Has a SEQ been received? Half of the number space below the lowest one missing counts as received. -/
def Assured.received (a : Assured) (q : BitVec 20) : Bool := 2 ^ 19 ≤ (q - a.low).toNat || a.got.contains q.toNat

/-- The lowest SEQ not yet received moves over those that have been. -/
def Assured.advance : Nat → Assured → Assured
  | 0, a => a
  | n + 1, a =>
    if a.got.contains a.low.toNat then Assured.advance n { a with low := a.low + 1, got := a.got.filter (· ≠ a.low.toNat) } else a

/-- A SEQ is noted as received. -/
def Assured.take (a : Assured) (q : BitVec 20) : Assured :=
  Assured.advance (a.got.length + 1) { a with got := a.got ++ [q.toNat], since := a.since + 1 }

/-- An intact frame that has not come before is delivered; `key` names the pair (a twin's is its number + 1,024). -/
def assuredIn (s : State) (key : Nat) (f : OptFrame) (g : State → State) : State :=
  let a := Tbl.get s.assured key Assured.reset
  if f.e2e ≠ e2eOf f || a.received f.seq then s else g { s with assured := Tbl.put s.assured key (a.take f.seq) }

/-- Does an optical die serve (R34)? -/
def oeServes (s : State) (oe : Nat) : Bool := (getHalf s (if oe < 24 then 0 else 1)).inService

/-- A torus frame of type `t` at its destination (R278, R279). -/
def acceptFrame (s : State) (t : Nat) (f : OptFrame) (g : State → State) : State :=
  if f.otype.toNat ≠ t || f.dst.toNat ≠ s.sys.panel then s
  else if s.sys.assured then assuredIn s f.src.toNat f g
  else g s

/-- Key of the twin link's sequence numbers. -/
def twinKey (s : State) : Nat := 1024 + s.twin.partner

/-- Is there a partner on the twin link? -/
def twinOn (s : State) : Bool := s.twin.role ≠ .solo || s.twin.pending.isSome

/-- A frame of type `t` on the twin link, which always works as Assured (R280). -/
def acceptTwin (s : State) (t : Nat) (f : OptFrame) (g : State → State) : State :=
  if f.otype.toNat ≠ t || !twinOn s || f.src.toNat ≠ s.twin.partner then s
  else assuredIn { s with twin := { s.twin with lastHeard := s.tally, silent := false } } (twinKey s) f g

/-- Is a panel number configured in the system (R276)? -/
def panelConfigured (s : State) (n : Nat) : Bool := decide (n = s.sys.panel) || Config.configured n

/-- A frame that answers `f` from this panel. -/
def answerFrame (s : State) (otype : Nat) (f : OptFrame) (v : Line) : OptFrame :=
  { otype := BitVec.ofNat 4 otype, src := BitVec.ofNat 10 s.sys.panel, spart := f.dpart, dst := f.src, dpart := f.spart, win := f.win,
    gen := f.gen, line := f.line, seq := 0, e2e := 0, payload := v }

/-! ### The far end (R277 step 3, R178, R180) -/

def sendDone (s : State) (oe : Nat) (f : OptFrame) (st : Status) : State :=
  sendFrame s (exitFrom s oe f.src.toNat) (answerFrame s 3 f (st.setWidth 512))

/-- One line of a far panel's transfer of `lines` lines from `first` at its inbound window: the whole transfer and then the line refused, or
the line done in its channel (R178, R180; log 108). A channel that does not serve gives no answer, and the source's 200 µs run out. -/
def farLine (s : State) (oe : Nat) (f : OptFrame) (first lines : Nat) (write : Bool) (r : ArrayRead) : State :=
  let p := f.dpart.toNat
  let w := f.win.toNat
  let refusal (off n : Nat) := inboundRefusal s p w (some f.gen) (.panel f.src.toNat f.spart.toNat) write (64 * off) (64 * n)
  match (refusal first lines).orElse fun _ => refusal f.line.toNat 1 with
  | some st => sendDone s oe f st
  | none =>
    let (cl, line) := windowLine s p w f.line.toNat
    match gateChannel s cl line write f.payload r (.far oe f first lines write r) with
    | (t, .done st none) => sendDone t oe f st
    | (t, .done _ (some v)) => sendFrame t (exitFrom t oe f.src.toNat) (answerFrame t 2 f v)
    | (t, .silent) => t

def execPutLine (oe : Nat) (q : FarRequest) (s : State) : Out :=
  report s (if oeServes s oe then acceptFrame s 0 q.frame fun s => farLine s oe q.frame q.first q.lines true cleanRead else s)

def execGetRequest (oe : Nat) (q : FarRequest) (r : ArrayRead) (s : State) : Out :=
  report s (if oeServes s oe then acceptFrame s 1 q.frame fun s => farLine s oe q.frame q.first q.lines false r else s)

/-! ### The source (R277) -/

/-- XGRANT for all lines of a put. -/
def grantPut (s : State) (oe tag : Nat) (x : OptXfer) : State :=
  let (_, ax, ay) := opticalNear oe x.x.toNat x.y.toNat
  let y := { x with granted := true, at_ := x.left.map fun q => (q, s.tally) }
  let s := modOe s oe fun o => { o with xfers := Tbl.put o.xfers tag y }
  sendCtrl s 0x12 ax ay x.x.toNat x.y.toNat (tag + 2 ^ 26 * x.lines)

/-- The frame of line `seq` of a transaction. -/
def xferFrame (s : State) (x : OptXfer) (seq : Nat) (v : Line) : OptFrame :=
  { otype := if x.get then 1 else 0, src := BitVec.ofNat 10 s.sys.panel, spart := BitVec.ofNat 4 x.part, dst := BitVec.ofNat 10 x.dst,
    dpart := BitVec.ofNat 4 x.dpart, win := BitVec.ofNat 8 x.win, gen := x.gen, line := BitVec.ofNat 20 (x.first + seq), seq := 0, e2e := 0,
    payload := v }

/-- The transaction that a request body opens over an outbound window (Table 12-3). -/
def openXfer (s : State) (get : Bool) (p : CtrlPacket) : Option OptXfer :=
  let b := p.body.toNat
  match partOfCore s (coreAt p.sx.toNat p.sy.toNat) with
  | none => none
  | some q =>
    let w := getWindow s q (field b 0 8)
    if !w.outbound || w.target then none
    else some { get := get, x := p.sx, y := p.sy, cnt := field b 48 4, dst := w.fld 0 10, dpart := w.fld 12 4, win := w.fld 16 8,
                gen := w.farGen, first := field b 8 20, lines := field b 28 10 + 1, spmLine := field b 38 10, coreTag := 0, part := q,
                left := List.range (field b 28 10 + 1), at_ := [], granted := false }

def addXfer (s : State) (oe : Nat) (x : OptXfer) : State :=
  modOe s oe fun o => { o with nextTag := o.nextTag + 1, xfers := Tbl.put o.xfers o.nextTag.toNat x }

def execXputReq (oe : Nat) (p : CtrlPacket) (s : State) : Out :=
  .next (if p.ctype ≠ 0x10 || !oeServes s oe then s
    else match openXfer s false p with
      | none => s
      | some x =>
        let tag := (getOe s oe).nextTag.toNat
        let t := addXfer s oe x
        if resendFull s oe then t else grantPut t oe tag x)

/-- For a get the core's engine grants the tag under which the lines will come, and one GET frame goes out for each line. -/
def execXgetReq (oe : Nat) (p : CtrlPacket) (s : State) : Out :=
  .next (if p.ctype ≠ 0x11 || !oeServes s oe then s
    else match openXfer s true p with
      | none => s
      | some x =>
        let k := coreAt p.sx.toNat p.sy.toNat
        let c := getCore s k
        let g : Grant := { tag := c.nextTag, line := x.spmLine, lines := x.lines, cnt := x.cnt, x := x.x, y := x.y, left := x.lines }
        let s := setCore s k { c with nextTag := c.nextTag + 1, grants := c.grants ++ [g] }
        let x := { x with granted := true, coreTag := g.tag, at_ := x.left.map fun q => (q, s.tally) }
        let s := addXfer s oe x
        x.left.foldl (fun s q => sendFrame s oe (xferFrame s x q 0)) s)

/-- A tagged line at an optical die: a granted one leaves as a PUT frame, one of a frame in transit completes that frame, which goes on (R275). -/
def taggedAtOptical (s : State) (oe tag seq : Nat) (v : Line) : State :=
  match Tbl.find (getOe s oe).transit tag with
  | some f =>
    let s := modOe s oe fun o => { o with transit := Tbl.drop o.transit tag }
    if panelFenced s then s else emit s (.frame oe { f with payload := v })
  | none =>
  match Tbl.find (getOe s oe).xfers tag with
  | none => s
  | some x =>
    if x.get || !x.granted || !x.left.contains seq then s
    else
      let s := modOe s oe fun o => { o with xfers := Tbl.put o.xfers tag { x with at_ := Tbl.put x.at_ seq s.tally } }
      sendFrame s oe (xferFrame s x seq v)

def execTaggedLineArrival (p : DataPacket) (s : State) : Out :=
  .next (match p.hdr with
    | .tagged ep dx dy tag seq _ =>
      let k := coreAt dx.toNat dy.toNat
      match ep.toNat with
      | 0 => taggedAtChannel s (clusterOf k) tag seq.toNat p.payload
      | 1 => (match oeAt dx.toNat dy.toNat with | some oe => taggedAtOptical s oe tag.toNat seq.toNat p.payload | none => s)
      | 3 => taggedAtCore s k tag seq.toNat p.payload
      | _ => s
    | _ => s)

/-- A line of a transaction is settled: a committed put is counted by COMMIT, one that failed by COUNT_ONLY; a get whose line has come is
counted at the core. -/
def settleLine (s : State) (oe tag seq : Nat) (st : Status) : State :=
  match Tbl.find (getOe s oe).xfers tag with
  | none => s
  | some x =>
    if !x.left.contains seq then s
    else
      let y := { x with left := x.left.filter (· ≠ seq), at_ := Tbl.drop x.at_ seq }
      let s := modOe s oe fun o => { o with xfers := if y.left = [] then Tbl.drop o.xfers tag else Tbl.put o.xfers tag y }
      let (_, ax, ay) := opticalNear oe x.x.toNat x.y.toNat
      if st = stOk then (if x.get then s else sendCtrl s 4 ax ay x.x.toNat x.y.toNat (countBody x.cnt 1 0))
      else
        let s := if x.get then forgetSeq s 3 x.x.toNat x.y.toNat x.coreTag seq else s
        sendCtrl s 5 ax ay x.x.toNat x.y.toNat (countBody x.cnt 1 st.toNat)

/-- The line of a transaction that an answer of a far panel names, the die it came in by first: die, tag, line index, transaction. -/
def answered (s : State) (oe : Nat) (get : Bool) (f : OptFrame) : Option (Nat × Nat × Nat × OptXfer) :=
  (oe :: (List.range 48).filter (· ≠ oe)).findSome? fun o =>
    ((getOe s o).xfers.find? fun x =>
      let y := x.2
      y.get = get && y.dst = f.src.toNat && y.dpart = f.spart.toNat && y.win = f.win.toNat && y.gen = f.gen && y.part = f.dpart.toNat &&
        decide (y.first ≤ f.line.toNat) && y.left.contains (f.line.toNat - y.first)).map
      fun x => (o, x.1, f.line.toNat - x.2.first, x.2)

/-- A GET line goes on as a tagged packet for the issuing core (EP 3). -/
def execGetLine (oe : Nat) (f : OptFrame) (s : State) : Out :=
  .next (if !oeServes s oe then s else acceptFrame s 2 f fun s =>
    match answered s oe true f with
    | none => s
    | some (o, tag, seq, x) =>
      let (_, ax, ay) := opticalNear oe x.x.toNat x.y.toNat
      emit (settleLine s o tag seq stOk) (.inject (coreAt ax ay)
        { epoch := s.epoch.cur, hops := 0, payload := f.payload, hdr := .tagged 3 x.x x.y x.coreTag (BitVec.ofNat 10 seq) 0 }))

/-- DONE: OK commits a put's line; a refusal settles a put's line, else a get's. -/
def execDone (oe : Nat) (f : OptFrame) (s : State) : Out :=
  .next (if !oeServes s oe then s else acceptFrame s 3 f fun s =>
    let st : Status := f.payload.setWidth 16
    match answered s oe false f with
    | some (o, tag, seq, _) => settleLine s o tag seq st
    | none =>
      match answered s oe true f with
      | some (o, tag, seq, _) => if st = stOk then s else settleLine s o tag seq st
      | none => s)

def execOpticalLineTimeout (oe tag seq : Nat) (s : State) : Out :=
  .next (match (Tbl.find (getOe s oe).xfers tag).bind fun x => Tbl.find x.at_ seq with
    | none => s
    | some t => if now s < t.toNat + 200000 then s else settleLine s oe tag seq stTimeout)

/-- CRC-32C of a frame's 80 bytes, which follows it on its lane (R273). -/
def frameCrc (f : OptFrame) : BitVec 32 :=
  let h := f.otype.toNat + 2 ^ 4 * f.src.toNat + 2 ^ 14 * f.spart.toNat + 2 ^ 18 * f.dst.toNat + 2 ^ 28 * f.dpart.toNat
    + 2 ^ 32 * f.win.toNat + 2 ^ 40 * f.gen.toNat + 2 ^ 56 * f.line.toNat + 2 ^ 76 * f.seq.toNat + 2 ^ 96 * f.e2e.toNat
  BitVec.ofNat 32 (crc32c (leBytes 16 h ++ leBytes 64 f.payload.toNat))

/-- Must a hop drop a sound frame: a reserved type, or a destination that is not configured (R276)? -/
def frameStray (s : State) (f : OptFrame) : Bool := 11 ≤ f.otype.toNat || !panelConfigured s f.dst.toNat

def countDropped (s : State) (oe : Nat) : State := modOe s oe fun o => { o with discards := o.discards + 1 }

/-- A frame discarded for its FEC or CRC: the die's 17th within 1 ms sends its lanes to be retrained, as on a die link (R235, R262, R273). -/
def noteOptical (s : State) (oe : Nat) : State :=
  let l := Tbl.get s.optLinks oe Link.reset
  let ts := (l.discards.filter fun t => decide (now s < t.toNat + 1000000)) ++ [s.tally]
  let l := if 16 < ts.length then { l with discards := [], due := (List.range 16).filter l.sound } else { l with discards := ts }
  countDropped { s with optLinks := Tbl.put s.optLinks oe l } oe

/-- A frame that a hop drops: failed FEC or CRC, a reserved type, or a destination that is not configured (R276, R278). -/
def execOpticalFrameDiscard (oe : Nat) (f : OptFrame) (fecOk : Bool) (crc : BitVec 32) (s : State) : Out :=
  .next (
    if !oeServes s oe then s
    else if !fecOk || crc ≠ frameCrc f then noteOptical s oe
    else if frameStray s f then countDropped s oe
    else s)

/-- A frame for another panel is carried as a tagged packet to the die of its next direction with the lowest HOPS, which holds its header
under a tag of its own (R275; log 119). -/
def execOpticalFrameTransit (oe : Nat) (f : OptFrame) (s : State) : Out :=
  .next (
    if panelFenced s || !oeServes s oe then s
    else if frameStray s f then countDropped s oe
    else match torusDir s.sys.panel f.dst.toNat with
      | none => s
      | some _ =>
        let x := exitFrom s oe f.dst.toNat
        let k := (opticalRouters oe).headD 0
        let (_, ax, ay) := opticalNear x (coreX k) (coreY k)
        let tag := (getOe s x).nextTag
        emit (modOe s x fun o => { o with nextTag := o.nextTag + 1, transit := Tbl.put o.transit tag.toNat f }) (.inject k
          { epoch := s.epoch.cur, hops := 0, payload := f.payload, hdr := .tagged 1 (BitVec.ofNat 10 ax) (BitVec.ofNat 10 ay) tag 0 0 }))

/-! ### Members lost and returned (R284 to R286) -/

/-- A JOB frame that names lost members, at most 28: JOB, EPOCH, how many, their numbers (log 25). -/
def memberFrame (s : State) (dst j : Nat) (epoch : BitVec 32) (lost : List Nat) : OptFrame :=
  let v := j + 2 ^ 16 * epoch.toNat + 2 ^ 48 * lost.length + 2 ^ 64 * leNat (lost.map (leBytes 2)).flatten
  { jobFrame s 7 dst j 0 0 epoch with payload := BitVec.ofNat 512 v }

/-- A JOB frame of a member that returns: no lost members, its number, and the panel that serves as it (log 25). -/
def returnFrame (s : State) (dst j : Nat) (epoch : BitVec 32) (m p : Nat) : OptFrame :=
  { jobFrame s 7 dst j 0 0 epoch with payload := BitVec.ofNat 512 (j + 2 ^ 16 * epoch.toNat + 2 ^ 64 * m + 2 ^ 80 * p) }

/-- Lists of at most `n` each. -/
def inChunks (n : Nat) : Nat → List Nat → List (List Nat)
  | 0, _ => []
  | _, [] => []
  | fuel + 1, l => l.take n :: inChunks n fuel (l.drop n)

def framedMembers (f : OptFrame) : List Nat :=
  let v := f.payload.toNat
  (List.range (Nat.min 28 (field v 48 16))).map fun i => field v (64 + 16 * i) 16

def insNat (x : Nat) : List Nat → List Nat
  | [] => [x]
  | y :: r => if x < y then x :: y :: r else if x = y then y :: r else y :: insNat x r

/-- A member's part of MEMBER_LOST: the step is abandoned, the windows of the job's partitions fenced, the lines outstanding to a lost
member counted, the event posted. -/
def memberLost (s : State) (j : Nat) (epoch : BitVec 32) (lost : List Nat) : State :=
  let ps := partsOfJob s j
  let s := reportStep s j 1 false
  let s := { s with parts := Tbl.map s.parts fun p q => if ps.contains p then { q with
    windows := Tbl.map q.windows fun _ w => if w.state = 1 then { w with state := 2 } else w } else q }
  let gone := lost.map (getJob s j).panelOf
  let open_ := (s.optDies.map fun o => (o.2.xfers.filter fun x => gone.contains x.2.dst).map fun x =>
    x.2.left.map fun q => (o.1, x.1, q)).flatten.flatten
  let s := open_.foldl (fun s x => settleLine s x.1 x.2.1 x.2.2 stMemberLost) s
  let s := modJob s j fun x => { x with
    epoch := epoch, members := x.members.filter fun m => !lost.contains m, lost := lost.foldl (fun l m => insNat m l) x.lost
    lead := if lost.contains x.lead then (x.members.filter fun m => !lost.contains m).headD x.lead else x.lead
    lostAt := some s.tally, shrunk := false, remapped := [], ups := [], upAt := [], clears := []
    subs := x.subs.filter fun u => !lost.contains u.1 }
  jobEvent s j stMemberLost epoch lost

/-- Members are declared lost here: the epoch rises, and every surviving member is told. -/
def declareLost (s : State) (j : Nat) (lost : List Nat) : State :=
  let x := getJob s j
  let lost := lost.filter (x.members.contains ·)
  if !x.formed || lost = [] then s
  else
    let e := x.epoch + 1
    let rest := (others s j).filter fun m => !lost.contains m
    let s := rest.foldl (fun s m => (inChunks 28 lost.length lost).foldl (fun s l =>
      sendFrame s (exitDie s (x.panelOf m)) (memberFrame s (x.panelOf m) j e l)) s) s
    memberLost s j e lost

/-- A panel asks the other members to take it back as member `m` (R286, log 25). -/
def askBack (s : State) (j m : Nat) : State :=
  let x := getJob s j
  (others s j).foldl (fun s n => sendFrame s (exitDie s (x.panelOf n)) (returnFrame s (x.panelOf n) j x.epoch m s.sys.panel)) s

/-- A lost member is back within REJOIN, with panel `p` serving as it: the epoch rises, and with the last one back the job is re-formed and its
requests are recomputed (R286). -/
def memberBack (s : State) (j : Nat) (epoch : BitVec 32) (m p lead : Nat) : State :=
  let x := getJob s j
  let s := modJob s j fun x => { x with
    epoch := epoch, members := insNat m x.members, lost := x.lost.filter (· ≠ m), lead := Nat.min m lead
    subs := if p = m then Tbl.drop x.subs m else Tbl.put x.subs m p, ups := [], upAt := [], clears := [] }
  if x.lost.filter (· ≠ m) ≠ [] then s
  else
    let s := modJob s j fun x => { x with lostAt := none }
    let s := (partsOfJob s j).foldl (fun s p => if (getPart s p).fenced then s else unfencePart s p) s
    kickJob (recomputeJob s j) j

/-- The lead takes a member back, under the next epoch, and tells every other member (R286). -/
def leadTakesBack (s : State) (j m p : Nat) : State :=
  let x := getJob s j
  let e := x.epoch + 1
  let s := (others s j).foldl (fun s n => sendFrame s (exitDie s (x.panelOf n)) (returnFrame s (x.panelOf n) j e m p)) s
  memberBack (sendFrame s (exitDie s p) (returnFrame s p j e m p)) j e m p x.lead

/-- A JOB frame: MEMBER_LOST, also where it goes on beyond one frame; a member that asks to be back; or the lead's answer (R284 to R286). -/
def execJob (f : OptFrame) (s : State) : Out :=
  report s (acceptFrame s 7 f fun s =>
    let v := f.payload.toNat
    let j := field v 0 16
    let e := BitVec.ofNat 32 (field v 16 32)
    let x := getJob s j
    let from_ := f.src.toNat
    if !x.formed then s
    else if field v 48 16 = 0 then
      let m := field v 64 10
      let p := field v 80 10
      if p = from_ then
        (if leads s j && x.lost.contains m && !x.shrunk && (p = m || x.subst) then leadTakesBack s j m p else s)
      else if p = s.sys.panel then
        (match x.memberAt from_ with
         | some l => if x.panelOf m = p then memberBack s j e m p l else s
         | none => s)
      else if from_ = x.panelOf x.lead && e = x.epoch + 1 && x.lost.contains m then memberBack s j e m p x.lead
      else s
    else
      let lost := (framedMembers f).filter (x.members.contains ·)
      if (e = x.epoch + 1 || e = x.epoch) && lost ≠ [] then memberLost s j e lost else s)

/-- XTMO after the lead's own part, the members whose CLEAR_UP has not arrived are lost. -/
def execCrossPanelClearTimeout (job : Nat) (s : State) : Out :=
  report s (
    let x := getJob s job
    if !x.formed || !leads s job then s
    else match x.upAt.find? fun u => decide (u.2.toNat + x.xtmo * 1000000 ≤ now s) with
      | none => s
      | some (ch, _) => declareLost s job ((others s job).filter fun m => !(Tbl.get x.ups ch []).contains m))

/-- A member that has waited 2 × XTMO for the notice names the lead. -/
def execLeadLossTimeout (job : Nat) (s : State) : Out :=
  report s (
    let x := getJob s job
    if !x.formed || leads s job || !(x.upAt.any fun u => decide (u.2.toNat + 2 * x.xtmo * 1000000 ≤ now s)) then s
    else declareLost s job [x.lead])

/-- The wait ends: the job is shrunk, and waits for new maps. -/
def execRejoinTimeout (job : Nat) (s : State) : Out :=
  .next (match (getJob s job).lostAt with
    | none => s
    | some t =>
      let x := getJob s job
      if x.shrunk || now s < t.toNat + x.rejoin * 1000000000 then s else modJob s job fun x => { x with shrunk := true })

/-- Does a clearing frame belong to the generation and epoch in force (R283)? -/
def clearFrameOf (s : State) (f : OptFrame) : Option (Nat × Nat × Nat) :=
  let v := f.payload.toNat
  let j := field v 0 16
  let ch := field v 48 16
  let p := (partsOfJob s j).headD 0
  let x := getJob s j
  if x.formed && x.epoch.toNat = field v 16 32 && Tbl.get x.clears ch 0 = field v 64 64 && crossPanel s p ch then
    some (j, p, ch)
  else none

def execClearUp (f : OptFrame) (s : State) : Out :=
  report s (acceptFrame s 5 f fun s =>
    match clearFrameOf s f with
    | none => s
    | some (j, p, ch) =>
      match (getJob s j).memberAt f.src.toNat with
      | some m =>
        if leads s j then leadDecides (modJob s j fun x => { x with ups := Tbl.put x.ups ch (insNat m (Tbl.get x.ups ch [])) }) p ch else s
      | none => s)

def execClearNotice (f : OptFrame) (s : State) : Out :=
  report s (acceptFrame s 6 f fun s =>
    match clearFrameOf s f with
    | none => s
    | some (j, p, ch) =>
      let x := getJob s j
      if f.src.toNat ≠ x.panelOf x.lead || (Tbl.find x.upAt ch).isNone then s
      else boundary (clearGen (modJob s j fun x => { x with upAt := Tbl.drop x.upAt ch }) p ch) j)

/-! ### Acknowledgements and resends (R279, R290) -/

/-- Does an ACK's payload say that a SEQ has been received? -/
def acked (v : Line) (q : BitVec 20) : Bool :=
  let low : BitVec 20 := v.setWidth 20
  let d := (q - low).toNat
  2 ^ 19 ≤ d || (1 ≤ d && d ≤ 256 && v.getLsbD (19 + d))

/-- Is a SEQ absent from a bitmap that covers a higher one? -/
def missed (v : Line) (q : BitVec 20) : Bool :=
  let low : BitVec 20 := v.setWidth 20
  let d := (q - low).toNat
  d < 256 && !acked v q && (List.range 256).any fun i => d < i + 1 && v.getLsbD (20 + i)

def execAssuredAckDue (oe src : Nat) (s : State) : Out :=
  .next (match Tbl.find s.assured src with
    | none => s
    | some a =>
      if a.since < 64 && decide (now s < a.lastAck.toNat + 1000) || panelFenced s || !(s.sys.assured || 1024 ≤ src) || !oeServes s oe ||
          decide (dirOf oe = 6) ≠ decide (1024 ≤ src) then s
      else
        let bits := sumNat (a.got.map fun q =>
          let d := (BitVec.ofNat 20 q - a.low).toNat
          if 1 ≤ d && d ≤ 256 then 2 ^ (19 + d) else 0)
        let f : OptFrame := { otype := 4, src := BitVec.ofNat 10 s.sys.panel, spart := 0, dst := BitVec.ofNat 10 (src % 1024), dpart := 0,
                              win := 0, gen := 0, line := 0, seq := 0, e2e := 0, payload := BitVec.ofNat 512 (a.low.toNat + bits) }
        emit { s with assured := Tbl.put s.assured src { a with since := 0, lastAck := s.tally } } (.frame (if 1024 ≤ src then oe else exitFrom s oe src) { f with e2e := e2eOf f }))

/-- Withheld grants go out when a resend buffer has room. -/
def grantWaiting (s : State) : State :=
  ((List.range 48).map fun oe => ((getOe s oe).xfers.filter fun x => !x.2.granted).map fun x => (oe, x.1)).flatten.foldl (fun s g =>
    match Tbl.find (getOe s g.1).xfers g.2 with
    | some x => if resendFull s g.1 then s else grantPut s g.1 g.2 x
    | none => s) s

/-- A frame sent eight times makes its panel unreachable: its line is counted with TIMEOUT, it leaves the resend buffer, and the panel is lost to
the jobs that this panel leads (R279, R284). -/
def unreachable (s : State) (dst : Nat) (f : SentFrame) : State :=
  let a := Tbl.get s.assured dst Assured.reset
  let s := { s with assured := Tbl.put s.assured dst { a with sent := a.sent.filter fun g => g.frame.seq ≠ f.frame.seq, unreachable := true } }
  let s :=
    if f.frame.otype = 0 || f.frame.otype = 1 then
      let g := { f.frame with src := f.frame.dst, spart := f.frame.dpart, dpart := f.frame.spart }
      match answered s f.oe (decide (f.frame.otype = 1)) g with
      | some (o, tag, seq, _) => settleLine s o tag seq stTimeout
      | none => s
    else s
  let s := (s.jobs.map (·.1)).foldl (fun s j =>
    if leads s j then declareLost s j (((getJob s j).memberAt dst).toList) else s) s
  grantWaiting s

/-- One frame is sent again, or its panel is unreachable after the eighth sending. -/
def resendOne (s : State) (dst : Nat) (q : BitVec 20) : State :=
  let a := Tbl.get s.assured dst Assured.reset
  match a.sent.find? fun f => f.frame.seq = q with
  | none => s
  | some f =>
    if panelFenced s then s
    else if 8 ≤ f.sends then unreachable s dst f
    else
      let sent := a.sent.map fun g => if g.frame.seq = q then { g with sentAt := s.tally, sends := g.sends + 1 } else g
      emit { s with assured := Tbl.put s.assured dst { a with sent := sent } } (.frame f.oe f.frame)

/-- One Escrow frame is sent again; after the eighth sending the partner is unreachable, and the frame stays until the partner acknowledges it
or the link's silence ends it (R279, R290). -/
def resendEscrow (s : State) (q : Nat) : State :=
  match s.twin.unacked.find? fun u => u.seq = q with
  | none => s
  | some u =>
    if 8 ≤ u.sends then
      let a := Tbl.get s.assured (twinKey s) Assured.reset
      { s with assured := Tbl.put s.assured (twinKey s) { a with unreachable := true } }
    else launchFrame s u

/-- Escrow frames that wait for room in a resend buffer go out. -/
def sendUnsent (s : State) : State := (s.twin.unacked.filter fun u => u.sends = 0).foldl launchFrame s

/-- Blocks whose record has been acknowledged join their streams, each behind the request's earlier ones. -/
def releaseHeld (s : State) (free : Nat → Bool) : State :=
  let go := s.twin.held.foldl (fun (acc : List Nat × List (Nat × Nat × Bytes) × List (Nat × Nat × Bytes)) h =>
    if free h.1 && !acc.1.contains h.2.1 then (acc.1, acc.2.1 ++ [h], acc.2.2) else (h.2.1 :: acc.1, acc.2.1, acc.2.2 ++ [h])) ([], [], [])
  let s := { s with twin := { s.twin with held := go.2.2 } }
  go.2.1.foldl (fun s h => match Tbl.find s.requests h.2.1 with | some r => pushBlocks s r.sess [h.2.2] | none => s) s

def execAck (oe : Nat) (f : OptFrame) (s : State) : Out :=
  report s (
    if f.otype ≠ 4 || f.dst.toNat ≠ s.sys.panel || f.e2e ≠ e2eOf f || !oeServes s oe then s
    else if dirOf oe = 6 then
      (if !twinOn s || f.src.toNat ≠ s.twin.partner then s
       else
        let got := (s.twin.unacked.filter fun u => acked f.payload (BitVec.ofNat 20 u.seq)).map (·.seq)
        let a := Tbl.get s.assured (twinKey s) Assured.reset
        let s := { s with
          assured := if a.unreachable then Tbl.put s.assured (twinKey s) { a with unreachable := false } else s.assured
          twin := { s.twin with lastHeard := s.tally, silent := false, unacked := s.twin.unacked.filter fun u => !got.contains u.seq }
          waits := s.waits.map fun w => { w with seqs := w.seqs.filter fun q => !got.contains q } }
        let s := sendReady (releaseHeld s fun q => got.contains q || !s.twin.unacked.any fun u => u.seq = q)
        sendUnsent ((s.twin.unacked.filter fun u => u.sends ≠ 0 && missed f.payload (BitVec.ofNat 20 u.seq)).foldl (fun s u => resendEscrow s u.seq) s))
    else
      let a := Tbl.get s.assured f.src.toNat Assured.reset
      let sent := a.sent.filter fun x => !acked f.payload x.frame.seq
      let s := if Tbl.has s.assured f.src.toNat then
        { s with assured := Tbl.put s.assured f.src.toNat { a with sent := sent, unreachable := false } } else s
      grantWaiting ((sent.filter fun x => missed f.payload x.frame.seq).foldl (fun s x => resendOne s f.src.toNat x.frame.seq) s))

def execAssuredResendTimeout (dst seq : Nat) (s : State) : Out :=
  report s (
    if 1024 ≤ dst then
      match s.twin.unacked.find? fun u => u.seq = seq with
      | some u => if now s < u.sentAt.toNat + 20000 || dst ≠ twinKey s || panelFenced s then s else resendEscrow s seq
      | none => s
    else match (Tbl.get s.assured dst Assured.reset).sent.find? fun f => f.frame.seq.toNat = seq with
      | some f => if now s < f.sentAt.toNat + 20000 || panelFenced s then s else resendOne s dst f.frame.seq
      | none => s)

/-! ### Time (R281, R366) -/

/-- A signed number in `n` bits, saturating. -/
def satInt (n : Nat) (i : Int) : Nat :=
  let hi : Int := (2 ^ (n - 1) : Nat) - 1
  (BitVec.ofInt n (if i > hi then hi else if i < -hi - 1 then -hi - 1 else i)).toNat

/-- Tally in stamps of 0.625 ns. -/
def stampNow (s : State) : Nat := now s * 8 / 5 % 2 ^ 64

/-- The master's offset `off` from its source, in nanoseconds: it slews it away over 1,024 µs at up to 100 ppm, or steps once at bring-up.
With the offset `src` of the source from the root it gives the panel's estimated offset from the root (log 26); the root's own is 0. -/
def steerTo (s : State) (off src : Int) : State :=
  let est (o : Int) : Int := if s.sys.panel = s.sys.troot then 0 else o + src
  if !s.master.firstMap && (off > 1000000 || off < -1000000) then
    { s with tally := s.tally - BitVec.ofInt 64 off, master := { s.master with offset := est 0, steer := 0, hasSource := true } }
  else
    let ppb := Int.tdiv (-off * 1000000) 1024
    let ppb := if ppb > 100000 then 100000 else if ppb < -100000 then -100000 else ppb
    { s with master := { s.master with offset := est off, steer := ppb, steerAt := s.tally, hasSource := true } }

/-- A TIME frame of a neighbour: its send stamp in bits [63:0], the neighbour's own last one-way measurement in [127:64], bit 128 saying
that it has one, and its own estimated offset from the root in [191:160] (log 26). The panel steers toward the neighbour on the shortest path
to the root. -/
def execTime (oe : Nat) (f : OptFrame) (arrived : BitVec 64) (s : State) : Out :=
  report s (
    if f.otype ≠ 8 || dirOf oe = 6 || !oeServes s oe || f.src.toNat ≠ neighbour s.sys.panel (dirOf oe) then s
    else
      let mine : BitVec 64 := arrived - f.payload.setWidth 64
      let theirs : BitVec 64 := BitVec.ofNat 64 (field f.payload.toNat 64 64)
      let src : BitVec 32 := BitVec.ofNat 32 (field f.payload.toNat 160 32)
      let s := { s with timeMeas := Tbl.put s.timeMeas oe mine }
      if !f.payload.getLsbD 128 || torusDir s.sys.panel s.sys.troot ≠ some (dirOf oe) then s
      else steerTo s (Int.tdiv ((mine - theirs).toInt * 5) 16) src.toInt)

def execTimeFrameDue (oe lane : Nat) (s : State) : Out :=
  .next (
    let key := 16 * oe + lane
    let due := match Tbl.find s.timeSent key with | some t => decide (t.toNat + 1024000 ≤ now s) | none => true
    if 48 ≤ oe || 16 ≤ lane || dirOf oe = 6 || !oeServes s oe || (Tbl.get s.optLinks oe Link.reset).failed.contains lane || !due || panelFenced s then s
    else
      let m := Tbl.find s.timeMeas oe
      let v := stampNow s + 2 ^ 64 * (m.getD 0).toNat + 2 ^ 128 * b2n m.isSome + 2 ^ 160 * satInt 32 s.master.offset
      let f := { jobFrame s 8 (neighbour s.sys.panel (dirOf oe)) 0 0 0 0 with payload := BitVec.ofNat 512 v }
      emit { s with timeSent := Tbl.put s.timeSent key s.tally } (.frame oe f))

/-! ### Twins (R287 to R292) -/

/-- A record joins the Shadow's copy: a token-block record replaces the request's earlier one, a completion record frees all of them. -/
def storeRecord (l : List EscrowRec) (r : EscrowRec) : List EscrowRec :=
  match r.kind with
  | 1 => l.filter (fun x => !(x.kind = 1 && x.req = r.req)) ++ [r]
  | 2 => l.filter (fun x => !(x.kind = 2 && x.req = r.req)) ++ [r]
  | 3 => l.filter fun x => !((x.kind = 1 || x.kind = 2) && x.req = r.req)
  | 4 => l.filter (fun x => !(x.kind = 4 && at_ x.body 0 1 = at_ r.body 0 1)) ++ [r]
  | 5 => l.filter (fun x => !(x.kind = 5 && at_ x.body 0 4 = at_ r.body 0 4)) ++ [r]
  | _ => l

/-- Lines of Escrow from a SEQ on, past other frames, and the SEQ after them; none while one is missing. -/
def gather (t : Tbl (Option Line)) : Nat → Nat → Nat → Option (List Line × Nat)
  | 0, _, _ => none
  | _, 0, q => some ([], q)
  | fuel + 1, n + 1, q =>
    match Tbl.find t q with
    | none => none
    | some none => gather t fuel (n + 1) ((q + 1) % 2 ^ 20)
    | some (some v) => (gather t fuel n ((q + 1) % 2 ^ 20)).map fun r => (v :: r.1, r.2)

/-- Records whose lines have all come join the copy, in the order of their SEQ (log 119). -/
def takeRecords : Nat → Twin → Twin
  | 0, t => t
  | fuel + 1, t =>
    match Tbl.find t.lines t.nextRec with
    | none => t
    | some none => takeRecords fuel { t with lines := Tbl.drop t.lines t.nextRec, nextRec := (t.nextRec + 1) % 2 ^ 20 }
    | some (some v) =>
      let len := field v.toNat 16 16
      match gather t.lines (t.lines.length + 1) (ceilDiv (16 + len) 64) t.nextRec with
      | none => t
      | some (l, q) =>
        let r : EscrowRec := { kind := field v.toNat 0 4, req := BitVec.ofNat 64 (field v.toNat 64 64)
                               body := ((l.flatMap fun x => leBytes 64 x.toNat).drop 16).take len }
        let gone (k : Nat) : Bool := (k + 2 ^ 20 - t.nextRec) % 2 ^ 20 < (q + 2 ^ 20 - t.nextRec) % 2 ^ 20
        takeRecords fuel { t with records := storeRecord t.records r, lines := Tbl.keep t.lines fun k _ => !gone k, nextRec := q }

/-- A twin frame has come: a line of Escrow, or another frame, which has its SEQ too. -/
def noteTwin (s : State) (f : OptFrame) (v : Option Line) : State :=
  let t := { s.twin with lines := Tbl.put s.twin.lines f.seq.toNat v }
  { s with twin := takeRecords (t.lines.length + 1) t }

def execEscrow (oe : Nat) (f : OptFrame) (s : State) : Out :=
  report s (
    if !oeServes s oe || dirOf oe ≠ 6 || !(s.twin.role = .shadow || s.twin.pending = some .shadow) then s
    else acceptTwin s 9 f fun s => noteTwin s f (some f.payload))

/-- Held blocks and answers go out (R290). -/
def releaseAll (s : State) : State :=
  sendReady (releaseHeld { s with waits := s.waits.map fun w => { w with seqs := [] } } fun _ => true)

/-- The panel is Solo again: a Shadow's copy of the records is discarded (R292), a Primary's holds are released. -/
def becomeSolo (s : State) : State :=
  releaseAll { s with twin := { Twin.reset with nextSeq := s.twin.nextSeq, held := s.twin.held }, assured := Tbl.drop s.assured (twinKey s) }

/-- The end of the twin pair here: Solo, an attach in progress answered, the event posted. -/
def detachHere (s : State) : State :=
  let waiting := s.twin.reply
  let s := twinEvent (becomeSolo s) 1
  match waiting with | some w => complete s w stAborted [] | none => s

/-- A BEAT frame; with bit 0 of its payload set the partner has been detached, and this panel becomes Solo too (R292, log 120). -/
def execBeat (f : OptFrame) (s : State) : Out :=
  report s (acceptTwin s 10 f fun s =>
    let s := noteTwin { s with twin := { s.twin with lastBeat := s.tally, beaten := true } } f none
    if f.payload.getLsbD 0 && !(s.twin.takeover || mayTakeOver s) then detachHere s else s)

/-- 20 ms of silence: a Primary becomes Solo, a Shadow reports the link; an attach in progress ends. -/
def execTwinLinkSilence (s : State) : Out :=
  report s (
    if !twinOn s || now s < s.twin.lastHeard.toNat + 20000000 then s
    else if s.twin.role = .primary || s.twin.pending = some .primary then
      let r := s.twin.reply
      let s := twinEvent (becomeSolo s) 1
      match r with | some r => complete s r stTimeout [] | none => s
    else if !s.twin.attached then
      let r := s.twin.reply
      let s := twinEvent (becomeSolo s) 1
      match r with | some r => complete s r stTimeout [] | none => s
    else if s.twin.silent then s
    else twinEvent { s with twin := { s.twin with silent := true } } 0)

/-- Keys of a KIND 4 record, if its tag holds (R428), derived for this panel (R317). -/
def resumedKeys (s : State) (body : Bytes) : Option (Bytes × Bytes) :=
  let pair := s.twin.pairKey
  if sub_ body 88 8 ≠ kmac256 pair (body.take 88) (ascii "GP144-WRAP-TAG") 8 then none
  else
    let ks := xorBytes (sub_ body 24 64) (kmac256 pair (body.take 24) (ascii "GP144-WRAP") 64)
    let next (k : Bytes) : Bytes := kmac256 k (leBytes 2 s.sys.panel) (ascii "GP144-TAKEOVER") 32
    some (next (ks.take 32), next (ks.drop 32))

/-- A session of the lost Primary resumes on this panel's ports; privilege and class, which the record does not carry, are free values
(log 7). Its first message is the TAKEOVER event. -/
def resumeSession (s : State) (partner : Nat) (body : Bytes) : State :=
  match resumedKeys s body with
  | none => s
  | some (hp, ph) =>
    let n := at_ body 0 1
    let s := if Tbl.has s.sessions n then endSession s n else s
    let t : Session := { Session.reset with
      est := true, estNum := BitVec.ofNat 32 (at_ body 20 4), ip := BitVec.ofNat 128 (leNat (sub_ body 4 16)),
      udp := BitVec.ofNat 16 (at_ body 2 2), priv := (freeWord s).toNat % 3, topclass := (freeWord s).toNat / 3 % 3, khp := hp, kph := ph,
      nonce := (leBytes 64 (freeLine s).toNat).take 32, lastMsg := s.tally, port := s.lead }
    eventTo (bumpFree { s with sessions := Tbl.put s.sessions n t }) n 0x12 (leBytes 2 partner)

/-- The fields of an admission record. -/
def admissionOf (b : Bytes) : Nat × SubFields :=
  (at_ b 0 1,
    { job := at_ b 2 2, cls := at_ b 1 1, seed := BitVec.ofNat 64 (at_ b 4 8), temp := BitVec.ofNat 32 (at_ b 12 4),
      topp := BitVec.ofNat 32 (at_ b 16 4), topk := BitVec.ofNat 32 (at_ b 20 4), maxout := at_ b 24 4, plen := at_ b 28 4,
      stops := ((List.range 8).map fun i => BitVec.ofNat 32 (at_ b (32 + 4 * i) 4)).filter (· ≠ 0),
      prompt := (List.range (at_ b 28 4)).map fun i => BitVec.ofNat 32 (at_ b (64 + 4 * i) 4) })

/-- A request of the lost Primary is rebuilt from its records and recomputed (R289). -/
def resumeRequest (s : State) (recs : List EscrowRec) (r : EscrowRec) : State :=
  let (sess, sub) := admissionOf r.body
  if !Tbl.has s.sessions sess then s
  else
    let req := r.req.toNat
    let ps := partsOfJob s sub.job
    let (s, kvh) := ps.foldl (fun (acc : State × List (Nat × Nat)) p =>
      match bindKv acc.1 p (sub.plen + sub.maxout) with
      | (t, some h) => (t, acc.2 ++ [(p, h)])
      | (t, none) => (t, acc.2)) (s, [])
    let rates := ps.map fun p => (p, rateOf (getPart s p) sub.plen sub.maxout)
    let x := { newRequest s sess req sub sub.cls kvh rates with state := 3 }
    let x := match recs.find? fun t => t.kind = 2 && t.req = r.req with
      | some t => { x with released := at_ t.body 0 4, escIdx := at_ t.body 0 4, escPos := at_ t.body 4 4, escDigest := sub_ t.body 8 32 }
      | none => x
    let s := ps.foldl (fun s p => modPart s p fun q => { q with ledger := { q.ledger with busy := true } }) s
    { s with requests := Tbl.put s.requests req x, nextReq := Nat.max s.nextReq (req + 1) }

def execShadowTakeover (s : State) : Out :=
  report s (
    if !mayTakeOver s || panelFenced s then s
    else
      let recs := s.twin.records
      let partner := s.twin.partner
      -- it stands in for the Primary in the jobs whose descriptor allows it, and asks to be taken in (R286)
      let stand := (s.jobs.filter fun j => j.2.formed && j.2.subst && j.2.members.contains partner && !j.2.members.contains s.sys.panel).map (·.1)
      let s := stand.foldl (fun s j => modJob s j fun x => { x with subs := Tbl.put x.subs partner s.sys.panel, lostAt := some s.tally }) s
      let s := (activeReqs s fun _ => true).foldl (fun s r => endRequest s r stFenced) s
      let s := { s with parts := Tbl.map s.parts fun _ q => { q with
        map := q.map.map fun m => { m with pred := { m.pred with mode := 1 } }, predKept := q.map.map (·.pred.mode) } }
      let s := (recs.filter fun r => r.kind = 4).foldl (fun s r => resumeSession s partner r.body) s
      let s := twinEvent s 3
      let s := (recs.filter fun r => r.kind = 1).foldl (fun s r => resumeRequest s recs r) s
      let s := twinEvent { s with
        twin := { Twin.reset with nextSeq := s.twin.nextSeq }, assured := Tbl.drop s.assured (twinKey s) } 1
      let warm := (s.parts.filter fun q => q.2.ledger.pmode = 3).map (·.1)
      let s := warm.foldl (fun s p =>
        -- Warm-park yields, and applies again once no request of the partition is active (R439)
        let s := modPart s p fun q => { q with ledger := { q.ledger with
          pmode := 0, next := q.ledger.next.orElse fun _ => some (3, q.ledger.allow, q.ledger.resv, q.ledger.aging), waking := true } }
        wakeDone ((partClusters (getPart s p)).foldl requestWake s) p) s
      let s := stand.foldl (fun s j => askBack s j partner) s
      ((s.requests.filter fun r => r.2.state = 3).map fun r => r.2.sub.job).foldl kickJob s)

end Sys2Proof.Machine
end

