-- ==== Sys2Proof/Machine/Teller.lean ====
section
/-! DEFINITION. Teller: messages in, the handshake, mailboxes, the shared checks of a request; acknowledgements and their timers; the
session and panel commands (14 R309 to R323, R328, R331, 13 R298 to R304, 20 R444). -/

namespace Sys2Proof.Machine

/-! ### Messages in (R309 to R312) -/

/-- From the end of bring-up phase 5 Teller is served (R444). -/
def tellerServes (s : State) : Bool := !(s.state = .bringUp && decide (s.boot.phase < 6))

/-- Is a SEQ at or below the replay window, or one received before? -/
def ReplayWin.drops (w : ReplayWin) (q : Nat) : Bool := q = 0 || q + 1024 < w.high || w.got.contains q

/-- A SEQ enters the window. -/
def ReplayWin.take (w : ReplayWin) (q : Nat) : ReplayWin :=
  let h := Nat.max w.high q
  { high := h, got := q :: w.got.filter fun x => decide (h ≤ x + 1024) }

def winOf (t : Session) (port : Nat) : ReplayWin := if port = 0 then t.win0 else t.win1
def setWin (t : Session) (port : Nat) (w : ReplayWin) : Session := if port = 0 then { t with win0 := w } else { t with win1 := w }

def dropMac (s : State) (port : Nat) : State := modHub s port fun h => { h with macDrop := satAdd h.macDrop 1 }
def dropReplay (s : State) (port : Nat) : State := modHub s port fun h => { h with replayDrop := satAdd h.replayDrop 1 }

/-- An established session's message: its tag and its place in the replay window (R311, R312), then `f` on the state that has taken it. A
session whose SEQ reaches 2^63 ends. -/
def authIn (s : State) (m : Msg) (f : State → State) : State :=
  if !portAlive s m.port || !tellerServes s then s
  else match Tbl.find s.sessions m.sess.toNat with
    | none => dropMac s m.port
    | some t =>
      if !t.est || msgTag t.khp m ≠ m.mac then dropMac s m.port
      else if (winOf t m.port).drops m.seq.toNat then dropReplay s m.port
      else if 2 ^ 63 ≤ m.seq.toNat || 2 ^ 63 ≤ t.seqOut.toNat then endSession s m.sess.toNat
      else
        let t := setWin { t with lastMsg := s.tally } m.port ((winOf t m.port).take m.seq.toNat)
        f { s with sessions := Tbl.put s.sessions m.sess.toNat t }

/-- A message that fails its tag or its replay window, whatever it asks for. -/
def execTellerMessageDrop (m : Msg) (s : State) : Out :=
  .next (if m.cls = 5 then s else match Tbl.find s.sessions m.sess.toNat with
    | some t => if t.est && msgTag t.khp m = m.mac && !(winOf t m.port).drops m.seq.toNat then s else authIn s m id
    | none => authIn s m id)

/-! ### Mailboxes and checks (R318 to R320) -/

/-- A command of the tables: its code, privilege (0 O, 1 S, 2 A), whether it changes no state, whether the safe state allows it, whether its
payload has its form, the checks 7 and 8 of Table 14-3, and its own rules and effect. -/
structure Cmd where
  code : Nat
  priv : Nat
  ro : Bool := false
  safe : Bool := false
  form : Bool
  check : State → Option Status := fun _ => none
  /-- What a refusal by checks 4 to 8 does besides its answer. -/
  refuse : State → Reply → State := fun s _ => s
  run : State → Reply → State

/-- Codes of Tables 14-5 to 14-11. -/
def listedCodes : List Nat :=
  [1, 2, 3, 4, 5, 6, 7, 8, 9] ++ (List.range 10).map (0x0101 + ·) ++ [0x0201, 0x0202, 0x0203, 0x0204, 0x0301, 0x0302, 0x0303, 0x0401, 0x0402,
    0x0403] ++ [0x0501, 0x0502, 0x0503, 0x0504, 0x0505, 0x0601, 0x0602, 0x0603, 0x0701, 0x0702, 0x0703, 0x0801, 0x0802] ++
  [0x0901, 0x0902, 0x0903, 0x0904, 0x0905]

def privOf (s : State) (n : Nat) : Nat := match Tbl.find s.sessions n with | some t => t.priv | none => 0

/-- Checks 3 to 9 of Table 14-3, and the command. -/
def cmdRun (s : State) (m : Msg) (c : Cmd) (r : Reply) : State :=
  if m.ver ≠ 3 || m.cmd.toNat ≠ c.code then complete s r stUnsupported []
  else if s.state ≠ .serving && !c.safe then complete (c.refuse s r) r stFenced []
  else if privOf s r.sess < c.priv then complete (c.refuse s r) r stRefusedPolicy []
  else if !c.form || m.rsv ≠ 0 then complete (c.refuse s r) r stBadArgument []
  else match c.check s with
    | some st => complete (c.refuse s r) r st []
    | none => c.run s r

def replyOf (s : State) (m : Msg) : Reply :=
  { port := m.port, sess := m.sess.toNat, est := (match Tbl.find s.sessions m.sess.toNat with | some t => t.estNum | none => 0), mbox := m.mbox.toNat, rseq := m.rseq.toNat, cmd := m.cmd }

def modBox (s : State) (n b : Nat) (f : Mailbox → Mailbox) : State :=
  modSess s n fun t => { t with boxes := Tbl.put t.boxes b (f (Tbl.get t.boxes b Mailbox.reset)) }

def getBox (s : State) (n b : Nat) : Mailbox :=
  match Tbl.find s.sessions n with | some t => Tbl.get t.boxes b Mailbox.reset | none => Mailbox.reset

/-- The journal's entry for a request (R26). -/
def Reply.entry (r : Reply) : Journaled := .request r.est r.mbox r.rseq

/-- RSEQ = NEXT: the request begins to execute, and one that changes state is in both hubs' journals before its result goes out (R26,
log 112). -/
def boxRun (s : State) (m : Msg) (c : Cmd) : State :=
  let q := m.rseq.toNat
  let r := replyOf s m
  let s := modBox s m.sess.toNat m.mbox.toNat fun b => { b with running := b.running ++ [q], held := Tbl.drop b.held q }
  cmdRun (if c.ro then s else journal s r.entry) m c r

/-- A request waits for lower ones: the hub of its port takes one that changes state into its own journal (R29, R318, log 112). -/
def boxHold (s : State) (m : Msg) (i : Instr) (c : Cmd) : State :=
  let r := replyOf s m
  let h : HeldRequest := { cmd := i, reply := r, ro := c.ro }
  let s := modBox s m.sess.toNat m.mbox.toNat fun b => { b with
    gapAt := if b.held = [] then s.tally else b.gapAt, held := Tbl.put b.held m.rseq.toNat h }
  if c.ro then s else modHub s m.port fun h => { h with journal := h.journal ++ [r.entry] }

def noteRing (s : State) (port : Nat) : State := modHub s port fun h => { h with ringFull := satAdd h.ringFull 1 }

/-- The position of a request in its mailbox (R318). -/
def boxIn (s : State) (m : Msg) (i : Instr) (c : Cmd) : State :=
  let q := m.rseq.toNat
  let b := getBox s m.sess.toNat m.mbox.toNat
  let r := replyOf s m
  if b.next + 64 ≤ q then sendCompletion (noteRing s m.port) r stRingFull [] false false
  else if b.running.contains q || Tbl.has b.held q then sendCompletion s r stOk [] true false
  else match b.kept.find? fun d => d.1 = q with
    | some (_, d) => sendCompletion s { r with cmd := d.cmd } d.status d.payload false true
    | none =>
      if q < b.next then sendCompletion (noteRing s m.port) r stStale [] false false
      else if b.next < q then boxHold s m i c
      else boxRun s m c

/-- A request message of a command's row. One whose CMD is another listed code is that row's. -/
def teller (s : State) (m : Msg) (i : Instr) (c : Cmd) : State :=
  if m.cls ≠ 0 || (m.cmd.toNat ≠ c.code && listedCodes.contains m.cmd.toNat) then s
  else authIn s m fun s => boxIn s m i c

/-- Every 100 ms while a request waits for a lower RSEQ, one that is missing or one that still executes. -/
def execMailboxGap (sess mbox : Nat) (s : State) : Out :=
  .next (
    let b := getBox s sess mbox
    if b.held.all (fun h => h.1 = b.next) || now s < b.gapAt.toNat + 100000000 then s
    else eventTo (modBox s sess mbox fun b => { b with gapAt := s.tally }) sess 0x11 (leBytes 1 mbox ++ leBytes 3 0 ++ leBytes 4 b.next))

/-! ### The handshake (R313 to R315, R422, R423) -/

/-- Length of a DER element at the head of a list: header bytes and content bytes. -/
def derLen (b : Bytes) : Nat × Nat :=
  let n := at_ b 1 1
  if n < 128 then (2, n) else (2 + (n - 128), leNat ((b.drop 2).take (n - 128)).reverse)

def derSkip (b : Bytes) : Bytes := let (h, n) := derLen b; b.drop (h + n)
def derBody (b : Bytes) : Bytes := let (h, n) := derLen b; (b.drop h).take n

/-- SHA3-256 of the leaf certificate's DER subject: the sixth field of its body, after version, serial, algorithm, issuer and validity. -/
def subjectDigest (chain : Bytes) : Bytes :=
  let tbs := derBody (derBody chain)
  let t := derSkip (derSkip (derSkip (derSkip (if at_ tbs 0 1 = 0xA0 then derSkip tbs else tbs))))
  let (h, n) := derLen t
  sha3_256 (t.take (h + n))

/-- The first `n` certificates of a chain, one DER object after another. -/
def certsOf : Nat → Bytes → List Bytes
  | 0, _ => []
  | n + 1, b => if b = [] then [] else (let (h, k) := derLen b; b.take (h + k)) :: certsOf n (derSkip b)

/-- Days from 1970-01-01 to a date of the Gregorian calendar. -/
def daysTo (y m d : Nat) : Nat :=
  let y' := if m ≤ 2 then y - 1 else y
  let doy := (153 * (if m ≤ 2 then m + 9 else m - 3) + 2) / 5 + d - 1
  365 * y' + y' / 4 - y' / 100 + y' / 400 + doy - 719468

/-- A decimal number in ASCII. -/
def digits (b : Bytes) : Nat := b.foldl (fun n c => 10 * n + (c.toNat - 48)) 0

/-- Seconds since 1970 of a UTCTime or GeneralizedTime. -/
def derTime (b : Bytes) : Nat :=
  let x := derBody b
  let two (i : Nat) : Nat := digits (sub_ x i 2)
  let (y, o) := if at_ b 0 1 = 0x17 then (if two 0 < 50 then 2000 + two 0 else 1900 + two 0, 2) else (digits (sub_ x 0 4), 4)
  86400 * daysTo y (two o) (two (o + 2)) + 3600 * two (o + 4) + 60 * two (o + 6) + two (o + 8)

/-- Has a certificate expired by Tally: its validity is the fifth field of its body, and notAfter the second of that (R422; Tally read as time
since 1970, log 150)? -/
def certExpired (s : State) (cert : Bytes) : Bool :=
  let tbs := derBody (derBody cert)
  let t := derSkip (derSkip (derSkip (if at_ tbs 0 1 = 0xA0 then derSkip tbs else tbs)))
  decide (derTime (derSkip (derBody t)) < now s / 1000000000)

/-- A host chain within R422's limits: at most 4 certificates, none of them expired. -/
def chainAllowed (s : State) (chain : Bytes) : Bool :=
  let cs := certsOf 5 chain
  decide (cs.length ≤ 4) && !cs.any (certExpired s)

/-- The host list entry of a subject: privilege and TOPCLASS. -/
def hostEntry (s : State) (subject : Bytes) : Option (Nat × Nat) :=
  s.vault.config.bind fun c => (c.hosts.find? fun h => h.1 = subject).map (·.2)

/-- A message of the handshake, to the host that sent one. -/
def handshakeMsg (s : State) (m : Msg) (cmd : Nat) (st : Status) (p : Bytes) (frag nfrag : Nat) : Emit :=
  .teller { Msg.none with port := m.port, ip := m.ip, udp := m.udp, cls := 5, cmd := BitVec.ofNat 16 cmd, status := st, rseq := m.rseq,
                          payload := p, frag := BitVec.ofNat 8 frag, nfrag := BitVec.ofNat 8 nfrag } (tellerHead s m.ip)

/-- A handshake ends with REJECT. -/
def reject (s : State) (m : Msg) (st : Status) : State :=
  let s := modHub s m.port fun h => { h with hsReject := satAdd h.hsReject 1 }
  emit { s with handshakes := Tbl.drop s.handshakes m.rseq.toNat } (handshakeMsg s m 5 st [] 0 1)

/-- The fragments of a message in order, once all are in. -/
def joined (frags : Tbl Bytes) (n : Nat) : Option Bytes :=
  if (List.range n).all fun i => Tbl.has frags i then some ((List.range n).map fun i => Tbl.get frags i []).flatten else none

/-- The panel's identity and device CA certificates, from its IDENTITY record: after the serial number and two MAC addresses (log 27). -/
def panelChain (s : State) : Bytes :=
  match s.vault.recs.find? fun r => r.type = 0x30 with | some r => r.body.drop 20 | none => []

/-- The lowest session number that no session and no accepted handshake holds. -/
def freeSession (s : State) : Option Nat :=
  (List.range 16).find? fun n => !Tbl.has s.sessions n && !s.handshakes.any fun h => h.2.accepted && h.2.sess = n

/-- The answer to a whole HELLO. -/
def accept (s : State) (m : Msg) (h : Handshake) (hello ss ct nonce sigma : Bytes) : State :=
  match freeSession s with
  | none => reject s m stRefusedCapacity
  | some n =>
    let body := leBytes 8 n ++ sub_ nonce 0 32 ++ sub_ ct 0 1088
    let chain := panelChain s
    let h1 := sha3_256 (hello ++ body ++ chain)
    let acc := body ++ sub_ sigma 0 2420 ++ chain
    let ka := at_ hello 0 2
    let h := { h with
      accepted := true, sess := n, nonce := sub_ hello 8 32, h2 := sha3_256 (h1 ++ sub_ sigma 0 2420), ss := ss,
      keepalive := if ka = 0 then 10 else ka, subject := subjectDigest (hello.drop 1224) }
    let k := Nat.max 1 (ceilDiv acc.length 4096)
    emits { s with handshakes := Tbl.put s.handshakes m.rseq.toNat h }
      ((List.range k).map fun i => handshakeMsg s m 2 0 ((acc.drop (4096 * i)).take 4096) i k)

def Handshake.new (s : State) (m : Msg) : Handshake :=
  { first := s.tally, port := m.port, frags := [], finFrags := [], ip := m.ip, udp := m.udp, accepted := false, sess := 0, nonce := [], h2 := [],
    ss := [], keepalive := 10, priv := 0, topclass := 0, subject := [] }

/-- Has a handshake fragment its form? -/
def fragOk (m : Msg) : Bool :=
  m.ver = 3 && m.rsv = 0 && m.sess = 0 && decide (1 ≤ m.nfrag.toNat) && decide (m.nfrag.toNat ≤ 4) && decide (m.frag.toNat < m.nfrag.toNat)

/-- HELLO: `chainOk` says that the host's chain verifies to the owner root; the shared secret, ciphertext, panel nonce
and signature are what the key exchange and the panel's identity key give. -/
def execHello (m : Msg) (chainOk : Bool) (ss ct nonce sigma : Bytes) (s : State) : Out :=
  .next (
    if m.cls ≠ 5 || m.cmd ≠ 1 || !portAlive s m.port || !tellerServes s || s.state = .safeNoId then s
    else if !fragOk m then reject s m stBadArgument
    else
      let h := Tbl.get s.handshakes m.rseq.toNat (Handshake.new s m)
      if h.accepted then s
      else
        let h := { h with frags := Tbl.put h.frags m.frag.toNat m.payload }
        match joined h.frags m.nfrag.toNat with
        | none => { s with handshakes := Tbl.put s.handshakes m.rseq.toNat h }
        | some hello =>
          if hello.length < 1224 || 16384 < hello.length || 600 < at_ hello 0 2 || at_ hello 2 6 ≠ 0 then reject s m stBadArgument
          else if !chainOk || !chainAllowed s (hello.drop 1224) || s.vault.config.isNone then reject s m stAuthFail
          else accept s m h hello ss ct nonce sigma)

/-- The session is established: keys, the journal, its Escrow record, READY (R314). -/
def establish (s : State) (m : Msg) (h : Handshake) (priv top : Nat) : State :=
  let key (c : String) : Bytes := kmac256 h.ss h.h2 (ascii c) 32
  let t : Session := { Session.reset with
    est := true, estNum := s.nextEst, ip := h.ip, udp := h.udp, priv := priv, topclass := top, subject := h.subject,
    khp := key "GP144-TELLER-3 HP", kph := key "GP144-TELLER-3 PH", nonce := h.nonce, keepalive := h.keepalive, lastMsg := s.tally,
    port := m.port }
  let t := setWin t m.port { high := 1, got := [1] }
  let s := { s with
    sessions := Tbl.put s.sessions h.sess t, handshakes := Tbl.drop s.handshakes m.rseq.toNat, nextEst := s.nextEst + 1 }
  let s := renewReport (journal s (.session t.estNum)) h.sess
  let s := escrowSend s 4 h.sess 0 (sessionBody s.twin.pairKey h.sess t)
  sendMsg s h.sess m.port { Msg.none with cls := 5, cmd := 4, rseq := m.rseq, nfrag := 1 }

def execFinish (m : Msg) (sigOk : Bool) (s : State) : Out :=
  .next (
    if m.cls ≠ 5 || m.cmd ≠ 3 || !portAlive s m.port then s
    else match Tbl.find s.handshakes m.rseq.toNat with
      | none => s
      | some h =>
        if !h.accepted then s
        else if !fragOk m then reject s m stBadArgument
        else if msgTag (kmac256 h.ss h.h2 (ascii "GP144-TELLER-3 HP") 32) m ≠ m.mac || m.seq ≠ 1 then dropMac s m.port
        else
          let h := { h with finFrags := Tbl.put h.finFrags m.frag.toNat m.payload }
          match joined h.finFrags m.nfrag.toNat with
          | none => { s with handshakes := Tbl.put s.handshakes m.rseq.toNat h }
          | some fin =>
            if fin.length ≠ 2420 then reject s m stBadArgument
            else match hostEntry s h.subject with
              | none => reject s m stAuthFail
              | some (priv, top) =>
                if !sigOk then reject s m stAuthFail
                else if 16 ≤ s.sessions.length || Tbl.has s.sessions h.sess then reject s m stRefusedCapacity
                else establish s m h priv top)

/-- 2 s after its first fragment an unfinished handshake is discarded. -/
def execHandshakeTimeout (id : BitVec 32) (s : State) : Out :=
  .next (match Tbl.find s.handshakes id.toNat with
    | none => s
    | some h =>
      if now s < h.first.toNat + 2000000000 then s
      else modHub { s with handshakes := Tbl.drop s.handshakes id.toNat } h.port fun x => { x with hsReject := satAdd x.hsReject 1 })

def execSessionKeepaliveExpiry (sess : Nat) (s : State) : Out :=
  .next (match Tbl.find s.sessions sess with
    | none => s
    | some t =>
      if now s < t.lastMsg.toNat + t.keepalive * 1000000000 then s
      else modHub (endSession s sess) t.port fun h => { h with sessExpired := satAdd h.sessExpired 1 })

/-! ### Acknowledgements and resends (R300, R303, R331) -/

/-- LEN is exactly `n`, and the bytes that hold no field are 0 (R11). -/
def lenIs (m : Msg) (n : Nat) : Bool := m.payload.length = n
def zeros (m : Msg) (o n : Nat) : Bool := at_ m.payload o n = 0
/-- A field of a payload. -/
def pf (m : Msg) (o n : Nat) : Nat := at_ m.payload o n

/-- Is a number `d` above CUM acknowledged by it or by the map above it? -/
def ackCovers (map d : Nat) : Bool := d = 0 || 2 ^ 31 ≤ d || (d ≤ 256 && map.testBit (d - 1))

/-- Is a number `d` above CUM absent from a map that shows a higher one? -/
def ackMisses (map d : Nat) : Bool := !ackCovers map d && d ≤ 256 && (List.range 256).any fun i => d ≤ i && map.testBit i

/-- Is a session's store, or its ring, half empty (R301, R303)? -/
def storeHalfEmpty (s : State) (t : Session) : Bool :=
  if t.byRdma then decide (2 * t.ringUsed ≤ ringLines s t) else decide (t.held ≤ 4 * 2 ^ 20)

/-- Does the panel send a datagram again itself: one whose last transmission was by UDP? The RC transport sends the others (R303). -/
def panelResends (t : Session) (d : Retained) : Bool := 0 < d.sends && !d.seen && (d.udp || !t.byRdma)

/-- What an acknowledgement leaves of the retained datagrams: CUM frees a datagram, and the map one that holds no line of the ring (R300,
R303). -/
def ackedTable (l : Tbl Retained) (cum map : Nat) : Tbl Retained :=
  Tbl.map (Tbl.keep l fun q d => d.sends = 0 || !ackCovers (if d.ring = 0 then map else 0) (sseqDist cum q)) fun q d =>
    { d with seen := d.seen || (0 < d.sends && ackCovers map (sseqDist cum q)) }

/-- A stream acknowledgement (R300): what it covers is freed, what it shows missing goes out again, and sending resumes. -/
def streamAcked (s : State) (n cum map : Nat) : State :=
  match Tbl.find s.sessions n with
  | none => s
  | some t =>
    let t := { t with retained := ackedTable t.retained cum map, cum := cum, stopped := false }
    let t := { t with overflow := t.overflow && !storeHalfEmpty s t }
    let s := { s with sessions := Tbl.put s.sessions n t }
    let again := (t.retained.filter fun d => panelResends t d.2 && ackMisses map (sseqDist cum d.1)).map (·.1)
    sendWaiting (again.foldl (fun s q => transmit s n q) s) n

def execStreamAck (m : Msg) (s : State) : Out :=
  .next (
    if m.cls ≠ 4 || m.cmd ≠ 0 then s
    else authIn s m fun s =>
      match Tbl.find s.sessions m.sess.toNat with
      | none => s
      | some t =>
        let cum := pf m 0 4
        if !lenIs m 40 || !zeros m 4 4 || m.rsv ≠ 0 || 2 ^ 31 ≤ sseqDist t.cum cum then s
        else streamAcked s m.sess.toNat cum (pf m 8 32))

/-- RTO after its last transmission an unacknowledged datagram goes out again; after eight, new ones of the session wait. -/
def execStreamResendTimeout (sess sseq : Nat) (s : State) : Out :=
  .next (match Tbl.find s.sessions sess with
    | none => s
    | some t =>
      match Tbl.find t.retained sseq with
      | none => s
      | some d =>
        if !panelResends t d || now s < d.sentAt.toNat + t.rto * 100000 then s
        else transmit (if 8 ≤ d.sends then modSess s sess fun t => { t with stopped := true } else s) sess sseq)

def execEventAck (m : Msg) (s : State) : Out :=
  .next (
    if m.cls ≠ 4 || m.cmd ≠ 1 then s
    else authIn s m fun s =>
      if !lenIs m 40 || !zeros m 4 4 || m.rsv ≠ 0 then s
      else modSess s m.sess.toNat fun t => { t with
        events := Tbl.keep t.events fun q _ => !ackCovers (pf m 8 32) ((q + 2 ^ 32 - pf m 0 4) % 2 ^ 32) })

def execEventResendTimeout (sess eseq : Nat) (s : State) : Out :=
  .next (match (Tbl.find s.sessions sess).bind fun t => (Tbl.find t.events eseq).map fun e => (t, e) with
    | none => s
    | some (t, e) => if now s < e.sentAt.toNat + t.rto * 100000 then s else sendEvent s sess eseq)

/-! ### Tickets (R328, R380) -/

def execTicketExpiry (ticket : Nat) (s : State) : Out :=
  .next (match Tbl.find s.tickets ticket with
    | none => s
    | some t => if now s < t.last.toNat + 10000000000 then s else { s with tickets := Tbl.drop s.tickets ticket })

def execTicketClaimEnd (ticket : Nat) (s : State) : Out :=
  .next (match Tbl.find s.tickets ticket with
    | none => s
    | some t =>
      if now s < t.last.toNat + (t.wait + 10) * 1000000 then s
      else { s with tickets := Tbl.put s.tickets ticket { t with active := false } })

/-! ### Session and panel commands (Table 14-5) -/

def cmdPing (m : Msg) : Cmd :=
  { code := 1, priv := 0, ro := true, safe := true, form := decide (m.payload.length ≤ 4096), run := fun s r => complete s r stOk m.payload }

def execPing (m : Msg) (s : State) : Out := .next (teller s m (.ping m) (cmdPing m))

def cmdClose (m : Msg) : Cmd :=
  { code := 2, priv := 0, safe := true, form := lenIs m 0, run := fun s r => endSession (complete s r stOk []) r.sess }

def execClose (m : Msg) (s : State) : Out := .next (teller s m (.close m) (cmdClose m))

def cmdVersion (m : Msg) : Cmd :=
  { code := 3, priv := 0, ro := true, safe := true, form := lenIs m 0,
    run := fun s r => complete s r stOk (leBytes 2 3 ++ leBytes 2 0xA1 ++ leBytes 4 s.hub0.fwver.toNat ++ leBytes 4 s.hub1.fwver.toNat ++
      leBytes 1 (s.hub0.bank % 2 + 2 * (s.hub1.bank % 2) + 4 * b2n s.hub0.fellBack + 8 * b2n s.hub1.fellBack) ++ leBytes 1 s.lead ++
      leBytes 2 0 ++ sub_ s.vault.idDig 0 32) }

def execVersion (m : Msg) (s : State) : Out := .next (teller s m (.version m) (cmdVersion m))

def cmdSubscribe (m : Msg) : Cmd :=
  { code := 4, priv := 0, safe := true, form := lenIs m 4,
    run := fun s r => complete (modSess s r.sess fun t => { t with mask := BitVec.ofNat 32 (pf m 0 4) }) r stOk (leBytes 4 (pf m 0 4)) }

def execSubscribe (m : Msg) (s : State) : Out := .next (teller s m (.subscribe m) (cmdSubscribe m))

/-- Spares that could still replace a die. -/
def sparesLeft (s : State) : Nat :=
  ((List.range 160).filter fun d => let x := getDie s d; x.spare && !x.dark && !x.retired && halfServes s d).length

def cmdStatus (m : Msg) : Cmd :=
  { code := 5, priv := 0, ro := true, safe := true, form := lenIs m 0,
    run := fun s r => complete s r stOk (statusHead s ++ leBytes 2 (sparesLeft s) ++ leBytes 2 (sumNat (s.parts.map fun q => 2 ^ q.1)) ++
      leBytes 1 (inWindow s).length ++ leBytes 3 0 ++ leBytes 8 (now s)) }

def execStatus (m : Msg) (s : State) : Out := .next (teller s m (.status m) (cmdStatus m))

/-- A configuring field of `n` bytes: all ones keep the value in force (R323). -/
def keepOr (m : Msg) (o n cur : Nat) : Nat := if pf m o n = 256 ^ n - 1 then cur else pf m o n

def sysFrom (m : Msg) (c : SysConfig) : SysConfig :=
  let k := keepOr m
  let ip4 (i : Nat) := BitVec.ofNat 32 (k (20 + 4 * i) 4 (Tbl.get c.ip4 i 0).toNat)
  let ip6 (i : Nat) := BitVec.ofNat 128 (k (32 + 16 * i) 16 (Tbl.get c.ip6 i 0).toNat)
  { panel := k 0 2 c.panel, troot := k 2 2 c.troot, assured := k 4 1 (b2n c.assured) = 1, compatible := k 5 1 (b2n c.compatible) = 1,
    mtu := k 6 2 c.mtu, vlan := k 8 2 c.vlan, pfc := k 10 1 c.pfc, ptpDomain := k 11 1 c.ptpDomain, dscpTeller := k 12 1 c.dscpTeller,
    dscpRoce := k 13 1 c.dscpRoce, scrubHours := k 14 1 c.scrubHours, recalS := k 16 2 c.recalS, ip4 := [(0, ip4 0), (1, ip4 1)],
    ip6 := [(0, ip6 0), (1, ip6 1)] }

/-- A field keeps its value or lies in a range. -/
def inRange (m : Msg) (o n lo hi : Nat) : Bool :=
  pf m o n = 256 ^ n - 1 || (decide (lo ≤ pf m o n) && decide (pf m o n ≤ hi))

def sysForm (m : Msg) : Bool :=
  lenIs m 64 && zeros m 15 1 && zeros m 18 2 && zeros m 28 4 && inRange m 0 2 0 1023 && inRange m 2 2 0 1023 && inRange m 4 1 0 1 &&
    inRange m 5 1 0 1 && inRange m 6 2 4224 9000 && inRange m 8 2 0 4094 && inRange m 10 1 0 7 && inRange m 11 1 0 127 &&
    inRange m 12 1 0 63 && inRange m 13 1 0 63 && inRange m 14 1 1 24 && inRange m 16 2 60 3600

/-- Body of PANEL_STATE: the SYS_CONFIG fields as that command lays them out (log 28). -/
def sysBody (c : SysConfig) : Bytes :=
  leBytes 2 c.panel ++ leBytes 2 c.troot ++ leBytes 1 (b2n c.assured) ++ leBytes 1 (b2n c.compatible) ++ leBytes 2 c.mtu ++ leBytes 2 c.vlan ++
    leBytes 1 c.pfc ++ leBytes 1 c.ptpDomain ++ leBytes 1 c.dscpTeller ++ leBytes 1 c.dscpRoce ++ leBytes 1 c.scrubHours ++ leBytes 1 0 ++
    leBytes 2 c.recalS ++ leBytes 2 0 ++ leBytes 4 (Tbl.get c.ip4 0 0).toNat ++ leBytes 4 (Tbl.get c.ip4 1 0).toNat ++ leBytes 4 0 ++
    leBytes 16 (Tbl.get c.ip6 0 0).toNat ++ leBytes 16 (Tbl.get c.ip6 1 0).toNat

/-- In another domain the choice of the best time transmitter and the measurements start again (R295). -/
def ptpLeave (s : State) : State :=
  { s with master := { s.master with ptpRanks := [], ptpLast := none, ptpDelay := 0, locked := false } }

/-- The configuration that stands once the records on their way are held. -/
def sysDue (s : State) : SysConfig :=
  (s.vault.writing.flatMap (·.acts)).foldl (fun c a => match a with | .sysConfig d _ => d | _ => c) s.sys

/-- Both dies hold PANEL_STATE: SYS_CONFIG completes, and the configuration is in force. The addresses change after the completion is sent
(Table 14-5). -/
def sysConfigDone (s : State) (c : SysConfig) (r : Reply) : State :=
  let s := if c.ptpDomain = s.sys.ptpDomain then s else ptpLeave s
  { complete s r stOk [] with sys := c }

def cmdSysConfig (m : Msg) : Cmd :=
  { code := 6, priv := 2, form := sysForm m,
    check := fun s =>
      let c := sysFrom m (sysDue s)
      let multi := s.jobs.any fun j => j.2.formed && 1 < j.2.members.length
      if (c.assured && c.compatible) || (c.assured ≠ (sysDue s).assured && multi) then some stModeConflict else none
    run := fun s r =>
      let c := sysFrom m (sysDue s)
      afterWrites (vaultPut s 0x10 0 (sysBody c) false) (.sysConfig c r) }

def execSysConfig (m : Msg) (s : State) : Out := .next (teller s m (.sysConfig m) (cmdSysConfig m))

/-- The window of a session's RDMA delivery: open, outbound to this session's host (R303). -/
def ringWindow (s : State) (sess p w : Nat) : Bool :=
  let d := getWindow s p w
  d.state = 1 && d.outbound && d.target && d.fld 0 4 = sess

def cmdStreamSet (m : Msg) : Cmd :=
  { code := 7, priv := 1, form := lenIs m 6 && inRange m 0 1 0 1 && inRange m 1 1 0 1 && inRange m 3 1 0 15 && inRange m 4 2 5 500,
    run := fun s r =>
      match Tbl.find s.sessions r.sess with
      | none => s
      | some t =>
        let rd := keepOr m 1 1 (b2n t.rdma) = 1
        let w := keepOr m 2 1 t.win
        let p := keepOr m 3 1 t.winPart
        if rd && !ringWindow s r.sess p w then complete s r stBadArgument []
        else
          let moved := rd && (!t.rdma || w ≠ t.win || p ≠ t.winPart)
          complete (modSess s r.sess fun t => { t with
            port := keepOr m 0 1 t.port, rdma := rd, win := w, winPart := p, rto := keepOr m 4 2 t.rto,
            ringAt := if moved then 0 else t.ringAt
            retained := if moved then Tbl.map t.retained fun _ d => { d with ring := 0 } else t.retained }) r stOk [] }

def execStreamSet (m : Msg) (s : State) : Out := .next (teller s m (.streamSet m) (cmdStreamSet m))

/-- A queue pair starts with the PSN that the panel draws; its number is a free value (log 7). -/
def cmdQpCreate (m : Msg) (psn : BitVec 24) : Cmd :=
  { code := 8, priv := 1,
    form := lenIs m 32 && decide (pf m 0 1 ≤ 1) && zeros m 1 3 && zeros m 7 1 && zeros m 11 1 && zeros m 12 4
    run := fun s r =>
      match Tbl.find s.sessions r.sess with
      | none => s
      | some t =>
        if t.qp.isSome then complete s r stRefusedCapacity []
        else
          let q : QueuePair :=
            { port := pf m 0 1, hostQpn := BitVec.ofNat 24 (pf m 4 3), hostGid := BitVec.ofNat 128 (pf m 16 16),
              expPsn := BitVec.ofNat 24 (pf m 8 3), sendPsn := psn, ackPsn := psn, error := false, behind := none, rate := 1024, cutAt := 0,
              cnpAt := none, out := [] }
          let qpn := (freeWord s).toNat % 2 ^ 24
          complete (bumpFree (modSess s r.sess fun t => { t with qp := some q })) r stOk (leBytes 4 qpn ++ leBytes 4 psn.toNat) }

def execQpCreate (m : Msg) (psn : BitVec 24) (s : State) : Out := .next (teller s m (.qpCreate m psn) (cmdQpCreate m psn))

def cmdQpDestroy (m : Msg) : Cmd :=
  { code := 9, priv := 1, form := lenIs m 0,
    run := fun s r =>
      let out := match (Tbl.find s.sessions r.sess).bind (·.qp) with | some q => q.out | none => []
      let byRdma := match Tbl.find s.sessions r.sess with | some t => t.byRdma | none => false
      let s := failLines (modSess s r.sess fun t => { t with qp := none }) out stTimeout
      -- without its queue pair a stream falls back to UDP, as on an error of the pair (R303)
      complete (if byRdma then resendAll s r.sess else s) r stOk [] }

def execQpDestroy (m : Msg) (s : State) : Out := .next (teller s m (.qpDestroy m) (cmdQpDestroy m))

end Sys2Proof.Machine
end

