-- ==== Sys2Proof/Machine/Maps.lean ====
section
/-! DEFINITION. Partitions, maps, handles, data and the Distance Table (Table 14-6; 05 R140, 06 R156, R159, 07 R170 to R175, 08 R202, 09 R219,
R224, R225, R233, R234, 10 R238 to R249, 19 R425, R432, 20 R436, R437). -/

namespace Sys2Proof.Machine

/-! ### Checks shared by commands that name a partition -/

def hasPart (s : State) (p : Nat) : Bool := Tbl.has s.parts p

/-- Check 7: a fenced partition; one that lacks a spare, or lost a half, may still be remapped (R34, R406). -/
def fencedPart (s : State) (p : Nat) (remap : Bool) : Option Status :=
  let q := getPart s p
  if hasPart s p && q.fenced && !(remap && q.lacking) then some stFenced else none

/-- A twin role in force or attaching refuses changes of layout and map (Table 20-2). -/
def twinMatrix (s : State) : Option Status := if twinOn s then some stModeConflict else none

def isBb (s : State) (p : Nat) : Bool := (getPart s p).map.any (·.bb)

/-- The first of two refusals. -/
def orElse (a b : Option Status) : Option Status := match a with | some x => some x | none => b

/-! ### PART_SET -/

/-- May a site be a die of partition `p`? -/
def siteFree (s : State) (p d : Nat) : Bool :=
  let x := getDie s d
  !(x.spare || x.dark || x.retired) && halfServes s d && (match partOfSite s d with | some q => q = p | none => true)

def cmdPartSet (m : Msg) : Cmd :=
  let p := pf m 0 1
  { code := 0x0101, priv := 2, form := lenIs m 28 && zeros m 1 7 && decide (p < 16),
    check := fun s => orElse (fencedPart s p true) (twinMatrix s)
    run := fun s r =>
      let q := getPart s p
      let sites := if pf m 8 20 = 2 ^ 160 - 1 then q.sites else bitsOf 160 (pf m 8 20)
      if q.map.isSome || !sites.all (siteFree s p) || 16 < sites.length then complete s r stBadArgument []
      else
      let s := fenceDone s p
      if sites = [] then complete { s with parts := Tbl.drop s.parts p } r stOk (leBytes 8 0)
      else
        let s := setNumbering (setPart s p { Partition.reset with sites := sites, distGen := q.distGen }) p
        let s := (clustersOf sites).foldl requestWake s
        let s := wakeDone (modPart s p fun q => { q with ledger := { q.ledger with waking := true } }) p
        complete s r stOk (leBytes 2 sites.length ++ leBytes 2 0 ++ leBytes 4 (getPart s p).numbering.length) }

def execPartSet (m : Msg) (s : State) : Out := report s (teller s m (.partSet m) (cmdPartSet m))

/-! ### MAP_STAGE -/

/-- Bytes staged under a table of bytes. -/
def stageBytes (t : Tbl Byte) (off : Nat) (b : Bytes) : Tbl Byte :=
  ((List.range b.length).zip b).foldl (fun t x => Tbl.put t (off + x.1) x.2) t

def stagedBytes (t : Tbl Byte) (n : Nat) : Bytes := (List.range n).map fun i => Tbl.get t i 0

def cmdMapStage (m : Msg) : Cmd :=
  let p := pf m 0 1
  let n := m.payload.length - 8
  { code := 0x0102, priv := 2,
    form := decide (8 ≤ m.payload.length) && decide (n ≤ 4088) && zeros m 1 3 && decide (p < 16)
    check := fun s => fencedPart s p true
    run := fun s r =>
      if !hasPart s p || 2 ^ 20 < pf m 4 4 + n then complete s r stBadArgument []
      else complete (modPart s p fun q => { q with staged := stageBytes q.staged (pf m 4 4) (m.payload.drop 8) }) r stOk [] }

def execMapStage (m : Msg) (s : State) : Out := .next (teller s m (.mapStage m) (cmdMapStage m))

/-! ### The records of a map (R324) -/

/-- The records of a map as KIND and body, or none if a header or the padding breaks the form. -/
def mapRecords : Nat → Bytes → Option (List (Nat × Bytes))
  | 0, _ => none
  | n + 1, b =>
    if b = [] then some []
    else
      let len := at_ b 4 4
      let pad := (len + 7) / 8 * 8
      if b.length < 8 + pad || at_ b 2 2 ≠ 0 || !((b.drop (8 + len)).take (pad - len)).all (· = 0) then none
      else (mapRecords n (b.drop (8 + pad))).map fun l => (at_ b 0 2, (b.drop 8).take len) :: l

def recOf (l : List (Nat × Bytes)) (k : Nat) : Option Bytes := (l.find? fun r => r.1 = k).map (·.2)

/-- No KIND repeats or is unknown; MAP.STEP and MAP.CLEAR are there. -/
def kindsOk (l : List (Nat × Bytes)) : Bool :=
  l.all (fun r => decide (1 ≤ r.1) && decide (r.1 ≤ 11) && decide ((l.filter fun x => x.1 = r.1).length = 1)) &&
    (recOf l 1).isSome && (recOf l 2).isSome

def parseStep (b : Bytes) : Option MapStep :=
  let v := leNat b
  let f := field v
  if b.length ≠ 16 || f 11 5 ≠ 0 || f 29 3 ≠ 0 || f 47 1 ≠ 0 || f 60 4 ≠ 0 || f 76 4 ≠ 0 || f 92 4 ≠ 0 || f 108 4 ≠ 0 then none
  else some { nlayer := f 0 10, lkeep := v.testBit 10, slots := f 16 13, split := f 32 12, overlap := f 44 3, chunk := f 48 12, sloth := f 64 12,
              rech := f 80 12, inh := f 96 12, relA0 := f 112 4, relA1 := f 116 4, relB0 := f 120 4, relB1 := f 124 4 }

/-- Form of MAP.STEP (R249) but for its handles. -/
def MapStep.ok (t : MapStep) : Bool :=
  decide (1 ≤ t.nlayer) && decide (1 ≤ t.slots) && decide (t.slots ≤ 4096) && decide (1 ≤ t.chunk) && decide (t.split < t.slots) &&
    decide (t.overlap ≤ 4) && (t.overlap = 0 || t.split ≠ 0) && decide (t.overlap < t.nlayer)

def parseClear (b : Bytes) : Option (List ClearEntry) :=
  if b.length ≠ 64 then none
  else
    let e (i : Nat) : Nat := at_ b (4 * i) 4
    if (List.range 16).any fun i => field (e i) 8 8 ≠ 0 || field (e i) 4 2 = 3 then none
    else some ((List.range 16).map fun i =>
      { ctxmask := BitVec.ofNat 4 (e i), parity := BitVec.ofNat 2 (field (e i) 4 2), join := (e i).testBit 6, role := (e i).testBit 7,
        wdog := field (e i) 16 16 })

/-- The release channels that the step uses. -/
def MapStep.releases (t : MapStep) : List Nat := [t.relA0, t.relA1] ++ (if t.split = 0 then [] else [t.relB0, t.relB1])

/-- R245. -/
def clearOk (l : List ClearEntry) (t : MapStep) : Bool :=
  let par (n : BitVec 2) := l.foldl (fun a e => if e.parity = n then a ||| e.ctxmask else a) (0 : BitVec 4)
  (par 1 &&& par 2) = 0 && t.releases.all (fun c => (l[c]?).any (·.role)) &&
    l.all fun e => !(e.role && e.ctxmask = 0) && !(e.wdog = 0 && e.ctxmask ≠ 0)

def parseStreams (b : Bytes) : Option (List StreamEntry) :=
  let n := at_ b 0 8
  if 256 < n || b.length ≠ 8 + 16 * n then none
  else
    let v (i : Nat) : Nat := at_ b (8 + 16 * i) 16
    if (List.range n).any fun i => field (v i) 58 6 ≠ 0 || field (v i) 123 5 ≠ 0 then none
    else some ((List.range n).map fun i =>
      let f := field (v i)
      { circ := f 0 10, handle := f 10 12, off := f 22 20, lines := f 42 16, lstride := f 64 20, nrun := f 84 10, trig := f 94 4, cnt := f 98 4,
        fl := (v i).testBit 102, dline := f 103 10, ring := f 113 10 })

def parsePred (b : Bytes) : Option MapPred :=
  let h := at_ b 0 8
  let n := field h 32 10
  if b.length ≠ 8 + 8 * n || field h 3 13 ≠ 0 || field h 28 4 ≠ 0 || field h 42 22 ≠ 0 || field h 0 2 = 3 then none
  else
    let v (i : Nat) : Nat := at_ b (8 + 8 * i) 8
    if (List.range n).any fun i => field (v i) 24 8 ≠ 0 then none
    else some { mode := BitVec.ofNat 2 h, log := h.testBit 2, logh := field h 16 12,
                layers := (List.range n).map fun i => { layer := field (v i) 0 16, budget := field (v i) 16 8, thresh := BitVec.ofNat 32 (field (v i) 32 32) } }

/-- R156 but for LOGH: no layer twice, each in the map, THRESH finite and +0.0 or positive. -/
def predOk (p : MapPred) (nlayer : Nat) : Bool :=
  p.layers.all fun l => decide (l.layer < nlayer) && decide ((p.layers.filter fun x => x.layer = l.layer).length = 1) &&
    decide (l.thresh.toNat < 0x7F800000)

def parseMcast (b : Bytes) : Option (List (BitVec 128)) :=
  if b.length % 16 ≠ 0 || 16 < b.length / 16 then none
  else some ((List.range (b.length / 16)).map fun i => BitVec.ofNat 128 (at_ b (16 * i) 16))

/-- R219: the rectangle touches only dies of the partition. -/
def mcastOk (sites : List Nat) (l : List (BitVec 128)) : Bool :=
  l.all fun d =>
    let f := field d.toNat
    f 40 3 ≠ 7 && f 43 3 ≠ 7 && decide (f 0 10 ≤ f 10 10) && decide (f 20 10 ≤ f 30 10) && f 47 17 = 0 &&
      decide (f 10 10 ≤ 639) && decide ((l.filter (· = d)).length = 1) &&
      ((List.range (f 30 10 / 64 + 1 - f 20 10 / 64)).all fun i => (List.range (f 10 10 / 64 + 1 - f 0 10 / 64)).all fun j =>
        sites.contains (siteAt (f 20 10 / 64 + i) (f 0 10 / 64 + j)))

def parseCircuits (b : Bytes) : Option (List Circuit) :=
  let n := at_ b 0 8
  if 65536 < n || b.length ≠ 8 + 8 * n then none
  else
    let v (i : Nat) : Nat := at_ b (8 + 8 * i) 8
    if (List.range n).any fun i => field (v i) 42 22 ≠ 0 || 1 < field (v i) 30 2 || 5 < field (v i) 24 3 || 5 < field (v i) 27 3 then none
    else some ((List.range n).map fun i =>
      let f := field (v i)
      { x := f 0 10, y := f 10 10, slot := f 20 4, out := f 24 3, inp := f 27 3, kind := f 30 2, circ := f 32 10 })

/-! ### Circuits (R223, R225) -/

def entryAt (l : List Circuit) (x y slot out : Nat) : Option Circuit :=
  l.find? fun c => c.x = x && c.y = y && c.slot = slot && c.out = out

/-- The entry upstream of a reserve entry's mesh input. -/
def upstream (l : List Circuit) (c : Circuit) : Option Circuit :=
  match meshStep c.x c.y c.inp 1 with
  | none => none
  | some (x, y) =>
    let lat := linkClocks (coreAt c.x c.y) (coreAt x y)
    (entryAt l x y ((c.slot + 16 - lat % 16) % 16) ((c.inp + 2) % 4)).filter fun e => e.kind = 0

/-- Every mesh input has a reserve entry upstream, along at most `n` of them: each is a traversal, and so is a mesh output of the last
(R225). -/
def pathOk (l : List Circuit) : Nat → Circuit → Bool
  | 0, c => decide (4 ≤ c.inp)
  | n + 1, c => decide (4 ≤ c.inp) || (match upstream l c with | some e => pathOk l n e | none => false)

/-- Is an output free in a slot: neither this map's entries nor another partition's reserve or block it? -/
def slotFree (s : State) (p : Nat) (l : List Circuit) (x y slot out : Nat) : Bool :=
  (entryAt l x y slot out).isNone && !(s.parts.any fun q => q.1 ≠ p && q.2.map.any fun m => (entryAt m.circuits x y slot out).isSome)

/-- The count rule at one router and slot. -/
def countOk (s : State) (p : Nat) (l : List Circuit) (x y slot : Nat) : Bool :=
  let k := coreAt x y
  let ins := (List.range 4).filter fun d => match meshLink s k d 1 with
    | some j => slotFree s p l (coreX j) (coreY j) ((slot + 16 - linkClocks k j % 16) % 16) ((d + 2) % 4)
    | none => false
  let outs := (List.range 4).filter fun d => (meshLink s k d 1).isSome && slotFree s p l x y slot d
  decide (ins.length ≤ outs.length)

def circuitsOk (s : State) (p : Nat) (sites : List Nat) (l : List Circuit) : Bool :=
  let down (c : Circuit) : List (Nat × Nat × Nat) := match meshStep c.x c.y c.out 1 with
    | some (x, y) => [(x, y, (c.slot + linkClocks (coreAt c.x c.y) (coreAt x y)) % 16)]
    | none => []
  l.all (fun c =>
    decide (c.x ≤ 639) && sites.contains (siteOf (coreAt c.x c.y)) &&
      decide ((l.filter fun e => e.x = c.x && e.y = c.y && e.slot = c.slot && e.out = c.out).length = 1) &&
      (c.kind = 1 || pathOk l (if c.out < 4 then 254 else 255) c) &&
      (c.kind = 1 || c.inp < 4 || l.all fun e => e.kind = 1 || e.inp < 4 || e.circ ≠ c.circ || (e.x = c.x && e.y = c.y && e.inp = c.inp)) &&
      ((c.x, c.y, c.slot) :: down c).all fun r => countOk s p l r.1 r.2.1 r.2.2)

/-! ### MAP_COMMIT -/

/-- A map handle: below M and bound. -/
def mapHandle (q : Partition) (m h : Nat) : Option Handle :=
  let d := Tbl.get q.handles h Handle.reset
  if h < m && d.state = 1 then some d else none

/-- R249's handle checks. -/
def stepHandlesOk (q : Partition) (m : Nat) (t : MapStep) : Bool :=
  (mapHandle q m t.sloth).isSome && (mapHandle q m t.inh).isSome &&
    (match mapHandle q m t.rech with | some d => decide (32 * t.slots ≤ 64 * d.lines) | none => false)

/-- R202: a KIND 0 map handle may not overlap the KV region, of which an empty range has no granule. -/
def kvOk (q : Partition) (m lo hi : Nat) : Bool :=
  decide (lo ≤ hi) && decide (hi ≤ 16384) && !(decide (lo < hi) && q.handles.any fun h =>
    h.1 < m && h.2.state = 1 && !h.2.kind && decide (h.2.start.toNat < hi) && decide (lo < h.2.start.toNat + ceilDiv h.2.lines 64))

/-- R241. -/
def streamsOk (q : Partition) (m : Nat) (cs : List Circuit) (l : List StreamEntry) : Bool :=
  l.all fun e =>
    match mapHandle q m e.handle with
    | none => false
    | some d =>
      let cl := q.sites.getD d.die.toNat 0 * 64 + d.cluster.toNat
      !d.kind && decide (1 ≤ e.lines) && decide (1 ≤ e.nrun) && decide (1 ≤ e.ring) && decide (e.dline + e.ring ≤ 768) &&
        decide (e.off + (e.nrun - 1) * e.lstride + e.lines ≤ d.lines) && decide ((l.filter fun x => x.circ = e.circ).length = 1) &&
        cs.any fun c => c.kind = 0 && c.inp = 5 && c.circ = e.circ &&
          ([27, 28, 35, 36].map (cl * 64 + ·)).contains (coreAt c.x c.y)

/-- Do images of one core fit together (R432)? -/
def imagesFit (imgs : List (Option Bytes)) : Bool :=
  let l := imgs.filterMap id
  let overlap (a n b m : Nat) : Bool := decide (0 < n) && decide (0 < m) && decide (a < b + m) && decide (b < a + n)
  decide (sumNat (l.map imgCode) ≤ 16384) && (List.range l.length).all fun i =>
    let a := l.getD i []
    !overlap (imgAddr a) (imgData a) 0xBF00 256 && (List.range i).all fun j =>
      !overlap (imgAddr a) (imgData a) (imgAddr (l.getD j [])) (imgData (l.getD j []))

/-- Loader list: whole core programs, each measurement that of an activated image, and the images of a core fit. -/
def loaderOk (s : State) (p : Nat) (b : Bytes) : Bool :=
  b.length % 128 = 0 && (List.range (b.length / 128)).all fun i =>
    let imgs := (List.range 4).map fun c => sub_ b (128 * i + 32 * c) 32
    let found := imgs.map fun d => if d.all (· = 0) then some none else (imageOf s p d).map some
    found.all (·.isSome) && imagesFit (found.filterMap id)

/-- MAP.STEP without its handles. -/
def MapStep.shared (t : MapStep) : MapStep := { t with sloth := 0, rech := 0, inh := 0 }

/-- R239: the maps of a job's other partitions agree. -/
def jobAgrees (s : State) (p : Nat) (t : MapStep) (cl : List ClearEntry) : Bool :=
  (partsOfJob s (jobOfPart s p)).all fun q => q = p || (match (getPart s q).map with
    | some m => m.step.shared = t.shared && m.clear = cl
    | none => true)

/-- The map that staged records make, or the status of the refusal. -/
def buildMap (s : State) (p : Nat) (digest : Bytes) (l : List (Nat × Bytes)) : Except Status PartMap :=
  let q := getPart s p
  let word (k : Nat) (d : Nat) : Option Nat := match recOf l k with | some b => if b.length = 8 then some (leNat b) else none | none => some d
  if !kindsOk l then .error stBadArgument
  else match (recOf l 1).bind parseStep, (recOf l 2).bind parseClear, parseStreams ((recOf l 3).getD (leBytes 8 0)),
      parsePred ((recOf l 7).getD (leBytes 8 0)), parseMcast ((recOf l 8).getD []), parseCircuits ((recOf l 9).getD (leBytes 8 0)) with
    | some t, some cl, some st, some pr, some mc, some ci =>
      match word 4 0, word 5 0, word 6 (308 * 2 ^ 8 + 410 * 2 ^ 24 + 512 * 2 ^ 40), word 10 0 with
      | some m, some kv, some sp, some ad =>
        let f := field sp
        let sparse : MapSparse := { tolerant := sp.testBit 0, xo4 := f 8 11, xo8 := f 24 11, xo16 := f 40 11 }
        let lo := field kv 0 15
        let hi := field kv 16 15
        let bb := ad = 1
        let formOk := m ≤ 4096 && field kv 15 1 = 0 && field kv 31 1 = 0 && field kv 44 20 = 0 && ad ≤ 1 && f 1 7 = 0 && f 19 5 = 0 &&
          f 35 5 = 0 && f 51 13 = 0 && sparse.xo4 ≤ 1025 && sparse.xo8 ≤ 1025 && sparse.xo16 ≤ 1025
        if !formOk then .error stBadArgument
        else if bb && (m ≠ 0 || st ≠ [] || lo ≠ hi || pr.mode ≠ 0) then .error stModeConflict
        else if q.handles.any (fun h => m ≤ h.1 && h.2.state = 1) || !t.ok || !clearOk cl t || !kvOk q m lo hi ||
            !predOk pr t.nlayer || (pr.log && (mapHandle q m pr.logh).isNone) || !mcastOk q.sites mc || !circuitsOk s p q.sites ci ||
            !streamsOk q m ci st || !loaderOk s p ((recOf l 11).getD []) then .error stBadArgument
        else if (if bb then t.sloth ≠ 0 || t.rech ≠ 0 || t.inh ≠ 0 else !stepHandlesOk q m t) then .error stBadArgument
        else if !jobAgrees s p t cl then .error stModeConflict
        else .ok { step := t, clear := cl, streams := st, m := m, kvlo := lo, kvhi := hi, tokb := field kv 32 12, sparse := sparse, pred := pr,
                   mcast := mc, circuits := ci, bb := bb, loader := (recOf l 11).getD [], digest := digest }
      | _, _, _, _ => .error stBadArgument
    | _, _, _, _, _, _ => .error stBadArgument

/-- Lines of map handles in a channel, in ascending channel address. -/
def mapLines (q : Partition) (die cluster : Nat) : List Nat :=
  let rs := (q.handles.filter fun h => h.1 < mapM q && h.2.state = 1 && !h.2.kind && h.2.die.toNat = die && h.2.cluster.toNat = cluster).map
    fun h => (64 * h.2.start.toNat, 64 * h.2.start.toNat + h.2.lines)
  (List.range (maxNat (rs.map (·.2)))).filter fun l => rs.any fun r => decide (r.1 ≤ l) && decide (l < r.2)

/-- The bytes of a channel's lines, each read through the outer code (R199); one that cannot be read stands as a free value (log 7). -/
def digestLines (s : State) (cl : Nat) (ls : List Nat) : State × Bytes :=
  ls.foldl (fun acc l => match hubRead acc.1 cl l with
    | (t, some v) => (t, acc.2 ++ leBytes 64 v.toNat)
    | (t, none) => (bumpFree t, acc.2 ++ leBytes 64 (freeLine t).toNat)) (s, [])

/-- Partition map measurement (R425), with what its reads leave in the channels. -/
def measureMap (s : State) (p : Nat) : State × Bytes :=
  let q := getPart s p
  match q.map with
  | none => (s, [])
  | some m =>
    let chans := ((List.range q.sites.length).map fun die => (List.range 64).map fun c => (die, c)).flatten
    let (t, b) := chans.foldl (fun (acc : State × Bytes) x =>
      let (t, b) := digestLines acc.1 (q.sites.getD x.1 0 * 64 + x.2) (mapLines q x.1 x.2)
      (t, acc.2 ++ sha3_256 b)) (s, [])
    (t, sha3_256 (m.digest ++ b))

/-- A partition's map is measured. -/
def measure (s : State) (p : Nat) : State :=
  let (t, b) := measureMap s p
  modPart t p fun q => { q with mapMeas := b }

/-- The map measurements of every partition with a map are recomputed. -/
def remeasure (s : State) : State :=
  (s.parts.filter fun q => q.2.map.isSome).foldl (fun s q => measure s q.1) s

/-- A channel in a slice that a measurement of the maps, partition `p`'s new one with them, would read: it waits for its end (R192). -/
def measureHeld (s : State) (p : Nat) : Option Nat :=
  ((s.parts.filter fun q => q.2.map.isSome || q.1 = p).flatMap fun q =>
    (q.2.handles.filter fun h => h.2.state = 1 && !h.2.kind).map fun h => bufCluster q.2 h.2).find? (inSlice s)

/-- A map load clears the counters that a load clears (R147, R182, R237) and the channels' generations. -/
def clearLoad (s : State) (p : Nat) : State :=
  let s := (partClusters (getPart s p)).foldl (fun s cl => if !Tbl.has s.clusters cl then s else modClu s cl fun u => { u with
    spTiles := 0, dnTiles := 0, tolerated := 0, declFaults := 0, indexFaults := 0, ceCount := 0, ueConsumed := 0, ueWriteback := 0, deflect := 0,
    ejected := 0, runs := [] }) s
  modPart s p fun q => { q with chans := Tbl.map q.chans fun _ c => { Chan.reset with gen := c.gen + 1, cleared := c.cleared }, silent := [], trigs := [] }

/-- Every core of the partition takes one unit, of its logical number (R240, log 30). -/
def firstUnits (q : Partition) : Tbl (List Nat) :=
  ((List.range q.numbering.length).zip q.numbering).foldl (fun t x => Tbl.put t x.2 [x.1]) []

/-- The map comes into force, and every map is measured again (R425). With the last of the new maps that a shrunk job waits for, the job
resumes with every admitted request recomputed (R286). -/
def loadMap (s : State) (p : Nat) (m : PartMap) : State :=
  let j := jobOfPart s p
  let s := clearLoad s p
  let s := modPart s p fun q => { q with map := some m, units := [] }
  let s := renumber s p
  let s := modPart s p fun q => { q with
    units := firstUnits q, predKept := none, lacking := false, mapMeas := [], lastWrite := none
    ledger := { q.ledger with fed := [], gaps := [], gapSum := 0, gapCount := 0, lastStart := none } }
  let s := remeasure s
  let s := clearSlots s p
  let s := if (getPart s p).fenced then unfencePart s p else s
  let s := { s with master := { s.master with firstMap := true } }
  let x := getJob s j
  let last := x.shrunk && (partsOfJob s j).all fun q => q = p || x.remapped.contains q
  let s := modJob s j fun x =>
    if last then { x with shrunk := false, remapped := [], lostAt := none }
    else if x.shrunk then { x with remapped := joinNat x.remapped [p] } else x
  let s := if (getJob s j).steps = [] then unfenceJob s j else s
  let s := if (getPart s p).ledger.waking || (getPart s p).ledger.pmode = 3 then s else launchPart s p
  if last then kickJob (recomputeJob s j) j else s

/-- MAP_COMMIT. The requests that a shrunk job keeps do not stand in the way of its new maps (R286). -/
def mapCommitRun (m : Msg) (s : State) (r : Reply) : State :=
  let p := pf m 0 1
  let n := pf m 4 4
  let b := stagedBytes (getPart s p).staged n
  let digest := sub_ m.payload 8 32
  let j := jobOfPart s p
  if !hasPart s p || 2 ^ 20 < n || !(getPart s p).sites.all (halfServes s) then complete s r stBadArgument []
  else if sha3_256 b ≠ digest then complete s r stBadArgument []
  else match (mapRecords (n + 1) b).map (buildMap s p digest) with
    | none => complete s r stBadArgument []
    | some (.error st) => complete s r st []
    | some (.ok pm) =>
      if (partBusy s p && !(getJob s j).shrunk) || !(getJob s j).steps.isEmpty then complete s r stModeConflict []
      else match measureHeld s p with
        | some cl => holdAt s cl (.mapCommit m r)
        | none =>
          let s := loadMap s p pm
          complete s r stOk (leBytes 2 (getPart s p).distGen.toNat ++ leBytes 2 0 ++ leBytes 4 (getPart s p).numbering.length)

def cmdMapCommit (m : Msg) : Cmd :=
  let p := pf m 0 1
  { code := 0x0103, priv := 2, form := lenIs m 40 && zeros m 1 3 && decide (p < 16),
    check := fun s => orElse (fencedPart s p true) (twinMatrix s), run := mapCommitRun m }

def execMapCommit (m : Msg) (s : State) : Out := report s (teller s m (.mapCommit m) (cmdMapCommit m))

def cmdMapUnload (m : Msg) : Cmd :=
  let p := pf m 0 1
  { code := 0x0104, priv := 2, form := lenIs m 1 && decide (p < 16),
    check := fun s => orElse (fencedPart s p true) (twinMatrix s)
    run := fun s r =>
      if !hasPart s p then complete s r stBadArgument []
      else if partBusy s p then complete s r stModeConflict []
      else complete (modPart s p fun q => { q with map := none, mapMeas := [], lastWrite := none }) r stOk [] }

def execMapUnload (m : Msg) (s : State) : Out := report s (teller s m (.mapUnload m) (cmdMapUnload m))

/-! ### PART_DRAIN (R323, R437) -/

/-- Has the partition nothing left to drain: no active request, under Base-bound no running task? -/
def drainedNow (s : State) (p : Nat) : Bool :=
  if isBb s p then
    (getPart s p).numbering.all fun k => (List.range 4).all fun n => !(getCtx s k n).state.running
  else !partBusy s p

/-- Drains that have ended complete. -/
def endDrain (s : State) (p : Nat) (st : Status) : State :=
  let rs := (getPart s p).drainReply
  rs.foldl (fun s r => complete s r st []) (modPart s p fun q => { q with drainReply := [] })

def cmdPartDrain (m : Msg) : Cmd :=
  let p := pf m 0 1
  { code := 0x0105, priv := 2, form := lenIs m 2 && decide (p < 16) && decide (pf m 1 1 ≤ 1),
    check := fun s => fencedPart s p false
    run := fun s r =>
      if !hasPart s p then complete s r stBadArgument []
      else if pf m 1 1 = 1 then
        complete (endDrain (modPart s p fun q => { q with drained := false }) p stAborted) r stOk []
      else
        let s := modPart s p fun q => { q with drained := true, drainReply := q.drainReply ++ [r] }
        if drainedNow s p then endDrain s p stOk else s }

def execPartDrain (m : Msg) (s : State) : Out := .next (teller s m (.partDrain m) (cmdPartDrain m))

def execPartDrainComplete (part : Nat) (s : State) : Out :=
  .next (if (getPart s part).drained && (getPart s part).drainReply ≠ [] && drainedNow s part then endDrain s part stOk else s)

/-! ### Handles (R170 to R173, R325) -/

/-- Form of a descriptor to bind: reserved and read-only fields 0 (Table 7-5), its range inside a scratchpad or a channel. -/
def handleForm (v : Nat) : Bool :=
  let f := field v
  let start := f 64 14
  let lines := f 80 20 + 1
  f 0 2 = 0 && f 4 4 = 0 && f 18 14 = 0 && f 48 16 = 0 && f 78 2 = 0 && f 100 12 = 0 && f 112 16 = 0 &&
    (if v.testBit 2 then f 12 6 = 0 && f 74 4 = 0 && decide (start + lines ≤ 768)
     else f 32 16 = 0 && decide (64 * start + lines ≤ 1048576))

/-- The descriptor that a bind would set, if its die and its core exist. -/
def bindDesc (q : Partition) (v : Nat) : Option Handle :=
  let f := field v
  let kind := v.testBit 2
  let start := f 64 14
  if q.sites.length ≤ f 8 4 then none
  else if kind && q.numbering.length ≤ f 32 16 then none
  else some { state := 1, kind := kind, wr := v.testBit 3, die := BitVec.ofNat 4 (f 8 4), cluster := BitVec.ofNat 6 (f 12 6),
              lcn := BitVec.ofNat 16 (f 32 16), start := BitVec.ofNat 14 start, linesM1 := BitVec.ofNat 20 (f 80 20), gen := 0 }

/-- Remaining time of the current step in milliseconds, 1 when none is in flight (R173): its start and the mean step period of R378 less the
time now. DESIGN CHOICE (log 95): the rule gives no method. -/
def stepLeft (s : State) (p : Nat) : Nat :=
  match (getJob s (jobOfPart s p)).steps.head? with
  | none => 1
  | some t => Nat.max 1 (ceilDiv (t.started.toNat + stepNs (getPart s p).ledger - now s) 1000000)

/-- R325: with a map loaded no command binds or invalidates a handle. -/
def handleCommands (s : State) (p h : Nat) : Option Status :=
  if !hasPart s p || 4095 < h then some stBadArgument else if (getPart s p).map.isSome then some stRefusedPolicy else none

def cmdHandleBind (m : Msg) : Cmd :=
  let p := pf m 0 1
  let h := pf m 2 2
  { code := 0x0106, priv := 2, form := lenIs m 32 && zeros m 1 1 && zeros m 4 12 && decide (p < 16) && decide (h < 4096) && handleForm (pf m 16 16),
    check := fun s => orElse (fencedPart s p false) (if isBb s p then some stModeConflict else none)
    run := fun s r =>
      match handleCommands s p h with
      | some st => complete s r st []
      | none =>
        let q := getPart s p
        let old := Tbl.get q.handles h Handle.reset
        match bindDesc q (pf m 16 16) with
        | none => complete s r stBadArgument []
        | some d =>
          if old.state = 1 then complete s r stBadArgument []
          else if old.state = 2 then complete s r stDeferred (leBytes 4 (stepLeft s p))
          else
            let d := { d with gen := old.gen + 1 }
            completeAfter (changeHandle s p h d) r stOk (leBytes 2 d.gen.toNat) [(p, h)] [] }

def execHandleBind (m : Msg) (s : State) : Out := .next (teller s m (.handleBind m) (cmdHandleBind m))

def cmdHandleInval (m : Msg) : Cmd :=
  let p := pf m 0 1
  let h := pf m 2 2
  { code := 0x0107, priv := 2, form := lenIs m 4 && zeros m 1 1 && decide (p < 16) && decide (h < 4096),
    check := fun s => fencedPart s p false
    run := fun s r =>
      match handleCommands s p h with
      | some st => complete s r st []
      | none =>
        match (Tbl.get (getPart s p).handles h Handle.reset).state.toNat with
        | 1 => completeAfter (invalidateHandle s p h) r stOk [] [(p, h)] []
        | 2 => complete s r stOk []
        | _ => complete s r stBadArgument [] }

def execHandleInval (m : Msg) (s : State) : Out := .next (teller s m (.handleInval m) (cmdHandleInval m))

/-! ### Data (R326) -/

/-- The descriptor of a command's range, if the range lies in a bound handle. -/
def dataRange (s : State) (p h off n : Nat) : Option Handle :=
  let d := Tbl.get (getPart s p).handles h Handle.reset
  if hasPart s p && d.state = 1 && off % 64 = 0 && decide (off / 64 + n ≤ d.lines) then some d else none

/-- Channel of a DATA command: a KV handle names its home channel (R203). -/
def dataCluster (s : State) (p h : Nat) (d : Handle) : Nat := handleCluster s p h d (homeCluster s p)

/-- One line after another, until one cannot be written. -/
def writeLines (s : State) (p h : Nat) (d : Handle) (off : Nat) (b : Bytes) : Nat → State × Bool
  | 0 => (s, true)
  | n + 1 =>
    let (s, ok) := writeLines s p h d off b n
    let v : Line := BitVec.ofNat 512 (at_ b (64 * n) 64)
    if !ok then (s, false)
    else if d.kind then
      match namedCore s p d with
      | none => (s, false)
      | some k => (spmArrive s k (handleLine d (off + n)) v, true)
    else
      let cl := dataCluster s p h d
      if !channelServes s cl || (getClu s cl).fenced then (s, false) else (commitLine s cl (handleLine d (off + n)) v, true)

/-- DATA_WRITE of a range of a bound handle. -/
def dataWriteRun (m : Msg) (s : State) (r : Reply) : State :=
  let p := pf m 0 1
  let h := pf m 2 2
  let b := m.payload.drop 8
  match dataRange s p h (pf m 4 4) (b.length / 64) with
  | none => complete s r stBadArgument []
  | some d =>
    if !d.kind && inSlice s (dataCluster s p h d) then holdAt s (dataCluster s p h d) (.dataWrite m r)
    else
      let (s, ok) := writeLines s p h d (pf m 4 4 / 64) b (b.length / 64)
      let s := if (getPart s p).map.isSome && h < mapM (getPart s p) then modPart s p fun q => { q with lastWrite := some s.tally } else s
      complete s r (if ok then stOk else stFenced) []

def cmdDataWrite (m : Msg) : Cmd :=
  let p := pf m 0 1
  let h := pf m 2 2
  let b := m.payload.drop 8
  { code := 0x0108, priv := 2,
    form := decide (72 ≤ m.payload.length) && b.length % 64 = 0 && decide (b.length ≤ 4032) && zeros m 1 1 && decide (p < 16) &&
      decide (h < 4096) && pf m 4 4 % 64 = 0
    check := fun s => fencedPart s p false
    run := dataWriteRun m }

def execDataWrite (m : Msg) (s : State) : Out := .next (teller s m (.dataWrite m) (cmdDataWrite m))

/-- Lines read up to the first that cannot be: the status, and the lines before it. -/
def readLines (s : State) (p h : Nat) (d : Handle) (off : Nat) (rs : List ArrayRead) : Nat → State × Status × Bytes
  | 0 => (s, stOk, [])
  | n + 1 =>
    let (s, st, b) := readLines s p h d off rs n
    let r := rs.getD n cleanRead
    if st ≠ stOk then (s, st, b)
    else if d.kind then
      match namedCore s p d with
      | none => (s, stFenced, [])
      | some k => (match spmPeek s k (handleLine d (off + n)) with | some v => (s, stOk, b ++ leBytes 64 v.toNat) | none => (s, stEcc, b))
    else
      let cl := dataCluster s p h d
      if !channelServes s cl || (getClu s cl).fenced then (s, stFenced, [])
      else match demandRead s cl (handleLine d (off + n)) r with
        | (t, some v) => (t, stOk, b ++ leBytes 64 v.toNat)
        | (t, none) => (t, stEcc, b)

/-- DATA_READ of a range of a bound handle. -/
def dataReadRun (m : Msg) (rs : List ArrayRead) (s : State) (r : Reply) : State :=
  let p := pf m 0 1
  let h := pf m 2 2
  match dataRange s p h (pf m 4 4) (pf m 8 1) with
  | none => complete s r stBadArgument []
  | some d =>
    if !d.kind && inSlice s (dataCluster s p h d) then holdAt s (dataCluster s p h d) (.dataRead m rs r)
    else
      let (s, st, b) := readLines s p h d (pf m 4 4 / 64) rs (pf m 8 1)
      complete s r st (if st = stFenced then [] else b)

def cmdDataRead (m : Msg) (rs : List ArrayRead) : Cmd :=
  let p := pf m 0 1
  let h := pf m 2 2
  let n := pf m 8 1
  { code := 0x0109, priv := 0, ro := true,
    form := lenIs m 9 && zeros m 1 1 && decide (p < 16) && decide (h < 4096) && pf m 4 4 % 64 = 0 && decide (1 ≤ n) && decide (n ≤ 64)
    check := fun s => fencedPart s p false
    run := dataReadRun m rs }

def execDataRead (m : Msg) (r : List ArrayRead) (s : State) : Out := report s (teller s m (.dataRead m r) (cmdDataRead m r))

/-! ### The Distance Table (R233, R234) -/

/-- Hops of a way, as a table holds them: 4,095 where there is none. -/
def hopsField (w : Nat × Nat) : Nat := Nat.min 4095 w.1

/-- A distance entry (Table 9-14): hops, die seams and spine of a shortest way, and whether no hole lengthens it. -/
def distEntry (h : Holes) (a b : List Nat) : Nat :=
  let w := wayTo h a b
  hopsField w + 2 ^ 12 * (w.2 % 64 % 32) + 2 ^ 17 * b2n (64 ≤ w.2) + 2 ^ 18 * b2n (w.1 = (plainWay a b).1)

/-- The table's bytes from an offset, and its length. -/
def distBytes (s : State) (p off len : Nat) : Nat × Bytes :=
  let q := (getPart s p).dist
  let cls := q.clusters
  let n := q.numbering.length
  let c := cls.length
  let o1 := 64 + 8 * n
  let o2 := o1 + 16 * c
  let o3 := o2 + 4 * c * c
  let total := o3 + 4 * c * 48
  let head := 1 + 2 ^ 8 * p + 2 ^ 12 * b2n q.bank + 2 ^ 16 * (getPart s p).distGen.toNat + 2 ^ 32 * n + 2 ^ 64 * c + 2 ^ 96 * 64 + 2 ^ 128 * o1 +
    2 ^ 160 * o2 + 2 ^ 192 * o3
  let byte (i : Nat) : Byte :=
    if i < 64 then BitVec.ofNat 8 (head >>> (8 * i))
    else if i < o1 then
      let k := q.numbering.getD ((i - 64) / 8) 0
      BitVec.ofNat 8 ((coreX k + 2 ^ 10 * coreY k + 2 ^ 20 * cls.idxOf (clusterOf k) + 2 ^ 30 * portDist k) >>> (8 * ((i - 64) % 8)))
    else if i < o2 then
      let cl := cls.getD ((i - o1) / 16) 0
      let k := portCore cl
      let w := cl / 64 + 2 ^ 8 * (cl % 64) + 2 ^ 16 * coreX k + 2 ^ 26 * coreY k + 2 ^ 36 * hopsField (wayTo q.holes (portRouters cl) (hubRouters 0)) +
        2 ^ 48 * hopsField (wayTo q.holes (portRouters cl) (hubRouters 1))
      BitVec.ofNat 8 (w >>> (8 * ((i - o1) % 16)))
    else if i < o3 then
      let e := (i - o2) / 4
      BitVec.ofNat 8 (distEntry q.holes (portRouters (cls.getD (e / c) 0)) (portRouters (cls.getD (e % c) 0)) >>> (8 * ((i - o2) % 4)))
    else
      let e := (i - o3) / 4
      BitVec.ofNat 8 (distEntry q.holes (portRouters (cls.getD (e / 48) 0)) (opticalRouters (e % 48)) >>> (8 * ((i - o3) % 4)))
  (total, (List.range len).map fun i => byte (off + i))

def cmdDistRead (m : Msg) : Cmd :=
  let p := pf m 0 1
  let off := pf m 4 4
  let len := pf m 8 2
  { code := 0x010A, priv := 0, ro := true, form := lenIs m 10 && zeros m 1 3 && decide (p < 16) && decide (len ≤ 4096),
    check := fun s => fencedPart s p false
    run := fun s r =>
      let (total, b) := distBytes s p off len
      if !hasPart s p || (getPart s p).dist = DistTable.reset || total < off + len then complete s r stBadArgument []
      else complete s r stOk b }

def execDistRead (m : Msg) (s : State) : Out := .next (teller s m (.distRead m) (cmdDistRead m))

end Sys2Proof.Machine
end

