-- ==== Sys2Proof/Machine/Requests.lean ====
section
/-! DEFINITION. Generation requests (Table 14-7; 14 R326 to R329, 17 R379 to R381, 12 R290). -/

namespace Sys2Proof.Machine

/-! ### SUBMIT -/

/-- FP32 TEMP: neither negative nor NaN. -/
def tempOk (v : Nat) : Bool := v % 2 ^ 31 ≤ 0x7F800000 && (v < 2 ^ 31 || v = 2 ^ 31)

/-- FP32 TOPP in (0, 1]. -/
def toppOk (v : Nat) : Bool := 0 < v && v ≤ 0x3F800000

/-- The fields of a submission but for a staged prompt (Table 14-8). -/
def subFields (m : Msg) : SubFields :=
  { job := pf m 0 2, cls := pf m 2 1, seed := BitVec.ofNat 64 (pf m 8 8), temp := BitVec.ofNat 32 (pf m 16 4),
    topp := BitVec.ofNat 32 (pf m 20 4), topk := BitVec.ofNat 32 (pf m 24 4), maxout := pf m 28 4, plen := pf m 32 4,
    stops := (List.range (Nat.min 8 (pf m 36 1))).map fun i => BitVec.ofNat 32 (pf m (40 + 4 * i) 4),
    prompt := if pf m 3 1 = 0xFF then (List.range (pf m 32 4)).map fun i => BitVec.ofNat 32 (pf m (72 + 4 * i) 4) else [] }

def submitForm (m : Msg) : Bool :=
  let stage := pf m 3 1
  let plen := pf m 32 4
  decide (72 ≤ m.payload.length) && decide (pf m 2 1 ≤ 2) && (stage = 0xFF || stage < 16) && tempOk (pf m 16 4) && toppOk (pf m 20 4) &&
    decide (1 ≤ plen) && decide (plen ≤ 32768) && decide (1 ≤ pf m 28 4) && decide (pf m 36 1 ≤ 8) && zeros m 37 3 &&
    zeros m (40 + 4 * pf m 36 1) (32 - 4 * pf m 36 1) &&
    (if stage = 0xFF then m.payload.length = 72 + 4 * plen else m.payload.length = 72)

/-- The first `n` tokens of a stage, if it holds them all. -/
def stagedPrompt (s : State) (sess stage n : Nat) : Option (List (BitVec 32)) :=
  match Tbl.find s.sessions sess with
  | none => none
  | some t =>
    let st := Tbl.get t.stages stage []
    if (List.range n).all fun i => Tbl.has st i then some ((List.range n).map fun i => Tbl.get st i 0) else none

def freeStage (s : State) (sess stage : Nat) : State := modSess s sess fun t => { t with stages := Tbl.drop t.stages stage }

/-- The live ticket that a submission of a session quotes. -/
def liveTicket (s : State) (sess tick : Nat) : Option Ticket :=
  (Tbl.find s.tickets tick).filter fun t => t.sess = sess && decide (now s < t.last.toNat + 10000000000)

/-- Does a resubmission repeat its ticket's fields? -/
def repeats (t : Ticket) (m : Msg) : Bool := t.sub = subFields m && t.stage = pf m 3 1

/-- A final answer to a submission: its stage is freed, and the ticket that it repeats ends (R327, R328). -/
def finalAnswer (s : State) (m : Msg) (sess : Nat) : State :=
  let s := if m.payload.length < 4 then s else freeStage s sess (pf m 3 1)
  match liveTicket s sess (pf m 4 4) with
  | some t => if repeats t m then { s with tickets := Tbl.drop s.tickets (pf m 4 4) } else s
  | none => s

/-- Partitions of the job that refuse it as fenced: one that waits for a map, but holds no die of a lost half, answers REFUSED_CAPACITY
(R34, R406). -/
def jobFenced (s : State) (j : Nat) : Bool :=
  (partsOfJob s j).any fun p =>
    let q := getPart s p
    q.fenced && !(q.lacking && q.sites.all (halfServes s))

/-- The prompt of a submission: inline, or staged if the stage holds it all. -/
def promptOf (s : State) (m : Msg) : Option (List (BitVec 32)) :=
  if pf m 3 1 = 0xFF then some (subFields m).prompt else stagedPrompt s m.sess.toNat (pf m 3 1) (pf m 32 4)

def submitCheck (s : State) (m : Msg) : Option Status :=
  let j := pf m 0 2
  let ps := partsOfJob s j
  if ps = [] || (promptOf s m).isNone then some stBadArgument
  else if jobFenced s j then some stFenced
  else if ps.any (isBb s) then some stModeConflict
  else none

/-- The session's TOPCLASS in force: that of its host's entry in the CONFIG in force (R433); one without an entry keeps what its handshake
gave. -/
def topClass (s : State) (t : Session) : Nat := match hostEntry s t.subject with | some (_, top) => top | none => t.topclass

/-- The policy refusals of R327. -/
def policyRefuses (s : State) (sess : Nat) (f : SubFields) : Bool :=
  let top := match Tbl.find s.sessions sess with | some t => topClass s t | none => 2
  f.cls < top || (s.twin.role = .shadow && f.cls ≠ 2) || (partsOfJob s f.job).any fun p => (getPart s p).drained

/-- Is the session's retention store above half, or still to empty after an overflow, or its event store full (R301, R331)? -/
def storesFull (s : State) (sess : Nat) : Bool :=
  match Tbl.find s.sessions sess with
  | some t => t.overflow || !storeHalfEmpty s t || decide (4096 ≤ t.events.length)
  | none => false

/-- Table 14-9. -/
def submitBody (req tick wait cls age : Nat) : Bytes :=
  leBytes 8 req ++ leBytes 4 tick ++ leBytes 4 wait ++ leBytes 1 cls ++ leBytes 3 0 ++ leBytes 4 age ++ leBytes 8 0

/-- Sequence numbers of the Escrow frames whose acknowledgement an admission waits for: those of its KIND 1 record and of the session's
KIND 4 (R290). -/
def admissionSeqs (s : State) (sess req : Nat) : List Nat :=
  if s.twin.role = .primary && s.twin.attached then
    (s.twin.unacked.filter fun u => (u.kind = 1 && u.key = req) || (u.kind = 4 && u.key = sess)).map (·.seq)
  else []

/-- DEFERRED: a ticket is created, or the quoted one renewed (R328). -/
def defer (s : State) (r : Reply) (m : Msg) (old : Option Ticket) (sub : SubFields) (promoted : Bool) (wait cls age : Nat) : State :=
  let tick := if old.isSome then pf m 4 4 else s.nextTicket
  let t : Ticket := { sess := r.sess, sub := subFields m, stage := pf m 3 1, first := (old.map (·.first)).getD s.tally, last := s.tally,
                      wait := wait, active := true, promoted := promoted, claims := claimsOf s sub }
  let s := { s with tickets := Tbl.put s.tickets tick t, nextTicket := if old.isSome then s.nextTicket else s.nextTicket + 1 }
  complete s r stDeferred (submitBody 0 tick wait cls age)

/-- The decision on a submission with its whole prompt. The wait for a store or for a job's lost member, which the spec does not compute, is
a free value in the range of R381 (log 7). -/
def submitDecide (s : State) (r : Reply) (m : Msg) (old : Option Ticket) (sub : SubFields) : State :=
  let age := match old with | some t => ageMs s t | none => 0
  let up := match old with | some t => t.promoted || (sub.cls = 2 && decide (agingOf s sub.job ≤ age)) | none => false
  let cls := if up then Nat.min 1 sub.cls else sub.cls
  let tick := if old.isSome then pf m 4 4 else s.nextTicket
  let (st, wait) := decideAdmission s sub cls tick age
  let held := storesFull s r.sess || (getJob s sub.job).lostAt.isSome
  if (partsOfJob s sub.job).any fun p => (getPart s p).lacking then complete (finalAnswer s m r.sess) r stRefusedCapacity []
  else if st = stOk && !held then
    let s := finalAnswer s m r.sess
    let (s, req) := admitReq s r.sess sub cls
    let seqs := admissionSeqs s r.sess req
    let s := kickJob s sub.job
    let kvh := (Tbl.find s.requests req).elim [] (·.kvh)
    completeAfter s r stOk (submitBody req 0 0 cls age) kvh seqs
  else if st = stOk then
    defer (bumpFree s) r m old sub up (1 + (freeWord s).toNat % 10000) cls age
  else if st = stDeferred then defer s r m old sub up wait cls age
  else complete (finalAnswer s m r.sess) r st []

def cmdSubmit (m : Msg) : Cmd :=
  let f := subFields m
  { code := 0x0201, priv := 1, form := submitForm m, check := fun s => submitCheck s m,
    refuse := fun s r => finalAnswer s m r.sess
    run := fun s r =>
      match promptOf s m with
      | none => complete (finalAnswer s m r.sess) r stBadArgument []
      | some prompt =>
        let old := liveTicket s r.sess (pf m 4 4)
        if old.any fun t => !repeats t m then complete (freeStage s r.sess (pf m 3 1)) r stBadArgument []
        else if policyRefuses s r.sess f then complete (finalAnswer s m r.sess) r stRefusedPolicy []
        else submitDecide s r m old { f with prompt := prompt } }

def execSubmit (m : Msg) (s : State) : Out := .next (teller s m (.submit m) (cmdSubmit m))

/-! ### PROMPT_PUT, ABORT, REQ_QUERY -/

def cmdPromptPut (m : Msg) : Cmd :=
  let n := (m.payload.length - 8) / 4
  { code := 0x0202, priv := 1,
    form := decide (8 ≤ m.payload.length) && (m.payload.length - 8) % 4 = 0 && decide (n ≤ 1022) && decide (pf m 0 1 < 16) && zeros m 1 3 &&
      decide (pf m 4 4 + n ≤ 32768)
    run := fun s r =>
      let s := modSess s r.sess fun t => { t with
        stages := Tbl.put t.stages (pf m 0 1) ((List.range n).foldl (fun st i =>
          Tbl.put st (pf m 4 4 + i) (BitVec.ofNat 32 (pf m (8 + 4 * i) 4))) (Tbl.get t.stages (pf m 0 1) [])) }
      complete s r stOk [] }

def execPromptPut (m : Msg) (s : State) : Out := .next (teller s m (.promptPut m) (cmdPromptPut m))

/-- A request that a session may name: its own, active or ended within the last 60 s. -/
def ownRequest (s : State) (sess req : Nat) : Option Request :=
  (Tbl.find s.requests req).filter fun r => r.sess = sess && (r.state ≠ 4 || decide (now s < r.endedAt.toNat + 60000000000))

/-- ABORT at its journal position: the request's end, or the release of its END block, came first or the abort does (R329). -/
def cmdAbort (m : Msg) : Cmd :=
  { code := 0x0203, priv := 1, form := lenIs m 8,
    run := fun s r =>
      match ownRequest s r.sess (pf m 0 8) with
      | none => complete s r stBadArgument []
      | some x =>
        if x.state = 4 || x.endSent then complete s r stAlreadyDone []
        else completeAfter (endRequest s (pf m 0 8) stAborted) r stOk [] x.kvh [] }

def execAbort (m : Msg) (s : State) : Out := .next (teller s m (.abort m) (cmdAbort m))

/-- The 24-byte form of a request. -/
def reqEntry (req : Nat) (r : Request) : Bytes :=
  leBytes 8 req ++ leBytes 8 r.sub.seed.toNat ++ leBytes 1 r.state ++ leBytes 1 r.cls ++ leBytes 2 r.status.toNat ++ leBytes 4 r.released

def cmdReqQuery (m : Msg) : Cmd :=
  { code := 0x0204, priv := 0, ro := true, safe := true, form := lenIs m 12,
    run := fun s r =>
      if pf m 0 8 = 0 then
        let l := (s.requests.filter fun x => (ownRequest s r.sess x.1).isSome).drop (pf m 8 4) |>.take 170
        complete s r stOk (leBytes 2 l.length ++ leBytes 6 0 ++ (l.map fun x => reqEntry x.1 x.2).flatten)
      else match ownRequest s r.sess (pf m 0 8) with
        | none => complete s r stBadArgument []
        | some x => complete s r stOk (reqEntry (pf m 0 8) x) }

def execReqQuery (m : Msg) (s : State) : Out := .next (teller s m (.reqQuery m) (cmdReqQuery m))

end Sys2Proof.Machine
end

