-- ==== Sys2Proof/Machine/Windows.lean ====
section
/-! DEFINITION. Window, Ledger, twin and job commands (Table 14-10; 07 R175 to R180, 12 R280 to R282, R287 to R292, 17 R372, R385, 19 R428). -/

namespace Sys2Proof.Machine

/-! ### Windows (R176, R177) -/

/-- A descriptor's low and high halves (Table 7-6). -/
def Window.word (w : Window) : Nat :=
  w.state.toNat + 2 ^ 2 * b2n w.outbound + 2 ^ 3 * w.dir.toNat + 2 ^ 5 * b2n w.target + 2 ^ 8 * w.linesM1.toNat + 2 ^ 32 * w.gen.toNat +
    2 ^ 64 * w.expiry.toNat + 2 ^ 128 * w.hi.toNat

/-- Has the descriptor of an open its form: read-only and reserved fields 0, DIR not reserved, VA a multiple of 64? -/
def windowForm (v : Nat) : Bool :=
  let f := field v
  let outbound := v.testBit 2
  let target := v.testBit 5
  f 0 2 = 0 && f 3 2 ≠ 0 && f 6 2 = 0 && f 28 4 = 0 && f 32 32 = 0 &&
    (if !outbound then !target && f 140 20 = 0 && f 180 12 = 0 && f 218 6 = 0 && f 234 6 = 0
     else if !target then f 138 2 = 0 && f 152 104 = 0
     else f 132 28 = 0 && f 192 6 = 0)

/-- The window that an open makes. The GEN that another panel returns is a free value (log 7). -/
def openedWindow (s : State) (old : Window) (v : Nat) : Window :=
  let f := field v
  { state := 1, outbound := v.testBit 2, dir := BitVec.ofNat 2 (f 3 2), target := v.testBit 5, linesM1 := BitVec.ofNat 20 (f 8 20),
    gen := old.gen + 1, expiry := BitVec.ofNat 64 (f 64 64), hi := BitVec.ofNat 128 (f 128 128),
    farGen :=
      if !v.testBit 2 || v.testBit 5 then 0
      else if f 128 10 = s.sys.panel then (getWindow s (f 140 4) (f 144 8)).gen
      else (freeWord s).setWidth 16 }

/-- BAD_ARGUMENT cases of R177. -/
def openAllowed (s : State) (p : Nat) (old w : Window) : Bool :=
  let d := Tbl.get (getPart s p).handles w.handle Handle.reset
  old.state = 0 && (w.expiry = 0 || s.tally < w.expiry) &&
    (if w.outbound then !w.target || (match Tbl.find s.sessions (w.fld 0 4) with | some t => t.est | none => false)
     else d.state = 1 && !d.kind && (!w.dir.getLsbD 0 || d.wr) && decide (w.fld 32 20 + w.lines ≤ d.lines))

def cmdWinOpen (m : Msg) : Cmd :=
  let p := pf m 0 1
  let n := pf m 1 1
  { code := 0x0301, priv := 1, form := lenIs m 40 && zeros m 2 6 && decide (p < 16) && windowForm (pf m 8 32),
    check := fun s => orElse (fencedPart s p false) (if isBb s p then some stModeConflict else none)
    run := fun s r =>
      let old := getWindow s p n
      let w := openedWindow s old (pf m 8 32)
      if !hasPart s p || !openAllowed s p old w then complete s r stBadArgument []
      else
        let s := modPart s p fun q => { q with windows := Tbl.put q.windows n w }
        complete (bumpFree s) r stOk (leBytes 2 w.gen.toNat) }

def execWinOpen (m : Msg) (s : State) : Out := .next (teller s m (.winOpen m) (cmdWinOpen m))

def cmdWinClose (m : Msg) : Cmd :=
  let p := pf m 0 1
  let n := pf m 1 1
  { code := 0x0302, priv := 1, form := lenIs m 2 && decide (p < 16), check := fun s => fencedPart s p false,
    run := fun s r =>
      if !hasPart s p then complete s r stBadArgument []
      else if (getWindow s p n).state = 0 then complete s r stOk []
      else completeAfter (closeEverywhere s p n) r stOk [] [(p, windowNumber n)] [] }

def execWinClose (m : Msg) (s : State) : Out := .next (teller s m (.winClose m) (cmdWinClose m))

def cmdWinQuery (m : Msg) : Cmd :=
  let p := pf m 0 1
  { code := 0x0303, priv := 0, ro := true, form := lenIs m 2 && decide (p < 16), check := fun s => fencedPart s p false,
    run := fun s r =>
      if !hasPart s p then complete s r stBadArgument [] else complete s r stOk (leBytes 32 (getWindow s p (pf m 1 1)).word) }

def execWinQuery (m : Msg) (s : State) : Out := .next (teller s m (.winQuery m) (cmdWinQuery m))

/-! ### The Ledger (R372, R375, R385) -/

def cmdLedgerSet (m : Msg) : Cmd :=
  let p := pf m 0 1
  { code := 0x0401, priv := 2, form := lenIs m 14 && decide (p < 16) && inRange m 1 1 0 3 && zeros m 2 2 && inRange m 12 2 100 60000,
    check := fun s => orElse (fencedPart s p false) (if pf m 1 1 = 3 && partBusy s p then some stModeConflict else none)
    run := fun s r =>
      if !hasPart s p then complete s r stBadArgument []
      else complete (modPart s p fun q =>
        let l := q.ledger
        let cur := l.next.getD (l.pmode, l.allow, l.resv, l.aging)
        let new := (BitVec.ofNat 2 (keepOr m 1 1 cur.1.toNat), keepOr m 4 4 cur.2.1, keepOr m 8 4 cur.2.2.1, keepOr m 12 2 cur.2.2.2)
        { q with ledger := { l with next := some new } }) r stOk [] }

def execLedgerSet (m : Msg) (s : State) : Out := .next (teller s m (.ledgerSet m) (cmdLedgerSet m))

def cmdLedgerRead (m : Msg) : Cmd :=
  let p := pf m 0 1
  { code := 0x0402, priv := 0, ro := true, form := lenIs m 1 && decide (p < 16), check := fun s => fencedPart s p false,
    run := fun s r =>
      if !hasPart s p then complete s r stBadArgument []
      else
        let l := (getPart s p).ledger
        let live := s.tickets.filter fun t => (partsOfJob s t.2.sub.job).contains p && decide (now s < t.2.last.toNat + 10000000000)
        complete s r stOk (leBytes 8 l.total ++ leBytes 4 l.last ++ leBytes 4 (allowOf s p) ++
          leBytes 2 (activeReqs s fun x => (partsOfJob s x.sub.job).contains p).length ++ leBytes 2 live.length) }

def execLedgerRead (m : Msg) (s : State) : Out := .next (teller s m (.ledgerRead m) (cmdLedgerRead m))

def cmdForecast (m : Msg) : Cmd :=
  { code := 0x0403, priv := 2, form := lenIs m 12,
    run := fun s r =>
      let w (o : Nat) := BitVec.ofNat 32 (pf m o 4)
      complete { s with ledger := { s.ledger with f1 := w 0, f10 := w 4, f60 := w 8, fAt := some s.tally } } r stOk [] }

def execForecast (m : Msg) (s : State) : Out := .next (teller s m (.forecast m) (cmdForecast m))

/-! ### Twins (R159, R287, R290 to R292, R425, R428, R438) -/

/-- Is every loaded map's predictor Exact? -/
def allExact (s : State) : Bool := s.parts.all fun q => q.2.map.all fun m => m.pred.mode = 1

/-- The Primary's live records: its sessions, and its active requests with their last token block. -/
def copyEscrow (s : State) : State :=
  let s := s.sessions.foldl (fun s t => escrowSend s 4 t.1 0 (sessionBody s.twin.pairKey t.1 t.2)) s
  (s.requests.filter fun r => r.2.state ≠ 4).foldl (fun s r =>
    let s := escrowSend s 1 r.1 r.1 (admissionBody r.2.sess r.2.sub)
    if r.2.escIdx = 0 then s else escrowSend s 2 r.1 r.1 (leBytes 4 r.2.escIdx ++ leBytes 4 r.2.escPos ++ r.2.escDigest)) s

/-- K_pair; the transcript is the encapsulation key and the ciphertext (R428; DEDUCED, log 149). -/
def pairKeyOf (x : PairExchange) : Bytes := kmac256 x.ss (sha3_256 (x.ek ++ x.ct)) (ascii "GP144-TWIN") 32

/-- The attach begins: the pair key stands, a Primary's copy goes out. -/
def beginAttach (s : State) (r : Reply) (role : TwinRole) (partner : Nat) (pairKey : Bytes) : State :=
  let s := { s with twin := { s.twin with
    pending := some role, partner := partner, reply := some r, pairKey := pairKey, lastBeat := s.tally, lastHeard := s.tally, silent := false,
    beaten := false, records := [], lines := [], nextRec := 0, unacked := [], nextSeq := 0 }, assured := Tbl.drop s.assured (1024 + partner) }
  if role = .primary then
    let s := copyEscrow s
    { s with twin := { s.twin with copy := s.twin.unacked.map (·.seq) } }
  else s

/-- The map measurements that an attach compares: by partition, of every loaded map (R287, R425). -/
def mapMeasures (s : State) : List (Nat × Bytes) := (s.parts.filter fun q => q.2.map.isSome).map fun q => (q.1, q.2.mapMeas)

/-- TWIN_ATTACH once the channels that it measures serve. -/
def twinAttachRun (m : Msg) (chainOk : Bool) (theirs : List (Nat × Bytes)) (pair : PairExchange) (s : State) (r : Reply) : State :=
  match measureHeld s 16 with
  | some cl => holdAt s cl (.twinAttach m chainOk theirs pair r)
  | none =>
    let s := remeasure s
    if pf m 2 2 = s.sys.panel then complete s r stBadArgument []
    else if !chainOk then complete s r stAuthFail []
    else if theirs ≠ mapMeasures s then complete s r stModeConflict []
    else beginAttach s r (if pf m 0 1 = 1 then .primary else .shadow) (pf m 2 2) (pairKeyOf pair)

/-- `chainOk`: the partner's identity chain and signature hold; `theirs`: the partner's map measurements; `pair` is the key
exchange. -/
def cmdTwinAttach (m : Msg) (chainOk : Bool) (theirs : List (Nat × Bytes)) (pair : PairExchange) : Cmd :=
  let role := pf m 0 1
  { code := 0x0501, priv := 2, form := lenIs m 4 && (role = 1 || role = 2) && zeros m 1 1 && decide (pf m 2 2 < 1024),
    check := fun s => if twinOn s || (role = 1 && !allExact s) then some stModeConflict else none
    run := twinAttachRun m chainOk theirs pair }

def execTwinAttach (m : Msg) (chainOk : Bool) (theirs : List (Nat × Bytes)) (pair : PairExchange) (s : State) : Out :=
  report s (teller s m (.twinAttach m chainOk theirs pair) (cmdTwinAttach m chainOk theirs pair))

/-- Is the panel at a step boundary: no step of a job in flight but one that has just begun? -/
def atBoundary (s : State) : Bool :=
  s.jobs.all fun j => match j.2.steps with
    | [] => true
    | [t] => t.layA = 0 && t.layB = 0 && !t.relA && !t.relB
    | _ => false

/-- Is the copy of the live records over: acknowledged, at a Primary; at a Shadow, every record complete and the Primary's BEAT heard (log 120)? -/
def copyDone (s : State) (role : TwinRole) : Bool :=
  if role = .primary then !(s.twin.unacked.any fun u => s.twin.copy.contains u.seq) else s.twin.beaten && s.twin.lines.isEmpty

/-- The copy is acknowledged: at the step boundary the role takes effect (R292). -/
def execTwinAttached (s : State) : Out :=
  report s (match s.twin.pending with
    | none => s
    | some role =>
      if !copyDone s role || !atBoundary s then s
      else
        let r := s.twin.reply
        let s := twinEvent { s with
          twin := { s.twin with role := role, pending := none, attached := true, reply := none, copy := [] } } 2
        match r with | some r => complete s r stOk [] | none => s)

def cmdTwinDetach (m : Msg) : Cmd :=
  { code := 0x0502, priv := 2, form := lenIs m 0,
    check := fun s => if s.twin.takeover || mayTakeOver s then some stModeConflict else none
    run := fun s r =>
      if !twinOn s then complete s r stOk []
      else
        let s := match twinDies s with | oe :: _ => emit s (.frame oe (twinFrame s 10 1)) | [] => s
        complete (detachHere s) r stOk [] }

def execTwinDetach (m : Msg) (s : State) : Out := report s (teller s m (.twinDetach m) (cmdTwinDetach m))

def cmdTwinTakeover (m : Msg) : Cmd :=
  { code := 0x0503, priv := 2, form := lenIs m 2 && decide (pf m 0 2 < 1024),
    check := fun s => if s.twin.role = .shadow && s.twin.attached && s.twin.partner = pf m 0 2 then none else some stModeConflict
    run := fun s r => complete { s with twin := { s.twin with takeover := true } } r stOk [] }

def execTwinTakeover (m : Msg) (s : State) : Out := report s (teller s m (.twinTakeover m) (cmdTwinTakeover m))

/-- A measurement as 32 bytes; none is zeros. -/
def meas32 (b : Bytes) : Bytes := sub_ b 0 32

/-- Partition loader digest: over the loader list of its map, or 32 zero bytes (R425). -/
def loaderDigest (s : State) (p : Nat) : Bytes :=
  match (getPart s p).map with
  | some m => sha3_256 m.loader
  | none => sha3_256 (List.replicate 32 0)

/-- Panel map measurement (R425). -/
def panelMeas (s : State) : Bytes :=
  sha3_256 ((s.parts.filter fun q => q.2.map.isSome).map fun q => leBytes 1 q.1 ++ meas32 q.2.mapMeas).flatten

/-- The maps are measured again, and the panel's measurement is compared with the partner's; if they differ an attached panel becomes Solo
(R425, R438). A channel in a slice is waited for (R192). -/
def remeasureRun (s : State) (part : Nat) (theirs : Bytes) : State :=
  match measureHeld s part with
  | some cl => holdAt s cl (.measure part theirs)
  | none =>
    let s := modPart (remeasure s) part fun q => { q with lastWrite := none }
    if s.twin.attached && decide (theirs ≠ panelMeas s) then twinEvent (becomeSolo s) 1 else s

/-- 100 ms after the last DATA_WRITE into a map handle, of this panel or while attached of the partner, which makes it known. `theirs`: the
partner's panel map measurement. -/
def execMeasurementRecompute (part : Nat) (theirs : Bytes) (s : State) : Out :=
  report s (match (getPart s part).lastWrite with
    | none => if s.twin.attached then remeasureRun s part theirs else s
    | some t => if now s < t.toNat + 100000000 then s else remeasureRun s part theirs)

/-! ### Jobs over panels (R239, R280 to R282, R286) -/

/-- The members of a descriptor (Table 12-4) at byte 8 of the payload. -/
def jobMembers (m : Msg) : List Nat := (List.range (field (pf m 8 12) 48 11)).map fun i => pf m (20 + 2 * i) 2

/-- Are numbers strictly rising? -/
def rising : List Nat → Bool
  | a :: b :: r => decide (a < b) && rising (b :: r)
  | _ => true

def jobForm (m : Msg) : Bool :=
  let v := pf m 8 12
  let f := field v
  let n := f 48 11
  decide (2 ≤ n) && decide (n ≤ 1024) && lenIs m (20 + 2 * n) && zeros m 2 6 && f 16 32 = 0 && f 60 4 = 0 && decide (1 ≤ f 64 10) &&
    decide (f 64 10 ≤ 1000) && f 74 6 = 0 && decide (f 80 8 ≤ 60) && f 88 8 = 0 && pf m 0 2 ≠ 0 && (jobMembers m).all (· < 1024) &&
    rising (jobMembers m)

/-- Do the maps of these partitions agree as R239 asks? -/
def mapsAgree (s : State) (ps : List Nat) : Bool :=
  let l := ps.filterMap fun p => (getPart s p).map.map fun m => (m.step.shared, m.clear)
  l.all fun x => l.head? = some x

def jobCheck (s : State) (m : Msg) (ps : List Nat) : Option Status :=
  if ps.any fun p => (fencedPart s p true).isSome then some stFenced
  else if ps.any (isBb s) || !mapsAgree s ps || (16 < (jobMembers m).length && !s.sys.assured) then some stModeConflict
  else none

/-- Within 20 ns of the root, as far as the panel can tell: it is the root, or its source says so (R281). -/
def aligned (s : State) : Bool := s.sys.panel = s.sys.troot || (s.master.hasSource && decide (s.master.offset.natAbs ≤ 20))

/-- Is a partition in a formed job? -/
def inFormedJob (s : State) (p : Nat) : Bool := (getJob s (jobOfPart s p)).formed

/-- Has a partition, or the partition whose number a job takes, work of another job in hand? -/
def jobHeldUp (s : State) (j : Nat) (ps : List Nat) : Bool :=
  ((j :: ps).filter fun p => hasPart s p && !inFormedJob s p).any fun p => partBusy s p || !(getJob s (jobOfPart s p)).steps.isEmpty

def cmdJobForm (m : Msg) : Cmd :=
  let ps := bitsOf 16 (pf m 0 2)
  let v := pf m 8 12
  let j := field v 0 16
  { code := 0x0504, priv := 2, form := jobForm m, check := fun s => jobCheck s m ps
    run := fun s r =>
      let x := getJob s j
      let mem := jobMembers m
      let mine := mem.contains s.sys.panel
      -- a Shadow is given the descriptor too, to stand in for its Primary (R286)
      let standby := s.twin.role = .shadow && s.twin.attached && v.testBit 59 && mem.contains s.twin.partner
      if !ps.all (hasPart s) || !(mine || standby) || ps.any (fun p => inFormedJob s p && jobOfPart s p ≠ j) then
        complete s r stBadArgument []
      else if !aligned s then complete s r stRefusedPolicy []
      else if jobHeldUp s j ps then complete s r stModeConflict []
      else
        let epoch := if !x.formed then 0 else if x.members ≠ mem then x.epoch + 1 else x.epoch
        -- a job shrunk without its lost panels waits for new maps still (R286)
        let still := x.formed && x.shrunk && !x.lost.all mem.contains
        let again := x.formed && x.lostAt.isSome && !still
        let s := setJob s j { (if x.formed then x else Job.reset) with
          formed := true, parts := ps, epoch := epoch, members := mem, lead := mem.headD 0, subst := v.testBit 59, xtmo := field v 64 10,
          rejoin := field v 80 8, lost := if still then x.lost else [], lostAt := if still then x.lostAt else none, shrunk := still,
          remapped := if still then x.remapped else [], ups := [], upAt := [], clears := [], subs := [] }
        let s := if !x.formed && mine then askBack s j s.sys.panel else s
        complete (if again then kickJob (recomputeJob s j) j else s) r stOk (leBytes 4 epoch.toNat) }

def execJobForm (m : Msg) (s : State) : Out := .next (teller s m (.jobForm m) (cmdJobForm m))

def cmdJobDissolve (m : Msg) : Cmd :=
  let j := pf m 0 2
  { code := 0x0505, priv := 2, form := lenIs m 2,
    run := fun s r =>
      if !(getJob s j).formed then complete s r stBadArgument []
      else if activeReqs s (fun x => x.sub.job = j) ≠ [] then complete s r stModeConflict []
      else complete { s with jobs := Tbl.drop (Tbl.drop s.jobs j) (65536 + j) } r stOk [] }

def execJobDissolve (m : Msg) (s : State) : Out := .next (teller s m (.jobDissolve m) (cmdJobDissolve m))

end Sys2Proof.Machine
end

