-- ==== Sys2Proof/Machine/Domains.lean ====
section
/-! DEFINITION. FENCE, UNFENCE, RESET and RETURN (Table 14-11; 18 R395 to R400, R412). -/

namespace Sys2Proof.Machine

/-! ### The domain a request names -/

/-- FENCE timeout, 1 to 10,000 ms, all ones for the default (R397). -/
def fenceMs (m : Msg) : Nat := if pf m 10 2 = 0xFFFF then 100 else pf m 10 2

def domainForm (m : Msg) (timed : Bool) : Bool :=
  decide (pf m 0 1 ≤ 3) && decide (pf m 1 1 < 16) && zeros m 2 2 && decide (pf m 4 4 < 65536) && decide (pf m 8 1 ≤ 3) &&
    (if timed then lenIs m 12 && zeros m 9 1 && decide (1 ≤ fenceMs m) && decide (fenceMs m ≤ 10000) else lenIs m 9)

/-- The core of a logical core number of the partition. -/
def domainCore (s : State) (m : Msg) : Option Nat := (getPart s (pf m 1 1)).numbering[pf m 4 4]?

/-- Check 7 of a fence: its domain, or one that holds it, is fenced. -/
def domainFenced (s : State) (m : Msg) : Bool :=
  let p := pf m 1 1
  match pf m 0 1 with
  | 0 => (getPart s p).fenced || (match domainCore s m with | some k => (getCore s k).hostFenced.getLsbD (pf m 8 1) | none => false)
  | 1 => (getPart s p).fenced || (match domainCore s m with | some k => ((getCore s k).eng (pf m 8 1)).hung | none => false)
  | 2 => (getPart s p).fenced
  | _ => s.panelFence.isSome || (s.parts ≠ [] && s.parts.all fun q => q.2.fenced)

/-! ### Contexts and engines -/

/-- The fence goes to the core's cluster; its acknowledgement completes the command, and its lack for 1 ms climbs the ladder. -/
def fenceCore (s : State) (k scope mask eng : Nat) (un : Bool) (r : Reply) : State :=
  let cl := clusterOf k
  let body := fenceBody scope mask eng (posOf k) un
  let s := sendFence s cl scope mask eng (posOf k) un
  let s := { s with fenceWaits := s.fenceWaits ++ [{ cl := cl, body := body, reply := r }] }
  match partOfCore s k with
  | some p => awaitAck s (jobOfPart s p) cl body
  | none => s

/-- Contexts that a fence of an engine reaches: its suspects, else those with operations on it (R390). -/
def engineSuspects (c : Core) (e : Nat) : BitVec 4 :=
  let sus := Tbl.get c.suspects e 0
  if sus = 0 then (c.eng e).contexts else sus

def hostFenceCtx (s : State) (k n : Nat) (r : Reply) : State :=
  fenceCore (modCore s k fun c => { c with hostFenced := c.hostFenced ||| BitVec.ofNat 4 (2 ^ n) }) k 0 (2 ^ n) 0 false r

def hostFenceEngine (s : State) (k e : Nat) (r : Reply) : State :=
  let s := modCore s k fun c =>
    let sus := engineSuspects c e
    let c := c.setEng e { c.eng e with hung := true }
    { c with suspects := Tbl.put c.suspects e sus, hostFenced := c.hostFenced ||| sus }
  fenceCore s k 1 0 e false r

/-! ### FENCE -/

/-- A partition fenced by the host: work that has not ended at the timeout is abandoned (Table 18-4). -/
def hostFencePart (s : State) (p ms : Nat) (r : Option Reply) : State :=
  modPart (fencePart s p) p fun q => { q with fenceAt := some (s.tally + BitVec.ofNat 64 (ms * 1000000), r) }

/-- Without a step in flight a fence ends at once. -/
def endIdleFence (s : State) (p : Nat) : State := if (getJob s (jobOfPart s p)).steps.isEmpty then fenceDone s p else s

def fenceRun (m : Msg) (s : State) (r : Reply) : State :=
  let p := pf m 1 1
  match pf m 0 1 with
  | 0 => match domainCore s m with | some k => hostFenceCtx s k (pf m 8 1) r | none => complete s r stBadArgument []
  | 1 => match domainCore s m with | some k => hostFenceEngine s k (pf m 8 1) r | none => complete s r stBadArgument []
  | 2 => if hasPart s p then endIdleFence (hostFencePart s p (fenceMs m) (some r)) p else complete s r stBadArgument []
  | _ =>
    if s.parts = [] then complete s r stOk []
    else
      let ps := (s.parts.filter fun q => !q.2.fenced).map (·.1)
      let s := ps.foldl (fun s p => hostFencePart s p (fenceMs m) none) { s with panelFence := some r }
      ps.foldl endIdleFence s

def cmdFence (m : Msg) : Cmd :=
  { code := 0x0901, priv := 2, form := domainForm m true, check := fun s => if domainFenced s m then some stFenced else none,
    run := fenceRun m }

def execFence (m : Msg) (s : State) : Out := .next (teller s m (.fence m) (cmdFence m))

/-! ### UNFENCE -/

/-- A partition returns to service: its numbering first, if it lost a core (R6, R399); the step that its fence's timeout has abandoned is over, and
its requests are recomputed (Table 18-4). -/
def unfenceService (s : State) (p : Nat) : State :=
  let j := jobOfPart s p
  let s := unfencePart (fenceEnded s p) p
  let new := (getPart s p).sites.map (dieCores s) |>.flatten
  let s := if new = (getPart s p).numbering then s else renumber s p
  let x := getJob s j
  if x.rung ≠ 0 || !x.steps.all (·.abandoned) then kickJob s j
  else
    let s := if x.steps = [] then s else (partsOfJob s j).foldl relaunchPart (unfenceJob (quitSteps s j) j)
    kickJob (recomputeJob s j) j

/-- May the partition return by hand? Not one that lacks a die, nor one whose reset has not ended (R406, R395). -/
def mayUnfence (q : Partition) : Bool := !q.lacking && q.resetting.isNone && q.resetNext.isNone

def unfenceRun (m : Msg) (s : State) (r : Reply) : State :=
  let p := pf m 1 1
  let u := pf m 8 1
  match pf m 0 1 with
  | 0 =>
    match domainCore s m with
    | some k => fenceCore (modCore s k fun c => { c with hostFenced := c.hostFenced &&& ~~~ BitVec.ofNat 4 (2 ^ u) }) k 0 (2 ^ u) 0 true r
    | none => complete s r stBadArgument []
  | 1 =>
    match domainCore s m with
    | some k => fenceCore (modCore s k fun c => { c with hostFenced := c.hostFenced &&& ~~~ Tbl.get c.suspects u 0 }) k 1 0 u true r
    | none => complete s r stBadArgument []
  | 2 =>
    if !hasPart s p then complete s r stBadArgument []
    else if !mayUnfence (getPart s p) then complete s r stFenced []
    else complete (unfenceService s p) r stOk []
  | _ => complete (((s.parts.filter fun q => q.2.fenced && mayUnfence q.2).map (·.1)).foldl unfenceService s) r stOk []

def cmdUnfence (m : Msg) : Cmd := { code := 0x0902, priv := 2, form := domainForm m false, run := unfenceRun m }

def execUnfence (m : Msg) (s : State) : Out := .next (teller s m (.unfence m) (cmdUnfence m))

/-! ### RESET -/

/-- Rung 2 by hand: the suspects are fenced, the engine is emptied and replays in serial mode (Table 18-3). -/
def resetEngineRun (s : State) (k e : Nat) (r : Reply) : State :=
  match partOfCore s k with
  | none => complete s r stBadArgument []
  | some p =>
    let j := jobOfPart s p
    let s := if (getJob s j).steps.isEmpty then s else reportStep s j 2 false
    let s := modCore s k fun c => { c with
      suspects := Tbl.put c.suspects e (engineSuspects c e), serial := c.serial ||| BitVec.ofNat 4 (2 ^ e) }
    modJob (fenceCore (resetEngine s k e) k 1 0 e false r) j fun x => { x with serialReplay := true }

/-- RESET of a partition fences it first, with the timeout of FENCE (R400 step 1). A fence that waits keeps its own completion. -/
def resetPartRun (s : State) (p ms : Nat) (r : Reply) : State :=
  let old := (getPart s p).fenceAt.bind (·.2)
  let s := modPart (hostFencePart s p ms old) p fun q => { q with resetNext := some r }
  endIdleFence s p

def resetPanelRun (s : State) (ms : Nat) (r : Reply) : State :=
  let ps := s.parts.map (·.1)
  let s := ps.foldl (fun s p => hostFencePart s p ms ((getPart s p).fenceAt.bind (·.2))) { s with panelReset := some r }
  if ps = [] then panelResetNow s else ps.foldl endIdleFence s

/-- Does a RESET of the domain wait for its fence already? -/
def resetWaits (s : State) (m : Msg) : Bool :=
  match pf m 0 1 with
  | 2 => (getPart s (pf m 1 1)).resetNext.isSome || s.panelReset.isSome
  | 3 => s.panelReset.isSome
  | _ => false

def resetRun (m : Msg) (s : State) (r : Reply) : State :=
  let p := pf m 1 1
  match pf m 0 1 with
  | 0 => match domainCore s m with | some k => hostFenceCtx s k (pf m 8 1) r | none => complete s r stBadArgument []
  | 1 => match domainCore s m with | some k => resetEngineRun s k (pf m 8 1) r | none => complete s r stBadArgument []
  | 2 => if hasPart s p then resetPartRun s p (fenceMs m) r else complete s r stBadArgument []
  | _ => resetPanelRun s (fenceMs m) r

/-- RESET. One of a domain whose reset waits for its fence meets that fence (Table 18-4). -/
def cmdReset (m : Msg) : Cmd :=
  { code := 0x0903, priv := 2, form := domainForm m true, check := fun s => if resetWaits s m then some stFenced else none, run := resetRun m }

def execReset (m : Msg) (s : State) : Out := report s (teller s m (.reset m) (cmdReset m))

/-! ### RETURN (R412) -/

/-- The safe latch and the window are cleared and the panel serves; the host loads its maps again. The completion waits for the record. -/
def returnRun (s : State) (r : Reply) : State :=
  if s.state ≠ .safe || !s.boot.powerCycled then complete s r stModeConflict []
  else
    let s := vaultPut { s with vault := { s.vault with latch := false, latchCause := 0 } } 0x12 0 (leBytes 1 0 ++ leBytes 1 0) false
    let s := raiseAlert { s with
      state := .serving, safeCause := 0, resets := { s.resets with times := [] }, boot := { s.boot with powerCycled := false } }
    afterWrites s (.answer r stOk)

def cmdReturn (m : Msg) : Cmd := { code := 0x0905, priv := 2, safe := true, form := lenIs m 0, run := returnRun }

def execReturn (m : Msg) (s : State) : Out := report s (teller s m (.return_ m) (cmdReturn m))

end Sys2Proof.Machine
end

