-- ==== Sys2Proof/Machine/Diag.lean ====
section
/-! DEFINITION. The diagnostic space and DIAG_READ (14 R330, Tables 5-9, 5-10, 7-3, 7-7, 8-6, 8-9, 8-10, 9-15, 11-8, 13-7, 14-14, 15-7, 15-8,
15-11, 16-2, 16-3, 17-6, 18-8 to 18-10, 19-7, 20-7). -/

namespace Sys2Proof.Machine

/-- Fields put together: (lowest bit, value). -/
def pack (l : List (Nat × Nat)) : Nat := l.foldl (fun v f => v + 2 ^ f.1 * f.2) 0

/-! ### The attestation report (R426, Table 19-7) -/

/-- Bytes 48 to 1,047 of a report: what every session's report says. -/
def reportCore (s : State) : Bytes :=
  meas32 s.vault.idDig ++ meas32 s.hub0.fwMeas ++ meas32 s.hub1.fwMeas ++
    meas32 (match s.vault.config with | some c => c.digest | none => []) ++ sha3_256 s.vault.ownerKey ++
    ((List.range 8).map fun i => leBytes 4 (Tbl.get s.vault.counters i 0)).flatten ++ panelMeas s ++
    ((List.range 16).map fun p => loaderDigest s p).flatten ++ ((List.range 8).map fun g => meas32 (getGuest s g).meas).flatten ++ statusHead s

/-- The report of a session, 4 KiB; its signature is a free value (log 7). -/
def reportBytes (s : State) (n : Nat) : Bytes :=
  match Tbl.find s.sessions n with
  | none => List.replicate 4096 0
  | some t =>
    let sig := ((List.range 38).map fun i => leBytes 64 (Config.freeLine (t.repFree + i)).toNat).flatten
    leBytes 4 1 ++ leBytes 4 t.repGen.toNat ++ leBytes 8 t.repTime.toNat ++ sub_ t.nonce 0 32 ++ reportCore s ++ sig.take 2420 ++
      List.replicate 628 0

/-! ### The hub block -/

def ethCnt (h : Hub) : Nat :=
  pack [(0, h.fcsErr.toNat), (16, h.unknown.toNat), (32, h.resends.toNat), (48, h.linkDown.toNat), (56, h.naks.toNat)]

def telCnt (h : Hub) : Nat :=
  pack [(0, h.macDrop.toNat), (16, h.replayDrop.toNat), (32, h.ringFull.toNat), (44, h.hsReject.toNat), (56, h.sessExpired.toNat)]

def clkPlan (c : ClockPlan) : Nat :=
  pack [(0, c.step.toNat), (5, c.next.toNat), (10, b2n c.pending), (16, c.req.toNat), (21, c.minAllow.toNat), (32, c.changes.toNat)]

def tallyStat (s : State) : Nat :=
  pack [(0, b2n (aligned s)), (1, b2n (s.sys.panel = s.sys.troot)), (2, b2n (s.dies.any fun d => d.2.island.hold)), (3, b2n s.master.locked),
    (16, satInt 16 s.master.ptpRate), (32, satInt 32 s.master.offset)]

/-- FLOWRPT reads all ones without a report in the last 2 s (R387). -/
def flowReport (s : State) : Nat :=
  match s.ledger.flowRptAt with
  | some t => if now s ≤ t.toNat + 2000000000 then s.ledger.flowRpt.toNat else 0xFFFF
  | none => 0xFFFF

def therm (l : PanelLedger) : Nat :=
  pack [(0, l.tin.toNat), (16, l.tout.toNat), (32, l.tclu.toNat), (40, l.tdram.toNat), (48, l.tstage.toNat), (56, l.limits.toNat)]

/-- WINDOW of HUB.RESETWIN; what its 16 bits read for a longer window is a free value (log 7). -/
def windowField (w : Nat) : Nat := if w < 65536 then w else (Config.wideWindow w).toNat

def resetWin (s : State) : Nat :=
  pack [(0, (inWindow s).length), (8, s.resets.limit.toNat), (16, windowField s.resets.window), (32, s.resets.lastRung.toNat), (35, b2n s.vault.latch),
    (36, s.safeCause.toNat), (40, s.resets.total.toNat)]

def bootStat (s : State) : Nat :=
  pack [(0, s.boot.phase), (4, b2n s.half0.inService), (5, b2n s.half1.inService), (6, b2n s.hub0.selfTest), (7, b2n s.hub1.selfTest),
    (8, s.boot.diesLeft.toNat), (16, s.boot.spares.toNat), (24, s.boot.badCores.toNat), (40, s.boot.tMs.toNat)]

/-- HUB.LEDGER of a partition (Table 17-6). -/
def hubLedger (s : State) (p : Nat) : Nat × Nat :=
  let l := (getPart s p).ledger
  let (c, t) := eptOf l
  if !hasPart s p then (0, pack [(50, 16), (55, 24)])
  else (pack [(0, allowOf s p % 2 ^ 32), (32, l.resv % 2 ^ 32)],
    pack [(0, l.last % 2 ^ 32), (32, if t = 0 then 0 else Nat.min 65535 (c / t)), (48, l.pmode.toNat), (50, l.lcap), (55, l.reqstep)])

/-- HUB.PSREC of a stage (Table 15-8). -/
def psRec (s : State) (n : Nat) : Nat × Nat :=
  let x := getStage s n
  let age := match x.readAt with | some t => Nat.min (2 ^ 24 - 1) ((now s - t.toNat) / 1000000) | none => 0
  (pack [(0, x.vin.toNat), (16, x.iout.toNat), (32, x.vout.toNat), (48, x.temp.toNat), (56, (stageNow s n).toNat)],
    pack [(0, x.status.toNat), (16, x.iaux.toNat), (32, x.trips.toNat), (40, age)])

/-- The redundancy map's KIND 1 records, the positions of the spares, in order (R21, Table 19-4). -/
def spareRecs (s : State) : List Bytes := ((standing s.vault.recs).filter fun r => r.type = 0x20 && at_ r.body 0 1 % 16 = 1).map (·.body)

/-- A 64-bit register of the hub block below the reports. The spec gives the spares' positions no offset: they stand at 0x0400, 16 B each
(log 110). -/
def hubWord (s : State) (h o : Nat) : Nat :=
  let x := getHub s h
  if o = 0x40 then ethCnt x
  else if o = 0x48 then telCnt x
  else if o = 0x50 then pack [(0, s.half0.v.toNat), (16, s.half0.i.toNat), (32, s.half1.v.toNat), (48, s.half1.i.toNat)]
  else if o = 0x58 then clkPlan s.clock
  else if o = 0x60 then s.clock.tChange.toNat
  else if o = 0x68 then tallyStat s
  else if o = 0x70 then s.master.ptpOff.toNat
  else if o = 0x78 then s.ledger.ein.toNat
  else if o = 0x80 then pack [(0, s.ledger.pin.toNat), (32, s.ledger.ovh.toNat)]
  else if o = 0x88 then pack [(0, s.ledger.guest.toNat), (32, s.ledger.unch.toNat)]
  else if o = 0x90 then therm s.ledger
  else if o = 0x98 then pack [(0, s.ledger.flow.toNat), (16, flowReport s), (32, s.ledger.warmDies.toNat), (40, b2n s.ledger.prewarm)]
  else if o = 0xA0 then resetWin s
  else if o = 0xA8 then bootStat s
  else if 0x100 ≤ o && o < 0x200 then
    let r := hubLedger s ((o - 0x100) / 16)
    if o % 16 = 0 then r.1 else r.2
  else if 0x400 ≤ o && o < 0x800 then at_ ((spareRecs s).getD ((o - 0x400) / 16) []) (o % 16) 8
  else if 0x1000 ≤ o && o < 0x1500 then
    let r := psRec s ((o - 0x1000) / 16)
    if o % 16 = 0 then r.1 else r.2
  else 0

/-! ### Cluster, core and root record -/

/-- A 64-bit register of the cluster block. -/
def clusterWord (s : State) (cl o : Nat) : Nat :=
  let u := getClu s cl
  let (cap, src) := capInForce s u
  if o = 0x100 then pack [(0, u.spTiles.toNat), (32, u.dnTiles.toNat)]
  else if o = 0x108 then pack [(0, u.tolerated.toNat), (32, u.declFaults.toNat), (48, u.indexFaults.toNat)]
  else if o = 0x110 then pack [(0, u.ceCount.toNat), (32, u.ueConsumed.toNat), (48, u.ueWriteback.toNat)]
  else if o = 0x118 then pack [(0, u.innerCe.toNat), (24, u.outerCe.toNat), (44, u.ueRead.toNat), (54, u.ueScrub.toNat)]
  else if o = 0x120 then
    let rows := sumNat ((List.range 16).map fun b => ((List.range 16).filter fun r => spareWhole u b r || spareLine u b r).length)
    pack [(0, u.bad.length), (9, rows), (18, b2n u.exhausted), (19, b2n (0 < u.slicesLeft)), (32, u.recalCount.toNat), (48, u.dieTemp.toNat)]
  else if o = 0x128 then
    pack [(0, u.crcData.toNat), (16, u.crcCtrl.toNat), (28, u.dropHops.toNat), (40, u.dropUnreach.toNat), (48, u.dropMisc.toNat),
      (56, u.disarmed.toNat)]
  else if o = 0x130 then pack [(0, u.deflect.toNat), (32, u.ejected.toNat)]
  else if o = 0x138 then
    pack [(0, u.pwrState.toNat), (2, u.phOk.toNat), (6, b2n u.cap75), (8, u.vset.toNat), (16, u.vmin.toNat), (24, u.vminIdx.toNat),
      (32, u.wakeWaits.toNat), (48, u.wakeStretch.toNat)]
  else if o = 0x140 then
    pack [(0, u.maxStep.toNat), (5, s.clock.step.toNat), (10, cap), (15, src), (19, b2n u.crossFault), (24, u.stretch.toNat), (36, u.overruns.toNat),
      (48, u.temp.toNat), (56, u.ageOff.toNat)]
  else if o = 0x148 then
    pack [(0, u.ctxWdog.toNat), (16, u.engWdog.toNat), (32, u.ansAborted.toNat), (44, u.ansDone.toNat), (56, u.relaunch.toNat)]
  else if 0x800 ≤ o && o < 0x1000 then (match Tbl.find u.bad ((o - 0x800) / 8) with | some b => b.word | none => 0)
  else 0

/-- A 64-bit word of the core block; none where the scratchpad word reads uncorrectable. A correctable word is delivered corrected, and is
neither rewritten nor counted, as a diagnostic read changes nothing (DESIGN CHOICE, log 135). -/
def coreWord (s : State) (k o : Nat) : Option Nat :=
  let c := getCore s k
  let h := c.hang
  if o = 0x100 then some (pack [(0, h.eng.toNat), (2, h.ctx.toNat), (4, c.serial.toNat), (8, b2n h.guilty), (16, h.task.toNat)])
  else if o = 0x108 then some h.opword.toNat
  else if 0x200 ≤ o && o < 0x280 then
    let e := Tbl.get c.till ((o - 0x200) / 16) TillEntry.reset
    some (if o % 16 = 0 then pack [(0, b2n e.valid), (1, b2n e.filled), (8, e.line.toNat), (18, e.age.toNat)] else e.dirty.toNat)
  else if 0x300 ≤ o && o < 0x500 then
    some (field (Tbl.get c.till ((o - 0x300) / 64) TillEntry.reset).data.toNat (8 * (o % 64)) 64)
  else if 0x1000 ≤ o && o < 0xD000 then
    let r := spmRead s k (o - 0x1000) 8
    if r.bad.isSome then none else some r.data
  else some 0

/-- The clearing nodes that never rose, by channel: a bit map of `64 * die + cluster` in 128 bytes (R247). -/
def rootWord (s : State) (p o : Nat) : Nat :=
  let q := getPart s p
  let base := o % 128 * 8
  sumNat ((Tbl.get q.silent (o / 128) []).map fun cl =>
    let b := 64 * (q.sites.idxOf (cl / 64)) + cl % 64
    if base ≤ b && b < base + 64 then 2 ^ (b - base) else 0)

/-! ### DIAG_READ -/

/-- Size of the block that a UNIT names, and whether SITE names one. -/
def diagBlock (unit site : Nat) : Option Nat :=
  match unit with
  | 0 => if site < 2 then some 0x12000 else none
  | 1 => if site < 160 then some 0x1000 else none
  | 2 => if site < 160 then some 0xD000 else none
  | 3 => if site < 48 then some 8 else none
  | 4 => if site < 8 then some 8 else none
  | 5 => if site < 160 then some (2 ^ 26) else none
  | 6 => if site < 16 then some 2048 else none
  | _ => none

/-- GATE.GSTAT (Table 11-8). -/
def gStat (g : Guest) : Nat :=
  pack [(0, g.mode.toNat), (2, b2n g.fenced), (3, b2n (g.link && g.capSent && g.capGot)), (4, g.modules.toNat), (7, b2n g.rate16), (8, g.gclass.toNat), (24, g.viol.toNat),
    (32, g.denials.toNat)]

/-- Words up to the first uncorrectable one. -/
def wordsUntil : List (Option Nat) → Bytes × Bool
  | [] => ([], true)
  | none :: _ => ([], false)
  | some w :: r => let (b, ok) := wordsUntil r; (leBytes 8 w ++ b, ok)

/-- One 64-bit word of a block at a multiple of 8; `reports` holds the reports that the read reaches. -/
def diagWord (s : State) (reports : Tbl Bytes) (unit site cl core o : Nat) : Option Nat :=
  match unit with
  | 0 => some (if 0x2000 ≤ o then at_ (Tbl.get reports ((o - 0x2000) / 4096) []) (o % 4096) 8 else hubWord s site o)
  | 1 => some (clusterWord s (64 * site + cl) o)
  | 2 => coreWord s (4096 * site + 64 * cl + core) o
  | 3 => some (Tbl.get s.optDies site OptDie.reset).discards
  | 4 => some (gStat (getGuest s site))
  | _ => some (rootWord s site o)

/-- Bytes of a block other than a DRAM line; a word that reads uncorrectable ends them. -/
def diagBytes (s : State) (unit site cl core off len : Nat) : Bytes × Bool :=
  let first := off / 8
  let n := ceilDiv (off + len) 8 - first
  let reports := if unit = 0 then
      ((List.range 16).filter fun i => decide (off < 0x3000 + 4096 * i) && decide (0x2000 + 4096 * i < off + len)).map fun i => (i, reportBytes s i)
    else []
  let (b, ok) := wordsUntil ((List.range n).map fun i => diagWord s reports unit site cl core (8 * (first + i)))
  ((b.drop (off % 8)).take len, ok)

/-- The read: a DRAM line is a demand read of its channel (R199); any other block is read as it stands, and a lost hub's not at all. -/
def diagRun (m : Msg) (r : ArrayRead) (s : State) (q : Reply) : State :=
  let unit := pf m 0 1
  let site := pf m 1 1
  let off := pf m 4 4
  if unit = 5 then
    let cl := 64 * site + pf m 2 1
    if !channelServes s cl then complete s q stFenced []
    else if (getClu s cl).inSlice then holdAt s cl (.diagRead m r q)
    else match demandRead s cl (off / 64) r with
      | (s, some v) => complete s q stOk (leBytes 64 v.toNat)
      | (s, none) => complete s q stEcc []
  else if unit = 0 && !hubUp s site then complete s q stFenced []
  else
    let (b, ok) := diagBytes s unit site (pf m 2 1) (pf m 3 1) off (pf m 8 2)
    complete s q (if ok then stOk else stEcc) b

def diagForm (m : Msg) : Bool :=
  let len := pf m 8 2
  lenIs m 16 && zeros m 10 6 && len % 8 = 0 && decide (8 ≤ len) && decide (len ≤ 4096) && (!([1, 2, 5].contains (pf m 0 1)) || decide (pf m 2 1 < 64)) &&
    (pf m 0 1 ≠ 2 || decide (pf m 3 1 < 64)) &&
    (match diagBlock (pf m 0 1) (pf m 1 1) with | some n => decide (pf m 4 4 + len ≤ n) | none => false) &&
    (pf m 0 1 ≠ 5 || (len = 64 && pf m 4 4 % 64 = 0))

def cmdDiagRead (m : Msg) (r : ArrayRead) : Cmd := { code := 0x0601, priv := 0, ro := true, safe := true, form := diagForm m, run := diagRun m r }

def execDiagRead (m : Msg) (r : ArrayRead) (s : State) : Out := report s (teller s m (.diagRead m r) (cmdDiagRead m r))

end Sys2Proof.Machine
end

