-- ==== Sys2Proof/Machine/Ports.lean ====
section
/-! DEFINITION. Hubs and ports: loss and return of a hub, port failover (01 R25 to R32, 13 R304), RoCEv2 (13 R296, R297, R303), PTP
(13 R295, 16 R366) and the other frames a port answers (13 R294). -/

namespace Sys2Proof.Machine

/-! ### Streams that change port or delivery (R303, R304) -/

/-- The sessions whose streams go out on a port move to the other one, if that is alive. -/
def movePort (s : State) (from_ : Nat) : State :=
  let dest := 1 - from_
  if !portAlive s dest then s
  else (s.sessions.filter fun t => t.2.est && t.2.port = from_).foldl (fun s t =>
    resendAll (modSess s t.1 fun t => { t with port := dest }) t.1) s

/-- A queue pair enters its error state: its lines are counted, and a stream delivered through it falls back to UDP. -/
def qpFail (s : State) (n : Nat) : State :=
  match (Tbl.find s.sessions n).bind fun t => t.qp.map fun q => (t, q) with
  | none => s
  | some (t, q) =>
    if q.error then s
    else
      let s := modSess s n fun t => { t with qp := some { q with error := true, out := [], behind := none } }
      let s := failLines s q.out stTimeout
      if t.byRdma then resendAll s n else s

/-! ### Hubs (R25 to R32, R272) -/

/-- The port of the best time transmitter: the lowest rank, ties to port 0. -/
def ptpBest (m : TallyMaster) : Option Nat :=
  m.ptpRanks.foldl (fun (b : Option Nat) r => match b with
    | none => some r.1
    | some j => if r.2 < Tbl.get m.ptpRanks j 0 then some r.1 else some j) none

/-- A port carries nothing more: its time transmitter is gone, and the measurements of the best one start again (R295). -/
def ptpPortLost (s : State) (port : Nat) : State :=
  let best := ptpBest s.master = some port
  let m := { s.master with ptpRanks := Tbl.drop s.master.ptpRanks port }
  { s with master := if best then { m with locked := false, ptpLast := none, ptpDelay := 0 } else m }

/-- Requests that change state and wait in a mailbox, and that the survivor's journal does not hold, are answered FENCED (R29). -/
def fenceUnjournaled (s : State) (survivor : Nat) : State :=
  let lost := s.sessions.flatMap fun t => t.2.boxes.flatMap fun b => (b.2.held.map (·.2)).filter fun h =>
    !h.ro && !(getHub s survivor).journal.contains h.reply.entry
  lost.foldl (fun s h => complete s h.reply stFenced []) s

/-- Guest sites of a hub. -/
def sitesOfHub (h : Nat) : List Nat := (List.range 4).map (4 * h + ·)

/-- The modes that the loss of a hub displaces, and their return with the hub: the sites stay fenced until GUEST_RETURN (R272, R439). -/
def keepModes (s : State) (sites : List Nat) : State := sites.foldl (fun s g => modGuest s g fun x => { x with kept := some x.mode }) s

def restoreModes (s : State) (sites : List Nat) : State :=
  sites.foldl (fun s g => modGuest s g fun x => { x with mode := x.kept.getD x.mode, kept := none }) s

/-- A hub leaves service: the survivor leads and goes by its own journal, streams move, its guest sites are fenced Closed (R29). Without a
survivor only a power cycle helps (R32). -/
def hubDown (s : State) (h : Nat) : State :=
  if !hubUp s h then s
  else
    let s := ptpPortLost (modHub s h fun x => { x with up := false, portUp := false }) h
    let leads := s.lead = h && hubUp s (1 - h)
    let s := if leads then { s with lead := 1 - h } else s
    let s := if hubUp s (1 - h) then fenceUnjournaled s (1 - h) else { s with boot := { s.boot with hubsLost := true } }
    -- both hubs out: rung 5 (R32, R395)
    let s := if hubUp s (1 - h) then s else enterSafe (noteRung s 5) 2
    let s := closeSites (keepModes s (sitesOfHub h)) (sitesOfHub h)
    let s := hubEvent (movePort s h) h 0
    if leads then hubEvent s (1 - h) 2 else s

/-- A hub rejoins its partner, whose journal it takes (R26). With both hubs out none does (R32). -/
def hubBack (s : State) (h : Nat) : State :=
  if s.boot.hubsLost then s
  else hubEvent (restoreModes (modHub s h fun x => { x with up := true, journal := (getHub s (1 - h)).journal }) (sitesOfHub h)) h 1

def execHubLoss (hub : Nat) (s : State) : Out := report s (if hub < 2 then hubDown s hub else s)

/-- A lost hub rejoins its partner; with both hubs out only a power cycle helps (R32). -/
def execHubReturn (hub : Nat) (s : State) : Out :=
  report s (
    let x := getHub s hub
    let updating := s.fwUpdate.any fun f => f.hub = hub
    if 2 ≤ hub || x.up || !x.selfTest || !hubUp s (1 - hub) || updating then s else hubBack s hub)

/-! ### Port links (R304) -/

def execPortLinkDown (port : Nat) (s : State) : Out :=
  .next (
    if !portAlive s port then s
    else
      let s := modHub s port fun h => { h with portUp := false, linkDown := satAdd h.linkDown 1 }
      movePort (ptpPortLost s port) port)

/-- The link is up again: a stream stays on its port, but for one whose own port carries nothing; what has waited for the port goes out. -/
def execPortLinkUp (port : Nat) (s : State) : Out :=
  .next (
    if 2 ≤ port || !hubUp s port || (getHub s port).portUp then s
    else
      let s := modHub s port fun h => { h with portUp := true }
      let s := if portAlive s (1 - port) then s else movePort s (1 - port)
      (s.sessions.filter fun t => t.2.est && t.2.port = port).foldl (fun s t => sendWaiting s t.1) s)

/-! ### RoCEv2: the panel as responder (R178, R179, R296, R297) -/

def noteUnknown (s : State) (port : Nat) : State := modHub s port fun h => { h with unknown := satAdd h.unknown 1 }

def modQp (s : State) (n : Nat) (f : QueuePair → QueuePair) : State := modSess s n fun t => { t with qp := t.qp.map f }

/-- A packet marked Congestion Experienced is answered with a CNP, at most one per 50 µs and queue pair. -/
def noteCe (s : State) (n : Nat) (ce : Bool) : State :=
  match (Tbl.find s.sessions n).bind (·.qp) with
  | none => s
  | some q =>
    let due := match q.cnpAt with | some t => decide (t.toNat + 50000 ≤ now s) | none => true
    if ce && due && !panelFenced s then emit (modQp s n fun q => { q with cnpAt := some s.tally }) (.cnp n (roceHead s n)) else s

/-- Packets of a message at the path MTU of 4,096 B. -/
def roceUnits (len : Nat) : Nat := Nat.max 1 (ceilDiv len 4096)

/-- A packet goes out on a port that carries traffic; on another it is lost, and the host asks again (R32, R306). -/
def portEmit (s : State) (port : Nat) (e : Emit) : State := if portAlive s port then emit s e else s

/-- A refusal or an uncorrectable line: NAK, window event, queue pair in error (Table 13-4). -/
def rdmaRefuse (s : State) (q : RdmaReq) (st : Status) : State :=
  let s := portEmit s q.port (.nak q.sess q.psn (if st = stBadArgument then 2 else 1) (roceHead s q.sess))
  let s := modHub s q.port fun h => { h with naks := satAdd h.naks 1 }
  let s := eventTo s q.sess 4 (leBytes 1 (field q.rkey.toNat 24 8) ++ leBytes 1 (field q.rkey.toNat 16 8) ++ leBytes 2 st.toNat ++
    leBytes 4 q.psn.toNat)
  qpFail s q.sess

/-- Window of a request: partition, window number, generation and byte offset, with whether the address and the R_Key agree. -/
def rdmaTarget (q : RdmaReq) : Nat × Nat × BitVec 16 × Nat × Bool :=
  let k := q.rkey.toNat
  let a := q.va.toNat
  (field k 24 8, field k 16 8, BitVec.ofNat 16 k, field a 0 40, field a 48 16 = 0 && field a 40 8 = field k 16 8 && field k 28 4 = 0)

/-- The first failing check of the whole request. An address or an R_Key that R179 does not allow is refused like one that Table 7-8 turns away,
after its checks (DESIGN CHOICE, log 136). -/
def rdmaCheck (s : State) (q : RdmaReq) (write : Bool) : Option Status :=
  let (p, w, gen, off, form) := rdmaTarget q
  match inboundRefusal s p w (some gen) (.session q.sess) write off q.len with
  | some st => some (if st = stFenced then st else stBadArgument)
  | none => if form then none else some stBadArgument

/-- What a request meets before its checks: a queue pair in service on this port, the next sequence number. -/
inductive RdmaGate where
  | run | repeat_ | outOfSequence | dropped | refused
  deriving DecidableEq, Repr

def rdmaGate (s : State) (q : RdmaReq) : RdmaGate :=
  match (Tbl.find s.sessions q.sess).bind (·.qp) with
  | none => .dropped
  | some x =>
    if x.port ≠ q.port || x.error then .dropped
    else if q.psn = x.expPsn then .run
    else if (x.expPsn - q.psn).toNat < 2 ^ 23 then .repeat_
    else .outOfSequence

/-- A request outside Table 13-3 gets the Invalid Request NAK: nothing else happens on the queue pair (R296, log 114). -/
def rdmaInvalid (s : State) (q : RdmaReq) : State := emit s (.nak q.sess q.psn 3 (roceHead s q.sess))

/-- A request in its place or not: one dropped counts in UNKNOWN unless its queue pair is in error. In the safe state every request on a
queue pair in service is refused (R306). -/
def rdmaIn (s : State) (q : RdmaReq) (again f : State → State) : State :=
  if !portAlive s q.port then s
  else
    let inError := match (Tbl.find s.sessions q.sess).bind (·.qp) with | some x => x.port = q.port && x.error | none => false
    match (if panelFenced s && rdmaGate s q ≠ .dropped then .refused else rdmaGate s q) with
    | .dropped => if inError then s else noteUnknown s q.port
    | .refused => rdmaRefuse s q stFenced
    | .repeat_ => again (noteCe s q.sess q.ce)
    | .run => f (noteCe s q.sess q.ce)
    | .outOfSequence =>
      let s := noteCe s q.sess q.ce
      let psn := match (Tbl.find s.sessions q.sess).bind (·.qp) with | some x => x.expPsn | none => 0
      modHub (emit s (.nak q.sess psn 0 (roceHead s q.sess))) q.port fun h => { h with naks := satAdd h.naks 1 }

/-- Lines written one after another, each checked as it arrives (R180). -/
def rdmaPut (s : State) (q : RdmaReq) : Nat → List Line → State × Status
  | _, [] => (s, stOk)
  | i, v :: r =>
    let (p, w, gen, off, _) := rdmaTarget q
    match inboundRefusal s p w (some gen) (.session q.sess) true (off + 64 * i) 64 with
    | some st => (s, st)
    | none =>
      let (cl, line) := windowLine s p w (off / 64 + i)
      if !channelServes s cl || (getClu s cl).fenced then (s, stFenced) else rdmaPut (commitLine s cl line v) q (i + 1) r

/-- Lines read one after another: the lines so far and how the read ends. -/
def rdmaGet (s : State) (q : RdmaReq) (rs : List ArrayRead) : Nat → State × Status × List Line
  | 0 => (s, stOk, [])
  | n + 1 =>
    let (s, st, l) := rdmaGet s q rs n
    if st ≠ stOk then (s, st, l)
    else
      let (p, w, gen, off, _) := rdmaTarget q
      match inboundRefusal s p w (some gen) (.session q.sess) false (off + 64 * n) 64 with
      | some st => (s, st, l)
      | none =>
        let (cl, line) := windowLine s p w (off / 64 + n)
        if !channelServes s cl || (getClu s cl).fenced then (s, stFenced, l)
        else match demandRead s cl line (rs.getD n cleanRead) with
          | (t, some v) => (t, stOk, l ++ [v])
          | (t, none) => (t, stEcc, l)

/-- The sequence number after a request. -/
def nextPsn (q : RdmaReq) : BitVec 24 := q.psn + BitVec.ofNat 24 (roceUnits q.len)

/-- An accepted request is served: checked whole, then line by line (R178, R180); with its channel in a slice it waits, and the answer is
true (R192). -/
def rdmaServe (s : State) (w : RdmaWork) : State × Bool :=
  let q := w.req
  let (p, win, _, off, _) := rdmaTarget q
  match (Tbl.find s.sessions q.sess).bind (·.qp) with
  | none => (s, false)
  | some x =>
    if x.error then (s, false)
    else match rdmaCheck s q w.read.isNone with
      | some st => (rdmaRefuse s q st, false)
      | none =>
        let cl := (windowLine s p win (off / 64)).1
        if 0 < q.len && inSlice s cl then (holdAt s cl (.rdma w), true)
        else match w.read with
          | none => (match rdmaPut s q 0 (q.lines.take (q.len / 64)) with
            | (s, st) => if st ≠ stOk then (rdmaRefuse s q st, false) else (portEmit s q.port (.rdmaAck q.sess (nextPsn q - 1) (roceHead s q.sess)), false))
          | some rs => (match rdmaGet s q rs (q.len / 64) with
            | (s, st, l) => if st ≠ stOk then (rdmaRefuse s q st, false) else (portEmit s q.port (.rdmaData q.sess q.psn l (roceHead s q.sess)), false))

/-- Accepted requests of a queue pair are served in their order, as far as none waits. -/
def rdmaGo (s : State) (n : Nat) : List RdmaWork → State
  | [] => modQp s n fun x => { x with behind := none }
  | w :: l => match rdmaServe s w with
    | (s, true) => modQp s n fun x => { x with behind := some l }
    | (s, false) => rdmaGo s n l

/-- A request is accepted: behind one that waits, or at once. -/
def rdmaAccept (s : State) (w : RdmaWork) : State :=
  match ((Tbl.find s.sessions w.req.sess).bind (·.qp)).bind (·.behind) with
  | some l => modQp s w.req.sess fun x => { x with behind := some (l ++ [w]) }
  | none => rdmaGo s w.req.sess [w]

/-- Does a request of the session wait through a slice? -/
def rdmaWaits (s : State) (n : Nat) : Bool := ((Tbl.find s.sessions n).bind (·.qp)).any (·.behind.isSome)

/-- READs that the session's queue pair has outstanding. -/
def rdmaReads (s : State) (n : Nat) : Nat :=
  let isRead (w : RdmaWork) : Bool := w.read.isSome && w.req.sess = n
  let waiting := s.clusters.flatMap fun u => u.2.waits.filter fun w => match w.work with | .rdma x => isRead x | _ => false
  waiting.length + ((((Tbl.find s.sessions n).bind (·.qp)).bind (·.behind)).getD []).countP isRead

/-- Does a request stay within Table 13-3: its path MTU, no immediate value, at most 16 READs outstanding? -/
def rdmaKnown (s : State) (q : RdmaReq) (read : Bool) : Bool :=
  q.mtu = 4096 && !q.imm && (!read || decide (rdmaReads s q.sess < 16))

/-- A request in sequence is accepted, and the sequence number moves past it. -/
def rdmaTake (s : State) (q : RdmaReq) (read : Option (List ArrayRead)) : State :=
  if rdmaKnown s q read.isSome then rdmaAccept (modQp s q.sess fun x => { x with expPsn := nextPsn q }) { req := q, read := read }
  else rdmaInvalid s q

/-- A WRITE again is acknowledged again, once those accepted have been served. -/
def execRdmaWrite (q : RdmaReq) (s : State) : Out :=
  .next (rdmaIn s q (fun s => if rdmaWaits s q.sess then s else emit s (.rdmaAck q.sess (nextPsn q - 1) (roceHead s q.sess)))
    fun s => rdmaTake s q none)

/-- A READ again is read again. -/
def execRdmaRead (q : RdmaReq) (r : List ArrayRead) (s : State) : Out :=
  report s (rdmaIn s q (fun s => if rdmaKnown s q true then rdmaAccept s { req := q, read := some r } else rdmaInvalid s q)
    fun s => rdmaTake s q (some r))

/-! ### RoCEv2: the panel as requester (R296, R303) -/

/-- Send rate of a queue pair: from the rate after the last cut back to the full 1,024 over 1 ms. -/
def QueuePair.rateNow (q : QueuePair) (t : Nat) : Nat := Nat.min 1024 (q.rate + (1024 - q.rate) * (t - q.cutAt.toNat) / 1000000)

def execCnp (sess : Nat) (s : State) : Out :=
  .next (modQp s sess fun q => { q with rate := q.rateNow (now s) / 2, cutAt := s.tally })

/-- The panel's writes whose last packet is at or below a sequence number are complete: their lines count OK. -/
def roceAcked (s : State) (n : Nat) (psn : BitVec 24) : State :=
  match (Tbl.find s.sessions n).bind (·.qp) with
  | none => s
  | some q =>
    let done (w : QpWrite) : Bool := (psn - (w.psn + BitVec.ofNat 24 w.packets - 1)).toNat < 2 ^ 23
    let s := modQp s n fun q => { q with out := q.out.filter fun w => !done w, ackPsn := psn + 1 }
    failLines s (q.out.filter done) stOk

/-- Writes not acknowledged go out again, but not in the safe state (R306). -/
def roceAgain (s : State) (n : Nat) : State :=
  match (Tbl.find s.sessions n).bind (·.qp) with
  | none => s
  | some q => if panelFenced s then s else emits s (q.out.map fun w => .rdma n w (roceHead s n))

def execRoceResponse (sess : Nat) (a : RoceAnswer) (ce : Bool) (s : State) : Out :=
  .next (match (Tbl.find s.sessions sess).bind (·.qp) with
    | none => s
    | some q =>
      if q.error || !portAlive s q.port then s
      else
        let s := noteCe s sess ce
        match a with
        | .ack psn => roceAcked s sess psn
        | .seqNak psn => roceAgain (roceAcked s sess (psn - 1)) sess
        | .errorNak psn => qpFail (roceAcked s sess (psn - 1)) sess)

def execRoceAckTimeout (sess : Nat) (s : State) : Out :=
  .next (match (Tbl.find s.sessions sess).bind (·.qp) with
    | none => s
    | some q => if q.error || !portAlive s q.port then s else roceAgain s sess)

/-! ### PTP (R295, R366) -/

/-- A message of the panel's domain on the port of the best transmitter. -/
def ptpTaken (s : State) (port domain : Nat) : Bool := portAlive s port && domain = s.sys.ptpDomain && ptpBest s.master = some port

/-- Is none of the panel's six neighbours on the torus configured (R366, log 118)? -/
def noNeighbour (s : State) : Bool := (List.range 6).all fun d => !panelConfigured s (neighbour s.sys.panel d)

/-- PTP time is the source of the root, and of a panel with no torus neighbour configured, once the port is locked. -/
def followPtp (s : State) : State :=
  if s.master.locked && (s.sys.panel = s.sys.troot || noNeighbour s) then steerTo s (-(s.master.ptpOff.toInt)) 0 else s

/-- PTP time less Tally in eighths of a nanosecond, from a Sync's origin in nanoseconds, its arrival in units of 0.625 ns and the delay
(R295). -/
def ptpEighths (origin arrival : Word) (delay : Int) : Int := 8 * origin.toNat + delay - 5 * arrival.toNat

/-- PTP time less Tally is taken over, in whole nanoseconds (log 31). -/
def putPtpOff (m : TallyMaster) (eighths : Int) : TallyMaster := { m with ptpOff := BitVec.ofInt 64 (eighths / 8) }

/-- A Delay_Req of the panel's domain (R295) goes as the Sync came: over IP with DSCP 46, over IPv4 with Don't Fragment (R294). -/
def delayReq (s : State) (port : Nat) (net : PtpNet) : State :=
  emit s (.eth port 4 (leBytes 1 s.sys.ptpDomain) (netHead s none (if net = .ieee8023 then none else some 46) (net = .ipv4)))

/-- A Sync, one-step or with its Follow_Up: PTP time less Tally, and the rate against the Sync before. The panel answers it with a Delay_Req
(log 113). -/
def execPtpSync (port : Nat) (head : PtpHead) (origin arrival : BitVec 64) (s : State) : Out :=
  report s (
    if !ptpTaken s port head.domain then s
    else
      let rate : Int := match s.master.ptpLast with
        | some (o, a) =>
          let dt : Int := 5 * ((arrival.toNat : Int) - a.toNat)
          if dt = 0 then s.master.ptpRate else Int.tdiv ((8 * (origin - o).toInt - dt) * 1000000000) dt
        | none => s.master.ptpRate
      let m := putPtpOff s.master (ptpEighths origin arrival s.master.ptpDelay)
      delayReq (followPtp { s with master := { m with ptpRate := rate, ptpLast := some (origin, arrival) } }) port head.net)

/-- The end-to-end delay: half of both ways; the port is then locked (log 31). -/
def execPtpDelayResp (port domain : Nat) (sent received : BitVec 64) (s : State) : Out :=
  report s (
    if !ptpTaken s port domain then s
    else match s.master.ptpLast with
      | none => s
      | some (o, a) =>
        let d : Int := Int.tdiv (5 * a.toNat - 8 * o.toNat + (8 * received.toNat - 5 * sent.toNat)) 2
        followPtp { s with master := { (putPtpOff s.master (ptpEighths o a d)) with ptpDelay := d, locked := true } })

/-- An Announce: with another best transmitter the measurements start again. -/
def execPtpAnnounce (port domain : Nat) (rank : Nat) (s : State) : Out :=
  .next (
    if !portAlive s port || domain ≠ s.sys.ptpDomain then s
    else
      let m := { s.master with ptpRanks := Tbl.put s.master.ptpRanks port rank }
      { s with master := if ptpBest m = ptpBest s.master then m else { m with ptpLast := none, ptpDelay := 0, locked := false } })

/-! ### Other frames (R294) -/

/-- A port's MAC address: the IDENTITY record holds the serial number in its first 8 bytes and then both (log 27). -/
def portMac (s : State) (port : Nat) : Bytes :=
  match s.vault.recs.find? fun r => r.type = 0x30 with
  | some r => sub_ r.body (8 + 6 * port) 6
  | none => List.replicate 6 0

def portIp4 (s : State) (port : Nat) : BitVec 32 := Tbl.get s.sys.ip4 port 0
def portIp6 (s : State) (port : Nat) : BitVec 128 := Tbl.get s.sys.ip6 port 0

/-- A frame for one of the port's own addresses is answered; any other is dropped and counted. -/
def answerOwn (s : State) (port : Nat) (own : Bool) (kind : Nat) (b : Bytes) (h : NetHead) : State :=
  if !portAlive s port then s else if own then emit s (.eth port kind b h) else noteUnknown s port

def execArpRequest (port : Nat) (target : BitVec 32) (s : State) : Out :=
  .next (answerOwn s port (target ≠ 0 && target = portIp4 s port) 1 (portMac s port ++ beBytes 4 target.toNat) (netHead s none none false))

def execNeighborSolicitation (port : Nat) (target : BitVec 128) (s : State) : Out :=
  .next (answerOwn s port (target ≠ 0 && target = portIp6 s port) 2 (portMac s port ++ beBytes 16 target.toNat) (netHead s none none false))

/-- An IPv4 address as IPv4-mapped IPv6. -/
def mapped4 (a : BitVec 32) : BitVec 128 := BitVec.ofNat 128 (0xFFFF * 2 ^ 32 + a.toNat)

/-- Echo, within the MTU: 8 bytes of ICMP and the IP header. -/
def execIcmpEcho (port : Nat) (dst : BitVec 128) (data : Bytes) (s : State) : Out :=
  .next (
    let v4 := portIp4 s port ≠ 0 && dst = mapped4 (portIp4 s port)
    let v6 := dst ≠ 0 && dst = portIp6 s port
    if (if v4 then 28 else 48) + data.length ≤ s.sys.mtu || !(v4 || v6) then
      answerOwn s port (v4 || v6) 3 (beBytes 16 dst.toNat ++ data) (netHead s none none v4)
    else s)

/-- A frame that the port does not serve is dropped and counted; a RoCEv2 packet on a queue pair in service gets the Invalid Request NAK. -/
def execUnknownFrame (f : StrayFrame) (s : State) : Out :=
  let port := f.port
  .next (match f.kind with
    | .other => if portAlive s port then noteUnknown s port else s
    | .badFcs => if portAlive s port then modHub s port fun h => { h with fcsErr := satAdd h.fcsErr 1 } else s
    | .roce sess psn ce =>
      let q : RdmaReq := { port := port, sess := sess, psn := psn, va := 0, rkey := 0, len := 0, lines := [], ce := ce }
      rdmaIn s q (fun s => noteUnknown s port) fun s => rdmaInvalid s q)

end Sys2Proof.Machine
end

