-- ==== Sys2Proof/Machine/Admin.lean ====
section
/-! DEFINITION. Link, guest and image commands (Table 14-11; 08 R192, 11 R262, R268, R269, R271, R272, 12 R273, 19 R424, R427, R429 to R432). -/

namespace Sys2Proof.Machine

/-! ### LINK_RETRAIN and DRAM_RECAL -/

/-- The lane that a LINK_RETRAIN of KIND 0 or 1 names. -/
def laneRef (m : Msg) : LinkRef := if pf m 0 1 = 0 then .die (pf m 1 1) (pf m 2 1) else .optical (pf m 1 1)

def retrainForm (m : Msg) : Bool :=
  lenIs m 6 && zeros m 3 1 &&
    (match pf m 0 1 with
     | 0 => decide (pf m 1 1 < 160) && decide (pf m 2 1 ≤ 3) && decide (pf m 4 2 < dieLanes)
     | 1 => decide (pf m 1 1 < 48) && zeros m 2 1 && decide (pf m 4 2 < 16)
     | 2 => decide (pf m 1 1 < 8) && zeros m 2 1 && zeros m 4 2
     | _ => false)

/-- A lane that has left service, or a side without a neighbour, has nothing to retrain. -/
def laneThere (s : State) (m : Msg) : Bool :=
  !(linkOf s (laneRef m)).failed.contains (pf m 4 2) && (pf m 0 1 ≠ 0 || (siteBeside (pf m 1 1) (pf m 2 1)).isSome)

/-- The lane is named as by a trigger of R262; the completion waits for its retraining. -/
def retrainLane (s : State) (m : Msg) (r : Reply) : State :=
  let l := laneRef m
  let s := laneDue s l (pf m 4 2)
  let x := linkOf s l
  setLink s l { x with replies := x.replies ++ [(pf m 4 2, r)] }

def cmdLinkRetrain (m : Msg) : Cmd :=
  { code := 0x0602, priv := 2, form := retrainForm m,
    check := fun s => if pf m 0 1 = 0 && (getDie s (pf m 1 1)).dark then some stFenced else none
    run := fun s r =>
      if pf m 0 1 = 2 then complete (modGuest s (pf m 1 1) fun g => { g with retrains := 0 }) r stOk []
      else if laneThere s m then retrainLane s m r
      else complete s r stBadArgument [] }

def execLinkRetrain (m : Msg) (s : State) : Out := .next (teller s m (.linkRetrain m) (cmdLinkRetrain m))

/-- A full recalibration is eight slices; one under way is joined. -/
def cmdDramRecal (m : Msg) : Cmd :=
  let cl := 64 * pf m 0 1 + pf m 1 1
  { code := 0x0603, priv := 2, form := lenIs m 2 && decide (pf m 0 1 < 160) && decide (pf m 1 1 < 64),
    check := fun s => if channelServes s cl then none else some stFenced
    run := fun s r => modClu s cl fun u => { u with
      slicesLeft := if u.slicesLeft = 0 then 8 else u.slicesLeft, recalReply := u.recalReply ++ [r] } }

def execDramRecal (m : Msg) (s : State) : Out := .next (teller s m (.dramRecal m) (cmdDramRecal m))

/-! ### GUEST_MODE, GUEST_RULE, GUEST_RETURN -/

def guestHub (site : Nat) : Nat := site / 4

/-- Rules that a change to Windowed removes. -/
def windowRules (g : Guest) : Guest := { g with rules := Tbl.keep g.rules fun _ r => ruleFld r 1 2 = 0 }

/-- Check 8: a hub out of service, no CAP, no attested measurement, a change that still waits (Table 20-2). -/
def modeConflict (s : State) (site mode : Nat) : Bool :=
  let g := getGuest s site
  g.want.isSome || (mode ≠ 0 && (!hubUp s (guestHub site) || !g.ready)) || (mode = 2 && !guestAttested s g)

def cmdGuestMode (m : Msg) (nonce : BitVec 64) : Cmd :=
  let site := pf m 0 1
  let want (s : State) : Nat := keepOr m 1 1 (getGuest s site).mode.toNat
  { code := 0x0701, priv := 2, form := lenIs m 2 && decide (site < 8) && inRange m 1 1 0 2,
    check := fun s =>
      orElse (if (getGuest s site).fenced && want s ≠ 0 then some stFenced else none)
        (if modeConflict s site (want s) then some stModeConflict else none)
    run := fun s r =>
      if pf m 1 1 = 0xFF then complete s r stOk []
      else if want s = 2 then sendAttq (modGuest s site fun g => { g with want := some (2, false, r) }) site nonce
      else
        let s := modGuest s site fun g => { (if want s = 1 then windowRules g else g) with mode := BitVec.ofNat 2 (want s), kept := none }
        complete s r stOk [] }

def execGuestMode (m : Msg) (nonce : BitVec 64) (s : State) : Out := .next (teller s m (.guestMode m nonce) (cmdGuestMode m nonce))

/-- The form of a rule: reserved bits and SESS 0, KIND and DIR listed, DIR 1 for a bell (Table 11-6). -/
def ruleForm (v : BitVec 128) : Bool :=
  let f := ruleFld v
  f 5 3 = 0 && f 32 32 = 0 && f 120 8 = 0 && f 12 4 = 0 &&
    (!ruleValid v || (f 1 2 ≠ 3 && f 3 2 ≠ 0 && (f 1 2 ≠ 2 || f 3 2 = 1)))

/-- Lines of a rule's target; 0 where it has none: a window that is not inbound and open, a handle that is not bound, a bell's handle that
names no scratchpad. -/
def targetLines (s : State) (v : BitVec 128) : Nat :=
  let p := ruleFld v 8 4
  let t := ruleFld v 16 12
  if ruleFld v 1 2 = 0 then
    let w := getWindow s p t
    if t < 256 && w.state = 1 && !w.outbound then w.lines else 0
  else
    let d := Tbl.get (getPart s p).handles t Handle.reset
    if d.state = 1 && (ruleFld v 1 2 = 1 || d.kind) then d.lines else 0

def rulesOverlap (a b : BitVec 128) : Bool :=
  ruleValid a && decide (ruleFld a 64 36 < ruleFld b 64 36 + ruleLines b) && decide (ruleFld b 64 36 < ruleFld a 64 36 + ruleLines a)

def cmdGuestRule (m : Msg) : Cmd :=
  let site := pf m 0 1
  let i := pf m 1 1
  let v : BitVec 128 := BitVec.ofNat 128 (pf m 16 16)
  let p := ruleFld v 8 4
  { code := 0x0702, priv := 1, form := lenIs m 32 && zeros m 2 14 && decide (site < 8) && decide (i < 32) && ruleForm v,
    check := fun s =>
      if !ruleValid v then none
      else orElse (if (getGuest s site).fenced then some stFenced else fencedPart s p false)
        (if ((getGuest s site).mode = 1 && ruleFld v 1 2 ≠ 0) || isBb s p then some stModeConflict else none)
    run := fun s r =>
      if !ruleValid v then complete (modGuest s site fun g => { g with rules := Tbl.drop g.rules i }) r stOk []
      else if ruleLines v > targetLines s v || (Tbl.drop (getGuest s site).rules i).any (fun x => rulesOverlap x.2 v) then
        complete s r stBadArgument []
      else
        let v := v ||| BitVec.ofNat 128 (2 ^ 12 * r.sess)
        complete (modGuest s site fun g => { g with rules := Tbl.put g.rules i v }) r stOk [] }

def execGuestRule (m : Msg) (s : State) : Out := .next (teller s m (.guestRule m) (cmdGuestRule m))

/-- A fenced site returns after a CAP exchange, a Trusted one after a fresh ATTR (R272); an ATTQ goes out in any mode (R427). A site cut off gets
its power back, and its return waits for the CAP exchange (R460); without one a return answers MODE_CONFLICT (DESIGN CHOICE, log 22). -/
def cmdGuestReturn (m : Msg) (nonce : BitVec 64) : Cmd :=
  let site := pf m 0 1
  { code := 0x0703, priv := 2, form := lenIs m 1 && decide (site < 8),
    check := fun s => if !hubUp s (guestHub site) || (getGuest s site).want.isSome then some stModeConflict else none
    run := fun s r =>
      let g := getGuest s site
      if g.powerCut then modGuest s site fun g => { g with powerCut := false, retrains := 0, want := some (g.mode.toNat, true, r) }
      else if !g.ready then complete s r stModeConflict []
      else if !g.fenced then complete (sendAttq s site nonce) r stOk []
      else if g.mode = 2 then sendAttq (modGuest s site fun g => { g with want := some (2, true, r) }) site nonce
      else complete (sendNotice (sendAttq (modGuest s site fun g => { g with fenced := false }) site nonce) site 2) r stOk [] }

def execGuestReturn (m : Msg) (nonce : BitVec 64) (s : State) : Out := .next (teller s m (.guestReturn m nonce) (cmdGuestReturn m nonce))

/-! ### IMG_STAGE -/

/-- Room to stage one image: a firmware bank's 8 MiB (R415). -/
def stageRoom : Nat := 8388608

def cmdImgStage (m : Msg) : Cmd :=
  let t := pf m 1 1
  let n := m.payload.length - 8
  { code := 0x0801, priv := 2,
    form := decide (8 ≤ m.payload.length) && decide (n ≤ 4088) && zeros m 2 2 && decide (pf m 0 1 ≤ 1) &&
      decide (t < (if pf m 0 1 = 0 then 2 else 16))
    check := fun s => if pf m 0 1 = 1 then fencedPart s t true else none
    run := fun s r =>
      if stageRoom < pf m 4 4 + n then complete s r stBadArgument []
      else if pf m 0 1 = 0 then
        complete { s with hubStage := stageBytes s.hubStage (stageRoom * t + pf m 4 4) (m.payload.drop 8) } r stOk []
      else if !hasPart s t then complete s r stBadArgument []
      else complete (modPart s t fun q => { q with imgStage := stageBytes q.imgStage (pf m 4 4) (m.payload.drop 8) }) r stOk [] }

def execImgStage (m : Msg) (s : State) : Out := .next (teller s m (.imgStage m) (cmdImgStage m))

/-! ### Counters (R424) -/

/-- The bits of a counter's region. -/
def counterRoom : Nat := 524288

/-- A counter raised to a value: its bits, then its CHECKPOINT. A raise beyond the region is not made. -/
def raiseCounter (s : State) (i v : Nat) : State :=
  let c := Tbl.get s.vault.counters i 0
  if v ≤ c || counterRoom < v then s
  else vaultPut { s with vault := { s.vault with
    counters := Tbl.put s.vault.counters i v, raising := Tbl.put s.vault.raising i (Tbl.get s.vault.raising i 0 + (v - c)) } } 0x13 i
    (leBytes 4 i ++ leBytes 4 v) false

/-! ### Images (R429, R430, Table 19-8) -/

def imgAdvance (b : Bytes) : Bool := (at_ b 2 1).testBit 5
def imgSigner (b : Bytes) : Bytes := sub_ b 32 32

/-- The header form and the limits of Table 19-8, for an image of `n` bytes. -/
def imageForm (b : Bytes) (kind n : Nat) : Bool :=
  at_ b 0 2 = 1 && field (at_ b 2 2) 0 4 = kind && field (at_ b 2 2) 6 10 = 0 && at_ b 20 12 = 0 &&
    n = 64 + imgCode b + imgData b + 2420 &&
    (if kind = 0 then decide (imgCode b ≤ 8388608 - 2484) && imgData b = 0
     else decide (8 ≤ imgCode b) && decide (imgCode b ≤ 16384) && imgCode b % 8 = 0 && decide (imgData b ≤ 49152) && imgData b % 64 = 0 &&
       imgAddr b % 64 = 0 && decide (imgAddr b + imgData b ≤ 49152) && imgEntry b % 8 = 0 && decide (imgEntry b < imgCode b))

def signerOk (s : State) (kind : Nat) (b : Bytes) : Bool :=
  if kind = 0 then imgSigner b = Config.fwKey
  else imgSigner b = Config.loaderKey || (match s.vault.config with | some c => c.signers.contains (imgSigner b) | none => false)

/-- Would an activation raise its counter beyond the region? FW_SVN rises only where the other hub's image carries ADVANCE too, and to the lower
SVN (R424, Table 19-6). -/
def raiseTooFar (s : State) (kind t : Nat) (b : Bytes) : Bool :=
  if kind = 0 then
    let o := Tbl.get s.vault.banks (getHub s (1 - t)).bank []
    imgAdvance b && o ≠ [] && imgAdvance o && decide (counterRoom < Nat.min (imgSvn b) (imgSvn o))
  else imgAdvance b && decide (counterRoom < imgSvn b)

/-- The checks of R430 in their order. -/
def imageCheck (s : State) (kind t : Nat) (b digest : Bytes) (sigOk : Bool) : Option Status :=
  let c := Tbl.get s.vault.counters (if kind = 0 then 0 else 2) 0
  if sha3_256 b ≠ digest || !imageForm b kind b.length then some stBadArgument
  else if !signerOk s kind b || !sigOk then some stAuthFail
  else if imgSvn b < c || raiseTooFar s kind t b then some stAuthFail
  else none

/-! ### IMG_ACTIVATE (R431, R432) -/

/-- BANK_SEL: the active bank of each hub. -/
def putBankSel (s : State) (b0 b1 : Nat) : State := vaultPut s 0x11 0 (leBytes 1 b0 ++ leBytes 1 b1) false

/-- BANK_SEL is written; once both dies hold it the hub restarts on the bank (R417, R431). -/
def restartHub (s : State) (f : FwUpdate) : State :=
  let s := { s with fwUpdate := some { f with write := false } }
  let s := if f.hub = 0 then putBankSel s f.bank s.hub1.bank else putBankSel s s.hub0.bank f.bank
  afterWrites s (.restart f)

/-- The hub restarts; the other hub carries the panel (R29). -/
def restartNow (s : State) (f : FwUpdate) : State :=
  hubDown (modHub s f.hub fun x => { x with prevBank := x.bank, bank := f.bank, rejoinBy := some (s.tally + 400000000) }) f.hub

/-- The bank that holds an image already. -/
def bankHolding (s : State) (digest : Bytes) : Option Nat :=
  (s.vault.banks.find? fun b => decide (b.1 < 2) && sha3_256 b.2 = digest).map (·.1)

def activateFirmware (s : State) (k : Nat) (b digest : Bytes) (r : Reply) : State :=
  if !hubUp s (1 - k) || s.fwUpdate.isSome || s.twin.takeover || mayTakeOver s then complete s r stModeConflict []
  else match bankHolding s digest with
    | some n => restartHub s { hub := k, bank := n, image := b, write := false, reply := r }
    | none =>
      -- while it is written the bank holds no image
      let n := 1 - (getHub s (1 - k)).bank % 2
      { s with
        fwUpdate := some { hub := k, bank := n, image := b, write := true, reply := r }
        vault := { s.vault with banks := Tbl.drop s.vault.banks n, bankVer := Tbl.drop s.vault.bankVer n } }

/-- Bytes that an image takes in the loader store. -/
def storeSize (b : Bytes) : Nat := ceilDiv b.length 64 * 64

/-- The two images activated last of a partition. -/
def noteImage (s : State) (p : Nat) (b : Bytes) : State :=
  modPart s p fun q => { q with images := b :: (q.images.filter (· ≠ b)).take 1 }

/-- What an activation of a loader image comes to once the store holds it; with a raise of LDR_SVN it completes when the CHECKPOINT is held. -/
def loaderActive (s : State) (w : LoaderWrite) : State :=
  let s := if hasPart s w.part then noteImage s w.part w.image else s
  if imgAdvance w.image && decide (Tbl.get s.vault.counters 2 0 < imgSvn w.image) && decide (imgSvn w.image ≤ counterRoom) then
    afterWrites (raiseCounter s 2 (imgSvn w.image)) (.answer w.reply stOk)
  else complete s w.reply stOk []

def activateLoader (s : State) (p : Nat) (b : Bytes) (r : Reply) : State :=
  if !hasPart s p then complete s r stBadArgument []
  else if !(getPart s p).drained || !drainedNow s p then complete s r stModeConflict []
  else
    let w : LoaderWrite := { part := p, image := b, reply := r }
    let waiting := sumNat (s.loaderWrites.map fun w => storeSize w.image)
    if s.vault.loaders.any fun x => x.2 = b then loaderActive s w
    else if stageRoom < s.vault.loaderUsed + waiting + storeSize b then complete s r stRefusedCapacity []
    else { s with loaderWrites := s.loaderWrites ++ [w] }

/-- Bytes staged for a hub or a partition. -/
def stagedImage (s : State) (kind t n : Nat) : Bytes :=
  if kind = 0 then (List.range n).map fun i => Tbl.get s.hubStage (stageRoom * t + i) 0 else stagedBytes (getPart s t).imgStage n

def cmdImgActivate (m : Msg) (sigOk : Bool) : Cmd :=
  let kind := pf m 0 1
  let t := pf m 1 1
  { code := 0x0802, priv := 2,
    form := lenIs m 40 && zeros m 2 2 && decide (kind ≤ 1) && decide (t < (if kind = 0 then 2 else 16)) && decide (pf m 4 4 ≤ stageRoom)
    check := fun s => if kind = 1 then fencedPart s t true else none
    run := fun s r =>
      let b := stagedImage s kind t (pf m 4 4)
      match imageCheck s kind t b (sub_ m.payload 8 32) sigOk with
      | some st => complete s r st []
      | none => if kind = 0 then activateFirmware s t b (sub_ m.payload 8 32) r else activateLoader s t b r }

def execImgActivate (m : Msg) (sigOk : Bool) (s : State) : Out := report s (teller s m (.imgActivate m sigOk) (cmdImgActivate m sigOk))

/-! ### Writing and restarting (R417, R431) -/

/-- Is an image still wanted: named by a committed map, or one of its partition's latest two? -/
def imageWanted (s : State) (b : Bytes) : Bool :=
  let d := sha3_256 b
  s.parts.any fun q => q.2.images.contains b ||
    (match q.2.map with | some m => (List.range (m.loader.length / 32)).any fun i => sub_ m.loader (32 * i) 32 = d | none => false)

/-- At 75 % full the hub compacts the store's half: the images go to the other half, and its COMPACT closes it (R417). -/
def compactLoaders (s : State) : State :=
  if s.vault.loaderUsed * 4 < stageRoom * 3 || s.vault.writing.any fun w => w.copy && recordRegion w.record = some 3 then s
  else
    let r : VaultRec := { type := 3, signed := false, seq := 0, key := 6 + (1 - Tbl.get s.vault.halves 3 0), body := [], half := 0, on0 := false,
                          on1 := false }
    { s with vault := { s.vault with writing := s.vault.writing ++ [{ record := r, copy := true, acts := [.packLoaders] }] } }

/-- LOADER_INDEX of an image: measurement, offset, length. -/
def putIndex (s : State) (o : Nat) (b : Bytes) : State :=
  let d := sha3_256 b
  vaultPut s 0x14 (leNat d) (d ++ leBytes 4 o ++ leBytes 4 b.length) false

/-- The other half is in use: what nothing names is freed, the rest has moved together and gets its new LOADER_INDEX (R432). -/
def packLoaders (s : State) : State :=
  let keep := s.vault.loaders.filter fun x => imageWanted s x.2
  let packed := keep.foldl (fun (acc : Tbl Bytes × Nat) x => (Tbl.put acc.1 acc.2 x.2, acc.2 + storeSize x.2)) ([], 0)
  let keys := keep.map fun x => leNat (sha3_256 x.2)
  let s := { s with vault := { s.vault with
    loaders := packed.1, loaderUsed := packed.2, recs := s.vault.recs.filter fun r => !(r.type = 0x14 && !keys.contains r.key) } }
  packed.1.foldl (fun s x => putIndex s x.1 x.2) s

/-- The image lies in the store and in LOADER_INDEX. -/
def storeImage (s : State) (b : Bytes) : State :=
  let o := s.vault.loaderUsed
  putIndex { s with vault := { s.vault with loaders := Tbl.put s.vault.loaders o b, loaderUsed := o + storeSize b } } o b

/-- Writing ends: `target` is the hub, or 2 and the partition. -/
def execImageWriteComplete (target : Nat) (s : State) : Out :=
  report s (
    if target < 2 then
      match s.fwUpdate with
      | some f =>
        if f.hub ≠ target || !f.write then s
        else restartHub { s with vault := { s.vault with banks := Tbl.put s.vault.banks f.bank f.image } } f
      | none => s
    else match s.loaderWrites.find? fun w => w.part = target - 2 with
      | none => s
      | some w => compactLoaders (afterWrites (storeImage { s with loaderWrites := s.loaderWrites.erase w } w.image) (.loader w)))

/-- Both hubs run one version whose images carry ADVANCE: FW_SVN rises to the lower SVN (Table 19-6, R308). -/
def raiseFirmware (s : State) : State :=
  let img (h : Hub) : Bytes := Tbl.get s.vault.banks h.bank []
  let a := img s.hub0
  let b := img s.hub1
  if s.hub0.fwver = s.hub1.fwver && a ≠ [] && b ≠ [] && imgAdvance a && imgAdvance b then raiseCounter s 0 (Nat.min (imgSvn a) (imgSvn b)) else s

/-- The restarted hub rejoins the journal in its 400 ms: the activation completes. -/
def execHubRejoin (hub : Nat) (fwver : BitVec 32) (s : State) : Out :=
  report s (match s.fwUpdate with
    | none => s
    | some f =>
      if f.hub ≠ hub || f.write || s.boot.hubsLost || !(getHub s hub).rejoinBy.any (fun t => s.tally ≤ t) then s
      else
        let s := modHub { s with fwUpdate := none } hub fun x => { x with
          fwver := fwver, fwMeas := sha3_256 f.image, fellBack := false, rejoinBy := none }
        let s := { s with vault := { s.vault with bankVer := Tbl.put s.vault.bankVer f.bank fwver } }
        complete (raiseFirmware (hubBack s hub)) f.reply stOk [])

def stImgFallback : Status := 0x0B01#16

/-- The hub boots its previous bank; the completion follows once both dies hold the restored BANK_SEL (R431, Table 19-9). -/
def execHubRejoinTimeout (hub : Nat) (s : State) : Out :=
  report s (match s.fwUpdate with
    | none => s
    | some f =>
      if f.hub ≠ hub || f.write || s.boot.hubsLost || (getHub s hub).rejoinBy.all (fun t => s.tally ≤ t) then s
      else
        let s := modHub { s with fwUpdate := none } hub fun x => { x with bank := x.prevBank, fellBack := true, rejoinBy := none }
        hubBack (afterWrites (putBankSel s s.hub0.bank s.hub1.bank) (.answer f.reply stImgFallback)) hub)

end Sys2Proof.Machine
end

