-- ==== Sys2Proof/Machine/BringUp.lean ====
section
/-! DEFINITION. The Vault's records, reading the flash dies, bring-up, halves that return and the discrete inputs (19 R415 to R419, R424, 20 R442 to R449,
21 R459). -/

namespace Sys2Proof.Machine

/-! ### Records held by both dies (R416, R417) -/

/-- A half at 75 % is compacted: copies of the records that stand there and a closing COMPACT are programmed into the other half before the
records that wait; the old half is erased when both dies hold the COMPACT (R417). -/
def compact (v : Vault) (g : Nat) : Vault :=
  if Tbl.get v.used g 0 * 4 < regionHalf g * 3 || v.writing.any fun w => w.copy && recordRegion w.record = some g then v
  else
    let live := (standing v.recs).filter fun r => recordRegion r = some g && r.type.toNat ≠ 3
    let c : VaultRec := { type := 3, signed := false, seq := 0, key := 2 * g + (1 - Tbl.get v.halves g 0), body := [], half := 0, on0 := false, on1 := false }
    { v with writing := (live ++ [c]).map (fun r => { record := r, copy := true, acts := [] }) ++ v.writing }

def compactAll (v : Vault) : Vault := [0, 1, 2].foldl compact v

/-- What waited for a record proceeds (R417). -/
def runAct (s : State) : VaultAct → State
  | .answer r st => complete s r st []
  | .sysConfig c r => sysConfigDone s c r
  | .restart f => restartNow s f
  | .loader w => loaderActive s w
  | .packLoaders => packLoaders s

/-- Both dies hold the record at the head. -/
def recordWritten (s : State) : State :=
  match s.vault.writing with
  | [] => s
  | w :: rest => w.acts.foldl runAct { s with vault := compactAll (holdWrite { s.vault with writing := rest } w true) }

def execVaultRecordWritten (s : State) : Out := report s (recordWritten s)

/-- The latest record of a type. -/
def latestOf (v : Vault) (type : Nat) : Option VaultRec :=
  v.recs.foldl (fun (b : Option VaultRec) r => if r.type.toNat = type then (match b with
    | some x => if x.seq < r.seq then some r else some x
    | none => some r) else b) none

/-- The public key of a DER certificate: the bit string of the seventh field of its body. -/
def certKey (cert : Bytes) : Bytes :=
  let tbs := derBody (derBody cert)
  let t := derSkip (derSkip (derSkip (derSkip (if at_ tbs 0 1 = 0xA0 then derSkip tbs else tbs))))
  (derBody (derSkip (derBody (derSkip t)))).drop 1

/-! ### Checks of the records (R416, R421) -/

/-- K_vault. -/
def vaultKey (seed : Bytes) : Bytes := kmac256 seed [] (ascii "GP144-VAULT") 32

/-- A record's header (Table 19-2). -/
def recHeader (r : VaultRec) : Bytes :=
  leBytes 2 r.type.toNat ++ leBytes 2 (b2n r.signed) ++ leBytes 4 r.body.length ++ leBytes 8 r.seq.toNat ++ leBytes 16 0

/-- The tag of a record with SIGNED = 0. -/
def recTag (v : Vault) (r : VaultRec) : Bytes := kmac256 (vaultKey v.seed) (recHeader r ++ r.body) (ascii "GP144-VAULT-REC") 32

/-- Does the check of a record hold on a die, as read? PUF_HELPER has no tag (Table 19-3). -/
def checkHolds (v : Vault) (flash : List FlashRead) (die : Nat) (r : VaultRec) : Bool :=
  match flash.find? fun x => x.die = die && x.type = r.type.toNat && x.key = r.key with
  | some x => if r.signed then x.sigOk else r.type = 0x31 || x.tag = recTag v r
  | none => true

/-- Both dies are read: a record valid on one is copied to the other, one valid on neither does not exist (R416, R418). -/
def readDies (v : Vault) (flash : List FlashRead) : Vault :=
  { v with recs := (v.recs.filter fun r => (r.on0 && checkHolds v flash 0 r) || (r.on1 && checkHolds v flash 1 r)).map fun r =>
      { r with on0 := true, on1 := true } }

def hasCompact (v : Vault) (g h : Nat) : Bool := v.recs.any fun r => r.type.toNat = 3 && r.key = 2 * g + h

/-- A half of a region without a COMPACT is used only when the other has none either, and then both are, by SEQ: what the other half holds in
that case are copies (R418). -/
def chooseHalf (v : Vault) (g : Nat) : Vault :=
  let c := (hasCompact v g 0, hasCompact v g 1)
  if !c.1 && !c.2 then { v with recs := v.recs.map fun r => if recordRegion r = some g then { r with half := 0 } else r, halves := Tbl.put v.halves g 0 }
  else
    let h := if c.1 && c.2 then Tbl.get v.halves g 0 else if c.1 then 0 else 1
    { v with
      recs := v.recs.filter fun r => recordRegion r ≠ some g || r.half = h || (c.1 && c.2)
      halves := Tbl.put v.halves g h }

/-- The Vault as bring-up finds it: the dies read, the halves chosen, of each type and key the record with the highest SEQ. -/
def openVault (v : Vault) (flash : List FlashRead) : Vault :=
  let v := [0, 1, 2, 3].foldl chooseHalf (readDies v flash)
  let v := { v with recs := standing v.recs }
  { v with
    checkpoints := (v.recs.filter fun r => r.type.toNat = 0x13).foldl (fun t r => Tbl.put t r.key (at_ r.body 4 4)) []
    config := if (latestOf v 2).isSome then v.config else none
    ownerKey := match latestOf v 1 with | some r => certKey r.body | none => [] }

/-- A counter passes the Vault check: it is not below its latest CHECKPOINT, nor further above it than its pending raise (R424). -/
def counterHolds (v : Vault) (i : Nat) : Bool :=
  let c := Tbl.get v.counters i 0
  let p := Tbl.get v.checkpoints i 0
  decide (p ≤ c) && decide (c ≤ p + Tbl.get v.raising i 0)

/-! ### What the phases do (Table 20-5) -/

def poweredHalves (s : State) : List Nat := [0, 1].filter fun h => (getHalf s h).power

/-- Nanoseconds since bring-up began. -/
def bootAge (s : State) : Nat := (s.tally - s.boot.started).toNat

/-- Phase 1, and R448 for an input that comes back: the auxiliary outputs of a half rise. -/
def auxUp (s : State) (h : Nat) : State := (stagesOf h).foldl (fun s j => modStage s j fun x => { x with auxOn := true }) s

/-- Phase 2: Tally starts from 0; what is measured from the start of bring-up goes on. -/
def startTally (s : State) : State :=
  { s with
    tally := 0, boot := { s.boot with started := s.boot.started - s.tally }, master := TallyMaster.reset
    dies := Tbl.map s.dies fun _ d => { d with island := Die.reset.island } }

/-- A bank that can be booted: its image passes its signature check, and its SVN is not below its counter (R308, R424). The factory's banks
are taken as holding such an SVN (log 35). -/
def bootable (v : Vault) (r : PhaseResult) (b : Nat) : Bool :=
  (if b = 0 then r.bank0ok else r.bank1ok) &&
    (match Tbl.find v.banks b with | some i => decide (Tbl.get v.counters 0 0 ≤ imgSvn i) | none => true)

/-- The identity seed that a hub's PUF_HELPER record gives with its key, if the tag holds: the record ends with the wrapped seed and the tag
(R420, log 27). -/
def unwrapSeed (v : Vault) (h : Nat) (key : Bytes) : Option Bytes :=
  match v.recs.find? fun r => r.type.toNat = 0x31 && r.key = h with
  | none => none
  | some r =>
    let n := r.body.length
    let seed := xorBytes (sub_ r.body (n - 64) 32) (kmac256 key [] (ascii "GP144-ID-WRAP") 32)
    if kmac256 key seed (ascii "GP144-ID-TAG") 32 = sub_ r.body (n - 32) 32 then some seed else none

/-- The hub's identity from its seed: IDDIG and K_vault follow from it (R421). -/
def takeSeed (v : Vault) (seed : Option Bytes) : Vault :=
  match seed with | some x => { v with seed := x, idDig := sha3_256 (Config.mldsaKey x) } | none => v

/-- Phase 3: a hub derives its key and boots its active bank, or the other one (R308, R420). With a tag that fails or no bank that it can boot it
is a hub that has failed. -/
def bootHub (s : State) (h : Nat) (r : PhaseResult) : State :=
  let v := s.vault
  let seed := unwrapSeed v h (if h = 0 then r.hubKey0 else r.hubKey1)
  let want := match latestOf v 0x11 with | some r => at_ r.body h 1 | none => 0
  let b := if bootable v r want then want else 1 - want % 2
  let ok := (if h = 0 then r.hub0ok else r.hub1ok) && seed.isSome && bootable v r b
  modHub { s with vault := takeSeed v seed } h fun x => { x with
    selfTest := ok, tagFail := seed.isNone, bank := b, prevBank := b, fellBack := decide (b ≠ want), fwver := Tbl.get v.bankVer b 0
    fwMeas := match Tbl.find v.banks b with | some i => sha3_256 i | none => [] }

/-- Neither hub has its identity: the safe state without identity (R420). -/
def loseIdentity (s : State) : State := raiseAlert { s with state := .safeNoId }

/-- SYS_CONFIG fields of a PANEL_STATE record. -/
def sysOfRecord (v : Vault) : SysConfig :=
  match latestOf v 0x10 with | some r => sysFrom { Msg.none with payload := r.body } SysConfig.reset | none => SysConfig.reset

/-- One record of the redundancy map comes into force (Table 19-4). -/
def applyRedundancy (s : State) (r : VaultRec) : State :=
  let b := leNat (sub_ r.body 0 8)
  let site := field b 8 8
  let i := field b 32 16
  match field b 0 4 with
  | 1 => modDie s site fun d => { d with spare := true }
  | 2 =>
    let e := leNat (sub_ r.body 8 8)
    modClu s (64 * site + field b 16 6) fun u => { u with bad := if e = 0 then Tbl.drop u.bad i else Tbl.put u.bad i (BadLine.ofWord e) }
  | 3 =>
    let l := LinkRef.die site (field b 22 2)
    let x := linkOf s l
    setLink s l { x with failed := if x.failed.contains i then x.failed else x.failed ++ [i] }
  | 6 => modDie s site fun d => { d with retired := true, spare := false }
  | 7 =>
    let x := linkOf s (.optical site)
    setLink s (.optical site) { x with failed := if x.failed.contains i then x.failed else x.failed ++ [i] }
  | _ => s

/-- Phase 4: both dies are read, PANEL_STATE, SAFE_LATCH and the redundancy map are loaded, the counters are checked, and one above its checkpoint
gets a new one; compaction restarts where it was cut off (R418, R424, R433). -/
def loadVault (s : State) (r : PhaseResult) : State :=
  let v := openVault s.vault r.flash
  let v := { v with counters := r.counters.foldl (fun t c => Tbl.put t c.1 c.2) v.counters }
  let ok := r.vaultOk && (List.range 8).all (counterHolds v)
  let latch := match latestOf v 0x12 with | some r => at_ r.body 0 1 = 1 | none => false
  let cause := match latestOf v 0x12 with | some r => at_ r.body 1 1 | none => 0
  let s := { s with
    sys := sysOfRecord v, safeCause := BitVec.ofNat 4 cause
    vault := { v with latch := latch, latchCause := BitVec.ofNat 4 cause, failed := !ok, raising := [] } }
  let s := match v.config with
    | some c => { s with resets := { s.resets with limit := BitVec.ofNat 8 c.limit, window := c.window } }
    | none => s
  let s := (v.recs.filter fun r => r.type = 0x20).foldl applyRedundancy s
  let s := v.counters.foldl (fun s c =>
    if Tbl.get v.checkpoints c.1 0 < c.2 then vaultPut s 0x13 c.1 (leBytes 4 c.1 ++ leBytes 4 c.2) false else s) s
  let s := compactLoaders { s with vault := compactAll s.vault }
  if ok then s
  else
    let s := vaultPut { s with vault := { s.vault with latch := true, latchCause := 5 }, safeCause := 5 } 0x12 0 (leBytes 1 1 ++ leBytes 1 5) false
    raiseAlert s

/-- Phase 5: HUB0 leads if it passes its self-test (R25). -/
def chooseLead (s : State) (r : PhaseResult) : State :=
  let set (x : Hub) (ok : Bool) : Hub := { x with selfTest := x.selfTest && ok, up := x.selfTest && ok }
  let s := { s with hub0 := set s.hub0 r.hub0ok, hub1 := set s.hub1 r.hub1ok }
  let s := { s with lead := if s.hub0.up then 0 else 1 }
  if !s.hub0.up && !s.hub1.up then loseIdentity s
  else if s.boot.rstBoot && s.pins.thermTrip then enterSafe s 4
  else s

/-- Is a pair recorded as failed (R337)? -/
def pairFailed (s : State) (stage : Nat) : Bool :=
  s.vault.recs.any fun r => r.type = 0x20 && field r.key 0 4 = 5 && field r.key 8 8 = 2 * stage

/-- Phase 6 for a half: main outputs on; failed pairs are skipped, and latched ones, which only a power cycle frees; those that trip act
under R336 and R337. -/
def mainUp (s : State) (h : Nat) (tripped : List Nat) : State :=
  let s := (stagesOf h).foldl (fun s j =>
    let latched := (getStage s j).state = 3 || (getStage s j).state = 4
    if latched || pairFailed s j then (stageSites j).foldl (fun s d => darkDie s d 3) s
    else
      -- PAGE 0, CLEAR_FAULTS, OPERATION on (Table 15-6; its code: log 142)
      let s := modStage (toStages s j [(0x00, 0), (0x03, 0), (0x01, 0x80)]) j fun x => { x with state := 1 }
      (stageSites j).foldl (fun s d => modDie s d fun x => { x with dark := false }) s) s
  (tripped.filter fun j => stageHalf j = h).foldl (fun s j => tripStage s j false) s

/-- Phase 7 for a half: its islands align and measure the delay of their pulse lines (R365). -/
def alignIslands (s : State) (h : Nat) : State :=
  (sitesOf h).foldl (fun s d => modDie s d fun x => { x with island := { x.island with
    off := 0, steer := 0, latched := Config.lineDelay d, delay := Config.lineDelay d, missed := 0, hold := false } }) s

/-- Clusters of a half whose dies have power. -/
def liveClusters (s : State) (h : Nat) : List Nat := clustersOf ((sitesOf h).filter fun d => !(getDie s d).dark && !(getDie s d).retired)

/-- Phase 10 for a half: every channel is trained and recalibrated once. -/
def trainDram (s : State) (h : Nat) : State :=
  (liveClusters s h).foldl (fun s c => modClu s c fun u => { u with
    recalCount := satAdd u.recalCount 1, lastRecal := s.tally, recalTemp := u.dieTemp, slicesLeft := 0, inSlice := false, phOk := phasesOk s c }) s

/-- Phase 11 for a half: what the built-in test found (R443); clusters then park. -/
def testHalf (s : State) (h : Nat) (r : PhaseResult) : State :=
  let mine (d : Nat) : Bool := d / 80 = h
  let s := (r.retired.filter mine).foldl (fun s d =>
    vaultRedundancy (modDie s d fun x => { x with retired := true, spare := false, fenced := true }) 6 d 0 0 0 0) s
  let s := ((r.darkClusters.filter fun c => mine (c / 64))).foldl (fun s c => modClu s c fun u => { u with
    lost := true, channelOut := true, pwrState := 3 }) s
  -- two or more recorded failed phases: never powered, its cores never numbered; its channel serves (R342)
  let s := ((clustersOf ((sitesOf h).filter fun d => !(getDie s d).dark)).filter fun c => (bitsOf 4 (phasesOk s c).toNat).length < 3).foldl (fun s c =>
    modClu s c fun u => { u with lost := true, pwrState := 3 }) s
  let bad := (r.badCores.filter fun k => mine (siteOf k)).foldl (fun l k => if l.contains k then l else l ++ [k]) s.badCores
  let s := { s with badCores := bad }
  -- scratchpads and channels are empty after the test (log 5)
  { s with mem := s.mem.filter fun c => !((sitesOf h).any fun d => ofDie d c.1) }

/-- Spares of the pool, and dies left out. -/
def countBoot (s : State) : Boot :=
  let ds := (poweredHalves s).map sitesOf |>.flatten
  let left := (ds.filter fun d => let x := getDie s d; x.dark || x.retired).length
  { s.boot with
    diesLeft := BitVec.ofNat 8 (Nat.min 255 left), spares := BitVec.ofNat 8 (Nat.min 255 (sparesLeft s)), badCores := BitVec.ofNat 16 (Nat.min 65535 s.badCores.length) }

/-- A half leaves at bring-up: its main outputs are ramped down (R448). -/
def dropHalf (s : State) (h : Nat) : State :=
  startRamp (mfrRampdown (modHalf s h fun x => { x with inService := false, leaving := false }) h 1) h s.tally false

/-- After phase 11, without the spine crossing, the half with more usable dies stays, H0 on a tie. -/
def splitHalves (s : State) : State :=
  if s.boot.spineFailed && s.half0.inService && s.half1.inService then dropHalf s (if usableDies s 0 < usableDies s 1 then 0 else 1) else s

/-- The end of phase 12: bank 0 and epoch 0 in force, spares in transit, sites Closed; serving, or safe with the latch set (R412). -/
def endBringUp (s : State) : State :=
  let safe := s.vault.latch
  let s := { s with
    epoch := Epoch.reset, bank0 := hubBank s, boot := { (countBoot s) with powerCycled := s.boot.powerCycled && safe }
    dies := Tbl.map s.dies fun _ d => { d with transit := d.spare }
    stages := Tbl.map s.stages fun _ x => { x with trippedOnce := x.trippedOnce && x.state ≠ 1 } }
  raiseAlert { s with state := if safe then .safe else .serving, safeCause := if safe then s.vault.latchCause else 0 }

/-- What ends with a phase, and the phase that follows. -/
def phaseEffect (s : State) (n : Nat) (r : PhaseResult) : State :=
  let hs := poweredHalves s
  match n with
  | 1 => hs.foldl (fun s h => modHalf (auxUp s h) h fun x => { x with refOk := true }) s
  | 2 => startTally s
  | 3 =>
    let s := bootHub (bootHub { s with vault := { s.vault with seed := [], idDig := [] } } 0 r) 1 r
    let s := { s with half0 := { s.half0 with heartbeat := s.tally }, half1 := { s.half1 with heartbeat := s.tally } }
    let s := emit s (.pin "SB_PWROK" true)
    if s.hub0.selfTest || s.hub1.selfTest then s else loseIdentity s
  | 4 => loadVault s r
  | 5 => chooseLead s r
  | 6 => hs.foldl (fun s h => modHalf (mainUp s h r.tripped) h fun x => { x with inService := true }) s
  | 7 => hs.foldl alignIslands s
  | 8 => { s with boot := { s.boot with spineFailed := !r.spineOk } }
  | 9 => { s with meshHalf := 0, clock := { ClockPlan.reset with
      regions := s.clock.regions, since := s.tally, interval := s.clock.interval, period := s.clock.period } }
  | 10 => hs.foldl trainDram s
  | 11 => splitHalves (hs.foldl (fun s h => testHalf s h r) s)
  | _ => endBringUp s

/-- A phase ends, T_MS and the next phase follow (R446). -/
def endPhase (s : State) (r : PhaseResult) : State :=
  let n := s.boot.phase
  let ms := Nat.min 65535 (bootAge s / 1000000)
  let s := phaseEffect s n r
  { s with boot := { s.boot with phase := n + 1, tMs := BitVec.ofNat 16 ms } }

/-! ### A half that returns (R449) -/

/-- The half stays out, and its completion carries the failing check's status (log 36). -/
def halfFails (s : State) (h : Nat) (r : Reply) : State :=
  complete { (dropHalf s h) with boot := { s.boot with half := none, halfPhase := 0 } } r stTimeout []

/-- A pause of all fast clocks is announced at the step in force, as for a step change (R361). -/
def announceJoin (s : State) (h : Nat) : State :=
  let c := s.clock
  let t := if c.pending then c.tChange else BitVec.ofNat 64 (changeTime (now s))
  journal { s with clock := { c with pending := true, next := if c.pending then c.next else c.step, tChange := t, joining := some h } } (.clock t)

/-- The half's dies are to be reachable after an epoch change (R449 step 5). -/
def halfEnter (s : State) (h : Nat) : State :=
  let s := (sitesOf h).foldl (fun s d => modDie s d fun x => { x with fenced := x.fenced && (x.dark || x.retired) }) s
  startEpoch { s with boot := { s.boot with halfPhase := 12 } } []

/-- With the epoch change the half has joined, the end of the transition (R434); its spares join the pool (R449 step 6). -/
def halfJoins (s : State) (h : Nat) (r : Reply) : State :=
  let s := (sitesOf h).foldl (fun s d => modDie s d fun x => { x with transit := x.spare }) s
  let s := modHalf s h fun x => { x with inService := true }
  let s := { s with boot := { s.boot with half := none, halfPhase := 0 } }
  complete { s with boot := countBoot s } r stOk []

/-- Is a bank change under way or due? -/
def bankChanges (s : State) : Bool := s.epoch.writesAt.isSome || s.epoch.switchAt.isSome || s.epoch.next.isSome

/-- A phase of the returning half ends; the last one is the epoch change. -/
def endHalfPhase (s : State) (h : Nat) (q : Reply) (r : PhaseResult) : State :=
  let next (s : State) (n : Nat) : State := { s with boot := { s.boot with halfPhase := n } }
  match s.boot.halfPhase with
  | 6 => next (mainUp s h r.tripped) 7
  | 7 => next (alignIslands s h) 8
  | 8 => if r.spineOk then next (announceJoin s h) 9 else halfFails s h q
  | 10 => next (trainDram s h) 11
  | 11 => halfEnter (testHalf s h r) h
  | 12 => if bankChanges s then s else halfJoins s h q
  | _ => s

/-! ### Commands of bring-up -/

/-- An input rises above 60 V: bring-up begins, or a half's auxiliary plane comes back (R442, R447, R448). -/
def execBusbarInputRise (half : Nat) (s : State) : Out :=
  .next (
    let h := half % 2
    if (getHalf s h).power then s
    else
      let s := modHalf s h fun x => { x with power := true, inSince := none, heartbeat := s.tally }
      if s.boot.phase = 0 then { s with state := .bringUp, boot := { s.boot with phase := 1, started := s.tally } }
      else if s.boot.phase = 1 then s
      else modHalf (auxUp s h) h fun x => { x with refOk := true })

/-- Are the phases of bring-up running? -/
def booting (s : State) : Bool := s.state = .bringUp && decide (1 ≤ s.boot.phase) && decide (s.boot.phase ≤ 12) && !s.pins.resetLow

def execBringUpPhaseComplete (r : PhaseResult) (s : State) : Out :=
  report s (
    if booting s then endPhase s r
    else match s.boot.half with
      | some (h, q) => endHalfPhase s h q r
      | none => s)

/-- The latest end of a phase, in milliseconds (Table 20-5). -/
def phaseEnd (n : Nat) : Nat := ([0, 2, 3, 60, 240, 250, 260, 270, 770, 771, 1070, 1770, 1900] : List Nat).getD n 1900

/-- A phase that passes its time by more than its own length treats what has not finished as failed: `r` names it (R445). -/
def execBringUpPhaseTimeout (r : PhaseResult) (s : State) : Out :=
  report s (
    let n := s.boot.phase
    if booting s && decide ((2 * phaseEnd n - phaseEnd (n - 1)) * 1000000 < bootAge s) then endPhase s r else s)

/-! ### HALF_SET (R33, R34, R441, R449) -/

/-- Check 8 of ACT 0: an active request on a partition with a die in the half. -/
def halfBusy (s : State) (h : Nat) : Bool := (partsOfHalf s h).any fun p => partBusy s p

/-- May the half come back: powered with its input in range for 1 s, its reference running, nothing else under way? -/
def halfReturns (s : State) (h : Nat) : Bool :=
  let x := getHalf s h
  !x.inService && x.power && x.refOk && heldFor s x.inSince 1000000000 && x.ramp.isNone && s.boot.half.isNone

def cmdHalfSet (m : Msg) : Cmd :=
  let h := pf m 0 1
  { code := 0x0904, priv := 2, form := lenIs m 2 && decide (h ≤ 1) && decide (pf m 1 1 ≤ 1),
    check := fun s =>
      if pf m 1 1 = 0 then (if (getHalf s h).inService && (halfBusy s h || !(getHalf s (1 - h)).inService) then some stModeConflict else none)
      else if (getHalf s h).inService && !(getHalf s h).leaving && s.boot.half.isNone || halfReturns s h then none
      else some stModeConflict
    run := fun s r =>
      if pf m 1 1 = 0 then
        -- the transition follows the completion (R441): epoch change, ramp-down, and at its end the half is out
        complete (if (getHalf s h).inService && !(getHalf s h).leaving then emptyHalf (modHalf s h fun x => { x with leaving := true }) h else s) r stOk []
      else if (getHalf s h).inService then complete s r stOk []
      else { s with boot := { s.boot with half := some (h, r), halfPhase := 6 } } }

def execHalfSet (m : Msg) (s : State) : Out := report s (teller s m (.halfSet m) (cmdHalfSet m))

/-! ### Discrete inputs (R349, R459) -/

/-- THERM_TRIP#: both halves' main outputs ramp down, the safe state with SAFE_CAUSE 4; a Vault write under way ends as at power loss. -/
def execThermTrip (s : State) : Out :=
  report s (
    if s.pins.thermTrip then s
    else
      let s := { s with pins := { s.pins with thermTrip := true } }
      if s.pins.resetLow then s else rampPanel (bumpFree { s with vault := cutVault s }) 4 false)

def execThermTripRelease (s : State) : Out := .next { s with pins := { s.pins with thermTrip := false } }

/-- RESET# low: MFR_RAMPDOWN 0 and the order of Table 15-10; the hubs hold themselves in reset when it is over. -/
def execResetPinAssert (s : State) : Out :=
  report s (
    if s.pins.resetLow then s
    else
      let s := bumpFree { s with pins := { s.pins with resetLow := true }, vault := cutVault s }
      let s := mfrRampdown (mfrRampdown s 0 0) 1 0
      let s := modHalf (modHalf s 0 fun x => { x with inService := false }) 1 fun x => { x with inService := false }
      startRamp (startRamp s 0 s.tally false) 1 s.tally false)

/-- RESET# released: everything but the Vault, the power inputs and HUB.RESETWIN, which only power-on resets (R414), starts again, from
phase 3 of bring-up, with RSTBOOT set. Tally restarts, and with it the age of each counted event (log 69). A panel with both hubs out stays
as it is (R32). -/
def execResetPinRelease (s : State) : Out :=
  .next (
    if !s.pins.resetLow then s
    else if s.boot.hubsLost then { s with pins := { s.pins with resetLow := false } }
    else
      let half (x : Half) : Half := { Half.reset with power := x.power, inSince := x.inSince, outSince := x.outSince, refOk := x.refOk }
      { State.reset with
        pending := s.pending, emitted := s.emitted, freeCtr := s.freeCtr + 1, vault := cutVault s, nextEst := s.nextEst, denyLimit := s.denyLimit
        stages := Tbl.map s.stages fun _ x => { Stage.reset with
          state := if x.state = 3 || x.state = 4 then x.state else 0, auxOn := x.auxOn, trippedOnce := x.trippedOnce }
        half0 := half s.half0, half1 := half s.half1, pins := { s.pins with resetLow := false }, guestCut := s.guestCut
        resets := { s.resets with times := s.resets.times.map fun _ => 0, panelAt := none }
        boot := { State.reset.boot with phase := 3, started := -3000000, rstBoot := true, powerCycled := s.boot.powerCycled } })

/-- TWIN_PRESENT low counts as the partner gone; while its BEAT frames still arrive a TWIN event is all that follows (R291, R459). -/
def execTwinPresentLow (s : State) : Out :=
  report s (
    if !s.pins.twinPresent then s
    else
      let s := { s with pins := { s.pins with twinPresent := false } }
      if s.twin.attached && decide (now s < s.twin.lastBeat.toNat + 20000000) then twinEvent s 0 else s)

def execTwinPresentHigh (s : State) : Out := report s { s with pins := { s.pins with twinPresent := true } }

end Sys2Proof.Machine
end

