-- ==== Sys2Proof/Machine/Scratchpad.lean ====
section
/-! DEFINITION. Scratchpad loads and stores, and the bank's rewrite of a corrected word (R91 to R93, R160 to R168). -/

namespace Sys2Proof.Machine

/-- Access size of LD and ST (SZ). -/
def accessSize (i : Issue) : Nat := 2 ^ i.fld 16 3

/-- Address sA + OFF. -/
def accessAddr (i : Issue) (x : Ctx) : Nat := addrOf (x.s i.ra) (signed (i.fld 0 16) 16)

/-- Faults of a scratchpad access of `n` bytes aligned to `n`, whose 16-byte form names the pair from register `r` on (R91 to R93). -/
def accessFaults (x : Ctx) (a n r : Nat) : List FaultRec :=
  (if a % n ≠ 0 ∨ (n = 16 ∧ r % 2 ≠ 0) then [fIllegal x.pc] else []) ++ boundFault a n

/-- The value LD writes: zero-extended, or sign-extended from its size. -/
def extend (v n : Nat) (sx : Bool) : Word :=
  if sx ∧ n < 8 then BitVec.ofInt 64 (signed v (8 * n)) else BitVec.ofNat 64 v

def bodyLd (i : Issue) (s : State) (x : Ctx) : Res :=
  let n := accessSize i
  let a := accessAddr i x
  if i.fld 16 3 > 4 then illegal s x
  else match accessFaults x a n i.rd with
    | [] =>
      let (t, r) := tillLoad s i.core a n
      match r with
      | .error w => .fault t [fSpmUe w]
      | .ok v =>
        let y := x.setS i.rd (extend v n (i.bit 19))
        retireCtx t i (if n = 16 then y.setS (i.rd + 1) (BitVec.ofNat 64 (v / 2 ^ 64)) else y)
    | fs => .fault s fs

def execLd (i : Issue) (s : State) : Out := .next (issue { Enc.none with d := true, a := true, imm := 0xFFFFF } i s (bodyLd i))

def bodySt (i : Issue) (s : State) (x : Ctx) : Res :=
  let n := accessSize i
  let a := accessAddr i x
  if i.fld 16 3 > 4 then illegal s x
  else match accessFaults x a n i.rb with
    | [] =>
      if rangeBusy s i.core a n then .wait s (.range 0x21 i) .waitEngine
      else
        let v := (x.s i.rb).toNat + (if n = 16 then 2 ^ 64 * (x.s (i.rb + 1)).toNat else 0)
        .retire (tillStore s i.core a n v) (nextPc x)
    | fs => .fault s fs

def execSt (i : Issue) (s : State) : Out := .next (issue { Enc.none with a := true, b := true, imm := 0x7FFFF } i s (bodySt i))

/-- Faults of a 64-byte access (R92, R93). -/
def bodyVld (i : Issue) (s : State) (x : Ctx) : Res :=
  let a := accessAddr i x
  let m := maskOf i x
  match accessFaults x a 64 0 with
  | [] =>
    let r := spmRead s i.core a 64
    let t := noteRead s i.core r
    match r.bad with
    | some w => .fault t [fSpmUe w]
    | none => retireCtx t i (x.setV i.rd (maskLanes i.men m (x.v i.rd) (BitVec.ofNat 512 r.data)))
  | fs => .fault s fs

def execVld (i : Issue) (s : State) : Out :=
  .next (issue { Enc.none with d := true, a := true, imm := 0xFFFF, men := true } i s (bodyVld i))

/-- The byte mask of the lanes a mask selects. -/
def laneBytes (m : BitVec 16) : Nat := (List.range 64).foldl (fun acc b => if m.getLsbD (b / 4) then acc + 2 ^ b else acc) 0

def bodyVst (i : Issue) (s : State) (x : Ctx) : Res :=
  let a := accessAddr i x
  match accessFaults x a 64 0 with
  | [] =>
    if (List.range 16).any fun j => (maskOf i x).getLsbD j && rangeBusy s i.core (a + 4 * j) 4 then .wait s (.range 0x23 i) .waitEngine
    else .retire (spmWriteLine s i.core (a / 64) (laneBytes (maskOf i x)) (x.v i.rb).toNat) (nextPc x)
  | fs => .fault s fs

def execVst (i : Issue) (s : State) : Out :=
  .next (issue { Enc.none with a := true, b := true, imm := 0xFFFF, men := true } i s (bodyVst i))

/-- The bank rewrites a word it has corrected, if it still waits to (R162). -/
def execSpmCeRewrite (core word : Nat) (s : State) : Out :=
  .next (
    if (getCore s core).rewrite.contains word then
      modClu (modCore s core (·.cure word)) (clusterOf core) fun u => { u with ceCount := satAdd u.ceCount 1 }
    else s)

end Sys2Proof.Machine
end

