-- ==== Sys2Proof/Machine/Vector.lean ====
section
/-! DEFINITION. Vector arithmetic, reductions, conversions, quantisation and masks (02 R48; 04 R111 to R116, R466). -/

namespace Sys2Proof.Machine

/-- vD ← f on every lane, under the mask of R466. -/
def lanes (i : Issue) (f : Nat → Lane) (s : State) (x : Ctx) : Res :=
  retireCtx s i (x.setV i.rd (maskLanes i.men (maskOf i x) (x.v i.rd) (ofLanes f)))

/-- Lane-wise on vA and vB. -/
def lanes2 (i : Issue) (f : Lane → Lane → Lane) (s : State) (x : Ctx) : Res :=
  lanes i (fun j => f (lane (x.v i.ra) j) (lane (x.v i.rb) j)) s x

/-- Lane-wise on vA. -/
def lanes1 (i : Issue) (f : Lane → Lane) (s : State) (x : Ctx) : Res := lanes i (fun j => f (lane (x.v i.ra) j)) s x

def Enc.vab : Enc := { Enc.dab with men := true }
def Enc.va : Enc := { Enc.da with men := true }

def execVfma (i : Issue) (s : State) : Out :=
  .next (issue { Enc.vab with c := true } i s fun s x =>
    lanes i (fun j => f32Fma (lane (x.v i.ra) j) (lane (x.v i.rb) j) (lane (x.v i.rc) j)) s x)

def execVadd (i : Issue) (s : State) : Out := .next (issue Enc.vab i s (lanes2 i f32Add))
def execVsub (i : Issue) (s : State) : Out := .next (issue Enc.vab i s (lanes2 i f32Sub))
def execVmul (i : Issue) (s : State) : Out := .next (issue Enc.vab i s (lanes2 i f32Mul))
def execVmin (i : Issue) (s : State) : Out := .next (issue Enc.vab i s (lanes2 i f32Min))
def execVmax (i : Issue) (s : State) : Out := .next (issue Enc.vab i s (lanes2 i f32Max))
def execVdiv (i : Issue) (s : State) : Out := .next (issue Enc.vab i s (lanes2 i f32Div))
def execVsqrt (i : Issue) (s : State) : Out := .next (issue Enc.va i s (lanes1 i f32Sqrt))

/-- A 16-bit mask from its bits. -/
def ofBits (f : Nat → Bool) : BitVec 16 :=
  BitVec.ofNat 16 ((List.range 16).foldl (fun acc j => if f j then acc + 2 ^ j else acc) 0)

def execVcmp (i : Issue) (s : State) : Out :=
  .next (issue { Enc.vab with imm := 0xF } i s fun s x =>
    if i.fld 0 3 > 5 ∨ i.rd > 7 then illegal s x
    else
      let c := if i.bit 3 then intCmp else f32Cmp
      let m := maskOf i x
      retireCtx s i (x.setM i.rd (ofBits fun j =>
        if m.getLsbD j then c (i.fld 0 3) (lane (x.v i.ra) j) (lane (x.v i.rb) j) else (x.m i.rd).getLsbD j)))

/-- FN of VLOG. -/
def vlogFn (fn : Nat) (a b : Lane) : Lane :=
  match fn with
  | 0 => a &&& b | 1 => a ||| b | 2 => a ^^^ b | _ => a &&& ~~~ b

def execVlog (i : Issue) (s : State) : Out :=
  .next (issue { Enc.vab with imm := 0x7 } i s fun s x =>
    if i.fld 0 3 > 3 then illegal s x else lanes2 i (vlogFn (i.fld 0 3)) s x)

/-- VSEL's selector is mMSK; under MEN the same mask leaves the lanes whose bit is 0 (R466). -/
def execVsel (i : Issue) (s : State) : Out :=
  .next (issue { Enc.vab with sel := true } i s fun s x =>
    let m := x.m i.msk.toNat
    lanes i (fun j => if m.getLsbD j then lane (x.v i.ra) j else lane (x.v i.rb) j) s x)

def execVbcast (i : Issue) (s : State) : Out :=
  .next (issue Enc.va i s fun s x => lanes i (fun _ => (x.s i.ra).setWidth 32) s x)

def execVext (i : Issue) (s : State) : Out :=
  .next (issue { Enc.da with imm := 0xF } i s fun s x =>
    retireCtx s i (x.setS i.rd ((lane (x.v i.ra) (i.fld 0 4)).setWidth 64)))

/-- The fixed pairwise tree of R112. -/
def pairTree (f : Lane → Lane → Lane) (l : Nat → Lane) : Lane :=
  let l1 (j : Nat) := f (l (2 * j)) (l (2 * j + 1))
  let l2 (j : Nat) := f (l1 (2 * j)) (l1 (2 * j + 1))
  let l3 (j : Nat) := f (l2 (2 * j)) (l2 (2 * j + 1))
  f (l3 0) (l3 1)

def execVred (i : Issue) (s : State) : Out :=
  .next (issue { Enc.va with imm := 0x7 } i s fun s x =>
    if i.fld 0 3 > 2 then illegal s x
    else
      let m := maskOf i x
      let f := match i.fld 0 3 with | 0 => f32Add | 1 => f32Max | _ => f32Min
      let off : Lane := match i.fld 0 3 with | 0 => 0x80000000#32 | 1 => inf32 true | _ => inf32 false
      let r := pairTree f fun j => if m.getLsbD j then lane (x.v i.ra) j else off
      retireCtx s i (x.setS i.rd (r.setWidth 64)))

/-- FN of VFN (R114). -/
def vfnFn (fn : Nat) : Lane → Lane :=
  match fn with
  | 0 => vfnRcp | 1 => vfnRsq | 2 => vfnExp2 | _ => vfnLog2

def execVfn (i : Issue) (s : State) : Out :=
  .next (issue { Enc.va with imm := 0x7 } i s fun s x =>
    if i.fld 0 3 > 3 then illegal s x else lanes1 i (vfnFn (i.fld 0 3)) s x)

/-- FN of VIOP; shift counts are bits [4:0] of the lane of vB. -/
def viopFn (fn : Nat) (a b : Lane) : Lane :=
  match fn with
  | 0 => a + b | 1 => a - b | 2 => a <<< (b.toNat % 32) | 3 => a >>> (b.toNat % 32) | 4 => a.sshiftRight (b.toNat % 32) | _ => a * b

def execViop (i : Issue) (s : State) : Out :=
  .next (issue { Enc.vab with imm := 0x7 } i s fun s x =>
    if i.fld 0 3 > 5 then illegal s x else lanes2 i (viopFn (i.fld 0 3)) s x)

/-- Packed elements of `b` bits as one number, element 0 lowest (R77). -/
def packElems (b : Nat) (l : List Nat) : Nat := l.foldr (fun c acc => c + 2 ^ b * acc) 0

/-- VCVT's result for one pair of formats (Table 4-8), or nothing where the pair is not listed. -/
def convert (src dst : Nat) (sat : Bool) (rnd : Nat → Option Nat) (v : Line) : Option Line :=
  if src = 0 ∧ dst = 0 then some v
  else if src = 0 ∧ (dst = 1 ∨ dst = 2 ∨ dst = 3 ∨ dst = 4 ∨ dst = 7) then
    some (BitVec.ofNat 512 (packElems (elemBits dst) ((List.range 16).map fun j => narrow dst sat (rnd j) (decode32 (lane v j)))))
  else if dst = 0 ∧ (src = 1 ∨ src = 2 ∨ src = 3 ∨ src = 4 ∨ src = 7) then
    some (ofLanes fun j => widen src (field v.toNat (elemBits src * j) (elemBits src)))
  else none

def execVcvt (i : Issue) (s : State) : Out :=
  .next (issue { Enc.va with b := i.bit 9, c := i.bit 9, imm := 0x3FF } i s fun s x =>
    let rnd (j : Nat) : Option Nat :=
      if i.bit 9 then some (roundWord (x.s i.rb).toNat (((x.s i.rc).toNat + j) % 2 ^ 64)) else none
    match convert (i.fld 0 4) (i.fld 4 4) (i.bit 8) rnd (x.v i.ra) with
    | none => illegal s x
    | some v => retireCtx s i (x.setV i.rd (maskLanes i.men (maskOf i x) (x.v i.rd) v)))

/-- Is an FP16 tile scale finite and positive (R81)? -/
def tileScaleOk (t : Nat) : Bool :=
  match decodeElem 2 t with
  | .fin neg m _ => !neg && m ≠ 0
  | _ => false

/-- The element formats of QBLK and DQBLK. -/
def qfmtOk (f : Nat) : Bool := decide (3 ≤ f) && decide (f ≤ 7)

/-- QBLK. The scale byte is written after the elements: where its address lies among them, it is what stands there (DESIGN CHOICE, log 93). -/
def bodyQblk (i : Issue) (s : State) (x : Ctx) : Res :=
  let f := i.fld 0 4
  let t := i.fld 5 16
  let a := (x.s i.rb).toNat
  let e := (x.s i.rc).toNat
  let n := 4 * elemBits f
  let bad := i.ra % 2 ≠ 0 ∨ (i.bit 4 ∧ i.rd % 2 ≠ 0) ∨ a % 8 ≠ 0 ∨ !tileScaleOk t
  if !qfmtOk f then illegal s x
  else match (if bad then [fIllegal x.pc] else []) ++ boundFault a n ++ boundFault e 1 with
    | [] =>
      if rangeBusy s i.core a n || rangeBusy s i.core e 1 then .wait s (.range 0x81 i) .waitEngine
      else
        let v := (List.range 32).map fun j => lane (x.v (i.ra + j / 16)) (j % 16)
        let rnd (j : Nat) : Option Nat :=
          if i.bit 4 then some (roundWord (x.s i.rd).toNat (((x.s (i.rd + 1)).toNat + j) % 2 ^ 64)) else none
        let q := quantBlock f t rnd v
        .retire (spmWrite (spmWrite s i.core a n (packElems (elemBits f) q.2)) i.core e 1 q.1) (nextPc x)
    | fs => .fault s fs

def execQblk (i : Issue) (s : State) : Out :=
  .next (issue { Enc.none with d := i.bit 4, a := true, b := true, c := true, imm := 0x1FFFFF } i s (bodyQblk i))

def execDqblk (i : Issue) (s : State) : Out :=
  .next (issue { Enc.vab with imm := 0x1FFFEF } i s fun s x =>
    let f := i.fld 0 4
    let t := i.fld 5 16
    let a := (x.s i.ra).toNat
    let e := (x.s i.rb).toNat
    let n := 4 * elemBits f
    if !qfmtOk f then illegal s x
    else match (if i.rd % 2 ≠ 0 ∨ a % 8 ≠ 0 then [fIllegal x.pc] else []) ++ boundFault a n ++ boundFault e 1 with
      | [] =>
        let r := spmRead s i.core a n
        let q := spmRead s i.core e 1
        let bad := match r.bad with | some w => some w | none => q.bad
        let u := noteRead s i.core { data := 0, bad := bad, ce := r.ce ++ q.ce }
        match bad with
        | some w => .fault u [fSpmUe w]
        | none =>
          let g (h : Nat) := ofLanes fun j => dequant f (field r.data (elemBits f * (16 * h + j)) (elemBits f)) q.data t
          let m := maskOf i x
          let y := x.setV i.rd (maskLanes i.men m (x.v i.rd) (g 0))
          retireCtx u i (y.setV (i.rd + 1) (maskLanes i.men m (x.v (i.rd + 1)) (g 1)))
      | fs => .fault s fs)

def execMlog (i : Issue) (s : State) : Out :=
  .next (issue { Enc.da with b := decide (i.fld 0 3 < 3), imm := 0x7 } i s fun s x =>
    let fn := i.fld 0 3
    let am := fn ≠ 4
    let dm := fn ≠ 5
    if fn > 5 ∨ (am ∧ i.ra > 7) ∨ (dm ∧ i.rd > 7) ∨ (fn < 3 ∧ i.rb > 7) then illegal s x
    else retireCtx s i (match fn with
      | 0 => x.setM i.rd (x.m i.ra &&& x.m i.rb)
      | 1 => x.setM i.rd (x.m i.ra ||| x.m i.rb)
      | 2 => x.setM i.rd (x.m i.ra ^^^ x.m i.rb)
      | 3 => x.setM i.rd (~~~ x.m i.ra)
      | 4 => x.setM i.rd ((x.s i.ra).setWidth 16)
      | _ => x.setS i.rd ((x.m i.ra).setWidth 64)))

/-- Index of the largest eligible lane, the lowest on a tie; 16 if none (R113). -/
def argMax (m : BitVec 16) (v : Line) : Nat :=
  let ok := (List.range 16).filter fun j => m.getLsbD j && !isNan32 (lane v j)
  match ok with
  | [] => 16
  | j :: r => r.foldl (fun b q => if val32 (lane v b) < val32 (lane v q) then q else b) j

def execVargmax (i : Issue) (s : State) : Out :=
  .next (issue Enc.va i s fun s x => retireCtx s i (x.setS i.rd (BitVec.ofNat 64 (argMax (maskOf i x) (x.v i.ra)))))

end Sys2Proof.Machine
end

