-- ==== Sys2Proof/Machine/Engine.lean ====
section
/-! DEFINITION. Engine operations, their blocks, the tile checker, drains, and the instructions that wait for an engine
(02 R42 to R47; 04 R107 to R111, R120; 05 R135 to R147; 18 R390, R401). -/

namespace Sys2Proof.Machine

/-! ### Queuing an operation (R107 to R109) -/

/-- The sparsity policy in force for a core's partition. -/
def sparsePolicy (s : State) (k : Nat) : MapSparse :=
  match (partOfCore s k).bind fun p => (getPart s p).map with
  | some m => m.sparse
  | none => { tolerant := false, xo4 := 308, xo8 := 410, xo16 := 512 }

/-- The operation an ETILE or ESPARSE names. -/
def mkOp (sparse : Bool) (i : Issue) (x : Ctx) (id : Nat) (policy : MapSparse) : EngOp :=
  let sc := (x.s i.rc).toNat
  { id := id, ctx := i.ctx, eng := i.fld 16 2, aset := i.fld 18 3, fba := BitVec.ofNat 8 (i.fld 0 8), fbb := BitVec.ofNat 8 (i.fld 8 8),
    rg := i.fld 21 3, cg := i.fld 24 3, spa := sparse && i.bit 27, spb := sparse && i.bit 28, aAddr := (x.s i.ra).toNat,
    bAddr := (x.s i.rb).toNat, aStride := field sc 0 16, bStride := field sc 16 16, nblk := field sc 32 8, closed := 0,
    check := if sparse then .waiting else .notNeeded, stage := 0, policy := policy, dead := false, task := x.task,
    word := i.word (if sparse then 0x61 else 0x60), pc := x.pc }

/-- The ILLEGAL_OP checks of R107 to R109 and R134. -/
def opIllegal (sparse : Bool) (i : Issue) (x : Ctx) (o : EngOp) : Bool :=
  let fa := o.fba.toNat
  let fb := o.fbb.toNat
  !fbyteOk fa || !fbyteOk fb || fa.testBit 5 || !fb.testBit 5 ||
  (rateClass (fa % 16)).isNone || rateClass (fa % 16) ≠ rateClass (fb % 16) || o.aset / 2 ≠ i.ctx ||
  (x.s i.rc).toNat ≥ 2 ^ 40 || o.nblk = 0 || o.aStride % 64 ≠ 0 || o.bStride % 64 ≠ 0 ||
  (sparse && !(o.spa || o.spb)) || (o.spa && (o.aStride ≠ 0 || o.aAddr % 4 ≠ 0)) || (o.spb && (o.bStride ≠ 0 || o.bAddr % 4 ≠ 0))

/-- The BOUND_FAULT check of one operand: a directory, or every tile in order (R93, R108). The size of a tile whose format byte is not legal is
that of 8-bit elements where Table 3-5 gives none (DESIGN CHOICE, log 132): BOUND_FAULT ranks before the ILLEGAL_OP of that byte (R15). -/
def operandBound (sp : Bool) (a stride fb nblk : Nat) : List FaultRec :=
  if sp then boundFault a (4 * nblk)
  else match (List.range nblk).find? fun b => a + b * stride + denseSize fb > spmSize with
    | some b => [fBound 0 (a + b * stride)]
    | none => []

/-- In serial mode an engine takes a suspect's operation only while no other suspect has one on it (R401). -/
def serialBlocked (c : Core) (e n : Nat) : Bool :=
  let sus : BitVec 4 := Tbl.get c.suspects e 0
  c.serial.getLsbD e && sus.getLsbD n && (c.eng e).live.any fun o => o.ctx ≠ n && sus.getLsbD o.ctx

/-- ETILE and ESPARSE retire when they are queued, as R108 has it (DEDUCED, log 90: R53 speaks of closed blocks). -/
def bodyEngine (sparse : Bool) (i : Issue) (s : State) (x : Ctx) : Res :=
  let c := getCore s i.core
  let o := mkOp sparse i x c.nextOp (sparsePolicy s i.core)
  match (if opIllegal sparse i x o then [fIllegal x.pc] else []) ++ operandBound o.spa o.aAddr o.aStride o.fba.toNat o.nblk
      ++ operandBound o.spb o.bAddr o.bStride o.fbb.toNat o.nblk with
  | [] =>
    let g := c.eng o.eng
    if g.live.length ≥ 4 ∨ serialBlocked c o.eng i.ctx then .wait s (.engine (if sparse then 0x61 else 0x60) i) .waitEngine
    else
      let g := { g with queue := g.queue ++ [o], wdStart := if g.live = [] then s.tally else g.wdStart }
      .retire (setCore s i.core { c.setEng o.eng g with nextOp := c.nextOp + 1 }) (nextPc x)
  | fs => .fault s fs

def encTile : Enc := { Enc.none with a := true, b := true, c := true, imm := 0x7FFFFFF }

def execEtile (i : Issue) (s : State) : Out := .next (issue encTile i s (bodyEngine false i))
def execEsparse (i : Issue) (s : State) : Out := .next (issue { encTile with imm := 0x1FFFFFFF } i s (bodyEngine true i))

/-! ### Drains -/

/-- Are operations of the context on the set still unclosed (R47)? -/
def setBusy (c : Core) (e a n : Nat) : Bool := (c.eng e).live.any fun o => o.aset = a && o.ctx = n

/-- The drained set as one number of `4 × width` bits a cell (R111). -/
def drained (c : Core) (e a f : Nat) (sat : Bool) (rnd : Nat → Option Nat) : Nat :=
  if f = 0 then (c.accSet e a).toNat
  else packElems (elemBits f) ((List.range 16).map fun j => narrow f sat (rnd j) (decode32 (lane (c.accSet e a) j)))

def bodyDrain (i : Issue) (s : State) (x : Ctx) : Res :=
  let e := i.fld 16 2
  let as_ := i.fld 18 3
  let f := i.fld 21 4
  let a := (x.s i.ra).toNat
  let n := 2 * elemBits f
  let c := getCore s i.core
  if !(f = 0 ∨ f = 1 ∨ f = 2 ∨ f = 3 ∨ f = 4 ∨ f = 7) then illegal s x
  else match (if as_ / 2 ≠ i.ctx ∨ a % n ≠ 0 then [fIllegal x.pc] else []) ++ boundFault a n with
    | [] =>
      if setBusy c e as_ i.ctx then .hold
      else if rangeBusy s i.core a n then .wait s (.range 0x62 i) .waitEngine
      else
        let rnd (j : Nat) : Option Nat :=
          if i.bit 26 then some (roundWord (x.s i.rb).toNat (((x.s i.rc).toNat + j) % 2 ^ 64)) else none
        let t := spmWrite s i.core a n (drained c e as_ f (i.bit 25) rnd)
        .retire (if i.bit 27 then modCore t i.core (·.setAcc e as_ 0) else t) (nextPc x)
    | fs => .fault s fs

def execDrain (i : Issue) (s : State) : Out :=
  .next (issue { Enc.none with a := true, b := i.bit 26, c := i.bit 26, imm := 0xFFF0000 } i s (bodyDrain i))

def execAzero (i : Issue) (s : State) : Out :=
  .next (issue { Enc.none with imm := 0x1F0000 } i s fun s x =>
    let e := i.fld 16 2
    let a := i.fld 18 3
    if a / 2 ≠ i.ctx then illegal s x
    else if setBusy (getCore s i.core) e a i.ctx then .hold
    else .retire (modCore s i.core (·.setAcc e a 0)) (nextPc x))

/-! ### A fault that reaches a context from its operations (R110, R136) -/

/-- Does the task that queued an operation still run? -/
def EngOp.taskRuns (s : State) (k : Nat) (o : EngOp) : Bool := (getCtx s k o.ctx).task = o.task && (getCtx s k o.ctx).state.running

/-- A report to the context that queued the operation: it ends a wait at once, and is pending, beside any other, at a context that can issue; a
task that has ended sees nothing. -/
def reportFault (s : State) (k : Nat) (o : EngOp) (f : FaultRec) : State :=
  if !o.taskRuns s k then s
  else
    let x := getCtx s k o.ctx
    let t := setCtx s k o.ctx { x with pend := x.pend ++ [f] }
    if x.state = .ready then t else retirePoint t k o.ctx [] t

/-! ### A block (R42 to R45, R110, R141, R142) -/

/-- One operand's block: the four lines of 32 element values, their E8M0 codes, the tile scale, and the bytes it reads. -/
structure OperandBlock where
  elems : List (List FP)
  scales : List Nat
  tscale : FP
  spans : List (Nat × Nat)
  deriving DecidableEq, Repr

/-- Scales of lines `4g .. 4g+3` from the trailer at `t` (Table 3-4); 127 and 1.0 where the tile has none (R79). -/
def tileScales (s : State) (k fb t g : Nat) : List Nat × FP × List (Nat × Nat) :=
  if fb.testBit 4 then
    ((List.range 4).map fun j => spmBytes s k (t + 4 * g + j) 1, decodeElem 2 (spmBytes s k (t + 32) 2), [(t + 4 * g, 4), (t + 32, 2)])
  else ([127, 127, 127, 127], .fin false 1 0, [])

/-- The block of a dense tile at `a`: rows of A, columns of B. -/
def denseBlock (s : State) (k a fb g : Nat) (cols : Bool) : OperandBlock :=
  let f := fb % 16
  let at2 (j kk : Nat) := if cols then denseElem s k a f kk (4 * g + j) else denseElem s k a f (4 * g + j) kk
  let sc := tileScales s k fb (a + 32 * rowBytes f) g
  let spans := if cols then
      (List.range 32).map fun r =>
        let p := elemSpan f r (4 * g)
        let q := elemSpan f r (4 * g + 3)
        (a + p.1, q.1 + q.2 - p.1)
    else [(a + 4 * g * rowBytes f, 4 * rowBytes f)]
  { elems := (List.range 4).map fun j => (List.range 32).map fun kk => decodeElem f (at2 j kk),
    scales := sc.1, tscale := sc.2.1, spans := spans ++ sc.2.2 }

/-- The block of a sparse tile named by entry `b` of the directory: positions that are not stored are +0 (R141, R142). -/
def sparseBlock (s : State) (k dir b fb g : Nat) : OperandBlock :=
  let f := fb % 16
  let a := spmBytes s k (dir + 4 * b) 2
  let m := metaAt s k a
  let l := (tileElems s k a).getD []
  let slen := 64 * ceilDiv (16 + streamLen f m.pairs) 64
  let sc := tileScales s k fb (a + slen) g
  { elems := (List.range 4).map fun j => (List.range 32).map fun kk =>
      match l.find? fun e => e.1 = 32 * (4 * g + j) + kk with
      | some e => decodeElem f e.2
      | none => .fin false 0 0
    scales := sc.1, tscale := sc.2.1, spans := [(dir + 4 * b, 4), (a, slen)] ++ sc.2.2 }

/-- Both operand blocks of block `b` of an operation. -/
def opBlocks (s : State) (k : Nat) (o : EngOp) (b : Nat) : OperandBlock × OperandBlock :=
  (if o.spa then sparseBlock s k o.aAddr b o.fba.toNat o.rg else denseBlock s k (o.aAddr + b * o.aStride) o.fba.toNat o.rg false,
   if o.spb then sparseBlock s k o.bAddr b o.fbb.toNat o.cg else denseBlock s k (o.bAddr + b * o.bStride) o.fbb.toNat o.cg true)

/-- The accumulator set after a block: cell (i, j) at lane 4i + j (R42, R111). -/
def closeBlock (a b : OperandBlock) (acc : Line) : Line :=
  ofLanes fun l =>
    let i := l / 4
    let j := l % 4
    cellBlock (a.elems.getD i []) (b.elems.getD j []) (a.scales.getD i 127) (b.scales.getD j 127) a.tscale b.tscale (lane acc l)

/-- An engine with its head operation one block further; an operation whose last block has closed leaves the queue. -/
def Engine.advance (g : Engine) (id : Nat) (t : Word) : Engine :=
  { g with
    wdStart := t
    queue := g.queue.filterMap fun o =>
      if o.id = id then (if o.closed + 1 ≥ o.nblk then none else some { o with closed := o.closed + 1 }) else some o }

def execEngineBlockClose (core eng : Nat) (upsets : List (Nat × Bool)) (s : State) : Out :=
  .next (
    if !coreServing s core || s.clock.stopped then s
    else
      let s := modCore s core (·.upset upsets)
      let c := getCore s core
      let g := c.eng eng
      match g.live with
      | [] => s
      | o :: _ =>
        if g.hung || o.check = .waiting || o.check = .taken then s
        else
          let (a, b) := opBlocks s core o o.closed
          let rs := (a.spans ++ b.spans).map fun p => spmRead s core p.1 p.2
          let bad := (rs.filterMap (·.bad)).head?
          let t := noteRead s core { data := 0, bad := bad, ce := rs.flatMap (·.ce) }
          match bad with
          | some w =>
            let t := modCore t core fun c => (c.removeFrom o).setAcc o.eng o.aset 0
            reportFault t core o (fSpmUe w)
          | none =>
            modCore t core fun c =>
              (c.setEng eng (g.advance o.id s.tally)).setAcc o.eng o.aset (closeBlock a b (c.accSet o.eng o.aset)))

/-! ### The tile checker (R135, R136, R141, R146, R147) -/

/-- Every operation in the queues of a core, in the order they were queued. -/
def Core.allOps (c : Core) : List EngOp :=
  let l := c.engines.flatMap fun e => e.2.queue
  l.mergeSort fun a b => a.id ≤ b.id

def Core.taken (c : Core) : Option EngOp := c.allOps.find? fun o => o.check = .taken

/-- Every engine with `f` on its operations. -/
def Core.mapOps (c : Core) (f : EngOp → Option EngOp) : Core :=
  { c with engines := Tbl.map c.engines fun _ g => { g with queue := g.queue.filterMap f } }

/-- The engines' watchdogs restart at the checker's progress (R390). -/
def Core.kick (c : Core) (t : Word) : Core := { c with engines := Tbl.map c.engines fun _ g => { g with wdStart := t } }

def execTileCheckerTakeOp (core : Nat) (s : State) : Out :=
  .next (
    let c := getCore s core
    if c.taken.isSome || s.clock.stopped then s
    else match c.allOps.find? fun o => o.check = .waiting with
      | none => s
      | some o => setCore s core (c.mapOps fun q => some (if q.id = o.id then { q with check := .taken } else q)))

/-- The crossover of a format (Table 5-7). -/
def crossover (m : MapSparse) (f : Nat) : Nat :=
  match f with
  | 6 => m.xo4 | 1 => m.xo16 | 2 => m.xo16 | _ => m.xo8

/-- Path choice and its counters for one tile (R141, R147). -/
def Cluster.countTile (u : Cluster) (m : MapSparse) (t : Nat × Nat × Nat × Bool) : Cluster :=
  if t.2.2.2 then { u with tolerated := satAdd u.tolerated 1 }
  else if t.2.2.1 < crossover m (t.2.1 % 16) then { u with spTiles := satAdd u.spTiles 1 }
  else { u with dnTiles := satAdd u.dnTiles 1 }

/-- The checker passes the operation it has taken. One whose task has been aborted or has faulted leaves the queue, and none of its tiles is
counted, as none runs (DEDUCED, log 94). -/
def execTileCheckComplete (core : Nat) (s : State) : Out :=
  .next (
    let c := getCore s core
    match c.taken with
    | none => s
    | some o =>
      let m := o.policy
      let r := checkOp s core o (!m.tolerant)
      if r.fail.isSome || s.clock.stopped then s
      else
        let s := noteRead s core { data := 0, bad := none, ce := r.ce }
        let s := modCore s core fun c => (c.mapOps fun q =>
          if q.id = o.id then (if o.dead then none else some { q with check := .passed }) else some q).kick s.tally
        if o.dead then s else modClu s (clusterOf core) fun u => r.tiles.foldl (·.countTile m) u)

def execTileCheckFailureReport (core : Nat) (s : State) : Out :=
  .next (
    let c := getCore s core
    match c.taken with
    | none => s
    | some o =>
      let r := checkOp s core o (!o.policy.tolerant)
      match (if s.clock.stopped then none else r.fail) with
      | none => s
      | some f =>
        let s := noteRead s core { data := 0, bad := if f.status = stEcc then some f.addr.toNat else none, ce := r.ce }
        let s := modCore s core fun c => (c.mapOps fun q => if q.id = o.id then none else some q).kick s.tally
        let s := if !o.dead && o.taskRuns s core then modCore s core (·.removeFrom o) else s
        let s := modClu s (clusterOf core) fun u =>
          if f.status = stSparseDecl then { u with declFaults := satAdd u.declFaults 1 }
          else if f.status = stSparseIndex then { u with indexFaults := satAdd u.indexFaults 1 } else u
        if o.dead then s else reportFault s core o f)

/-! ### Instructions that waited (R47, R120) -/

def execEngineQueueRoom (core ctx : Nat) (s : State) : Out :=
  .next (
    let x := getCtx s core ctx
    if x.state ≠ .waitEngine then s
    else match x.wait with
      | .engine opc i => resume i s (bodyEngine (opc = 0x61) i)
      | _ => s)

/-- The body of an instruction that may wait for an operand range, by opcode. -/
def rangeBody (opc : BitVec 8) (i : Issue) (s : State) (x : Ctx) : Res :=
  match opc.toNat with
  | 0x21 => bodySt i s x
  | 0x23 => bodyVst i s x
  | 0x30 => bodyHandle false i s x
  | 0x31 => bodyHandle true i s x
  | 0x32 => bodyHldr i s x
  | 0x33 => bodyBase false i s x
  | 0x36 => bodyWindow false i s x
  | 0x40 => bodySend i s x
  | 0x41 => bodyMsend i s x
  | 0x42 => bodyCsend i s x
  | 0x62 => bodyDrain i s x
  | 0x81 => bodyQblk i s x
  | _ => .hold

def execOperandRangeRelease (core ctx : Nat) (s : State) : Out :=
  .next (
    let x := getCtx s core ctx
    if x.state ≠ .waitEngine then s
    else match x.wait with
      | .range opc i => resume i s (rangeBody opc i)
      | _ => s)

end Sys2Proof.Machine
end

