-- ==== Sys2Proof/Machine/Sideband.lean ====
section
/-! DEFINITION. The tray controller's sideband: I3C commands, the registers of Tables 21-5 and 21-6, and the submission of OWNER and CONFIG
records (21 R457, R458, 19 R416, R420, R422 to R424). -/

namespace Sys2Proof.Machine

/-! ### The target (R457) -/

/-- Does a hub's target answer: SB_PWROK is high, and the hub is not lost? One that has failed its self-test answers, so that TAGFAIL can
be read (R420). -/
def sbAnswers (s : State) (h : Nat) : Bool :=
  decide (h < 2) && decide (4 ≤ s.boot.phase) && (decide (s.boot.phase ≤ 5) || hubUp s h || !(getHub s h).selfTest)

/-- What follows from an access that the target answers. -/
def sideband (s : State) (h : Nat) (f : State → State) : State := if sbAnswers s h then f s else s

/-- A dynamic address is assigned from the static one, where none is held. PRESUMED (the I3C Basic specification, log 37). -/
def execSetdasa (hub : Nat) (addr : BitVec 7) (s : State) : Out :=
  .next (sideband s hub fun s => modHub s hub fun x => if x.dynAddr.isSome then x else { x with dynAddr := some addr })

def execRstdaa (hub : Nat) (s : State) : Out :=
  .next (sideband s hub fun s => modHub s hub fun x => { x with dynAddr := none })

/-- Events enabled and disabled; bit 0 is the in-band interrupt. -/
def execEnec (hub : Nat) (ev : BitVec 8) (s : State) : Out :=
  .next (sideband s hub fun s => modHub s hub fun x => { x with events := x.events ||| ev })

def execDisec (hub : Nat) (ev : BitVec 8) (s : State) : Out :=
  .next (sideband s hub fun s => modHub s hub fun x => { x with events := x.events &&& ~~~ev })

def execGetpid (hub : Nat) (s : State) : Out :=
  .next (sideband s hub fun s => emit s (.i3c hub (leBytes 6 (Config.i3cPid hub).toNat).reverse))

def execGetbcr (hub : Nat) (s : State) : Out := .next (sideband s hub fun s => emit s (.i3c hub [Config.i3cBcr hub]))

def execGetdcr (hub : Nat) (s : State) : Out := .next (sideband s hub fun s => emit s (.i3c hub [Config.i3cDcr hub]))

def execGetstatus (hub : Nat) (s : State) : Out :=
  .next (sideband s hub fun s => bumpFree (emit s (.i3c hub (leBytes 2 (Config.i3cStatus s.freeCtr).toNat).reverse)))

/-! ### Registers (Tables 21-5, 21-6) -/

/-- SB.STATUS of a hub. -/
def sbStatus (s : State) (h : Nat) : Nat :=
  let x := getHub s h
  pack [(0, match s.state with | .serving => 0 | .safe => 1 | .bringUp => 2 | .safeNoId => 3), (2, b2n (s.lead = h)), (3, b2n s.pins.pwrCyc),
    (4, Nat.min 15 s.boot.phase), (8, s.safeCause.toNat), (12, b2n s.boot.rstBoot), (13, b2n x.alert), (14, b2n x.tagFail), (15, b2n s.vault.failed)]

/-- A sideband register of a hub as it reads. -/
def sbWord (s : State) (h o : Nat) : Nat :=
  let x := getHub s h
  if o = 0 then pack [(0, 0xA1), (8, h)]
  else if o = 0x08 then sbStatus s h
  else if o = 0x10 then pack [(0, s.ledger.flow.toNat), (16, flowReport s)]
  else if o = 0x18 then hubWord s h 0x90
  else if o = 0x20 then hubWord s h 0x50
  else if o = 0x28 then pack [(0, x.recLen.toNat), (17, b2n x.recBusy), (18, b2n x.recDone), (32, x.recResult.toNat)]
  else if 0x4000 ≤ o && o < 0x8000 then (Tbl.get x.recBuf ((o - 0x4000) / 8) 0).toNat
  else 0

/-- Writing 1 to ALERT clears it and releases ALERT#. -/
def execAlertClear (hub : Nat) (s : State) : Out :=
  .next (sideband s hub fun s =>
    if (getHub s hub).alert then
      emit (modHub s hub fun x => { x with alert := false }) (.pin (if hub = 0 then "ALERT0#" else "ALERT1#") true)
    else s)

/-- The tray's measured flow, in 0.1 L/min; a write to either hub takes effect on the panel. -/
def execFlowrptWrite (hub : Nat) (flow : BitVec 16) (s : State) : Out :=
  .next (sideband s hub fun s => { s with ledger := { s.ledger with flowRpt := flow, flowRptAt := some s.tally } })

/-- A write to SB.RECCTL.LEN or SB.RECBUF; the other registers are read-only or have rows of their own. -/
def execSbRegisterWrite (hub offset : Nat) (data : BitVec 64) (s : State) : Out :=
  .next (sideband s hub fun s =>
    if offset % 8 ≠ 0 then s
    else if offset = 0x28 then modHub s hub fun x => { x with recLen := data.setWidth 16 }
    else if 0x4000 ≤ offset && offset < 0x8000 then
      modHub s hub fun x => { x with recBuf := if data = 0 then Tbl.drop x.recBuf ((offset - 0x4000) / 8)
                                               else Tbl.put x.recBuf ((offset - 0x4000) / 8) data }
    else s)

def execDoneClear (hub : Nat) (s : State) : Out :=
  .next (sideband s hub fun s => modHub s hub fun x => { x with recDone := false })

/-! ### Submission of a record -/

/-- The first `n` bytes of SB.RECBUF. -/
def recBytes (x : Hub) (n : Nat) : Bytes :=
  ((List.range ((n + 7) / 8)).map fun i => leBytes 8 (Tbl.get x.recBuf i 0).toNat).flatten.take n

/-- GO: the record in SB.RECBUF is taken; none while this hub is busy, MODE_CONFLICT while the other is. -/
def execGo (hub : Nat) (s : State) : Out :=
  .next (sideband s hub fun s =>
    let x := getHub s hub
    if x.recBusy then s
    else if (getHub s (1 - hub)).recBusy then modHub s hub fun x => { x with recDone := true, recResult := stModeConflict }
    else modHub s hub fun x => { x with recBusy := true, recDone := false, recSub := recBytes x x.recLen.toNat })

/-- LEN of a record's header, and its body. -/
def recBody (b : Bytes) : Bytes := (b.drop 32).take (at_ b 4 4)

/-- TYPE is OWNER or CONFIG, LEN agrees with the header: header, body and signature; and the header's reserved bits are 0 (R11, R416). -/
def recForm (x : Hub) (b : Bytes) : Bool :=
  (at_ b 0 2 = 1 || at_ b 0 2 = 2) && decide (1 ≤ x.recLen.toNat) && decide (x.recLen.toNat ≤ 16384) && x.recLen.toNat = 32 + at_ b 4 4 + 2420 &&
    at_ b 2 2 / 2 = 0 && at_ b 16 16 = 0

/-- Has a CONFIG body the form of Table 19-5? -/
def configForm (b : Bytes) : Bool :=
  let n := at_ b 14 2
  at_ b 5 3 = 0 && decide (1 ≤ at_ b 0 4) && decide (1 ≤ at_ b 4 1) && decide (at_ b 4 1 ≤ 64) && decide (60 ≤ at_ b 8 4) && decide (at_ b 8 4 ≤ 86400) &&
    decide (at_ b 12 1 ≤ 8) && decide (at_ b 13 1 ≤ 64) && decide (n ≤ 256) && b.length = 4368 + 34 * n &&
    (List.range n).all fun i => decide (at_ b (4400 + 34 * i) 1 ≤ 2) && decide (at_ b (4401 + 34 * i) 1 ≤ 2)

/-- The CONFIG of a body; `rec` is the whole record, which the report's digest covers (Tables 19-5, 19-7). -/
def parseConfig (b rec : Bytes) : VaultConfig :=
  { version := at_ b 0 4, limit := at_ b 4 1, window := at_ b 8 4,
    signers := (List.range (at_ b 12 1)).map fun i => sub_ b (16 + 32 * i) 32,
    guests := (List.range (at_ b 13 1)).map fun i => (sub_ b (272 + 64 * i) 32, sub_ b (304 + 64 * i) 32),
    hosts := (List.range (at_ b 14 2)).map fun i => (sub_ b (4368 + 34 * i) 32, at_ b (4400 + 34 * i) 1, at_ b (4401 + 34 * i) 1),
    digest := sha3_256 rec }

/-- May a record be accepted: signed by the current owner root, its version above the one in force and not below its counter, and its
counter with room (R423, R424)? -/
def recAllowed (s : State) (b : Bytes) (sigOk : Bool) : Bool :=
  let ctr (i : Nat) := Tbl.get s.vault.counters i 0
  (at_ b 2 1).testBit 0 && sigOk &&
    (if at_ b 0 2 = 1 then decide (ctr 3 < counterRoom)
     else
       let v := at_ (recBody b) 0 4
       decide ((match s.vault.config with | some c => c.version | none => 0) < v) && decide (ctr 1 ≤ v) && decide (v ≤ counterRoom))

/-- The records on their way are held one after another, and what waits for them proceeds. -/
def drainWrites : Nat → State → State
  | 0, s => s
  | n + 1, s => if s.vault.writing = [] then s else drainWrites n (recordWritten s)

/-- The record enters the journal after all that wait, and both dies hold it. -/
def writeRecord (s : State) (b : Bytes) : State :=
  let s := drainWrites (2 * (s.vault.writing.length + s.vault.recs.length) + 16) s
  let r : VaultRec := { type := BitVec.ofNat 16 (at_ b 0 2), signed := true, seq := 0, key := 0, body := recBody b, half := 0, on0 := false, on1 := false }
  recordWritten { s with vault := { s.vault with writing := { record := r, copy := false, acts := [] } :: s.vault.writing } }

/-- A session whose host entry is gone, or lowers that of the CONFIG replaced: less privilege, or a lower highest class (R423). -/
def entryLowered (old s : State) (t : Session) : Bool :=
  match hostEntry old t.subject, hostEntry s t.subject with
  | _, none => true
  | none, some _ => false
  | some (priv0, top0), some (priv, top) => decide (priv < priv0) || decide (top0 < top)

/-- A CONFIG takes effect: CFG_VER, the reset limit, the sessions it ends, and an ATTQ to every site at once (R423, R424, R427). The nonce is
a free value (log 7). -/
def takeConfig (s : State) (b : Bytes) : State :=
  let c := parseConfig (recBody b) b
  let old := s
  let s := raiseCounter { s with vault := { s.vault with config := some c } } 1 c.version
  let s := { s with resets := { s.resets with limit := BitVec.ofNat 8 c.limit, window := c.window } }
  let s := ((s.sessions.filter fun t => entryLowered old s t.2).map (·.1)).foldl endSession s
  ((List.range 8).filter fun g => (getGuest s g).ready).foldl (fun s g => bumpFree (sendAttq s g (freeWord s))) s

/-- An owner transfer: the new root's key, OWNER_VER, every session ended, no CONFIG (R423). -/
def takeOwner (s : State) (b : Bytes) : State :=
  let s := raiseCounter { s with vault := { s.vault with ownerKey := certKey (recBody b), config := none } } 3
    (Tbl.get s.vault.counters 3 0 + 1)
  let s := { s with resets := { s.resets with limit := 8, window := 600 } }
  (s.sessions.map (·.1)).foldl endSession s

/-- The submission's check and write end: RESULT and DONE are set. `sigOk` says that the signature verifies under the current owner root. -/
def execRecordSubmissionDone (hub : Nat) (sigOk : Bool) (s : State) : Out :=
  report s (
    let x := getHub s hub
    let fin (s : State) (st : Status) : State := modHub s hub fun x => { x with recBusy := false, recDone := true, recResult := st, recSub := [] }
    if 2 ≤ hub || !x.recBusy then s
    else if !recForm x x.recSub then fin s stBadArgument
    else if !recAllowed s x.recSub sigOk then fin s stAuthFail
    else if at_ x.recSub 0 2 = 2 && !configForm (recBody x.recSub) then fin s stBadArgument
    else
      let t := writeRecord s x.recSub
      fin (if at_ x.recSub 0 2 = 1 then takeOwner t x.recSub else takeConfig t x.recSub) stOk)

end Sys2Proof.Machine
end

