-- ==== Sys2Proof/Machine/Release.lean ====
section
/-! DEFINITION. The release of a request that waits in its mailbox (14 R318). -/

namespace Sys2Proof.Machine

/-- The request that a held command carries. -/
def heldCmd : Instr → Option (Msg × Cmd)
  | .winOpen m => some (m, cmdWinOpen m)
  | .winClose m => some (m, cmdWinClose m)
  | .winQuery m => some (m, cmdWinQuery m)
  | .ledgerSet m => some (m, cmdLedgerSet m)
  | .ledgerRead m => some (m, cmdLedgerRead m)
  | .forecast m => some (m, cmdForecast m)
  | .twinAttach m chainOk match_ pair => some (m, cmdTwinAttach m chainOk match_ pair)
  | .twinDetach m => some (m, cmdTwinDetach m)
  | .twinTakeover m => some (m, cmdTwinTakeover m)
  | .jobForm m => some (m, cmdJobForm m)
  | .jobDissolve m => some (m, cmdJobDissolve m)
  | .submit m => some (m, cmdSubmit m)
  | .promptPut m => some (m, cmdPromptPut m)
  | .abort m => some (m, cmdAbort m)
  | .reqQuery m => some (m, cmdReqQuery m)
  | .diagRead m r => some (m, cmdDiagRead m r)
  | .fence m => some (m, cmdFence m)
  | .unfence m => some (m, cmdUnfence m)
  | .reset m => some (m, cmdReset m)
  | .return_ m => some (m, cmdReturn m)
  | .ping m => some (m, cmdPing m)
  | .close m => some (m, cmdClose m)
  | .version m => some (m, cmdVersion m)
  | .subscribe m => some (m, cmdSubscribe m)
  | .status m => some (m, cmdStatus m)
  | .sysConfig m => some (m, cmdSysConfig m)
  | .streamSet m => some (m, cmdStreamSet m)
  | .qpCreate m psn => some (m, cmdQpCreate m psn)
  | .qpDestroy m => some (m, cmdQpDestroy m)
  | .halfSet m => some (m, cmdHalfSet m)
  | .partSet m => some (m, cmdPartSet m)
  | .mapStage m => some (m, cmdMapStage m)
  | .mapCommit m => some (m, cmdMapCommit m)
  | .mapUnload m => some (m, cmdMapUnload m)
  | .partDrain m => some (m, cmdPartDrain m)
  | .handleBind m => some (m, cmdHandleBind m)
  | .handleInval m => some (m, cmdHandleInval m)
  | .dataWrite m => some (m, cmdDataWrite m)
  | .dataRead m r => some (m, cmdDataRead m r)
  | .distRead m => some (m, cmdDistRead m)
  | .linkRetrain m => some (m, cmdLinkRetrain m)
  | .dramRecal m => some (m, cmdDramRecal m)
  | .guestMode m nonce => some (m, cmdGuestMode m nonce)
  | .guestRule m => some (m, cmdGuestRule m)
  | .guestReturn m nonce => some (m, cmdGuestReturn m nonce)
  | .imgStage m => some (m, cmdImgStage m)
  | .imgActivate m sigOk => some (m, cmdImgActivate m sigOk)
  | _ => none

/-- A held request executes once every lower RSEQ of its mailbox has executed; one that changes no state sees the effects of every lower
request, and waits until all of them have ended. -/
def execMailboxHeldRequestRelease (sess mbox : Nat) (s : State) : Out :=
  report s (
    let b := getBox s sess mbox
    match (Tbl.find b.held b.next).bind fun h => heldCmd h.cmd with
    | none => s
    | some (m, c) => if b.running ≠ [] then s else boxRun s m c)

end Sys2Proof.Machine
end

