-- ==== Sys2Proof/Machine/Scalar.lean ====
section
/-! DEFINITION. Scalar, branch and control-register instructions, and the sampling draw (04 Tables 4-2, 4-3; R57 to R63, R90, R117). -/

namespace Sys2Proof.Machine

/-- sD ← f(sA, sB). -/
def alu (i : Issue) (f : Word → Word → Word) (s : State) (x : Ctx) : Res :=
  retireCtx s i (x.setS i.rd (f (x.s i.ra) (x.s i.rb)))

/-- Target of a jump or a taken branch, in the loaded image or an ILLEGAL_OP fault (R90). -/
def jumpTo (i : Issue) (x' : Ctx) (t : Word) (s : State) (x : Ctx) : Res :=
  if x.inImage t.toNat then .retire (setCtx s i.core i.ctx x') t else illegal s x

/-- PC + 8 × IMM. -/
def branchTarget (i : Issue) (x : Ctx) : Word := x.pc + 8 * i.simm

def branch (i : Issue) (c : Word → Word → Bool) (s : State) (x : Ctx) : Res :=
  if c (x.s i.ra) (x.s i.rb) then jumpTo i x (branchTarget i x) s x else retireCtx s i x

def encBranch : Enc := { Enc.none with a := true, b := true, imm := 0xFFFFFFFF }
def encImm : Enc := { Enc.none with imm := 0xFFFFFFFF }

def execNop (i : Issue) (s : State) : Out := .next (issue Enc.none i s fun s x => retireCtx s i x)
def execEnd (i : Issue) (s : State) : Out := .next (issue Enc.none i s fun _ _ => .finish)
def execB (i : Issue) (s : State) : Out := .next (issue encImm i s fun s x => jumpTo i x (branchTarget i x) s x)
def execBeq (i : Issue) (s : State) : Out := .next (issue encBranch i s (branch i (· == ·)))
def execBne (i : Issue) (s : State) : Out := .next (issue encBranch i s (branch i (· != ·)))
def execBlt (i : Issue) (s : State) : Out := .next (issue encBranch i s (branch i fun a b => a.slt b))
def execBge (i : Issue) (s : State) : Out := .next (issue encBranch i s (branch i fun a b => b.sle a))
def execBltu (i : Issue) (s : State) : Out := .next (issue encBranch i s (branch i fun a b => a.ult b))

def execJal (i : Issue) (s : State) : Out :=
  .next (issue { encImm with d := true } i s fun s x => jumpTo i (x.setS i.rd (nextPc x)) (branchTarget i x) s x)

def execJr (i : Issue) (s : State) : Out :=
  .next (issue { Enc.none with a := true } i s fun s x => jumpTo i x (x.s i.ra) s x)

/-! ### Control registers -/

/-- The value a context reads at a control-register offset below 0x100 (Table 2-3); a task that reads its own STATE sees READY. -/
def readCr (s : State) (k n off : Nat) : Word :=
  let c := getCore s k
  let x := c.ctx n
  match off with
  | 0x000 =>
    match partOfCore s k with
    | some p => BitVec.ofNat 64 ((lcnOf (getPart s p) k).getD 0 + 2 ^ 32 * n + 2 ^ 36 * p)
    | none => BitVec.ofNat 64 (2 ^ 32 * n)
  | 0x008 => ctxStat x 1 fun j => if j = n then 1 else (c.ctx j).state.code
  | 0x010 => dieTally s (siteOf k)
  | 0x018 => faultReg x
  | 0x020 => faultAddrReg x
  | 0x028 => baseReg x
  | 0x030 => boundReg x
  | _ => 0

/-- The reserved bits of the register at an offset (Tables 2-4 to 2-9); all of it where the map holds none (R58). -/
def crReserved (off : Nat) : Nat :=
  match off with
  | 0x000 => 0xFFFFFF0C00000000
  | 0x008 => 0x0000F0000000FFC0
  | 0x010 => 0
  | 0x018 => 0xFFFFFFFF0000FF80
  | 0x020 => 0xFFF0000000000000
  | 0x028 => 0xFFFFFFFFFC00003F
  | 0x030 => 0xFFFFFFFFF800003E
  | _ => 0xFFFFFFFFFFFFFFFF

/-- The context after a permitted write (R10, R61, R63). -/
def writeCr (x : Ctx) (off : Nat) (v : Word) : Ctx :=
  match off with
  | 0x018 => { x with fault := x.fault &&& ~~~ v.setWidth 7 }
  | 0x028 => { x with base := (v >>> 6).setWidth 20 }
  | 0x030 => { x with boundEn := v.getLsbD 0, limit := (v >>> 6).setWidth 21 }
  | _ => x

/-- Is a write refused with ILLEGAL_OP (R58, R63, R90)? -/
def crwIllegal (x : Ctx) (off : Nat) (v : Word) : Bool :=
  decide (off % 8 ≠ 0) || decide (off > 0xFF) || decide (v.toNat &&& crReserved off ≠ 0) ||
  ((off = 0x028 || off = 0x030) && !x.loader) || (off = 0x030 && decide (field v.toNat 6 21 > 0x100000))

def execCrr (i : Issue) (s : State) : Out :=
  .next (issue { Enc.none with d := true, imm := 0xFFF } i s fun s x =>
    let off := i.fld 0 12
    if off % 8 ≠ 0 ∨ off > 0xFF then illegal s x
    else retireCtx s i (x.setS i.rd (readCr s i.core i.ctx off)))

def execCrw (i : Issue) (s : State) : Out :=
  .next (issue { Enc.none with a := true, imm := 0xFFF } i s fun s x =>
    let off := i.fld 0 12
    if crwIllegal x off (x.s i.ra) then illegal s x else retireCtx s i (writeCr x off (x.s i.ra)))

/-! ### Integer arithmetic -/

def execAdd (i : Issue) (s : State) : Out := .next (issue Enc.dab i s (alu i (· + ·)))
def execSub (i : Issue) (s : State) : Out := .next (issue Enc.dab i s (alu i (· - ·)))
def execAnd (i : Issue) (s : State) : Out := .next (issue Enc.dab i s (alu i (· &&& ·)))
def execOr (i : Issue) (s : State) : Out := .next (issue Enc.dab i s (alu i (· ||| ·)))
def execXor (i : Issue) (s : State) : Out := .next (issue Enc.dab i s (alu i (· ^^^ ·)))
def execShl (i : Issue) (s : State) : Out := .next (issue Enc.dab i s (alu i fun a b => a <<< (b.toNat % 64)))
def execShr (i : Issue) (s : State) : Out := .next (issue Enc.dab i s (alu i fun a b => a >>> (b.toNat % 64)))
def execSar (i : Issue) (s : State) : Out := .next (issue Enc.dab i s (alu i fun a b => a.sshiftRight (b.toNat % 64)))
def execMul (i : Issue) (s : State) : Out := .next (issue Enc.dab i s (alu i (· * ·)))
def execSlt (i : Issue) (s : State) : Out := .next (issue Enc.dab i s (alu i fun a b => if a.slt b then 1 else 0))
def execSltu (i : Issue) (s : State) : Out := .next (issue Enc.dab i s (alu i fun a b => if a.ult b then 1 else 0))
def execMin (i : Issue) (s : State) : Out := .next (issue Enc.dab i s (alu i fun a b => if b.slt a then b else a))
def execMax (i : Issue) (s : State) : Out := .next (issue Enc.dab i s (alu i fun a b => if a.slt b then b else a))

def execAddi (i : Issue) (s : State) : Out :=
  .next (issue { encImm with d := true, a := true } i s fun s x => retireCtx s i (x.setS i.rd (x.s i.ra + i.simm)))

def execLih (i : Issue) (s : State) : Out :=
  .next (issue { encImm with d := true, a := true } i s fun s x =>
    retireCtx s i (x.setS i.rd (i.imm.setWidth 64 <<< 32 ||| (x.s i.ra &&& 0xFFFFFFFF))))

/-- The draw of R117. -/
def sampleDraw (seed pos draw : Nat) : Word :=
  BitVec.ofNat 64 (leNat (shake128 ([0x47, 0x50, 0x53, 0x4D] ++ leBytes 8 seed ++ leBytes 8 pos ++ leBytes 4 draw) 8))

def execSrand (i : Issue) (s : State) : Out :=
  .next (issue { encImm with d := true, a := true, b := true } i s fun s x =>
    retireCtx s i (x.setS i.rd (sampleDraw (x.s i.ra).toNat (x.s i.rb).toNat i.imm.toNat)))

end Sys2Proof.Machine
end

