-- ==== Sys2Proof/Machine/Serve.lean ====
section
/-! DEFINITION. A channel serves its requests: those of the cores one by one, and those from outside that have waited through a slice, in
the order of their arrival (02 R65, 08 R191, R192). -/

namespace Sys2Proof.Machine

/-- A request from outside the cores is served after its wait. -/
def serveHeld (s : State) (cl : Nat) (w : OuterRequest) : State :=
  match w with
  | .dataWrite m r => dataWriteRun m s r
  | .dataRead m rs r => dataReadRun m rs s r
  | .diagRead m a r => diagRun m a s r
  | .guest site write p a rule => guestServe s site write p a (some rule)
  | .far oe f first lines write a => farLine s oe f first lines write a
  | .hub off b => putBytes s cl off b
  | .rewrite p h => rewriteRange s p h
  | .release j num b => heldRelease s j num b
  | .mapCommit m r => mapCommitRun m s r
  | .twinAttach m ok theirs key r => twinAttachRun m ok theirs key s r
  | .measure p theirs => remeasureRun s p theirs
  | .rdma x => (match ((Tbl.find s.sessions x.req.sess).bind (·.qp)).bind (·.behind) with
    | some l => rdmaGo s x.req.sess (x :: l)
    | none => s)

/-- The oldest requests that have waited are served while they come from outside; one of a core's waits for its own command (R192). -/
def drainHeld (cl : Nat) : Nat → State → State
  | 0, s => s
  | n + 1, s =>
    let u := getClu s cl
    match u.oldest.bind fun a => u.waits.find? fun w => w.arr = a with
    | none => s
    | some w =>
      if u.inSlice then s else drainHeld cl n (serveHeld (modClu s cl fun u => { u with waits := u.waits.erase w }) cl w.work)

/-- What has waited at a channel is served as far as its order allows. -/
def drain (s : State) (cl : Nat) : State := drainHeld cl (getClu s cl).waits.length s

def execDramReadComplete (cl : Nat) (r : ArrayRead) (s : State) : Out := report s (drain (readNext cl r s) cl)

def execDramWriteCommit (cl : Nat) (s : State) : Out := report s (drain (commitNext cl s) cl)

/-- The slice ends, and what has waited is served (R192). -/
def execRecalSliceEnd (cl : Nat) (s : State) : Out := report s (drain (endSlice s cl) cl)

end Sys2Proof.Machine
end

