-- ==== Sys2Proof/Machine/Dispatch.lean ====
section
/-! DEFINITION. One arm per command: the meaning of each row of the opcode table. -/

namespace Sys2Proof.Machine

def exec (i : Instr) (s : State) : Host.Outcome State Fault Refusal :=
  match i with
  | .nop op => Sys2Proof.Machine.execNop op s
  | .end_ op => Sys2Proof.Machine.execEnd op s
  | .b op => Sys2Proof.Machine.execB op s
  | .beq op => Sys2Proof.Machine.execBeq op s
  | .bne op => Sys2Proof.Machine.execBne op s
  | .blt op => Sys2Proof.Machine.execBlt op s
  | .bge op => Sys2Proof.Machine.execBge op s
  | .bltu op => Sys2Proof.Machine.execBltu op s
  | .jal op => Sys2Proof.Machine.execJal op s
  | .jr op => Sys2Proof.Machine.execJr op s
  | .crr op => Sys2Proof.Machine.execCrr op s
  | .crw op => Sys2Proof.Machine.execCrw op s
  | .add op => Sys2Proof.Machine.execAdd op s
  | .sub op => Sys2Proof.Machine.execSub op s
  | .and op => Sys2Proof.Machine.execAnd op s
  | .or op => Sys2Proof.Machine.execOr op s
  | .xor op => Sys2Proof.Machine.execXor op s
  | .shl op => Sys2Proof.Machine.execShl op s
  | .shr op => Sys2Proof.Machine.execShr op s
  | .sar op => Sys2Proof.Machine.execSar op s
  | .mul op => Sys2Proof.Machine.execMul op s
  | .slt op => Sys2Proof.Machine.execSlt op s
  | .sltu op => Sys2Proof.Machine.execSltu op s
  | .addi op => Sys2Proof.Machine.execAddi op s
  | .min op => Sys2Proof.Machine.execMin op s
  | .max op => Sys2Proof.Machine.execMax op s
  | .lih op => Sys2Proof.Machine.execLih op s
  | .ld op => Sys2Proof.Machine.execLd op s
  | .st op => Sys2Proof.Machine.execSt op s
  | .vld op => Sys2Proof.Machine.execVld op s
  | .vst op => Sys2Proof.Machine.execVst op s
  | .hld op => Sys2Proof.Machine.execHld op s
  | .hst op => Sys2Proof.Machine.execHst op s
  | .hldr op => Sys2Proof.Machine.execHldr op s
  | .bld op => Sys2Proof.Machine.execBld op s
  | .bst op => Sys2Proof.Machine.execBst op s
  | .wput op => Sys2Proof.Machine.execWput op s
  | .wget op => Sys2Proof.Machine.execWget op s
  | .send op => Sys2Proof.Machine.execSend op s
  | .msend op => Sys2Proof.Machine.execMsend op s
  | .csend op => Sys2Proof.Machine.execCsend op s
  | .arm op => Sys2Proof.Machine.execArm op s
  | .waitc op => Sys2Proof.Machine.execWaitc op s
  | .waitcComplete core ctx => Sys2Proof.Machine.execWaitcComplete core ctx s
  | .waitcUeFault core ctx => Sys2Proof.Machine.execWaitcUeFault core ctx s
  | .arrivalDeadlineExpiry core ctx => Sys2Proof.Machine.execArrivalDeadlineExpiry core ctx s
  | .cabort op => Sys2Proof.Machine.execCabort op s
  | .carr op => Sys2Proof.Machine.execCarr op s
  | .carrAfterClear core ctx => Sys2Proof.Machine.execCarrAfterClear core ctx s
  | .cwait op => Sys2Proof.Machine.execCwait op s
  | .cwaitRetire core ctx => Sys2Proof.Machine.execCwaitRetire core ctx s
  | .ctest op => Sys2Proof.Machine.execCtest op s
  | .etile op => Sys2Proof.Machine.execEtile op s
  | .esparse op => Sys2Proof.Machine.execEsparse op s
  | .drain op => Sys2Proof.Machine.execDrain op s
  | .azero op => Sys2Proof.Machine.execAzero op s
  | .vfma op => Sys2Proof.Machine.execVfma op s
  | .vadd op => Sys2Proof.Machine.execVadd op s
  | .vsub op => Sys2Proof.Machine.execVsub op s
  | .vmul op => Sys2Proof.Machine.execVmul op s
  | .vmin op => Sys2Proof.Machine.execVmin op s
  | .vmax op => Sys2Proof.Machine.execVmax op s
  | .vcmp op => Sys2Proof.Machine.execVcmp op s
  | .vlog op => Sys2Proof.Machine.execVlog op s
  | .vsel op => Sys2Proof.Machine.execVsel op s
  | .vbcast op => Sys2Proof.Machine.execVbcast op s
  | .vext op => Sys2Proof.Machine.execVext op s
  | .vred op => Sys2Proof.Machine.execVred op s
  | .vfn op => Sys2Proof.Machine.execVfn op s
  | .vdiv op => Sys2Proof.Machine.execVdiv op s
  | .vsqrt op => Sys2Proof.Machine.execVsqrt op s
  | .viop op => Sys2Proof.Machine.execViop op s
  | .vcvt op => Sys2Proof.Machine.execVcvt op s
  | .qblk op => Sys2Proof.Machine.execQblk op s
  | .dqblk op => Sys2Proof.Machine.execDqblk op s
  | .mlog op => Sys2Proof.Machine.execMlog op s
  | .srand op => Sys2Proof.Machine.execSrand op s
  | .vargmax op => Sys2Proof.Machine.execVargmax op s
  | .engineQueueRoom core ctx => Sys2Proof.Machine.execEngineQueueRoom core ctx s
  | .operandRangeRelease core ctx => Sys2Proof.Machine.execOperandRangeRelease core ctx s
  | .routerInjectionAccept core k => Sys2Proof.Machine.execRouterInjectionAccept core k s
  | .engineBlockClose core eng upsets => Sys2Proof.Machine.execEngineBlockClose core eng upsets s
  | .tileCheckerTakeOp core => Sys2Proof.Machine.execTileCheckerTakeOp core s
  | .tileCheckComplete core => Sys2Proof.Machine.execTileCheckComplete core s
  | .tileCheckFailureReport core => Sys2Proof.Machine.execTileCheckFailureReport core s
  | .spmCeRewrite core word => Sys2Proof.Machine.execSpmCeRewrite core word s
  | .lineArrival core p => Sys2Proof.Machine.execLineArrival core p s
  | .note core p => Sys2Proof.Machine.execNote core p s
  | .dataPacketAtRouter router inp k p crc => Sys2Proof.Machine.execDataPacketAtRouter router inp k p crc s
  | .controlPacketAtRouter router inp k p crc => Sys2Proof.Machine.execControlPacketAtRouter router inp k p crc s
  | .taggedLineArrival p => Sys2Proof.Machine.execTaggedLineArrival p s
  | .readReq cl p => Sys2Proof.Machine.execReadReq cl p s
  | .writeReq cl p => Sys2Proof.Machine.execWriteReq cl p s
  | .writeGrant core p => Sys2Proof.Machine.execWriteGrant core p s
  | .commit core p => Sys2Proof.Machine.execCommit core p s
  | .countOnly core p => Sys2Proof.Machine.execCountOnly core p s
  | .taggedLineTimeout cl tag => Sys2Proof.Machine.execTaggedLineTimeout cl tag s
  | .xputReq oe p => Sys2Proof.Machine.execXputReq oe p s
  | .xgetReq oe p => Sys2Proof.Machine.execXgetReq oe p s
  | .xgrant core p => Sys2Proof.Machine.execXgrant core p s
  | .abortPacket core p => Sys2Proof.Machine.execAbortPacket core p s
  | .abortAns p => Sys2Proof.Machine.execAbortAns p s
  | .watchdog p => Sys2Proof.Machine.execWatchdog p s
  | .fencePacket cl p => Sys2Proof.Machine.execFencePacket cl p s
  | .fenceAck p => Sys2Proof.Machine.execFenceAck p s
  | .taskEnd p => Sys2Proof.Machine.execTaskEnd p s
  | .stepReplay job => Sys2Proof.Machine.execStepReplay job s
  | .probe cl p answered => Sys2Proof.Machine.execProbe cl p answered s
  | .probeAns p => Sys2Proof.Machine.execProbeAns p s
  | .probeTimeout cl wholeDie => Sys2Proof.Machine.execProbeTimeout cl wholeDie s
  | .bankWrite unit bank => Sys2Proof.Machine.execBankWrite unit bank s
  | .handleDescriptorUpdate cl part handle => Sys2Proof.Machine.execHandleDescriptorUpdate cl part handle s
  | .epochSwitch => Sys2Proof.Machine.execEpochSwitch s
  | .epochRetire => Sys2Proof.Machine.execEpochRetire s
  | .epochWriteAckTimeout => Sys2Proof.Machine.execEpochWriteAckTimeout s
  | .laneRetrainStart l lane => Sys2Proof.Machine.execLaneRetrainStart l lane s
  | .laneRetrainDone l lane ok => Sys2Proof.Machine.execLaneRetrainDone l lane ok s
  | .eyeMarginSample l below => Sys2Proof.Machine.execEyeMarginSample l below s
  | .crossFault x => Sys2Proof.Machine.execCrossFault x s
  | .dramReadComplete cl r => Sys2Proof.Machine.execDramReadComplete cl r s
  | .dramWriteCommit cl => Sys2Proof.Machine.execDramWriteCommit cl s
  | .patrolScrubVisit cl r => Sys2Proof.Machine.execPatrolScrubVisit cl r s
  | .refresh cl => Sys2Proof.Machine.execRefresh cl s
  | .recalibrationTrigger cl temp => Sys2Proof.Machine.execRecalibrationTrigger cl temp s
  | .recalSliceStart cl => Sys2Proof.Machine.execRecalSliceStart cl s
  | .recalSliceEnd cl => Sys2Proof.Machine.execRecalSliceEnd cl s
  | .clearingGenerationClear part ch => Sys2Proof.Machine.execClearingGenerationClear part ch s
  | .clearingNoticeArrival core ch => Sys2Proof.Machine.execClearingNoticeArrival core ch s
  | .clearingWatchdogExpiry part ch => Sys2Proof.Machine.execClearingWatchdogExpiry part ch s
  | .contextWatchdogExpiry core ctx => Sys2Proof.Machine.execContextWatchdogExpiry core ctx s
  | .engineWatchdogExpiry core eng => Sys2Proof.Machine.execEngineWatchdogExpiry core eng s
  | .fenceAckTimeout job => Sys2Proof.Machine.execFenceAckTimeout job s
  | .fenceTimeout d => Sys2Proof.Machine.execFenceTimeout d s
  | .resetNotServingTimeout d => Sys2Proof.Machine.execResetNotServingTimeout d s
  | .spareWarmupDone site => Sys2Proof.Machine.execSpareWarmupDone site s
  | .weightCopyComplete site => Sys2Proof.Machine.execWeightCopyComplete site s
  | .handleFreeTimer part handle => Sys2Proof.Machine.execHandleFreeTimer part handle s
  | .windowExpiry part win => Sys2Proof.Machine.execWindowExpiry part win s
  | .putLine oe q => Sys2Proof.Machine.execPutLine oe q s
  | .getRequest oe q r => Sys2Proof.Machine.execGetRequest oe q r s
  | .getLine oe f => Sys2Proof.Machine.execGetLine oe f s
  | .done oe f => Sys2Proof.Machine.execDone oe f s
  | .opticalLineTimeout oe tag seq => Sys2Proof.Machine.execOpticalLineTimeout oe tag seq s
  | .ack oe f => Sys2Proof.Machine.execAck oe f s
  | .assuredAckDue oe src => Sys2Proof.Machine.execAssuredAckDue oe src s
  | .assuredResendTimeout dst seq => Sys2Proof.Machine.execAssuredResendTimeout dst seq s
  | .clearUp f => Sys2Proof.Machine.execClearUp f s
  | .clearNotice f => Sys2Proof.Machine.execClearNotice f s
  | .crossPanelClearTimeout job => Sys2Proof.Machine.execCrossPanelClearTimeout job s
  | .leadLossTimeout job => Sys2Proof.Machine.execLeadLossTimeout job s
  | .job f => Sys2Proof.Machine.execJob f s
  | .rejoinTimeout job => Sys2Proof.Machine.execRejoinTimeout job s
  | .time oe f arrived => Sys2Proof.Machine.execTime oe f arrived s
  | .timeFrameDue oe lane => Sys2Proof.Machine.execTimeFrameDue oe lane s
  | .escrow oe f => Sys2Proof.Machine.execEscrow oe f s
  | .beat f => Sys2Proof.Machine.execBeat f s
  | .twinLinkSilence => Sys2Proof.Machine.execTwinLinkSilence s
  | .shadowTakeover => Sys2Proof.Machine.execShadowTakeover s
  | .hello m chainOk ss ct nonce sigma => Sys2Proof.Machine.execHello m chainOk ss ct nonce sigma s
  | .finish m sigOk => Sys2Proof.Machine.execFinish m sigOk s
  | .handshakeTimeout id => Sys2Proof.Machine.execHandshakeTimeout id s
  | .sessionKeepaliveExpiry sess => Sys2Proof.Machine.execSessionKeepaliveExpiry sess s
  | .mailboxHeldRequestRelease sess mbox => Sys2Proof.Machine.execMailboxHeldRequestRelease sess mbox s
  | .mailboxGap sess mbox => Sys2Proof.Machine.execMailboxGap sess mbox s
  | .streamAck m => Sys2Proof.Machine.execStreamAck m s
  | .streamResendTimeout sess sseq => Sys2Proof.Machine.execStreamResendTimeout sess sseq s
  | .eventAck m => Sys2Proof.Machine.execEventAck m s
  | .eventResendTimeout sess eseq => Sys2Proof.Machine.execEventResendTimeout sess eseq s
  | .ticketExpiry ticket => Sys2Proof.Machine.execTicketExpiry ticket s
  | .ping m => Sys2Proof.Machine.execPing m s
  | .close m => Sys2Proof.Machine.execClose m s
  | .version m => Sys2Proof.Machine.execVersion m s
  | .subscribe m => Sys2Proof.Machine.execSubscribe m s
  | .status m => Sys2Proof.Machine.execStatus m s
  | .sysConfig m => Sys2Proof.Machine.execSysConfig m s
  | .streamSet m => Sys2Proof.Machine.execStreamSet m s
  | .qpCreate m psn => Sys2Proof.Machine.execQpCreate m psn s
  | .qpDestroy m => Sys2Proof.Machine.execQpDestroy m s
  | .partSet m => Sys2Proof.Machine.execPartSet m s
  | .mapStage m => Sys2Proof.Machine.execMapStage m s
  | .mapCommit m => Sys2Proof.Machine.execMapCommit m s
  | .mapUnload m => Sys2Proof.Machine.execMapUnload m s
  | .partDrain m => Sys2Proof.Machine.execPartDrain m s
  | .partDrainComplete part => Sys2Proof.Machine.execPartDrainComplete part s
  | .handleBind m => Sys2Proof.Machine.execHandleBind m s
  | .handleInval m => Sys2Proof.Machine.execHandleInval m s
  | .dataWrite m => Sys2Proof.Machine.execDataWrite m s
  | .dataRead m r => Sys2Proof.Machine.execDataRead m r s
  | .distRead m => Sys2Proof.Machine.execDistRead m s
  | .submit m => Sys2Proof.Machine.execSubmit m s
  | .promptPut m => Sys2Proof.Machine.execPromptPut m s
  | .abort m => Sys2Proof.Machine.execAbort m s
  | .reqQuery m => Sys2Proof.Machine.execReqQuery m s
  | .winOpen m => Sys2Proof.Machine.execWinOpen m s
  | .winClose m => Sys2Proof.Machine.execWinClose m s
  | .winQuery m => Sys2Proof.Machine.execWinQuery m s
  | .ledgerSet m => Sys2Proof.Machine.execLedgerSet m s
  | .ledgerRead m => Sys2Proof.Machine.execLedgerRead m s
  | .forecast m => Sys2Proof.Machine.execForecast m s
  | .twinAttach m chainOk theirs pair => Sys2Proof.Machine.execTwinAttach m chainOk theirs pair s
  | .twinAttached => Sys2Proof.Machine.execTwinAttached s
  | .twinDetach m => Sys2Proof.Machine.execTwinDetach m s
  | .twinTakeover m => Sys2Proof.Machine.execTwinTakeover m s
  | .jobForm m => Sys2Proof.Machine.execJobForm m s
  | .jobDissolve m => Sys2Proof.Machine.execJobDissolve m s
  | .diagRead m r => Sys2Proof.Machine.execDiagRead m r s
  | .linkRetrain m => Sys2Proof.Machine.execLinkRetrain m s
  | .dramRecal m => Sys2Proof.Machine.execDramRecal m s
  | .guestMode m nonce => Sys2Proof.Machine.execGuestMode m nonce s
  | .guestRule m => Sys2Proof.Machine.execGuestRule m s
  | .guestReturn m nonce => Sys2Proof.Machine.execGuestReturn m nonce s
  | .imgStage m => Sys2Proof.Machine.execImgStage m s
  | .imgActivate m sigOk => Sys2Proof.Machine.execImgActivate m sigOk s
  | .hubRejoin hub fwver => Sys2Proof.Machine.execHubRejoin hub fwver s
  | .hubRejoinTimeout hub => Sys2Proof.Machine.execHubRejoinTimeout hub s
  | .fence m => Sys2Proof.Machine.execFence m s
  | .unfence m => Sys2Proof.Machine.execUnfence m s
  | .reset m => Sys2Proof.Machine.execReset m s
  | .halfSet m => Sys2Proof.Machine.execHalfSet m s
  | .return_ m => Sys2Proof.Machine.execReturn m s
  | .tellerMessageDrop m => Sys2Proof.Machine.execTellerMessageDrop m s
  | .rdmaWrite q => Sys2Proof.Machine.execRdmaWrite q s
  | .rdmaRead q r => Sys2Proof.Machine.execRdmaRead q r s
  | .cnp sess => Sys2Proof.Machine.execCnp sess s
  | .roceResponse sess a ce => Sys2Proof.Machine.execRoceResponse sess a ce s
  | .ptpSync port head origin arrival => Sys2Proof.Machine.execPtpSync port head origin arrival s
  | .ptpDelayResp port domain sent received => Sys2Proof.Machine.execPtpDelayResp port domain sent received s
  | .ptpAnnounce port domain rank => Sys2Proof.Machine.execPtpAnnounce port domain rank s
  | .arpRequest port target => Sys2Proof.Machine.execArpRequest port target s
  | .neighborSolicitation port target => Sys2Proof.Machine.execNeighborSolicitation port target s
  | .icmpEcho port dst data => Sys2Proof.Machine.execIcmpEcho port dst data s
  | .unknownFrame f => Sys2Proof.Machine.execUnknownFrame f s
  | .portLinkDown port => Sys2Proof.Machine.execPortLinkDown port s
  | .hubLoss hub => Sys2Proof.Machine.execHubLoss hub s
  | .cap site p nonce => Sys2Proof.Machine.execCap site p nonce s
  | .rd site p r => Sys2Proof.Machine.execRd site p r s
  | .wr site p => Sys2Proof.Machine.execWr site p s
  | .attr site p => Sys2Proof.Machine.execAttr site p s
  | .gateRequestTimeout site tag => Sys2Proof.Machine.execGateRequestTimeout site tag s
  | .guestHoldbackTimeout site => Sys2Proof.Machine.execGuestHoldbackTimeout site s
  | .attrTimeout site => Sys2Proof.Machine.execAttrTimeout site s
  | .attqPeriodic site nonce => Sys2Proof.Machine.execAttqPeriodic site nonce s
  | .guestLinkDown site => Sys2Proof.Machine.execGuestLinkDown site s
  | .guestOvercurrent site => Sys2Proof.Machine.execGuestOvercurrent site s
  | .stageMainTrip stage hot => Sys2Proof.Machine.execStageMainTrip stage hot s
  | .auxOutputTrip stage => Sys2Proof.Machine.execAuxOutputTrip stage s
  | .inputSample h0 h1 => Sys2Proof.Machine.execInputSample h0 h1 s
  | .rampDownStageStart stage => Sys2Proof.Machine.execRampDownStageStart stage s
  | .inputBelowLockout half => Sys2Proof.Machine.execInputBelowLockout half s
  | .stageHeartbeatLoss half => Sys2Proof.Machine.execStageHeartbeatLoss half s
  | .heartbeatWrite half => Sys2Proof.Machine.execHeartbeatWrite half s
  | .telemetryPoll r => Sys2Proof.Machine.execTelemetryPoll r s
  | .smbalert r cause => Sys2Proof.Machine.execSmbalert r cause s
  | .phaseFailure cl phase => Sys2Proof.Machine.execPhaseFailure cl phase s
  | .droopStretchRequest cl sample sensor => Sys2Proof.Machine.execDroopStretchRequest cl sample sensor s
  | .stretchEnd cl cycles => Sys2Proof.Machine.execStretchEnd cl cycles s
  | .wakeRequest cl current => Sys2Proof.Machine.execWakeRequest cl current s
  | .wakeHeadroomTimeout site => Sys2Proof.Machine.execWakeHeadroomTimeout site s
  | .clusterOn cl => Sys2Proof.Machine.execClusterOn cl s
  | .clusterPark cl => Sys2Proof.Machine.execClusterPark cl s
  | .referenceLoss half => Sys2Proof.Machine.execReferenceLoss half s
  | .tallyIntervalBoundary m => Sys2Proof.Machine.execTallyIntervalBoundary m s
  | .clockStepEvaluation => Sys2Proof.Machine.execClockStepEvaluation s
  | .wakeHoldStart => Sys2Proof.Machine.execWakeHoldStart s
  | .clockStop => Sys2Proof.Machine.execClockStop s
  | .clockRestart => Sys2Proof.Machine.execClockRestart s
  | .ledgerPeriodBoundary e => Sys2Proof.Machine.execLedgerPeriodBoundary e s
  | .coolantSample tin tout => Sys2Proof.Machine.execCoolantSample tin tout s
  | .coolantFlowUpdate => Sys2Proof.Machine.execCoolantFlowUpdate s
  | .measurementRecompute part theirs => Sys2Proof.Machine.execMeasurementRecompute part theirs s
  | .vaultRecordWritten => Sys2Proof.Machine.execVaultRecordWritten s
  | .busbarInputRise half => Sys2Proof.Machine.execBusbarInputRise half s
  | .bringUpPhaseComplete r => Sys2Proof.Machine.execBringUpPhaseComplete r s
  | .bringUpPhaseTimeout r => Sys2Proof.Machine.execBringUpPhaseTimeout r s
  | .thermTrip => Sys2Proof.Machine.execThermTrip s
  | .resetPinAssert => Sys2Proof.Machine.execResetPinAssert s
  | .resetPinRelease => Sys2Proof.Machine.execResetPinRelease s
  | .twinPresentLow => Sys2Proof.Machine.execTwinPresentLow s
  | .setdasa hub addr => Sys2Proof.Machine.execSetdasa hub addr s
  | .rstdaa hub => Sys2Proof.Machine.execRstdaa hub s
  | .enec hub ev => Sys2Proof.Machine.execEnec hub ev s
  | .disec hub ev => Sys2Proof.Machine.execDisec hub ev s
  | .getpid hub => Sys2Proof.Machine.execGetpid hub s
  | .getbcr hub => Sys2Proof.Machine.execGetbcr hub s
  | .getdcr hub => Sys2Proof.Machine.execGetdcr hub s
  | .getstatus hub => Sys2Proof.Machine.execGetstatus hub s
  | .alertClear hub => Sys2Proof.Machine.execAlertClear hub s
  | .flowrptWrite hub flow => Sys2Proof.Machine.execFlowrptWrite hub flow s
  | .go hub => Sys2Proof.Machine.execGo hub s
  | .recordSubmissionDone hub sigOk => Sys2Proof.Machine.execRecordSubmissionDone hub sigOk s
  | .doneClear hub => Sys2Proof.Machine.execDoneClear hub s
  | .sbRegisterWrite hub offset data => Sys2Proof.Machine.execSbRegisterWrite hub offset data s
  | .portLinkUp port => Sys2Proof.Machine.execPortLinkUp port s
  | .guestLinkUp site modules rate16 => Sys2Proof.Machine.execGuestLinkUp site modules rate16 s
  | .opticalFrameDiscard oe f fecOk crc => Sys2Proof.Machine.execOpticalFrameDiscard oe f fecOk crc s
  | .opticalFrameTransit oe f => Sys2Proof.Machine.execOpticalFrameTransit oe f s
  | .referenceReturn half => Sys2Proof.Machine.execReferenceReturn half s
  | .auxOutputOpen half => Sys2Proof.Machine.execAuxOutputOpen half s
  | .imageWriteComplete target => Sys2Proof.Machine.execImageWriteComplete target s
  | .ticketClaimEnd ticket => Sys2Proof.Machine.execTicketClaimEnd ticket s
  | .twinPresentHigh => Sys2Proof.Machine.execTwinPresentHigh s
  | .thermTripRelease => Sys2Proof.Machine.execThermTripRelease s
  | .roceAckTimeout sess => Sys2Proof.Machine.execRoceAckTimeout sess s
  | .compatibleRelaunchWindowEnd core ctx => Sys2Proof.Machine.execCompatibleRelaunchWindowEnd core ctx s
  | .hubReturn hub => Sys2Proof.Machine.execHubReturn hub s

end Sys2Proof.Machine
end

