-- ==== Sys2Proof/Machine/Idle.lean ====
section
/-! DEFINITION. The reference cycle that passes while no command waits (16 R364). -/

namespace Sys2Proof.Machine

/-- What Tally gains in a reference cycle, in 2^-32 ns: 10 ns, and the steering term for as long as the last estimate asks for it (R364,
R366). -/
def cycleGain (s : State) : Int :=
  10 * 2 ^ 32 + (if now s < s.master.steerAt.toNat + 1024000 then s.master.steer * 2 ^ 32 / 10 ^ 8 else 0)

/-- The instruction of an opcode (Table 4-2). -/
def mnemonicOf (c : Nat) : Option String :=
  let from_ (lo : Nat) (l : List String) : Option String := if lo ≤ c then l[c - lo]? else none
  (from_ 0x00 ["NOP", "END", "B", "BEQ", "BNE", "BLT", "BGE", "BLTU", "JAL", "JR", "CRR", "CRW"]).or <|
  (from_ 0x10 ["ADD", "SUB", "AND", "OR", "XOR", "SHL", "SHR", "SAR", "MUL", "SLT", "SLTU", "ADDI", "MIN", "MAX", "LIH"]).or <|
  (from_ 0x20 ["LD", "ST", "VLD", "VST"]).or <|
  (from_ 0x30 ["HLD", "HST", "HLDR", "BLD", "BST", "WPUT", "WGET"]).or <|
  (from_ 0x40 ["SEND", "MSEND", "CSEND", "ARM", "WAITC", "CABORT"]).or <|
  (from_ 0x50 ["CARR", "CWAIT", "CTEST"]).or <|
  (from_ 0x60 ["ETILE", "ESPARSE", "DRAIN", "AZERO"]).or <|
  (from_ 0x70 ["VFMA", "VADD", "VSUB", "VMUL", "VMIN", "VMAX", "VCMP", "VLOG", "VSEL", "VBCAST", "VEXT", "VRED", "VFN", "VDIV", "VSQRT",
    "VIOP", "VCVT", "QBLK", "DQBLK", "MLOG"]).or <|
  from_ 0x90 ["SRAND", "VARGMAX"]

/-- Opcodes of Table 4-2. -/
def opcodeListed (c : Nat) : Bool := (mnemonicOf c).isSome

/-- Does the context stand at a word that is no instruction: outside its image, or of an opcode that Table 4-2 does not list (R86, R88)? -/
def standsAtNone (s : State) (k n : Nat) : Bool :=
  let x := getCtx s k n
  canIssue s k n &&
    (!x.inImage x.pc.toNat || !opcodeListed ((Tbl.get (getCore s k).istore (x.pc.toNat / 8) 0).toNat % 256))

/-- Contexts that can issue and stand at no instruction fault with ILLEGAL_OP: no row of the table names such a word (R86, R88). -/
def faultUnlisted (s : State) : State :=
  (s.cores.flatMap fun c => [(c.1, 0), (c.1, 1), (c.1, 2), (c.1, 3)]).foldl (fun s x =>
    if standsAtNone s x.1 x.2 then settle s x.1 x.2 (.fault s [fIllegal (getCtx s x.1 x.2).pc]) else s) s

/-- Directory entries and metadata lines that the check of an operation reads (R135). -/
def EngOp.checkReads (o : EngOp) : Nat := 2 * o.nblk * o.dirs.length

/-- The tile checker of a core reads the next entry or metadata line of the operation it has taken (R135, R137), and the engines' watchdogs
restart at it (R390). -/
def Core.checkerReads (c : Core) (t : Word) : Core :=
  match c.taken with
  | none => c
  | some o =>
    if o.checkReads ≤ o.stage then c
    else (c.mapOps fun q => some (if q.id = o.id then { q with stage := q.stage + 1 } else q)).kick t

/-- What an island gains on 10 ns in a reference cycle, in 2^-32 ns: its steering, spread over the 1,024 cycles of an interval and at most 200 ppm
(R364, R365); on its own oscillator what that gains, at most 10 % (R353). -/
def Island.gain (i : Island) (site : Nat) : Int :=
  let within (m v : Int) : Int := if v < -m then -m else if m < v then m else v
  if i.osc then within (2 ^ 32) (Config.oscGain site) else within (2 ^ 32 * 10 / 5000) (Int.tdiv i.steer 1024)

/-- An island's count against the master's moves by the difference of their gains. -/
def Island.cycle (i : Island) (site : Nat) (master : Int) : Island := { i with off := i.off + i.gain site - master }

/-- One reference cycle of a powered panel. Tally and, while the fast clocks run, the half clocks since mesh alignment advance (R223), tile checkers go one read further, a context at no instruction faults, and a
report whose takeover bit the time has turned is renewed; nothing else happens. DESIGN CHOICE (log 1): the table has no row for a tick. -/
def tick (s : State) : State :=
  if s.boot.phase = 0 then s
  else
    let t := BitVec.ofInt 96 ((s.tally.toNat * 2 ^ 32 + s.master.frac.toNat : Nat) + cycleGain s)
    withReports s (faultUnlisted { s with
      tally := (t >>> 32).setWidth 64
      meshHalf := if 9 < s.boot.phase && !s.clock.stopped then s.meshHalf + 8 + s.clock.step.toNat else s.meshHalf
      master := { s.master with frac := t.setWidth 32 }
      dies := Tbl.map s.dies fun d x => { x with island := x.island.cycle d (cycleGain s - 10 * 2 ^ 32) }
      cores := if s.clock.stopped then s.cores else Tbl.map s.cores fun _ c => c.checkerReads s.tally })

end Sys2Proof.Machine
end

