-- ==== Sys2Proof/WellFormed.lean ====
section
/-! DEFINITION. When a command is well formed: its numbers name units that the panel has (R2, R4, R47, R49, R94, R172, R176, R309, Table
12-1, R333). A bit field is as wide as the spec makes it and needs no check. -/

namespace Sys2Proof

/-- A core and a context, and a lost word of its scratchpad. -/
def issueOk (i : Issue) : Bool := decide (i.core < 655360) && decide (i.ctx < 4) && i.upsets.all fun u => decide (u.1 < 6144)

/-- A port, and at most 4,096 bytes of payload (R309). -/
def msgOk (m : Msg) : Bool := decide (m.port < 2) && decide (m.payload.length ≤ 4096)

def linkOk (l : LinkRef) : Bool :=
  match l with
  | .die site side => decide (site < 160) && decide (side < 4)
  | .optical oe => decide (oe < 48)

def domainOk (d : Domain) : Bool :=
  match d with
  | .context core ctx => decide (core < 655360) && decide (ctx < 4)
  | .engine core eng => decide (core < 655360) && decide (eng < 4)
  | .partition part => decide (part < 16)
  | .panel => true

def crossingOk (x : Crossing) : Bool :=
  match x with
  | .link site side lane => decide (site < 160) && decide (side < 4) && decide (lane < 2048)
  | .core k => decide (k < 655360)

/-- The session whose queue pair a RoCEv2 packet names. -/
def unknownOk : UnknownFrame → Bool
  | .roce n _ _ => decide (n < 16)
  | _ => true

/-- The line of the frame lies in the transfer. -/
def FarRequest.ok (q : FarRequest) : Bool :=
  decide (q.first ≤ q.frame.line.toNat) && decide (q.frame.line.toNat < q.first + q.lines)

def rdmaOk (q : RdmaReq) : Bool := decide (q.port < 2) && decide (q.sess < 16)

/-- Every number of the command lies in its range. -/
def Instr.wf (c : Instr) : Bool :=
  match c with
  | .nop i => issueOk i
  | .end_ i => issueOk i
  | .b i => issueOk i
  | .beq i => issueOk i
  | .bne i => issueOk i
  | .blt i => issueOk i
  | .bge i => issueOk i
  | .bltu i => issueOk i
  | .jal i => issueOk i
  | .jr i => issueOk i
  | .crr i => issueOk i
  | .crw i => issueOk i
  | .add i => issueOk i
  | .sub i => issueOk i
  | .and i => issueOk i
  | .or i => issueOk i
  | .xor i => issueOk i
  | .shl i => issueOk i
  | .shr i => issueOk i
  | .sar i => issueOk i
  | .mul i => issueOk i
  | .slt i => issueOk i
  | .sltu i => issueOk i
  | .addi i => issueOk i
  | .min i => issueOk i
  | .max i => issueOk i
  | .lih i => issueOk i
  | .ld i => issueOk i
  | .st i => issueOk i
  | .vld i => issueOk i
  | .vst i => issueOk i
  | .hld i => issueOk i
  | .hst i => issueOk i
  | .hldr i => issueOk i
  | .bld i => issueOk i
  | .bst i => issueOk i
  | .wput i => issueOk i
  | .wget i => issueOk i
  | .send i => issueOk i
  | .msend i => issueOk i
  | .csend i => issueOk i
  | .arm i => issueOk i
  | .waitc i => issueOk i
  | .waitcComplete core ctx => decide (core < 655360) && decide (ctx < 4)
  | .waitcUeFault core ctx => decide (core < 655360) && decide (ctx < 4)
  | .arrivalDeadlineExpiry core ctx => decide (core < 655360) && decide (ctx < 4)
  | .cabort i => issueOk i
  | .carr i => issueOk i
  | .carrAfterClear core ctx => decide (core < 655360) && decide (ctx < 4)
  | .cwait i => issueOk i
  | .cwaitRetire core ctx => decide (core < 655360) && decide (ctx < 4)
  | .ctest i => issueOk i
  | .etile i => issueOk i
  | .esparse i => issueOk i
  | .drain i => issueOk i
  | .azero i => issueOk i
  | .vfma i => issueOk i
  | .vadd i => issueOk i
  | .vsub i => issueOk i
  | .vmul i => issueOk i
  | .vmin i => issueOk i
  | .vmax i => issueOk i
  | .vcmp i => issueOk i
  | .vlog i => issueOk i
  | .vsel i => issueOk i
  | .vbcast i => issueOk i
  | .vext i => issueOk i
  | .vred i => issueOk i
  | .vfn i => issueOk i
  | .vdiv i => issueOk i
  | .vsqrt i => issueOk i
  | .viop i => issueOk i
  | .vcvt i => issueOk i
  | .qblk i => issueOk i
  | .dqblk i => issueOk i
  | .mlog i => issueOk i
  | .srand i => issueOk i
  | .vargmax i => issueOk i
  | .engineQueueRoom core ctx => decide (core < 655360) && decide (ctx < 4)
  | .operandRangeRelease core ctx => decide (core < 655360) && decide (ctx < 4)
  | .routerInjectionAccept core _ => decide (core < 655360)
  | .engineBlockClose core eng _ => decide (core < 655360) && decide (eng < 4)
  | .tileCheckerTakeOp core => decide (core < 655360)
  | .tileCheckComplete core => decide (core < 655360)
  | .tileCheckFailureReport core => decide (core < 655360)
  | .spmCeRewrite core word => decide (core < 655360) && decide (word < 6144)
  | .lineArrival core _ => decide (core < 655360)
  | .note core _ => decide (core < 655360)
  | .dataPacketAtRouter router inp _ _ _ => decide (router < 655360) && (decide (inp < 4) || inp = 5)
  | .controlPacketAtRouter router inp _ _ _ => decide (router < 655360) && (decide (inp < 6) || (decide (8 ≤ inp) && decide (inp < 12)))
  | .taggedLineArrival _ => true
  | .readReq cl _ => decide (cl < 10240)
  | .writeReq cl _ => decide (cl < 10240)
  | .writeGrant core _ => decide (core < 655360)
  | .commit core _ => decide (core < 655360)
  | .countOnly core _ => decide (core < 655360)
  | .taggedLineTimeout cl tag => decide (cl < 10240) && decide (tag < 65536)
  | .xputReq oe _ => decide (oe < 48)
  | .xgetReq oe _ => decide (oe < 48)
  | .xgrant core _ => decide (core < 655360)
  | .abortPacket core _ => decide (core < 655360)
  | .abortAns _ => true
  | .watchdog _ => true
  | .fencePacket cl _ => decide (cl < 10240)
  | .fenceAck _ => true
  | .taskEnd _ => true
  | .stepReplay jobNo => decide (jobNo < 65536)
  | .probe cl _ _ => decide (cl < 10240)
  | .probeAns _ => true
  | .probeTimeout cl _ => decide (cl < 10240)
  | .bankWrite unit _ => decide (unit < 655360)
  | .handleDescriptorUpdate cl part handle => decide (cl < 10240) && decide (part < 16) && decide (handle < 4352)
  | .epochSwitch => true
  | .epochRetire => true
  | .epochWriteAckTimeout => true
  | .laneRetrainStart l lane => linkOk l && decide (lane < 2048)
  | .laneRetrainDone l lane _ => linkOk l && decide (lane < 2048)
  | .eyeMarginSample l _ => linkOk l
  | .crossFault x => crossingOk x
  | .dramReadComplete cl _ => decide (cl < 10240)
  | .dramWriteCommit cl => decide (cl < 10240)
  | .patrolScrubVisit cl _ => decide (cl < 10240)
  | .refresh cl => decide (cl < 10240)
  | .recalibrationTrigger cl _ => decide (cl < 10240)
  | .recalSliceStart cl => decide (cl < 10240)
  | .recalSliceEnd cl => decide (cl < 10240)
  | .clearingGenerationClear part ch => decide (part < 16) && decide (ch < 16)
  | .clearingNoticeArrival core ch => decide (core < 655360) && decide (ch < 16)
  | .clearingWatchdogExpiry part ch => decide (part < 16) && decide (ch < 16)
  | .contextWatchdogExpiry core ctx => decide (core < 655360) && decide (ctx < 4)
  | .engineWatchdogExpiry core eng => decide (core < 655360) && decide (eng < 4)
  | .fenceAckTimeout jobNo => decide (jobNo < 65536)
  | .fenceTimeout d => domainOk d
  | .resetNotServingTimeout d => domainOk d
  | .spareWarmupDone site => decide (site < 160)
  | .weightCopyComplete site => decide (site < 160)
  | .handleFreeTimer part handle => decide (part < 16) && decide (handle < 4096)
  | .windowExpiry part win => decide (part < 16) && decide (win < 256)
  | .putLine oe q => decide (oe < 48) && q.ok
  | .getRequest oe q _ => decide (oe < 48) && q.ok
  | .getLine oe _ => decide (oe < 48)
  | .done oe _ => decide (oe < 48)
  | .opticalLineTimeout oe tag seq => decide (oe < 48) && decide (tag < 65536) && decide (seq < 1048576)
  | .ack oe _ => decide (oe < 48)
  | .assuredAckDue oe src => decide (oe < 48) && decide (src < 1024)
  | .assuredResendTimeout dst seq => decide (dst < 1024) && decide (seq < 1048576)
  | .clearUp _ => true
  | .clearNotice _ => true
  | .crossPanelClearTimeout jobNo => decide (jobNo < 65536)
  | .leadLossTimeout jobNo => decide (jobNo < 65536)
  | .job _ => true
  | .rejoinTimeout jobNo => decide (jobNo < 65536)
  | .time oe _ _ => decide (oe < 48)
  | .timeFrameDue oe lane => decide (oe < 48) && decide (lane < 2048)
  | .escrow oe _ => decide (oe < 48)
  | .beat _ => true
  | .twinLinkSilence => true
  | .shadowTakeover => true
  | .hello m _ _ _ _ _ => msgOk m
  | .finish m _ => msgOk m
  | .handshakeTimeout _ => true
  | .sessionKeepaliveExpiry sess => decide (sess < 16)
  | .mailboxHeldRequestRelease sess mbox => decide (sess < 16) && decide (mbox < 64)
  | .mailboxGap sess mbox => decide (sess < 16) && decide (mbox < 64)
  | .streamAck m => msgOk m
  | .streamResendTimeout sess sseq => decide (sess < 16) && decide (sseq < 4294967296)
  | .eventAck m => msgOk m
  | .eventResendTimeout sess eseq => decide (sess < 16) && decide (eseq < 4294967296)
  | .ticketExpiry _ => true
  | .ping m => msgOk m
  | .close m => msgOk m
  | .version m => msgOk m
  | .subscribe m => msgOk m
  | .status m => msgOk m
  | .sysConfig m => msgOk m
  | .streamSet m => msgOk m
  | .qpCreate m _ => msgOk m
  | .qpDestroy m => msgOk m
  | .partSet m => msgOk m
  | .mapStage m => msgOk m
  | .mapCommit m => msgOk m
  | .mapUnload m => msgOk m
  | .partDrain m => msgOk m
  | .partDrainComplete part => decide (part < 16)
  | .handleBind m => msgOk m
  | .handleInval m => msgOk m
  | .dataWrite m => msgOk m
  | .dataRead m _ => msgOk m
  | .distRead m => msgOk m
  | .submit m => msgOk m
  | .promptPut m => msgOk m
  | .abort m => msgOk m
  | .reqQuery m => msgOk m
  | .winOpen m => msgOk m
  | .winClose m => msgOk m
  | .winQuery m => msgOk m
  | .ledgerSet m => msgOk m
  | .ledgerRead m => msgOk m
  | .forecast m => msgOk m
  | .twinAttach m _ _ _ => msgOk m
  | .twinAttached => true
  | .twinDetach m => msgOk m
  | .twinTakeover m => msgOk m
  | .jobForm m => msgOk m
  | .jobDissolve m => msgOk m
  | .diagRead m _ => msgOk m
  | .linkRetrain m => msgOk m
  | .dramRecal m => msgOk m
  | .guestMode m _ => msgOk m
  | .guestRule m => msgOk m
  | .guestReturn m _ => msgOk m
  | .imgStage m => msgOk m
  | .imgActivate m _ => msgOk m
  | .hubRejoin hub _ => decide (hub < 2)
  | .hubRejoinTimeout hub => decide (hub < 2)
  | .fence m => msgOk m
  | .unfence m => msgOk m
  | .reset m => msgOk m
  | .halfSet m => msgOk m
  | .return_ m => msgOk m
  | .tellerMessageDrop m => msgOk m
  | .rdmaWrite q => rdmaOk q
  | .rdmaRead q _ => rdmaOk q
  | .cnp sess => decide (sess < 16)
  | .roceResponse sess _ _ => decide (sess < 16)
  | .ptpSync port head _ _ => decide (port < 2) && decide (head.domain < 128)
  | .ptpDelayResp port domain _ _ => decide (port < 2) && decide (domain < 128)
  | .ptpAnnounce port domain _ => decide (port < 2) && decide (domain < 128)
  | .arpRequest port _ => decide (port < 2)
  | .neighborSolicitation port _ => decide (port < 2)
  | .icmpEcho port _ _ => decide (port < 2)
  | .unknownFrame f => decide (f.port < 2) && unknownOk f.kind
  | .portLinkDown port => decide (port < 2)
  | .hubLoss hub => decide (hub < 2)
  | .cap site _ _ => decide (site < 8)
  | .rd site _ _ => decide (site < 8)
  | .wr site _ => decide (site < 8)
  | .attr site _ => decide (site < 8)
  | .gateRequestTimeout site tag => decide (site < 8) && decide (tag < 4096)
  | .guestHoldbackTimeout site => decide (site < 8)
  | .attrTimeout site => decide (site < 8)
  | .attqPeriodic site _ => decide (site < 8)
  | .guestLinkDown site => decide (site < 8)
  | .guestOvercurrent site => decide (site < 8)
  | .stageMainTrip stage _ => decide (stage < 80)
  | .auxOutputTrip stage => decide (stage < 80)
  | .inputSample _ _ => true
  | .rampDownStageStart stage => decide (stage < 80)
  | .inputBelowLockout half => decide (half < 2)
  | .stageHeartbeatLoss half => decide (half < 2)
  | .heartbeatWrite half => decide (half < 2)
  | .telemetryPoll r => decide (r.stage < 80)
  | .smbalert r _ => decide (r.stage < 80)
  | .phaseFailure cl phase => decide (cl < 10240) && decide (phase < 4)
  | .droopStretchRequest cl _ _ => decide (cl < 10240)
  | .stretchEnd cl cycles => decide (cl < 10240) && decide (cycles < 4096)
  | .wakeRequest cl current => decide (cl < 10240) && decide (current < 65536)
  | .wakeHeadroomTimeout site => decide (site < 160)
  | .clusterOn cl => decide (cl < 10240)
  | .clusterPark cl => decide (cl < 10240)
  | .referenceLoss half => decide (half < 2)
  | .tallyIntervalBoundary _ => true
  | .clockStepEvaluation => true
  | .wakeHoldStart => true
  | .clockStop => true
  | .clockRestart => true
  | .ledgerPeriodBoundary _ => true
  | .coolantSample _ _ => true
  | .coolantFlowUpdate => true
  | .measurementRecompute part _ => decide (part < 16)
  | .vaultRecordWritten => true
  | .busbarInputRise half => decide (half < 2)
  | .bringUpPhaseComplete _ => true
  | .bringUpPhaseTimeout _ => true
  | .thermTrip => true
  | .resetPinAssert => true
  | .resetPinRelease => true
  | .twinPresentLow => true
  | .setdasa hub _ => decide (hub < 2)
  | .rstdaa hub => decide (hub < 2)
  | .enec hub _ => decide (hub < 2)
  | .disec hub _ => decide (hub < 2)
  | .getpid hub => decide (hub < 2)
  | .getbcr hub => decide (hub < 2)
  | .getdcr hub => decide (hub < 2)
  | .getstatus hub => decide (hub < 2)
  | .alertClear hub => decide (hub < 2)
  | .flowrptWrite hub _ => decide (hub < 2)
  | .go hub => decide (hub < 2)
  | .recordSubmissionDone hub _ => decide (hub < 2)
  | .doneClear hub => decide (hub < 2)
  | .sbRegisterWrite hub offset _ => decide (hub < 2) && decide (offset < 32768)
  | .portLinkUp port => decide (port < 2)
  | .guestLinkUp site _ _ => decide (site < 8)
  | .opticalFrameDiscard oe _ _ _ => decide (oe < 48)
  | .opticalFrameTransit oe _ => decide (oe < 48)
  | .referenceReturn half => decide (half < 2)
  | .auxOutputOpen half => decide (half < 2)
  | .imageWriteComplete target => decide (target < 18)
  | .ticketClaimEnd _ => true
  | .twinPresentHigh => true
  | .thermTripRelease => true
  | .roceAckTimeout sess => decide (sess < 16)
  | .compatibleRelaunchWindowEnd core ctx => decide (core < 655360) && decide (ctx < 4)
  | .hubReturn hub => decide (hub < 2)

end Sys2Proof
end

