-- ==== Sys2Proof/Safety.lean ====
section
/-! DEFINITION. What claims are made in terms of: a safe step and the invariant of every state, when a core instruction issues and what it
leaves as it retires, when a Teller request begins to execute and in what state,
when an optical frame is delivered. -/

namespace Sys2Proof.Machine

/-! ### Safe steps -/

/-- The step goes on: neither a fault nor a refusal. -/
def StepOk (s : State) : Prop := ∃ t, step s = .next t

/-- What holds of every state: memory is in its canonical form, and partitions, requests and sessions are listed once each, in rising
order. -/
def Inv (s : State) : Prop :=
  Memory.wf s.mem = true ∧ Tbl.wf s.parts = true ∧ Tbl.wf s.requests = true ∧ Tbl.wf s.sessions = true

/-! ### Core instructions (R54, R86, R87) -/

/-- The instruction issues and meets no fault of fetch or encoding, and nothing waits at its context's retire point: no fault,
no watchdog, no fence and no abort; the clocks run. -/
def Issues (f : Enc) (i : Issue) (s : State) : Prop :=
  let x := getCtx s i.core i.ctx
  x.state = .ready ∧ coreServing s i.core = true ∧ s.clock.stopped = false ∧ x.endDue = false ∧ x.inImage x.pc.toNat = true ∧ f.ok i = true

/-- The state with the words that the array has lost since the last command. -/
def begun (i : Issue) (s : State) : State := modCore s i.core (·.upset i.upsets)

/-- The issuing context. -/
def ctxOf (i : Issue) (s : State) : Ctx := getCtx s i.core i.ctx

/-- The instruction has retired with its effects in `t`: its context goes on at the next word (R53, R54). -/
def wentOn (i : Issue) (s t : State) : State := goOn t i.core i.ctx ((ctxOf i s).pc + 8)

/-- The instruction has retired and the registers of its context are those of `x`; nothing else has changed. -/
def wrote (i : Issue) (s : State) (x : Ctx) : State := wentOn i s (setCtx (begun i s) i.core i.ctx x)

/-- The instruction has retired by a jump to `pc`, the registers of its context those of `x`. -/
def jumped (i : Issue) (s : State) (x : Ctx) (pc : Word) : State := goOn (setCtx (begun i s) i.core i.ctx x) i.core i.ctx pc

/-- The instruction does not retire: its context waits in `st` for `w`, with its effects so far in `t`. -/
def waits (i : Issue) (t : State) (st : CtxState) (w : Wait) : State := modCtx t i.core i.ctx fun x => { x with state := st, wait := w }

/-- A context that waits in an engine, fabric or clearing wait, with no fault, watchdog, fence or abort pending. -/
def Waiting (s : State) (core ctx : Nat) (st : CtxState) (w : Wait) : Prop :=
  let x := getCtx s core ctx
  x.state = st ∧ x.wait = w ∧ x.endDue = false

/-! ### Teller requests (R309 to R320) -/

/-- A message of an established session with a good tag and a new sequence number, on a port that is up (R311, R312). -/
def Authentic (m : Msg) (s : State) : Prop :=
  portAlive s m.port = true ∧ tellerServes s = true ∧ ∃ t, Tbl.find s.sessions m.sess.toNat = some t ∧ t.est = true ∧ msgTag t.khp m = m.mac ∧
    (winOf t m.port).drops m.seq.toNat = false ∧ m.seq.toNat < 2 ^ 63 ∧ t.seqOut.toNat < 2 ^ 63

/-- The state with the message taken in: the session has been heard and the replay window has moved. -/
def received (m : Msg) (s : State) : State :=
  modSess s m.sess.toNat fun t => setWin { t with lastMsg := s.tally } m.port ((winOf t m.port).take m.seq.toNat)

/-- The request is the next of its mailbox: the lowest that has not completed, and none that executes or waits (R318). -/
def InTurn (m : Msg) (s : State) : Prop :=
  let b := getBox s m.sess.toNat m.mbox.toNat
  b.next = m.rseq.toNat ∧ m.rseq.toNat ∉ b.running ∧ Tbl.has b.held m.rseq.toNat = false ∧
    (b.kept.find? fun d => d.1 = m.rseq.toNat) = none

/-- The state in which the request runs: its mailbox knows that it runs, and one that changes state is in the hubs' journals
(R26, R318). -/
def started (ro : Bool) (m : Msg) (s : State) : State :=
  let t := modBox (received m s) m.sess.toNat m.mbox.toNat fun b =>
    { b with running := b.running ++ [m.rseq.toNat], held := Tbl.drop b.held m.rseq.toNat }
  if ro then t else journal t (replyOf s m).entry

/-- A request of the command arrives in turn and passes every check of Table 14-3 (R320). -/
def Begins (c : Cmd) (m : Msg) (s : State) : Prop :=
  m.cls = 0 ∧ m.ver = 3 ∧ m.cmd.toNat = c.code ∧ Authentic m s ∧ InTurn m s ∧ (s.state = .serving ∨ c.safe = true) ∧
    c.priv ≤ privOf s m.sess.toNat ∧ c.form = true ∧ m.rsv = 0 ∧ c.check (started c.ro m s) = none

/-! ### Optical frames (R276 to R280) -/

/-- A torus frame of type `t` is delivered at its destination: in Assured its E2E holds and its SEQ has not come before (R278, R279). -/
def Delivered (t : Nat) (f : OptFrame) (s : State) : Prop :=
  f.otype.toNat = t ∧ f.dst.toNat = s.sys.panel ∧
    (s.sys.assured = true → f.e2e = e2eOf f ∧ (Tbl.get s.assured f.src.toNat Assured.reset).received f.seq = false)

/-- The state that has noted the SEQ of a torus frame, where the panel is Assured. -/
def delivered (f : OptFrame) (s : State) : State :=
  if s.sys.assured then { s with assured := Tbl.put s.assured f.src.toNat ((Tbl.get s.assured f.src.toNat Assured.reset).take f.seq) } else s

/-- A frame of type `t` of the twin link is delivered (R280). -/
def TwinDelivered (t : Nat) (f : OptFrame) (s : State) : Prop :=
  f.otype.toNat = t ∧ twinOn s = true ∧ f.src.toNat = s.twin.partner ∧ f.e2e = e2eOf f ∧
    (Tbl.get s.assured (twinKey s) Assured.reset).received f.seq = false

/-- The state that has heard from the partner. -/
def heard (s : State) : State := { s with twin := { s.twin with lastHeard := s.tally, silent := false } }

/-- The state that has heard from the partner and noted the SEQ of its frame. -/
def twinDelivered (f : OptFrame) (s : State) : State :=
  { heard s with assured := Tbl.put s.assured (twinKey s) ((Tbl.get s.assured (twinKey s) Assured.reset).take f.seq) }

/-- An answer of a far panel names a line that is still open of this transaction (R277). -/
def AnswersFor (x : OptXfer) (f : OptFrame) : Prop :=
  x.dst = f.src.toNat ∧ x.dpart = f.spart.toNat ∧ x.win = f.win.toNat ∧ x.gen = f.gen ∧ x.part = f.dpart.toNat ∧ x.first ≤ f.line.toNat ∧
    f.line.toNat - x.first ∈ x.left

/-- The transaction under `tag` of optical die `o` is the only one that the answer names. -/
def OnlyFor (o tag : Nat) (x : OptXfer) (f : OptFrame) (s : State) : Prop :=
  o < 48 ∧ Tbl.find (getOe s o).xfers tag = some x ∧ AnswersFor x f ∧
    ∀ o' e, e ∈ (getOe s o').xfers → AnswersFor e.2 f → o' = o ∧ e = (tag, x)

end Sys2Proof.Machine
end

