-- ==== Sys2Proof/Certificates/Slice0/Obligations.lean ====
section
/-! DEFINITION. The statements for the provers: what each command leaves where it has its effect, when a core instruction traps or waits, and what
holds of every step. -/

open Sys2Proof Sys2Proof.Machine

/-- With a command at the front of the queue, a step is exec of that command on the state with the rest of the queue; with an empty queue
it is one reference cycle (the model's choice, log 1). On an empty queue a powered panel whose Tally is not being steered gains 10 ns in
its integer part, and from mesh alignment on, while its fast clocks run, 8 + STEP half clocks in its count of them, and each island moves
by its own steering; nothing else changes while no session stands and no core holds anything; an unpowered panel stands still (log 1).
(R364, R223) -/
def Obligations.StepRunsFront : Prop :=
  ((∀ (c : Instr) (rest : List Instr) (s : State), step { s with pending := c :: rest } = exec c { s with pending := rest }) ∧
   ∀ s : State, s.pending = [] → step s = .next (tick s)) ∧
  (∀ s : State, s.pending = [] →
     (s.boot.phase = 0 → step s = .next s) ∧
     (s.boot.phase ≠ 0 → s.sessions = [] → s.cores = [] → s.master.steer = 0 →
       step s = .next { s with
         tally := s.tally + 10
         meshHalf := if 9 < s.boot.phase ∧ s.clock.stopped = false then s.meshHalf + (8 + s.clock.step.toNat) else s.meshHalf
         dies := Tbl.map s.dies fun d x => { x with island := x.island.cycle d 0 } }))

/-- Every command has a meaning on every state: exec answers a next state, and so does a step. (R12, R88) -/
def Obligations.EveryCommandAnswers : Prop :=
  (∀ (c : Instr) (s : State), ∃ t, exec c s = .next t) ∧ ∀ s : State, StepOk s

/-- Each scalar arithmetic instruction that issues writes its result to sD (register 0 discards it), its context goes on at the next word,
and no other register, memory byte or unit changes. Scalar register 0 of every context reads 0, before and after a write of any value, and
a write to it changes no register; a write to another register is read back and leaves the others. (R88, R49, R53) -/
def Obligations.ScalarArithmetic : Prop :=
  (∀ (i : Issue) (s : State),
     let x := ctxOf i s
     let a := x.s i.ra
     let b := x.s i.rb
     let gives (c : Issue → Instr) (v : Word) : Prop := exec (c i) s = .next (wrote i s (x.setS i.rd v))
     (Issues { Enc.none with d := true, a := true, b := true } i s →
       gives .add (a + b) ∧ gives .sub (a - b) ∧ gives .and (a &&& b) ∧ gives .or (a ||| b) ∧ gives .xor (a ^^^ b) ∧
       gives .shl (a <<< (b.toNat % 64)) ∧ gives .shr (a >>> (b.toNat % 64)) ∧ gives .sar (a.sshiftRight (b.toNat % 64)) ∧
       gives .mul (BitVec.ofNat 64 (a.toNat * b.toNat)) ∧ gives .slt (if a.toInt < b.toInt then 1 else 0) ∧
       gives .sltu (if a.toNat < b.toNat then 1 else 0) ∧ gives .min (if a.toInt ≤ b.toInt then a else b) ∧
       gives .max (if a.toInt ≤ b.toInt then b else a)) ∧
     (Issues { Enc.none with d := true, a := true, imm := 0xFFFFFFFF } i s →
       gives .addi (a + i.imm.signExtend 64) ∧ gives .lih (i.imm.setWidth 64 <<< 32 ||| (a &&& 0xFFFFFFFF)))) ∧
  ((∀ (x : Ctx) (v : Word), x.s 0 = 0 ∧ x.setS 0 v = x) ∧
   ∀ (x : Ctx) (n m : Nat) (v : Word), n ≠ 0 → (x.setS n v).s n = v ∧ (m ≠ n → (x.setS n v).s m = x.s m))

/-- A taken branch or a jump whose target lies in the loaded image goes on there, with JAL's link written; one whose target does not ends
the task with ILLEGAL_OP without retiring; a branch not taken and NOP go on at the next word. (R90, R88) -/
def Obligations.BranchesAndJumps : Prop :=
  ∀ (i : Issue) (s : State),
    let x := ctxOf i s
    let a := x.s i.ra
    let b := x.s i.rb
    let t := x.pc + 8 * i.imm.signExtend 64
    let goes (c : Issue → Instr) (y : Ctx) (pc : Word) : Prop :=
      exec (c i) s = .next (if x.inImage pc.toNat then jumped i s y pc
                            else endTask (begun i s) i.core i.ctx stIllegalOp [fIllegal x.pc])
    let branch (c : Issue → Instr) (taken : Prop) [Decidable taken] : Prop :=
      (taken → goes c x t) ∧ (¬ taken → exec (c i) s = .next (wrote i s x))
    (Issues { Enc.none with a := true, b := true, imm := 0xFFFFFFFF } i s →
      branch .beq (a = b) ∧ branch .bne (a ≠ b) ∧ branch .blt (a.toInt < b.toInt) ∧ branch .bge (b.toInt ≤ a.toInt) ∧
      branch .bltu (a.toNat < b.toNat)) ∧
    (Issues { Enc.none with imm := 0xFFFFFFFF } i s → goes .b x t) ∧
    (Issues { Enc.none with d := true, imm := 0xFFFFFFFF } i s → goes .jal (x.setS i.rd (x.pc + 8)) t) ∧
    (Issues { Enc.none with a := true } i s → goes .jr x a) ∧
    (Issues Enc.none i s → exec (.nop i) s = .next (wrote i s x))

/-- END that issues completes: it leaves the context IDLE with LAST_STATUS OK, and every counter that the context armed is disarmed with
COUNT, TOTAL, status and UE cleared and discards from then on; the counters of other contexts, memory and the other contexts of the core
are unchanged. An instruction whose fetch lies outside the loaded image, or whose word uses a field that its opcode does not, ends its
task with ILLEGAL_OP: the context is STOPPED, CORE.FAULT takes the ILLEGAL bit, FAULTADDR the fetch address with SPACE 3 if nothing was
recorded before, and no register and no byte of memory changes. (R52, R98, R86, R87, R61) -/
def Obligations.TasksEnd : Prop :=
  (∀ (i : Issue) (s : State), Issues Enc.none i s →
     ∃ t, exec (.end_ i) s = .next t ∧ (getCtx t i.core i.ctx).state = .idle ∧ (getCtx t i.core i.ctx).lastStatus = 0 ∧
       (getCtx t i.core i.ctx).regs = (ctxOf i s).regs ∧ t.mem = s.mem ∧ t.emitted = s.emitted ∧
       (∀ n, n ≠ i.ctx → getCtx t i.core n = getCtx s i.core n) ∧ (∀ k, k ≠ i.core → getCore t k = getCore s k) ∧
       (∀ n v, Tbl.find (getCore s i.core).cnts n = some v →
         (v.armed = true → v.owner = i.ctx → Tbl.find (getCore t i.core).cnts n =
           some { v with armed := false, count := 0, total := 0, status := 0, ueDram := false, ueSpm := false, discard := true }) ∧
         (v.armed = false ∨ v.owner ≠ i.ctx → Tbl.find (getCore t i.core).cnts n = some v))) ∧
  (∀ (i : Issue) (s : State),
     let x := ctxOf i s
     x.state = .ready → coreServing s i.core = true → s.clock.stopped = false → x.endDue = false →
     (x.inImage x.pc.toNat = false ∨ (i.b ≠ 0 ∨ i.c ≠ 0 ∨ i.men = true)) →
     ∃ t, exec (.addi i) s = .next t ∧ t.mem = s.mem ∧
       (let y := getCtx t i.core i.ctx
        y.state = .stopped ∧ y.lastStatus = stIllegalOp ∧ y.regs = x.regs ∧ y.vregs = x.vregs ∧ y.masks = x.masks ∧ y.pc = x.pc ∧
        y.fault = x.fault ||| 0x02 ∧
        (x.fault = 0 → y.firstStatus = stIllegalOp ∧ y.faultAddr = x.pc.setWidth 48 ∧ y.faultSpace = 3) ∧
        (x.fault ≠ 0 → y.firstStatus = x.firstStatus ∧ y.faultAddr = x.faultAddr ∧ y.faultSpace = x.faultSpace)))

/-- CRR writes the register at its offset to sD. CRW clears the CORE.FAULT bits that its value sets, writes CORE.BASE and CORE.BOUND from
a loader's task, ignores the read-only registers, and faults with ILLEGAL_OP on reserved bits, on a bad offset and on a protected register
outside the loader. (R57, R58, R63, R90) -/
def Obligations.ControlRegisters : Prop :=
  ∀ (i : Issue) (s : State),
    let x := ctxOf i s
    let v := x.s i.ra
    let off := i.imm.toNat % 4096
    (Issues { Enc.none with d := true, imm := 0xFFF } i s → off % 8 = 0 → off < 0x100 →
      ∃ w, exec (.crr i) s = .next (wrote i s (x.setS i.rd w)) ∧
        (off = 0x10 → w = s.tally + BitVec.ofInt 64 ((getDie s (i.core / 4096)).island.off / 2 ^ 32)) ∧
        (off = 0x18 → x.fault = 0 → w = 0) ∧
        (off = 0x18 → x.fault ≠ 0 → w = BitVec.ofNat 64 (x.fault.toNat + 2 ^ 16 * x.firstStatus.toNat)) ∧
        (off = 0x20 → w = BitVec.ofNat 64 (x.faultAddr.toNat + 2 ^ 48 * x.faultSpace.toNat)) ∧
        (off = 0x28 → w = BitVec.ofNat 64 (64 * x.base.toNat)) ∧
        (off = 0x30 → w = BitVec.ofNat 64 ((if x.boundEn then 1 else 0) + 64 * x.limit.toNat)) ∧
        (0x38 ≤ off → w = 0)) ∧
    (Issues { Enc.none with a := true, imm := 0xFFF } i s →
      (off = 0x18 → v &&& 0xFFFFFFFF0000FF80 = 0 → exec (.crw i) s = .next (wrote i s { x with fault := x.fault &&& ~~~ v.setWidth 7 })) ∧
      (off = 0x28 → x.loader = true → v &&& 0xFFFFFFFFFC00003F = 0 →
        exec (.crw i) s = .next (wrote i s { x with base := (v >>> 6).setWidth 20 })) ∧
      (off = 0x30 → x.loader = true → v &&& 0xFFFFFFFFF800003E = 0 → (v >>> 6).toNat ≤ 0x100000 →
        exec (.crw i) s = .next (wrote i s { x with boundEn := v.getLsbD 0, limit := (v >>> 6).setWidth 21 })) ∧
      (off = 0x10 → exec (.crw i) s = .next (wrote i s x)) ∧
      (off % 8 ≠ 0 ∨ 0x100 ≤ off ∨ (off = 0x28 ∧ x.loader = false) ∨ (off = 0x28 ∧ v &&& 0xFFFFFFFFFC00003F ≠ 0) →
        exec (.crw i) s = .next (endTask (begun i s) i.core i.ctx stIllegalOp [fIllegal x.pc])))

/-- An aligned access inside the scratchpad has its effect: LD writes the value it reads through the Till to sD (and to sD + 1 for 16
bytes), zero- or sign-extended; ST stores through the Till; VLD writes the lanes that the mask selects; VST writes the bank under the
mask. A misaligned access ends the task with ILLEGAL_OP, one outside 0 to 49,151 with BOUND_FAULT, SPACE 0 and the address, and neither
writes anything. (R91, R92, R93, R165) -/
def Obligations.ScratchpadAccess : Prop :=
  ∀ (i : Issue) (s : State),
    let x := ctxOf i s
    let u := begun i s
    let a := accessAddr i x
    let n := accessSize i
    let m := maskOf i x
    let good (w : Nat) : Prop := a % w = 0 ∧ a + w ≤ 49152
    let turnsAway (c : Issue → Instr) (w : Nat) : Prop :=
      (a % w ≠ 0 → a + w ≤ 49152 → exec (c i) s = .next (endTask u i.core i.ctx stIllegalOp [fIllegal x.pc])) ∧
      (a % w = 0 → 49152 < a + w → exec (c i) s = .next (endTask u i.core i.ctx stBoundFault [fBound 0 a]))
    (Issues { Enc.none with d := true, a := true, imm := 0xFFFFF } i s → i.fld 16 3 ≤ 4 → (n = 16 → i.rd % 2 = 0) →
      (good n → ∀ (t : State) (v : Nat), tillLoad u i.core a n = (t, .ok v) →
        exec (.ld i) s = .next (wentOn i s (setCtx t i.core i.ctx
          (if n = 16 then (x.setS i.rd (BitVec.ofNat 64 v)).setS (i.rd + 1) (BitVec.ofNat 64 (v / 2 ^ 64))
           else x.setS i.rd (extend v n (i.bit 19)))))) ∧
      turnsAway .ld n) ∧
    (Issues { Enc.none with a := true, b := true, imm := 0x7FFFF } i s → i.fld 16 3 ≤ 4 → (n = 16 → i.rb % 2 = 0) →
      (good n → rangeBusy u i.core a n = false →
        exec (.st i) s = .next (wentOn i s (tillStore u i.core a n
          ((x.s i.rb).toNat + (if n = 16 then 2 ^ 64 * (x.s (i.rb + 1)).toNat else 0))))) ∧
      turnsAway .st n) ∧
    (Issues { Enc.none with d := true, a := true, imm := 0xFFFF, men := true } i s →
      (good 64 → (spmRead u i.core a 64).bad = none →
        exec (.vld i) s = .next (wentOn i s (setCtx (noteRead u i.core (spmRead u i.core a 64)) i.core i.ctx
          (x.setV i.rd (maskLanes i.men m (x.v i.rd) (BitVec.ofNat 512 (spmBytes u i.core a 64))))))) ∧
      turnsAway .vld 64) ∧
    (Issues { Enc.none with a := true, b := true, imm := 0xFFFF, men := true } i s →
      (good 64 → (∀ j, j < 16 → m.getLsbD j = true → rangeBusy u i.core (a + 4 * j) 4 = false) →
        exec (.vst i) s = .next (wentOn i s (spmWriteLine u i.core (a / 64) (laneBytes m) (x.v i.rb).toNat))) ∧
      turnsAway .vst 64)

/-- Where no Till entry holds the line and an entry is free: a load from a line without an uncorrectable word gives the coherent bytes at
its address, and a store leaves its bytes there, every other byte of that core's scratchpad, the banks and every other core as they were.
(R165, R166) -/
def Obligations.TillIsCoherent : Prop :=
  ∀ (s : State) (k a n v : Nat), 0 < n → a % 64 + n ≤ 64 →
    (∃ j, j < 8 ∧ (Tbl.get (getCore s k).till j TillEntry.reset).valid = false) → (getCore s k).tillOf (a / 64) = none → a < 49152 →
    ((∀ j, j < 8 → Tbl.find (getCore s k).spmErr (8 * (a / 64) + j) ≠ some true) →
      ∃ t, tillLoad s k a n = (t, .ok (spmBytes s k a n)) ∧ t.mem = s.mem ∧ ∀ b, spmByte t k b = spmByte s k b) ∧
    ((tillStore s k a n v).mem = s.mem ∧ (∀ j, j ≠ k → getCore (tillStore s k a n v) j = getCore s j) ∧
      (∀ j, j < n → spmByte (tillStore s k a n v) k (a + j) = (v / 256 ^ j) % 256) ∧
      ∀ b, (b < a ∨ a + n ≤ b) → spmByte (tillStore s k a n v) k b = spmByte s k b)

/-- The vector that an instruction writes under MEN takes the new value in each lane whose mask bit is 1 and keeps the old value in the
others; without MEN every lane takes the new value. (R111, R466) -/
def Obligations.MaskedLanes : Prop :=
  ∀ (men : Bool) (m : BitVec 16) (old : Line) (f : Nat → Lane) (j : Nat), j < 16 →
    lane (maskLanes men m old (ofLanes f)) j = if men = false ∨ m.getLsbD j = true then f j else lane old j

/-- Each lane-wise instruction that issues with a defined FN writes, lane by lane and under its mask, its FP32 or integer result to vD; no
other register, memory byte or unit changes. (R111, R114, R116, R466) -/
def Obligations.VectorArithmetic : Prop :=
  ∀ (i : Issue) (s : State),
    let x := ctxOf i s
    let a (j : Nat) := lane (x.v i.ra) j
    let b (j : Nat) := lane (x.v i.rb) j
    let fn := i.fld 0 3
    let writes (c : Issue → Instr) (f : Nat → Lane) : Prop :=
      exec (c i) s = .next (wrote i s (x.setV i.rd (maskLanes i.men (maskOf i x) (x.v i.rd) (ofLanes f))))
    (Issues Enc.vab i s →
      writes .vadd (fun j => f32Add (a j) (b j)) ∧ writes .vsub (fun j => f32Sub (a j) (b j)) ∧
      writes .vmul (fun j => f32Mul (a j) (b j)) ∧ writes .vmin (fun j => f32Min (a j) (b j)) ∧
      writes .vmax (fun j => f32Max (a j) (b j)) ∧ writes .vdiv (fun j => f32Div (a j) (b j))) ∧
    (Issues { Enc.vab with c := true } i s → writes .vfma (fun j => f32Fma (a j) (b j) (lane (x.v i.rc) j))) ∧
    (Issues Enc.va i s → writes .vsqrt (fun j => f32Sqrt (a j)) ∧ writes .vbcast (fun _ => (x.s i.ra).setWidth 32)) ∧
    (Issues { Enc.vab with sel := true } i s → writes .vsel (fun j => if (x.m i.msk.toNat).getLsbD j then a j else b j)) ∧
    (Issues { Enc.vab with imm := 0x7 } i s →
      (fn = 0 → writes .vlog (fun j => a j &&& b j)) ∧ (fn = 1 → writes .vlog (fun j => a j ||| b j)) ∧
      (fn = 2 → writes .vlog (fun j => a j ^^^ b j)) ∧ (fn = 3 → writes .vlog (fun j => a j &&& ~~~ b j)) ∧
      (fn = 0 → writes .viop (fun j => a j + b j)) ∧ (fn = 1 → writes .viop (fun j => a j - b j)) ∧
      (fn = 2 → writes .viop (fun j => a j <<< ((b j).toNat % 32))) ∧ (fn = 3 → writes .viop (fun j => a j >>> ((b j).toNat % 32))) ∧
      (fn = 4 → writes .viop (fun j => (a j).sshiftRight ((b j).toNat % 32))) ∧ (fn = 5 → writes .viop (fun j => a j * b j)) ∧
      (3 < fn → exec (.vlog i) s = .next (endTask (begun i s) i.core i.ctx stIllegalOp [fIllegal x.pc]))) ∧
    (Issues { Enc.va with imm := 0x7 } i s →
      (fn = 0 → writes .vfn (fun j => vfnRcp (a j))) ∧ (fn = 1 → writes .vfn (fun j => vfnRsq (a j))) ∧
      (fn = 2 → writes .vfn (fun j => vfnExp2 (a j))) ∧ (fn = 3 → writes .vfn (fun j => vfnLog2 (a j))) ∧
      (3 < fn → exec (.vfn i) s = .next (endTask (begun i s) i.core i.ctx stIllegalOp [fIllegal x.pc])))

/-- VCMP writes the result of its comparison to the bits of mD that its mask selects and keeps the others; MLOG computes on masks and
moves masks to and from scalar registers; VEXT moves one lane to sD; SRAND writes the first 8 bytes of SHAKE128 over the request seed, the
token position and DRAW. VRED writes to sD the sum, the maximum or the minimum of the lanes of vA in the fixed pairwise tree of four
levels, a masked-off lane taking the identity of the operation; a larger FN ends the task with ILLEGAL_OP. (R111, R116, R117, R112) -/
def Obligations.ComparesMasksReductions : Prop :=
  (∀ (i : Issue) (s : State),
     let x := ctxOf i s
     let fn := i.fld 0 3
     (Issues { Enc.vab with imm := 0xF } i s → fn ≤ 5 → i.rd ≤ 7 →
       ∃ m : BitVec 16, exec (.vcmp i) s = .next (wrote i s (x.setM i.rd m)) ∧ ∀ j, j < 16 →
         m.getLsbD j = if (maskOf i x).getLsbD j then (if i.bit 3 then intCmp else f32Cmp) fn (lane (x.v i.ra) j) (lane (x.v i.rb) j)
                       else (x.m i.rd).getLsbD j) ∧
     (Issues { Enc.da with b := decide (fn < 3), imm := 0x7 } i s →
       (fn = 0 → i.rd ≤ 7 → i.ra ≤ 7 → i.rb ≤ 7 → exec (.mlog i) s = .next (wrote i s (x.setM i.rd (x.m i.ra &&& x.m i.rb)))) ∧
       (fn = 1 → i.rd ≤ 7 → i.ra ≤ 7 → i.rb ≤ 7 → exec (.mlog i) s = .next (wrote i s (x.setM i.rd (x.m i.ra ||| x.m i.rb)))) ∧
       (fn = 2 → i.rd ≤ 7 → i.ra ≤ 7 → i.rb ≤ 7 → exec (.mlog i) s = .next (wrote i s (x.setM i.rd (x.m i.ra ^^^ x.m i.rb)))) ∧
       (fn = 3 → i.rd ≤ 7 → i.ra ≤ 7 → exec (.mlog i) s = .next (wrote i s (x.setM i.rd (~~~ x.m i.ra)))) ∧
       (fn = 4 → i.rd ≤ 7 → exec (.mlog i) s = .next (wrote i s (x.setM i.rd ((x.s i.ra).setWidth 16)))) ∧
       (fn = 5 → i.ra ≤ 7 → exec (.mlog i) s = .next (wrote i s (x.setS i.rd ((x.m i.ra).setWidth 64))))) ∧
     (Issues { Enc.da with imm := 0xF } i s →
       exec (.vext i) s = .next (wrote i s (x.setS i.rd ((lane (x.v i.ra) (i.fld 0 4)).setWidth 64)))) ∧
     (Issues { Enc.none with d := true, a := true, b := true, imm := 0xFFFFFFFF } i s →
       exec (.srand i) s = .next (wrote i s (x.setS i.rd (BitVec.ofNat 64 (leNat (shake128
         ([0x47, 0x50, 0x53, 0x4D] ++ leBytes 8 (x.s i.ra).toNat ++ leBytes 8 (x.s i.rb).toNat ++ leBytes 4 i.imm.toNat) 8))))))) ∧
  (∀ (i : Issue) (s : State),
     let x := ctxOf i s
     let fn := i.fld 0 3
     let l (off : Lane) (j : Nat) : Lane := if (maskOf i x).getLsbD j then lane (x.v i.ra) j else off
     let tree (f : Lane → Lane → Lane) (g : Nat → Lane) : Lane :=
       f (f (f (f (g 0) (g 1)) (f (g 2) (g 3))) (f (f (g 4) (g 5)) (f (g 6) (g 7))))
         (f (f (f (g 8) (g 9)) (f (g 10) (g 11))) (f (f (g 12) (g 13)) (f (g 14) (g 15))))
     let gives (v : Lane) : Prop := exec (.vred i) s = .next (wrote i s (x.setS i.rd (v.setWidth 64)))
     Issues { Enc.va with imm := 0x7 } i s →
       (fn = 0 → gives (tree f32Add (l 0x80000000#32))) ∧ (fn = 1 → gives (tree f32Max (l 0xFF800000#32))) ∧
       (fn = 2 → gives (tree f32Min (l 0x7F800000#32))) ∧
       (2 < fn → exec (.vred i) s = .next (endTask (begun i s) i.core i.ctx stIllegalOp [fIllegal x.pc])))

/-- VARGMAX writes to sD the index of the lane of vA with the largest FP32 value, the lowest on a tie; NaN lanes and masked-off lanes are
ignored, and with no eligible lane the result is 16. (R113) -/
def Obligations.LargestLane : Prop :=
  ∀ (i : Issue) (s : State),
    let x := ctxOf i s
    let l (j : Nat) := lane (x.v i.ra) j
    let eligible (j : Nat) : Prop := (maskOf i x).getLsbD j = true ∧ isNan32 (l j) = false
    Issues Enc.va i s →
      ∃ n, exec (.vargmax i) s = .next (wrote i s (x.setS i.rd (BitVec.ofNat 64 n))) ∧
        ((∀ j, j < 16 → ¬ eligible j) → n = 16) ∧
        ((∃ j, j < 16 ∧ eligible j) → n < 16 ∧ eligible n ∧ ∀ j, j < 16 → eligible j →
          val32 (l j) ≤ val32 (l n) ∧ (val32 (l j) = val32 (l n) → n ≤ j))

/-- VCVT writes the converted lanes of a listed pair of formats to vD under the mask. QBLK writes the 32 element codes of its block at sB
and the E8M0 scale at sC. DQBLK writes the 32 dequantised elements to vD and vD + 1 under the mask. (R115, R81, R83) -/
def Obligations.Quantisation : Prop :=
  ∀ (i : Issue) (s : State),
    let x := ctxOf i s
    let u := begun i s
    let f := i.fld 0 4
    let t := i.fld 5 16
    let n := 4 * elemBits f
    (Issues { Enc.va with b := i.bit 9, c := i.bit 9, imm := 0x3FF } i s → ∀ v,
      convert f (i.fld 4 4) (i.bit 8)
        (fun j => if i.bit 9 then some (roundWord (x.s i.rb).toNat (((x.s i.rc).toNat + j) % 2 ^ 64)) else none) (x.v i.ra) = some v →
      exec (.vcvt i) s = .next (wrote i s (x.setV i.rd (maskLanes i.men (maskOf i x) (x.v i.rd) v)))) ∧
    (Issues { Enc.none with d := i.bit 4, a := true, b := true, c := true, imm := 0x1FFFFF } i s →
      let a := (x.s i.rb).toNat
      let e := (x.s i.rc).toNat
      3 ≤ f → f ≤ 7 → i.ra % 2 = 0 → (i.bit 4 = true → i.rd % 2 = 0) → a % 8 = 0 → tileScaleOk t = true → a + n ≤ 49152 → e + 1 ≤ 49152 →
      rangeBusy u i.core a n = false → rangeBusy u i.core e 1 = false →
      ∃ (scale : Nat) (codes : List Nat),
        (scale, codes) = quantBlock f t
          (fun j => if i.bit 4 then some (roundWord (x.s i.rd).toNat (((x.s (i.rd + 1)).toNat + j) % 2 ^ 64)) else none)
          ((List.range 32).map fun j => lane (x.v (i.ra + j / 16)) (j % 16)) ∧
        exec (.qblk i) s = .next (wentOn i s
          (spmWrite (spmWrite u i.core a n (codes.foldr (fun c acc => c + 2 ^ elemBits f * acc) 0)) i.core e 1 scale))) ∧
    (Issues { Enc.vab with imm := 0x1FFFEF } i s →
      let a := (x.s i.ra).toNat
      let e := (x.s i.rb).toNat
      3 ≤ f → f ≤ 7 → i.rd % 2 = 0 → a % 8 = 0 → a + n ≤ 49152 → e + 1 ≤ 49152 → (getCore u i.core).spmErr = [] →
      let half (h : Nat) := ofLanes fun j =>
        dequant f (field (spmBytes u i.core a n) (elemBits f * (16 * h + j)) (elemBits f)) (spmBytes u i.core e 1) t
      exec (.dqblk i) s = .next (wrote i s ((x.setV i.rd (maskLanes i.men (maskOf i x) (x.v i.rd) (half 0))).setV (i.rd + 1)
        (maskLanes i.men (maskOf i x) (x.v (i.rd + 1)) (half 1)))))

/-- A well-formed ETILE or ESPARSE joins the end of its engine's queue, or waits in WAIT_ENGINE while four operations are queued. DRAIN of
a set with no open operation writes the 16 cells at sA and zeroes the set where ZERO is 1; AZERO zeroes the set. A set that the context
does not own ends the task with ILLEGAL_OP. (R46, R47, R107, R108, R111) -/
def Obligations.EngineQueue : Prop :=
  ∀ (i : Issue) (s : State),
    let x := ctxOf i s
    let u := begun i s
    let c := getCore u i.core
    let queues (ins : Issue → Instr) (sparse : Bool) (opc : BitVec 8) : Prop :=
      let o := mkOp sparse i x c.nextOp (sparsePolicy u i.core)
      let g := c.eng o.eng
      opIllegal sparse i x o = false → operandBound o.spa o.aAddr o.aStride o.fba.toNat o.nblk = [] →
      operandBound o.spb o.bAddr o.bStride o.fbb.toNat o.nblk = [] → serialBlocked c o.eng i.ctx = false →
      (g.live.length < 4 → exec (ins i) s = .next (wentOn i s (setCore u i.core
        { c.setEng o.eng { g with queue := g.queue ++ [o], wdStart := if g.live = [] then u.tally else g.wdStart } with
          nextOp := c.nextOp + 1 }))) ∧
      (4 ≤ g.live.length → exec (ins i) s = .next (waits i u .waitEngine (.engine opc i)))
    (Issues encTile i s → queues .etile false 0x60) ∧
    (Issues { encTile with imm := 0x1FFFFFFF } i s → queues .esparse true 0x61) ∧
    (Issues { Enc.none with a := true, b := i.bit 26, c := i.bit 26, imm := 0xFFF0000 } i s →
      let e := i.fld 16 2
      let as_ := i.fld 18 3
      let f := i.fld 21 4
      let a := (x.s i.ra).toNat
      let n := 2 * elemBits f
      (f ≤ 4 ∨ f = 7) → as_ / 2 = i.ctx → a % n = 0 → a + n ≤ 49152 → setBusy c e as_ i.ctx = false → rangeBusy u i.core a n = false →
      ∃ v, v = drained c e as_ f (i.bit 25)
          (fun j => if i.bit 26 then some (roundWord (x.s i.rb).toNat (((x.s i.rc).toNat + j) % 2 ^ 64)) else none) ∧
        exec (.drain i) s = .next (wentOn i s (if i.bit 27 then modCore (spmWrite u i.core a n v) i.core (·.setAcc e as_ 0)
          else spmWrite u i.core a n v))) ∧
    (Issues { Enc.none with imm := 0x1F0000 } i s →
      let e := i.fld 16 2
      let as_ := i.fld 18 3
      (as_ / 2 = i.ctx → setBusy c e as_ i.ctx = false → exec (.azero i) s = .next (wentOn i s (modCore u i.core (·.setAcc e as_ 0)))) ∧
      (as_ / 2 ≠ i.ctx → exec (.azero i) s = .next (endTask u i.core i.ctx stIllegalOp [fIllegal x.pc])))

/-- A block of the operation at the head of an engine's queue closes into its accumulator set when no word it reads is in error. The
checker takes the oldest operation that waits for it, passes it with its tiles counted, or removes it with the later ones of its task and
reports its failure. The bank rewrites a corrected word and counts it. An instruction that waited for room or for an operand range runs.
(R42, R47, R110, R120, R135, R136, R147, R162) -/
def Obligations.EngineProgress : Prop :=
  (∀ (s : State) (core eng : Nat) (ups : List (Nat × Bool)) (o : EngOp) (r : List EngOp),
    let u := modCore s core (·.upset ups)
    let g := (getCore u core).eng eng
    coreServing s core = true → s.clock.stopped = false → g.live = o :: r → g.hung = false → (o.check = .notNeeded ∨ o.check = .passed) →
    (getCore u core).spmErr = [] →
    exec (.engineBlockClose core eng ups) s = .next (modCore u core fun c =>
      (c.setEng eng (g.advance o.id s.tally)).setAcc o.eng o.aset
        (closeBlock (opBlocks u core o o.closed).1 (opBlocks u core o o.closed).2 (c.accSet o.eng o.aset)))) ∧
  (∀ (s : State) (core : Nat) (o : EngOp), s.clock.stopped = false → (getCore s core).taken = none → (getCore s core).allOps.find? (fun o => o.check = .waiting) = some o →
    exec (.tileCheckerTakeOp core) s = .next (setCore s core
      ((getCore s core).mapOps fun q => some (if q.id = o.id then { q with check := .taken } else q)))) ∧
  (∀ (s : State) (core : Nat) (o : EngOp),
    let r := checkOp s core o (!o.policy.tolerant)
    (getCore s core).taken = some o → s.clock.stopped = false → o.dead = false → r.ce = [] →
    (r.fail = none → exec (.tileCheckComplete core) s = .next (modClu
      (modCore s core fun c => (c.mapOps fun q => some (if q.id = o.id then { q with check := .passed } else q)).kick s.tally) (clusterOf core)
      fun u => r.tiles.foldl (·.countTile o.policy) u)) ∧
    (∀ f, r.fail = some f → o.taskRuns s core = true → exec (.tileCheckFailureReport core) s = .next (reportFault (modClu
      (modCore (modCore (noteRead s core { data := 0, bad := if f.status = stEcc then some f.addr.toNat else none, ce := [] }) core fun c =>
        (c.mapOps fun q => if q.id = o.id then none else some q).kick s.tally) core (·.removeFrom o)) (clusterOf core) fun u =>
      if f.status = stSparseDecl then { u with declFaults := satAdd u.declFaults 1 }
      else if f.status = stSparseIndex then { u with indexFaults := satAdd u.indexFaults 1 } else u) core o f))) ∧
  (∀ (s : State) (core word : Nat), (getCore s core).rewrite.contains word = true →
    exec (.spmCeRewrite core word) s = .next (modClu (modCore s core (·.cure word)) (clusterOf core) fun u =>
      { u with ceCount := satAdd u.ceCount 1 })) ∧
  (∀ (s : State) (i : Issue),
    let x := getCtx s i.core i.ctx
    let c := getCore s i.core
    let o := mkOp false i x c.nextOp (sparsePolicy s i.core)
    let g := c.eng o.eng
    Waiting s i.core i.ctx .waitEngine (.engine 0x60 i) → s.clock.stopped = false → opIllegal false i x o = false →
    operandBound false o.aAddr o.aStride o.fba.toNat o.nblk = [] → operandBound false o.bAddr o.bStride o.fbb.toNat o.nblk = [] →
    serialBlocked c o.eng i.ctx = false → g.live.length < 4 →
    exec (.engineQueueRoom i.core i.ctx) s = .next (goOn (setCore s i.core
      { c.setEng o.eng { g with queue := g.queue ++ [o], wdStart := if g.live = [] then s.tally else g.wdStart } with
        nextOp := c.nextOp + 1 }) i.core i.ctx (x.pc + 8))) ∧
  ∀ (s : State) (i : Issue),
    let x := getCtx s i.core i.ctx
    let a := accessAddr i x
    let n := accessSize i
    Waiting s i.core i.ctx .waitEngine (.range 0x21 i) → s.clock.stopped = false → n ≤ 8 → a % n = 0 → a + n ≤ 49152 → i.fld 16 3 ≤ 4 → rangeBusy s i.core a n = false →
    exec (.operandRangeRelease i.core i.ctx) s = .next (goOn (tillStore s i.core a n (x.s i.rb).toNat) i.core i.ctx (x.pc + 8))

/-- A handle transfer of 1 to 768 aligned lines inside the scratchpad and inside a valid handle is asked for and retires; HLD and HLDR,
and an HST to the core's own scratchpad, wait in WAIT_ENGINE while their lines meet an operand range. A handle that is not valid, not
writable or too short ends the task with BAD_ARGUMENT; a malformed transfer ends it with ILLEGAL_OP, unless its handle is invalid too,
which ranks first. (R99, R100, R102, R120, R204) -/
def Obligations.HandleTransfers : Prop :=
  ∀ (i : Issue) (s : State) (p : Nat),
    let x := ctxOf i s
    let u := begun i s
    let k := i.core
    let h := (x.s i.ra).toNat
    let d := handleAt u p h (clusterOf k)
    let off := (x.s i.rb).toNat
    let sp := (x.s i.rc).toNat
    let n := i.fld 0 16
    let aligned : Prop := off % 64 = 0 ∧ sp % 64 = 0
    let reaches (n : Nat) : Prop := h ≤ 4095 ∧ d.state = 1 ∧ off + n ≤ 64 * (d.linesM1.toNat + 1)
    let ownBuffer : Prop := d.kind = true ∧ namedCore u p d = some k ∧ rangeBusy u k (64 * handleLine d (off / 64)) (64 * n) = true
    x.bb = false → partOfCore u k = some p →
    (Issues Enc.transfer i s →
      (aligned → 1 ≤ n → n ≤ 768 → sp + 64 * n ≤ 49152 → reaches (64 * n) →
        (rangeBusy u k sp (64 * n) = false →
          exec (.hld i) s = .next (wentOn i s (handleRead u k p h d (off / 64) n (sp / 64) i.cnt))) ∧
        (rangeBusy u k sp (64 * n) = true → exec (.hld i) s = .next (waits i u .waitEngine (.range 0x30 i))) ∧
        (d.wr = true → ¬ ownBuffer → exec (.hst i) s = .next (wentOn i s (handleWrite u k p h d (off / 64) n (sp / 64) i.cnt))) ∧
        (d.wr = true → ownBuffer → exec (.hst i) s = .next (waits i u .waitEngine (.range 0x31 i))) ∧
        (d.wr = false → exec (.hst i) s = .next (endTask u k i.ctx stBadArgument [fHandle off]))) ∧
      (aligned → 1 ≤ n → n ≤ 768 → sp + 64 * n ≤ 49152 → ¬ reaches (64 * n) →
        exec (.hld i) s = .next (endTask u k i.ctx stBadArgument [fHandle off]) ∧
        exec (.hst i) s = .next (endTask u k i.ctx stBadArgument [fHandle off])) ∧
      (¬ aligned → 1 ≤ n → n ≤ 768 → sp + 64 * n ≤ 49152 → reaches (64 * n) → d.wr = true →
        exec (.hld i) s = .next (endTask u k i.ctx stIllegalOp [fIllegal x.pc]) ∧
        exec (.hst i) s = .next (endTask u k i.ctx stIllegalOp [fIllegal x.pc])) ∧
      (n = 0 ∨ 768 < n →
        (h ≤ 4095 → d.state = 1 → exec (.hld i) s = .next (endTask u k i.ctx stIllegalOp [fIllegal x.pc]) ∧
          (d.wr = true → exec (.hst i) s = .next (endTask u k i.ctx stIllegalOp [fIllegal x.pc]))) ∧
        (¬ (h ≤ 4095 ∧ d.state = 1) → exec (.hld i) s = .next (endTask u k i.ctx stBadArgument [fIllegal x.pc, fHandle off]) ∧
          exec (.hst i) s = .next (endTask u k i.ctx stBadArgument [fIllegal x.pc, fHandle off])))) ∧
    (Issues { Enc.transfer with d := true } i s →
      let len := i.fld 0 8
      let n8 := i.fld 8 8
      let bm := (x.s i.rd).toNat
      let rows := (List.range (8 * n8)).filter fun r => (spmBytes u k bm n8).testBit r
      let top := match rows.getLast? with | some t => 64 * ((t + 1) * len) | none => 1
      aligned → bm % 64 = 0 → 1 ≤ len → 1 ≤ n8 → bm + n8 ≤ 49152 → (getCore u k).spmErr = [] → reaches top →
      (rows ≠ [] → sp + 64 * len * rows.length ≤ 49152 ∧ rangeBusy u k sp (64 * len * rows.length) = false) →
      exec (.hldr i) s = .next (wentOn i s (((List.range rows.length).zip rows).foldl (fun t (j, r) =>
        handleRead t k p h d (off / 64 + r * len) len (sp / 64 + j * len) i.cnt) u)))

/-- Under Base-bound addressing BLD and BST of 1 to 768 aligned lines, every one permitted by CORE.BASE and CORE.BOUND, are asked of the
core's own channel from line BASE + OFF/64 on; a line beyond the bound ends the task with BOUND_FAULT, SPACE 1 and its offset, and under
Handle addressing both instructions end the task with ILLEGAL_OP, or with BOUND_FAULT where their lines leave the scratchpad. (R63, R101,
R213) -/
def Obligations.BaseBoundTransfers : Prop :=
  ∀ (i : Issue) (s : State),
    let x := ctxOf i s
    let u := begun i s
    let k := i.core
    let off := (x.s i.rb).toNat
    let sp := (x.s i.rc).toNat
    let n := i.fld 0 16
    let permitted (o : Nat) : Prop := x.boundEn = true ∧ o + 64 ≤ 64 * x.limit.toNat ∧ 64 * x.base.toNat + o + 64 ≤ 2 ^ 26
    Issues { Enc.transfer with a := false } i s →
      (x.bb = true → off % 64 = 0 → sp % 64 = 0 → 1 ≤ n → n ≤ 768 → sp + 64 * n ≤ 49152 →
        ((∀ j, j < n → permitted (off + 64 * j)) →
          (rangeBusy u k sp (64 * n) = false →
            exec (.bld i) s = .next (wentOn i s (requestRead u k (clusterOf k) (x.base.toNat + off / 64) n (sp / 64) i.cnt))) ∧
          exec (.bst i) s = .next (wentOn i s (requestWrite u k (clusterOf k) (x.base.toNat + off / 64) n (sp / 64) i.cnt))) ∧
        (∀ j, j < n → ¬ permitted (off + 64 * j) → (∀ l, l < j → permitted (off + 64 * l)) →
          exec (.bld i) s = .next (endTask u k i.ctx stBoundFault [fBound 1 (off + 64 * j)]) ∧
          exec (.bst i) s = .next (endTask u k i.ctx stBoundFault [fBound 1 (off + 64 * j)]))) ∧
      (x.bb = false → n = 0 ∨ 768 < n ∨ sp + 64 * n ≤ 49152 →
        exec (.bld i) s = .next (endTask u k i.ctx stIllegalOp [fIllegal x.pc]) ∧
        exec (.bst i) s = .next (endTask u k i.ctx stIllegalOp [fIllegal x.pc])) ∧
      (x.bb = false → 1 ≤ n → n ≤ 768 → 49152 < sp + 64 * n →
        exec (.bld i) s = .next (endTask u k i.ctx stBoundFault [fIllegal x.pc, fBound 0 sp]) ∧
        exec (.bst i) s = .next (endTask u k i.ctx stBoundFault [fIllegal x.pc, fBound 0 sp]))

/-- A core's request of its own channel and a READ_REQ or WRITE_REQ from another cluster reach the same queues: a read queues one job per
line for the requester, a write takes the next tag, notes its lines and answers WRITE_GRANT with the tag and the count. Other packet types
change nothing. (R213) -/
def Obligations.ChannelRequestsAnswered : Prop :=
  (∀ (s : State) (cl : Nat) (p : CtrlPacket),
    let b := p.body.toNat
    (p.ctype = 1 →
      ∃ t, exec (.readReq cl p) s = .next t ∧ (getClu t cl).reads = (getClu s cl).reads ++ ((List.range (b / 2 ^ 20 % 1024 + 1)).map fun j =>
          ReadJob.mk (b % 2 ^ 20 + j) (.core p.sx p.sy (b / 2 ^ 30 % 1024 + j) (b / 2 ^ 40 % 16)) none (getClu s cl).nextArr) ∧
        t.mem = s.mem ∧ t.cores = s.cores ∧ t.emitted = s.emitted ∧ ∀ c, c ≠ cl → getClu t c = getClu s c) ∧
    (p.ctype = 2 →
      ∃ t tag, exec (.writeReq cl p) s = .next t ∧ tag = (getClu s cl).nextTag ∧ (getClu t cl).nextTag = tag + 1 ∧
        (getClu t cl).writes = (getClu s cl).writes ++ [WriteJob.mk tag p.sx p.sy (b / 2 ^ 40 % 16) (b % 2 ^ 20)
          (b / 2 ^ 20 % 1024 + 1) [] s.tally none] ∧
        t.mem = s.mem ∧ t.cores = s.cores ∧ (∀ c, c ≠ cl → getClu t c = getClu s c) ∧
        t.emitted = s.emitted ++ [.ctrl (mkCtrl s 3 (coreX (portCore cl)) (coreY (portCore cl)) p.sx.toNat p.sy.toNat
          (tag.toNat + 2 ^ 26 * (b / 2 ^ 20 % 1024 + 1)))])) ∧
  ∀ (s : State) (cl : Nat) (p : CtrlPacket), p.ctype ≠ 1 → p.ctype ≠ 2 →
    exec (.readReq cl p) s = .next s ∧ exec (.writeReq cl p) s = .next s

/-- A well-formed WPUT or WGET through an outbound window to another panel goes to the nearest optical die of the first torus direction as
XPUT_REQ or XGET_REQ; one that the window turns away has its lines counted with the refusal's status, and the task goes on. (R103, R176,
R275, R277) -/
def Obligations.WindowTransfers : Prop :=
  ∀ (i : Issue) (s : State) (p : Nat),
    let x := ctxOf i s
    let u := begun i s
    let k := i.core
    let w := (x.s i.ra).toNat
    let off := (x.s i.rb).toNat
    let sp := (x.s i.rc).toNat
    let n := i.fld 0 16
    let d := windowAt u p w (clusterOf k)
    Issues Enc.transfer i s → x.bb = false → partOfCore u k = some p → off % 64 = 0 → sp % 64 = 0 → 1 ≤ n → n ≤ 768 → sp + 64 * n ≤ 49152 →
      (∀ st, windowRefusal u p w (clusterOf k) off n true = some st →
        exec (.wput i) s = .next (wentOn i s (refuseLines (expectWrite u k (sp / 64) n i.cnt 1 0 0) k i.cnt n st))) ∧
      (∀ st, rangeBusy u k sp (64 * n) = false → windowRefusal u p w (clusterOf k) off n false = some st →
        exec (.wget i) s = .next (wentOn i s (refuseLines (expectRead u k (sp / 64) n i.cnt) k i.cnt n st))) ∧
      (∀ dir oe ax ay, d.target = false → torusDir u.sys.panel (d.fld 0 10) = some dir →
        oe = nearestOptical u (getPart u p).dist.holes dir (portRouters (clusterOf k)) → (ax, ay) = (opticalNear oe (coreX k) (coreY k)).2 →
        let body := w + 2 ^ 8 * (off / 64) + 2 ^ 28 * (n - 1) + 2 ^ 38 * (sp / 64) + 2 ^ 48 * i.cnt
        (windowRefusal u p w (clusterOf k) off n true = none →
          exec (.wput i) s = .next (wentOn i s
            (sendCtrl (expectWrite u k (sp / 64) n i.cnt 1 ax ay) 0x10 (coreX k) (coreY k) ax ay body))) ∧
        (windowRefusal u p w (clusterOf k) off n false = none → rangeBusy u k sp (64 * n) = false →
          exec (.wget i) s = .next (wentOn i s (sendCtrl (expectRead u k (sp / 64) n i.cnt) 0x11 (coreX k) (coreY k) ax ay body))))

/-- SEND, MSEND and CSEND that pass their checks read the source line, put their packets behind those at the core's injection input and
wait in WAIT_FABRIC until the router has taken them all; when the last one goes out the send retires. CABORT sends an ABORT with the task
number to the named core and retires. A logical core number beyond the numbering ends the task with ILLEGAL_OP. (R104, R105, R211, R220,
R222, R227) -/
def Obligations.Sends : Prop :=
  (∀ (i : Issue) (s : State),
    let x := ctxOf i s
    let u := begun i s
    let k := i.core
    let sp := (x.s i.rb).toNat
    let dp := (x.s i.rc).toNat
    let line := dp / 64
    let r := spmRead u k sp 64
    let v := BitVec.ofNat 512 (spmBytes u k sp 64)
    let sendsAll (ins : Issue → Instr) (t : State) (ps : List DataPacket) : Prop :=
      exec (ins i) s = .next (waits i (modCore (noteRead t k r) k fun c => { c with inj := c.inj ++ ps.map fun q => (i.ctx, q) })
        .waitFabric (.accept ps.length))
    (Issues (encSend i) i s → sp % 64 = 0 → dp % 64 = 0 → sp + 64 ≤ 49152 → dp + 64 ≤ 49152 →
      (i.bit 20 = true → (x.s i.rd).toNat % 65536 ≠ 0) → r.bad = none →
      (∀ d, translate u k (x.s i.ra).toNat = some d → (d = k → rangeBusy u k dp 64 = false) →
        sendsAll .send u [mkData u (hdrTo i x d) v]) ∧
      ((List.range 16).any (injectsIn u k u.epoch.cur 4 (x.s i.ra).toNat) = true →
        ((List.range 16).any (deliversIn u k u.epoch.cur (x.s i.ra).toNat) = true → rangeBusy u k dp 64 = false) →
        sendsAll .csend u [mkData u (.unicast (i.bit 20) (BitVec.ofNat 4 i.cnt) (BitVec.ofNat 10 line) (BitVec.ofNat 10 (x.s i.ra).toNat) 0
          (sendTotal i x) true) v]) ∧
      (∀ m, (x.s i.ra).toNat + 16 ≤ 49152 → (getCore u k).spmErr = [] →
        mcastMatch u k (BitVec.ofNat 128 (spmBytes u k (x.s i.ra).toNat 16)) = some m →
        let desc := BitVec.ofNat 128 (spmBytes u k (x.s i.ra).toNat 16)
        (mcastDest u u.epoch.cur desc.toNat k = true → rangeBusy u k dp 64 = false) →
        sendsAll .msend u (mkData u (mcastHdr false i.cnt line m desc) v ::
          (if i.bit 20 then [mkData u (mcastHdr true i.cnt line m desc) (BitVec.ofNat 512 (sendTotal i x).toNat)] else []))) ∧
      (translate u k (x.s i.ra).toNat = none → exec (.send i) s = .next (endTask u k i.ctx stIllegalOp [fIllegal x.pc]))) ∧
    (Issues { Enc.none with a := true, b := true } i s →
      (∀ d, translate u k (x.s i.ra).toNat = some d → exec (.cabort i) s = .next (wentOn i s
        (sendCtrl u 8 (coreX k) (coreY k) (coreX d) (coreY d) ((x.s i.rb).toNat % 65536)))) ∧
      (translate u k (x.s i.ra).toNat = none → exec (.cabort i) s = .next (endTask u k i.ctx stIllegalOp [fIllegal x.pc])))) ∧
  ∀ (s t : State) (core n : Nat) (rc : RouterClock) (q : DataPacket) (rest : List (Nat × DataPacket)),
    let s1 := modCore s core fun c => { c with inj := rest }
    let p := { q with epoch := s.epoch.cur }
    (getCore s core).inj = (n, q) :: rest → isCirc q.hdr = false →
    s.clock.stopped = false → doHop s1 core (clockAt s rc) p (injectHop s1 core (coreTurn s core rc) p) = some t →
    Waiting s core n .waitFabric (.accept 1) →
    exec (.routerInjectionAccept core rc) s = .next (goOn t core n ((getCtx s core n).pc + 8))

/-- ARM on an armed counter ends the task with ILLEGAL_OP. Otherwise it sets ARMED, takes a non-zero total and keeps the total otherwise,
sets the deadline to the die's Tally time plus TMO, leaves COUNT, and changes no other counter, register or unit. (R95) -/
def Obligations.ArmSetsTheCounter : Prop :=
  ∀ (i : Issue) (s : State),
    let x := ctxOf i s
    let u := begun i s
    let v := (getCore s i.core).cnt i.cnt
    let t16 : BitVec 16 := (x.s i.ra).setWidth 16
    Issues { Enc.none with a := true, imm := 0x1FFF0000 } i s →
      (v.armed = true → exec (.arm i) s = .next (endTask u i.core i.ctx stIllegalOp [fIllegal x.pc])) ∧
      (v.armed = false → exec (.arm i) s = .next (wentOn i s (modCore u i.core fun c => c.setCnt i.cnt { v with
        armed := true, owner := i.ctx, discard := false, total := if t16 ≠ 0 then t16 else v.total,
        deadline := s.tally + BitVec.ofInt 64 ((getDie s (i.core / 4096)).island.off / 2 ^ 32) +
          BitVec.ofNat 64 (if i.fld 20 8 = 0 then 100000 else if i.bit 28 then i.fld 20 8 * 1000000 else i.fld 20 8 * 1000) })))

/-- WAITC on a counter that is not armed ends the task with ILLEGAL_OP and otherwise waits in WAIT_FABRIC. An error mark ends the wait
before a full count, and a full count before the deadline: the full count writes the status to sD, takes TOTAL from COUNT, clears TOTAL
and the status and disarms; an error mark ends the task with ECC_UNCORRECTABLE and the deadline with TIMEOUT, and both write no register.
FAULTADDR of both is a free value (log 7). (R97) -/
def Obligations.WaitcEnds : Prop :=
  (∀ (i : Issue) (s : State), Issues { Enc.none with d := true, imm := 0xF0000 } i s →
    (((getCore s i.core).cnt i.cnt).armed = false →
      exec (.waitc i) s = .next (endTask (begun i s) i.core i.ctx stIllegalOp [fIllegal (ctxOf i s).pc])) ∧
    (((getCore s i.core).cnt i.cnt).armed = true →
      exec (.waitc i) s = .next (waits i (begun i s) .waitFabric (.counter i.cnt i.rd)))) ∧
  ∀ (s : State) (core n c rd : Nat),
    let x := getCtx s core n
    let v := (getCore s core).cnt c
    let ue : Prop := v.ueDram = true ∨ v.ueSpm = true
    let full : Prop := v.total ≠ 0 ∧ v.total.toNat ≤ v.count.toNat
    let late : Prop := v.deadline.toNat ≤ (dieTally s (core / 4096)).toNat
    Waiting s core n .waitFabric (.counter c rd) →
      (¬ ue → full →
        exec (.waitcComplete core n) s = .next (goOn (modCore s core fun k => (k.setCnt c { v with
          count := v.count - v.total.setWidth 32, total := 0, status := 0, armed := false }).setCtx n
            (x.setS rd (v.status.setWidth 64))) core n (x.pc + 8)) ∧
        exec (.waitcUeFault core n) s = .next s ∧ exec (.arrivalDeadlineExpiry core n) s = .next s) ∧
      (ue → exec (.waitcComplete core n) s = .next s ∧ exec (.arrivalDeadlineExpiry core n) s = .next s ∧
        ∃ t, exec (.waitcUeFault core n) s = .next t ∧ (getCtx t core n).state = .stopped ∧ (getCtx t core n).lastStatus = stEcc ∧
          (getCtx t core n).regs = x.regs ∧ (getCtx t core n).fault =
            x.fault ||| (if v.ueDram then 0x08#7 else 0) ||| (if v.ueSpm then 0x04#7 else 0)) ∧
      (¬ ue → ¬ full → exec (.waitcComplete core n) s = .next s ∧ exec (.waitcUeFault core n) s = .next s ∧
        (¬ late → exec (.arrivalDeadlineExpiry core n) s = .next s) ∧
        (late → ∃ t, exec (.arrivalDeadlineExpiry core n) s = .next t ∧ (getCtx t core n).state = .stopped ∧
          (getCtx t core n).lastStatus = stTimeout ∧ (getCtx t core n).regs = x.regs ∧ (getCtx t core n).fault = x.fault ||| 0x40#7))

/-- CARR of an enrolled context arrives on the current generation, or waits in WAIT_CLEAR while its last arrival has not cleared and
arrives when it has. CWAIT retires once the generation of the last CARR has cleared and waits in WAIT_CLEAR before; CTEST writes 1 or 0
instead. A context that is not enrolled, or that has made no CARR, ends its task with ILLEGAL_OP. (R106) -/
def Obligations.ClearingInstructions : Prop :=
  (∀ (i : Issue) (s : State),
    let x := ctxOf i s
    let u := begun i s
    let k := i.core
    let ch := Issue.ch i
    let isCleared (c : Core) (ch : Nat) (g : Option Nat) : Prop := ∃ m, g = some m ∧ m < Tbl.get c.seen ch 0
    let stops (c : Issue → Instr) : Prop := exec (c i) s = .next (endTask u k i.ctx stIllegalOp [fIllegal x.pc])
    (Issues encCh i s →
      (∀ p e, clearEntry u k ch = some (p, e) →
        (e.ctxmask.getLsbD i.ctx = true →
          (Tbl.find x.arrGen ch = none → exec (.carr i) s = .next (wentOn i s (arrive u p k i.ctx ch))) ∧
          (∀ g, Tbl.find x.arrGen ch = some g →
            (isCleared (getCore u k) ch g → exec (.carr i) s = .next (wentOn i s (arrive u p k i.ctx ch))) ∧
            (¬ isCleared (getCore u k) ch g → exec (.carr i) s = .next (waits i u .waitClear (.arrive ch))))) ∧
        (e.ctxmask.getLsbD i.ctx = false → stops .carr)) ∧
      (clearEntry u k ch = none → stops .carr) ∧
      (Tbl.find x.arrGen ch = none → stops .cwait) ∧
      (∀ g, Tbl.find x.arrGen ch = some g →
        (isCleared (getCore u k) ch g → exec (.cwait i) s = .next (wentOn i s u)) ∧
        (¬ isCleared (getCore u k) ch g → exec (.cwait i) s = .next (waits i u .waitClear (.clear ch))))) ∧
    (Issues { encCh with d := true } i s →
      (Tbl.find x.arrGen ch = none → stops .ctest) ∧
      (∀ g, Tbl.find x.arrGen ch = some g →
        (isCleared (getCore u k) ch g → exec (.ctest i) s = .next (wrote i s (x.setS i.rd 1))) ∧
        (¬ isCleared (getCore u k) ch g → exec (.ctest i) s = .next (wrote i s (x.setS i.rd 0)))))) ∧
  ∀ (s : State) (core n ch : Nat) (g : Option Nat),
    let isCleared (c : Core) (ch : Nat) (g : Option Nat) : Prop := ∃ m, g = some m ∧ m < Tbl.get c.seen ch 0
    let x := getCtx s core n
    Tbl.find x.arrGen ch = some g →
      (Waiting s core n .waitClear (.clear ch) →
        (isCleared (getCore s core) ch g → exec (.cwaitRetire core n) s = .next (goOn s core n (x.pc + 8))) ∧
        (¬ isCleared (getCore s core) ch g → exec (.cwaitRetire core n) s = .next s)) ∧
      (∀ p e, Waiting s core n .waitClear (.arrive ch) → clearEntry s core ch = some (p, e) → e.ctxmask.getLsbD n = true →
        (isCleared (getCore s core) ch g → exec (.carrAfterClear core n) s = .next (goOn (arrive s p core n ch) core n (x.pc + 8))) ∧
        (¬ isCleared (getCore s core) ch g → exec (.carrAfterClear core n) s = .next s))

/-- A unicast line for a counter that does not discard is in its scratchpad line, in the coherent store, and the counter's COUNT is one
higher; LAST sets a TOTAL of 0, or marks BAD_ARGUMENT when it differs from a TOTAL already set. For a counter that discards, nothing is
written or counted but DISARMED. No other counter, no other core and no other byte changes. COMMIT and COUNT_ONLY count their lines on a
counter that does not discard; an uncorrectable source sets its DRAM mark, another status is merged. NOTE acts on TOTAL as LAST does and
counts nothing. None of them writes memory, and a counter that discards takes none of them. (R94, R96, R98, R166, R213, R222) -/
def Obligations.LinesCounted : Prop :=
  (∀ (s : State) (core : Nat) (p : DataPacket) (flag : Bool) (cnt : BitVec 4) (line dx dy : BitVec 10) (total : BitVec 16),
     let v := (getCore s core).cnt cnt.toNat
     p.hdr = .unicast flag cnt line dx dy total false → line.toNat < 768 → Memory.wf s.mem = true →
       (v.discard = false → ∃ t, exec (.lineArrival core p) s = .next t ∧
         (let w := (getCore t core).cnt cnt.toNat
          w.count = v.count + 1 ∧ w.armed = v.armed ∧ w.deadline = v.deadline ∧ w.ueDram = v.ueDram ∧ w.ueSpm = v.ueSpm ∧
          (flag = false → w.total = v.total ∧ w.status = v.status) ∧
          (flag = true → v.total = 0 → w.total = total ∧ w.status = v.status) ∧
          (flag = true → v.total ≠ 0 → w.total = v.total ∧ w.status = if v.total = total then v.status else mergeStatus v.status stBadArgument)) ∧
         (∀ b, b < 64 → spmByte t core (64 * line.toNat + b) = p.payload.toNat / 256 ^ b % 256) ∧
         (∀ a, (∀ b, b < 64 → a ≠ spmAddr core (64 * line.toNat + b)) → Mem.read t.mem a = Mem.read s.mem a) ∧
         (∀ n, n ≠ cnt.toNat → (getCore t core).cnt n = (getCore s core).cnt n) ∧ ∀ k, k ≠ core → getCore t k = getCore s k) ∧
       (v.discard = true → ∃ t, exec (.lineArrival core p) s = .next t ∧ t.mem = s.mem ∧ (getCore t core).cnts = (getCore s core).cnts ∧
         (getCore t core).till = (getCore s core).till ∧ (getClu t (core / 64)).disarmed = satAdd (getClu s (core / 64)).disarmed 1)) ∧
  ((∀ (s : State) (core : Nat) (p : CtrlPacket),
     let cnt := p.body.toNat % 16
     let n := p.body.toNat / 16 % 1024
     let st : Status := BitVec.ofNat 16 (p.body.toNat / 2 ^ 14)
     let v := (getCore s core).cnt cnt
     let counted (c : Instr) (w : Counter) : Prop :=
       ∃ t, exec c s = .next t ∧ (getCore t core).cnt cnt = w ∧ t.mem = s.mem ∧ (∀ m, m ≠ cnt → (getCore t core).cnt m = (getCore s core).cnt m) ∧
         ∀ k, k ≠ core → getCore t k = getCore s k
     let more := { v with count := v.count + BitVec.ofNat 32 n }
     (v.discard = false →
       (p.ctype = 4 → counted (.commit core p) more) ∧
       (p.ctype = 5 → st = stOk → counted (.countOnly core p) more) ∧
       (p.ctype = 5 → st = stEcc → counted (.countOnly core p) { more with ueDram := true }) ∧
       (p.ctype = 5 → st ≠ stOk → st ≠ stEcc → counted (.countOnly core p) { more with status := mergeStatus v.status st })) ∧
     (v.discard = true → (p.ctype = 4 → counted (.commit core p) v) ∧ (p.ctype = 5 → counted (.countOnly core p) v))) ∧
   ∀ (s : State) (core : Nat) (p : DataPacket) (cnt : BitVec 4) (line : BitVec 10) (dr dc : BitVec 4) (u0 u1 v0 v1 : BitVec 6) (m : BitVec 4),
     let v := (getCore s core).cnt cnt.toNat
     let total : BitVec 16 := p.payload.setWidth 16
     p.hdr = .mcastCore true cnt line dr dc u0 u1 v0 v1 m → v.discard = false →
       exec (.note core p) s = .next (modCore s core fun c => c.setCnt cnt.toNat
         (if v.total = 0 then { v with total := total }
          else if v.total = total then v else { v with status := mergeStatus v.status stBadArgument })))

/-- WRITE_GRANT and XGRANT complete at every core in every state, whatever transfers the core has issued: memory, the registers and tasks
of every context, partitions and jobs stay. TAGGED_LINE_TIMEOUT completes too: before 50 µs it changes nothing, and from then on the
controller drops the grant and counts the missing lines with TIMEOUT in one COUNT_ONLY. (R163, R213, R236, R277) -/
def Obligations.GrantsComplete : Prop :=
  (∀ (s : State) (core : Nat) (p : CtrlPacket),
    let completes (c : Instr) : Prop := ∃ t, exec c s = .next t ∧ t.mem = s.mem ∧ t.parts = s.parts ∧ t.jobs = s.jobs ∧ t.sessions = s.sessions ∧
      t.pending = s.pending ∧ (∀ k n, getCtx t k n = getCtx s k n)
    (p.ctype = 3 → completes (.writeGrant core p)) ∧ (p.ctype = 0x12 → completes (.xgrant core p))) ∧
  ∀ (s : State) (cl tag : Nat),
    ((getClu s cl).writes.find? (fun w => w.tag.toNat = tag) = none → exec (.taggedLineTimeout cl tag) s = .next s) ∧
    ∀ w, (getClu s cl).writes.find? (fun w => w.tag.toNat = tag) = some w →
      (now s < w.start.toNat + 50000 → exec (.taggedLineTimeout cl tag) s = .next s) ∧
      (w.start.toNat + 50000 ≤ now s → ∃ t, exec (.taggedLineTimeout cl tag) s = .next t ∧
        t = sendCtrl (modClu s cl fun u => { u with writes := u.writes.filter fun v => v.tag ≠ w.tag }) 5 (coreX (portCore cl)) (coreY (portCore cl))
          w.x.toNat w.y.toNat (w.cnt + 16 * (w.lines - w.got.length) + 2 ^ 14 * stTimeout.toNat) ∧
        (getClu t cl).writes.find? (fun w => w.tag.toNat = tag) = none ∧ t.mem = s.mem ∧ t.cores = s.cores ∧
        ∀ c, c ≠ cl → getClu t c = getClu s c)

/-- WRITE_GRANT and XGRANT name the transfer with their tag, else the oldest matching one that has no tag, tag it and send the granted
lines in order, each with the bytes of its scratchpad line. A tagged line at a channel waits to be committed; one at a core that granted
it is written and counted for the requester, and once the core is fenced or has left it is counted with FENCED and not written. That the
oldest transfer matches is the model's choice (log 18). (R163, R212, R213) -/
def Obligations.GrantsSendLines : Prop :=
  (∀ (s : State) (core : Nat) (p : CtrlPacket),
    let tag : BitVec 16 := p.body.setWidth 16
    let fits (ep : CoreXfer → Bool) (v : CoreXfer) : Bool := ep v && decide (v.tx = p.sx.toNat) && decide (v.ty = p.sy.toNat)
    let tagged (ep : CoreXfer → Bool) := (getCore s core).writes.find? fun v => fits ep v && v.tag = some tag
    let oldest (ep : CoreXfer → Bool) := (getCore s core).writes.find? fun v => fits ep v && v.tag.isNone
    let first := field p.body.toNat 16 10
    let sends (c : Instr) (w : CoreXfer) : Prop :=
      let n := Nat.min (field p.body.toNat 26 10) (w.lines - first)
      let t := modCore s core fun c => { c with writes := c.writes.map fun v => if v = w then { v with tag := some tag } else v }
      let u := sendGranted t core w.ep p.sx.toNat p.sy.toNat tag w first n
      exec c s = .next u ∧ ((getCore s core).spmErr = [] → u.cores = t.cores ∧ u.mem = s.mem ∧
        u.emitted = s.emitted ++ (List.range n).map fun j => Emit.inject core
          { epoch := s.epoch.cur, hops := 0, payload := BitVec.ofNat 512 (spmBytes s core (64 * (w.line + (first + j))) 64),
            hdr := .tagged w.ep (BitVec.ofNat 10 p.sx.toNat) (BitVec.ofNat 10 p.sy.toNat) tag (BitVec.ofNat 10 (first + j)) 0 })
    let acts (c : Instr) (ep : CoreXfer → Bool) : Prop :=
      (∀ w, tagged ep = some w → sends c w) ∧ (∀ w, tagged ep = none → oldest ep = some w → sends c w) ∧
      (tagged ep = none → oldest ep = none → exec c s = .next s)
    (p.ctype = 3 → acts (.writeGrant core p) fun v => v.ep = 0 || v.ep = 3) ∧ (p.ctype = 0x12 → acts (.xgrant core p) fun v => v.ep = 1)) ∧
  ∀ (s : State) (p : DataPacket) (dx dy : BitVec 10) (tag : BitVec 16) (seq : BitVec 10) (leg : BitVec 4),
    let k := coreAt dx.toNat dy.toNat
    (p.hdr = .tagged 0 dx dy tag seq leg → ∀ w, (getClu s (k / 64)).writes.find? (fun w => w.tag = tag) = some w → seq.toNat < w.lines →
      w.got.contains seq.toNat = false → ∃ t, exec (.taggedLineArrival p) s = .next t ∧ t.mem = s.mem ∧ t.emitted = s.emitted ∧
        (getClu t (k / 64)).commits = (getClu s (k / 64)).commits ++ [CommitJob.mk (w.line + seq.toNat) p.payload w.x w.y w.cnt
          (w.via.map fun v => { v with line := v.line + seq.toNat }) (getClu s (k / 64)).nextArr]) ∧
    (p.hdr = .tagged 3 dx dy tag seq leg → ∀ g, (getCore s k).grants.find? (fun g => g.tag = tag) = some g → seq.toNat < g.lines →
      ¬ (g.x.toNat = coreX k ∧ g.y.toNat = coreY k) →
        let u := forgetSeq s 3 (coreX k) (coreY k) tag seq.toNat
        let gone : Prop := coreFenced u k = true ∨ inNumbering u k = false
        (¬ gone → exec (.taggedLineArrival p) s = .next (sendCtrl (spmArrive u k (g.line + seq.toNat) p.payload) 4 (coreX k) (coreY k)
          g.x.toNat g.y.toNat (g.cnt + 16))) ∧
        (gone → exec (.taggedLineArrival p) s = .next (sendCtrl u 5 (coreX k) (coreY k) g.x.toNat g.y.toNat
          (g.cnt + 16 + 2 ^ 14 * stFenced.toNat))))

/-- A good packet at its destination is handed to the core and counted, but in a stretched cycle of the core's cluster it is not; one on
its way leaves on the first preferred output that is free; one that fails its check is dropped and counted in CRC_DATA or CRC_CTRL; a
packet of a retired epoch, and a control packet of a reserved type, is dropped and counted in DROP_MISC; one whose hops are used up is
counted in DROP_HOPS. A control packet that an endpoint injects takes the epoch in force and meets no check. While the clocks are stopped
nothing moves. (R213, R214, R215, R216, R217, R229, R235, R237, R362) -/
def Obligations.RoutersMoveFlits : Prop :=
  (∀ (s : State) (r inp : Nat) (c : RouterClock) (p : DataPacket) (flag : Bool) (cnt : BitVec 4) (line dx dy : BitVec 10) (total : BitVec 16),
    let here : Prop := dx.toNat = coreX r ∧ dy.toNat = coreY r
    let tn := turnOf s r inp c p
    p.hdr = .unicast flag cnt line dx dy total false → routerDead s r = false → inp < 4 →
      (s.clock.stopped = true → ∀ crc, exec (.dataPacketAtRouter r inp c p crc) s = .next s) ∧
      (s.clock.stopped = false →
      (∀ crc, crc ≠ dataCrc p → ∃ t, exec (.dataPacketAtRouter r inp c p crc) s = .next t ∧ t.emitted = s.emitted ∧ t.mem = s.mem ∧
        (getClu t (r / 64)).crcData = satAdd (getClu s (r / 64)).crcData 1) ∧
      (epochRetired s p.epoch = true → exec (.dataPacketAtRouter r inp c p (dataCrc p)) s = .next (dropMisc s r)) ∧
      (epochRetired s p.epoch = false →
        (here → outFree s r tn p.epoch 4 = true → exec (.dataPacketAtRouter r inp c p (dataCrc p)) s =
          .next (emit (modClu s (r / 64) fun u => { u with ejected := satAdd u.ejected 1 }) (.endpoint r 4 p))) ∧
        (c.stretched = true → tn.stretched = true ∧ outFree s r tn p.epoch 4 = false) ∧
        (¬ here → p.hops = 255 → exec (.dataPacketAtRouter r inp c p (dataCrc p)) s = .next (dropHops s r)) ∧
        (∀ o l, ¬ here → p.hops ≠ 255 → pref s r p.epoch dx.toNat dy.toNat = some (o :: l) → outFree s r tn p.epoch o = true →
          exec (.dataPacketAtRouter r inp c p (dataCrc p)) s = .next (sendFlit s r (clockAt s c) o p)) ∧
        (¬ here → p.hops ≠ 255 → pref s r p.epoch dx.toNat dy.toNat = none →
          exec (.dataPacketAtRouter r inp c p (dataCrc p)) s = .next (dropUnreach s r))))) ∧
  ∀ (s : State) (r inp : Nat) (past : Bool) (c : RouterClock) (p : CtrlPacket) (crc : BitVec 16),
    let run := exec (.controlPacketAtRouter r inp c { past := past, p := p } crc) s
    let mesh : Prop := inp < 4 ∨ 8 ≤ inp
    let q := if ctrlMesh inp then p else { p with epoch := s.epoch.cur }
    let here : Prop := p.dx.toNat = coreX r ∧ p.dy.toNat = coreY r
    let used := ctrlUsed s r inp c q
    routerDead s r = false →
      (s.clock.stopped = true → run = .next s) ∧
      (s.clock.stopped = false → mesh → crc ≠ ctrlCrc p → ∃ t, run = .next t ∧ t.emitted = s.emitted ∧ t.mem = s.mem ∧
        (getClu t (r / 64)).crcCtrl = satAdd (getClu s (r / 64)).crcCtrl 1) ∧
      (s.clock.stopped = false → ¬ mesh ∨ crc = ctrlCrc p →
        (ctrlPlane p.ctype.toNat = none → run = .next (dropMisc s r)) ∧
        (∀ pl, epochRetired s q.epoch = false → ctrlPlane p.ctype.toNat = some pl →
          (here → c.stretched = false → ctrlKey q 4 ∉ used → run = .next (emit s (.ctrlOut r 4 pl past q))) ∧
          (here → c.stretched = true → p.hops = 255 → run = .next (dropHops s r)) ∧
          (¬ here → p.hops = 255 → run = .next (dropHops s r)) ∧
          (∀ o l j after express tx ty, ¬ here → p.hops ≠ 255 → ctrlTarget p (coreX r) (coreY r) inp past = (after, express, tx, ty) →
            pref s r q.epoch tx ty = some (o :: l) → ctrlFree s r used q (if express then 8 + o else o) = true →
            meshLink s r o (if express then 8 else 1) = some j → siteOf j = siteOf r →
            run = .next (emit s (.ctrlOut r (if express then 8 + o else o) pl after { q with hops := p.hops + 1 })))))

/-- A channel of one partition clears once every enrolled context has arrived: its contributions fall and the next generation opens. The
notice brings a core up to the generations cleared. When the watchdog finds a contribution missing, on this panel or on another one of the
job, the channel is held, the silent nodes are probed and the step is abandoned. Before that the watchdog does nothing. (R246, R247, R258)
-/
def Obligations.ClearingChannels : Prop :=
  (∀ (s : State) (p ch : Nat) (e : ClearEntry) (m : PartMap),
    (getPart s p).map = some m → m.clear[ch]? = some e → chanScope s p ch = [p] → crossPanel s p ch = false →
    e.ctxmask ≠ 0 → (Tbl.get (getPart s p).chans ch Chan.reset).held = false →
      ((∀ k ∈ (getPart s p).numbering, Tbl.get (Tbl.get (getPart s p).chans ch Chan.reset).arrived k 0 &&& e.ctxmask = e.ctxmask) →
        exec (.clearingGenerationClear p ch) s = .next (withReports s (boundary (clearGen s p ch) (jobOfPart s p)))) ∧
      ((∃ k ∈ (getPart s p).numbering, Tbl.get (Tbl.get (getPart s p).chans ch Chan.reset).arrived k 0 &&& e.ctxmask ≠ e.ctxmask) →
        exec (.clearingGenerationClear p ch) s = .next s)) ∧
  (∀ (s : State) (core p ch : Nat), partOfCore s core = some p → core ∈ (getPart s p).numbering →
    exec (.clearingNoticeArrival core ch) s = .next (modCore s core fun c =>
      { c with seen := Tbl.put c.seen ch (Tbl.get (getPart s p).chans ch Chan.reset).cleared })) ∧
  ∀ (s : State) (p ch : Nat) (e : ClearEntry) (m : PartMap) (t : Word),
    (getPart s p).map = some m → m.clear[ch]? = some e → m.bb = false → chanScope s p ch = [p] →
    partArrived s p ch = false ∨ crossPanel s p ch = true →
    (Tbl.get (getPart s p).chans ch Chan.reset).held = false → firstRise s p ch = some t →
      (now s < t.toNat + e.wdog * 10000 → exec (.clearingWatchdogExpiry p ch) s = .next s) ∧
      (t.toNat + e.wdog * 10000 ≤ now s → ∃ u,
        exec (.clearingWatchdogExpiry p ch) s = .next (withReports s (reportStep u (jobOfPart u p) 1 true)) ∧
        (Tbl.get (getPart u p).chans ch Chan.reset).held = true ∧ Tbl.find (getPart u p).silent ch = some (silentNodes s p ch) ∧
        (∀ cl ∈ silentNodes s p ch, (getClu u cl).probedAt = some s.tally) ∧ u.cores = s.cores ∧ u.mem = s.mem)

/-- An ABORT ends a waiting task at once (a WAITC whose error mark or deadline is reached ends with that fault), is pending at a running
one, and is answered ALREADY_DONE for a task number that no context runs; the hub takes the answers to its own aborts, and every other is
counted at its cluster. A context that has not retired for 2 ms ends with CTX_WATCHDOG, at once where it waits and else at its next retire
point, where a fault comes first and a fence or an abort last; an engine without a block for 250 µs hangs and every suspect ends with
ENGINE_HANG. The hub takes a WATCHDOG and a TASK_END as faults of the step. A task held back for 30 µs by Compatible recovery is launched
again from its launch state where its lines are done, and else its end is reported. (R105, R123, R389, R390, R392, R393, R396, R402, R408,
R409) -/
def Obligations.TasksStopped : Prop :=
  (∀ (s : State) (core n : Nat) (l : Launch) (t : Word) (st : Status), let x := getCtx s core n
    let c := getCore s core
    let open_ : Prop := ∃ w, w ∈ c.reads ++ c.writes ∧ (c.cnt w.cnt).owner = n
    x.launch = some l → l.window = some (t, st) → x.state = .stopped →
      (now s < t.toNat + 30000 → exec (.compatibleRelaunchWindowEnd core n) s = .next s) ∧
      (t.toNat + 30000 ≤ now s → ¬ open_ → compatNow s core = true → ∃ u, exec (.compatibleRelaunchWindowEnd core n) s = .next u ∧
        (let y := getCtx u core n
         y.state = .ready ∧ y.pc = l.entry ∧ y.regs = [(1, 0xBF00), (2, x.task.setWidth 64)] ∧ y.vregs = Ctx.reset.vregs ∧ y.task = x.task ∧
         y.lastStatus = x.lastStatus ∧ y.fault = 0 ∧ y.fired = none ∧ y.launch = some (Launch.mk l.entry false false true none)) ∧
        (getClu u (core / 64)).relaunch = satAdd (getClu s (core / 64)).relaunch 1 ∧
        (∀ m, m ≠ n → getCtx u core m = getCtx s core m) ∧ u.mem = (reloadData s core n).mem ∧ u.jobs = s.jobs) ∧
      (t.toNat + 30000 ≤ now s → open_ ∨ compatNow s core = false →
        let ended (u : State) : Prop := exec (.compatibleRelaunchWindowEnd core n) s = .next (coreToHub
          (modCtx u core n fun x => { x with launch := some { l with window := none }, fired := none }) core 0x0D
          (x.task.toNat + 2 ^ 16 * st.toNat + 2 ^ 32 * n))
        (x.fired = none → ended s) ∧
        (∀ f, x.fired = some f → f.sent = false → ended (sendWatchdog s core n 0 false f.state.toNat x.task f.at_)))) ∧
  (∀ (s : State) (core : Nat) (p : CtrlPacket), p.ctype = 8 →
    let task : BitVec 16 := p.body.setWidth 16
    let a : AbortReq := { sx := p.sx, sy := p.sy }
    let runs (n : Nat) : Bool := (getCtx s core n).state.running && (getCtx s core n).task = task
    ((List.range 4).find? runs = none → exec (.abortPacket core p) s = .next (abortAnswer s core 0 task stAlreadyDone a)) ∧
    (∀ n, (List.range 4).find? runs = some n →
      let t := modCtx s core n fun x => { x with aborts := x.aborts ++ [a] }
      ((getCtx s core n).state = .ready → exec (.abortPacket core p) s = .next t) ∧
      ((getCtx s core n).state ≠ .ready → (getCtx s core n).endDue = false →
        (waitcFault s core n = none → exec (.abortPacket core p) s = .next (endTask t core n stAborted [])) ∧
        ∀ fs, waitcFault s core n = some fs → exec (.abortPacket core p) s = .next (retirePoint (bumpFree t) core n fs t)))) ∧
  (∀ (s : State) (p : CtrlPacket), p.ctype = 9 →
    let cl := coreAt p.dx.toNat p.dy.toNat / 64
    let a := (coreAt p.sx.toNat p.sy.toNat, p.body.setWidth 16)
    let hubs : Prop := atHub s p.dx.toNat p.dy.toNat = true ∧ ∃ j ∈ s.jobs, a ∈ j.2.aborts
    (hubs → exec (.abortAns p) s = .next { s with jobs := Tbl.map s.jobs fun _ x => { x with aborts := x.aborts.erase a } }) ∧
    (¬ hubs → p.body.toNat / 2 ^ 16 % 2 ^ 16 = 0x0601 →
      exec (.abortAns p) s = .next (modClu s cl fun u => { u with ansAborted := satAdd u.ansAborted 1 })) ∧
    (¬ hubs → p.body.toNat / 2 ^ 16 % 2 ^ 16 ≠ 0x0601 →
      exec (.abortAns p) s = .next (modClu s cl fun u => { u with ansDone := satAdd u.ansDone 1 }))) ∧
  (∀ (s : State) (core n : Nat), let x := getCtx s core n
    let f : Firing := { state := BitVec.ofNat 3 x.state.code, at_ := s.tally, sent := true }
    let t := modCtx (sendWatchdog (modClu s (core / 64) fun u => { u with ctxWdog := satAdd u.ctxWdog 1 }) core n 0 false x.state.code x.task s.tally)
      core n fun x => { x with fired := some f }
    x.endDue = false → relaunchable s core x stCtxWatchdog = false → x.watched = true →
      (now s < x.wdStart.toNat + 2000000 → exec (.contextWatchdogExpiry core n) s = .next s) ∧
      (x.wdStart.toNat + 2000000 ≤ now s →
        (x.state = .ready → exec (.contextWatchdogExpiry core n) s = .next t) ∧
        (x.state ≠ .ready → exec (.contextWatchdogExpiry core n) s = .next (endTask t core n stCtxWatchdog [])))) ∧
  (∀ (s t : State) (core n : Nat) (fs : List FaultRec), let x := getCtx s core n
    (worstFault (x.pend ++ fs) = none → x.fired.isSome = true → retirePoint s core n fs t = endTask s core n stCtxWatchdog []) ∧
    (worstFault (x.pend ++ fs) = none → x.fired = none → x.fenceDue = true ∨ x.aborts ≠ [] →
      retirePoint s core n fs t = endTask s core n stAborted [])) ∧
  (∀ (s : State) (core e : Nat) (o : EngOp) (r : List EngOp), let g := (getCore s core).eng e
    g.live = o :: r → g.hung = false → g.wdStart.toNat + 250000 ≤ now s →
      (∀ n, n < 4 → (∃ q ∈ o :: r, q.ctx = n) → (getCtx s core n).fenceDue = false) →
      ∃ t, exec (.engineWatchdogExpiry core e) s = .next t ∧ ((getCore t core).eng e).hung = true ∧
        (∀ n, n < 4 → (∃ q ∈ o :: r, q.ctx = n) → (getCtx s core n).state.running = true →
          (getCtx t core n).state = .stopped ∧ (getCtx t core n).lastStatus = stEngineHang) ∧
        (∀ n, n < 4 → (∀ q ∈ o :: r, q.ctx ≠ n) → (getCtx t core n) = getCtx s core n)) ∧
  (∀ (s : State) (p : CtrlPacket) (q : Nat), p.ctype = 0x0A → p.body.getLsbD 4 = false →
    let core := coreAt p.sx.toNat p.sy.toNat / 64 * 64 + field p.body.toNat 5 6
    let ctx := field p.body.toNat 0 2
    partOfCore s core = some q → (getCore s core).wdCtx.getLsbD ctx = false →
      exec (.watchdog p) s = .next (withReports s (modCore (fenceFor (faultEvent (reportStep s (jobOfPart s q) 1 true) 0 q stCtxWatchdog 1 [])
        (jobOfPart s q) (core / 64) 0 (2 ^ ctx) 0 (core % 64)) core fun c => { c with wdCtx := c.wdCtx ||| BitVec.ofNat 4 (2 ^ ctx) }))) ∧
  ∀ (s : State) (p : CtrlPacket) (q : Nat) (m : PartMap), p.ctype = 0x0D →
    let core := coreAt p.sx.toNat p.sy.toNat
    let x := getCtx s core (field p.body.toNat 32 2)
    partOfCore s core = some q → (getPart s q).map = some m → m.bb = false → x.task.toNat = field p.body.toNat 0 16 → x.state.running = false →
    (getJob s (jobOfPart s q)).steps ≠ [] → field p.body.toNat 16 16 ≠ 0x0403 →
      exec (.taskEnd p) s = .next (withReports s (modCore (reportStep s (jobOfPart s q) 1 false) core fun c => { c with ueLines := [] }))

/-- A FENCE is applied by the cluster, which acknowledges it with its body once no task runs on the contexts it names: an idle context
reads FENCED at once, cleared; a waiting task ends ABORTED; a running one meets the fence at its next retire point. FENCE_ACK takes its
fence off every job's list, resets the channels of a job whose last fence it acknowledges, and completes the host fence that waited for
it. A job that has waited 1 ms for an acknowledgement resets its partitions. A partition's fence ends at its timeout, with the step
abandoned and what waits answered FENCED; a domain not serving 4 s after its reset climbs one rung. (R395, R396, R397, R398) -/
def Obligations.FencesAnswered : Prop :=
  (∀ (s : State) (cl : Nat) (p : CtrlPacket), p.ctype = 0x0B → (getClu s cl).lost = false →
    let b := p.body.toNat
    let k := cl * 64 + field b 8 6
    (p.body.getLsbD 14 = true → exec (.fencePacket cl p) s = .next (sendCtrl (applyFence s cl b) 0x0C (coreX (portCore cl)) (coreY (portCore cl))
      p.sx.toNat p.sy.toNat (field b 0 15))) ∧
    (p.body.getLsbD 14 = false →
      exec (.fencePacket cl p) s = .next (ackFences (modClu (applyFence s cl b) cl fun u => { u with fences := u.fences ++ [p] }) cl)) ∧
    ∀ n, n < 4 → field b 0 2 = 0 → field b 2 4 = 2 ^ n → p.body.getLsbD 14 = false → (getClu s cl).fences = [] →
      ((getCtx s k n).state.running = false → ∃ t, exec (.fencePacket cl p) s = .next t ∧ (getCtx t k n).state = .fenced ∧
        (getCtx t k n).regs = [] ∧ (getCtx t k n).vregs = [] ∧ (getCtx t k n).masks = [] ∧ t.mem = s.mem ∧
        t.emitted = s.emitted ++ [.ctrl (mkCtrl s 0x0C (coreX (portCore cl)) (coreY (portCore cl)) p.sx.toNat p.sy.toNat (field b 0 15))] ∧
        ∀ m, m ≠ n → getCtx t k m = getCtx s k m) ∧
      ((getCtx s k n).state = .ready → ∃ t, exec (.fencePacket cl p) s = .next t ∧ (getCtx t k n).state = .ready ∧
        (getCtx t k n).fenceDue = true ∧ t.emitted = s.emitted ∧ (getClu t cl).fences = [p] ∧ t.mem = s.mem) ∧
      ((getCtx s k n).state.running = true → (getCtx s k n).state ≠ .ready → (getCtx s k n).endDue = false → waitcFault s k n = none →
        ∃ t, exec (.fencePacket cl p) s = .next t ∧ (getCtx t k n).state = .fenced ∧ (getCtx t k n).lastStatus = stAborted ∧
          (getCtx t k n).regs = [] ∧ (getClu t cl).fences = [])) ∧
  (∀ (s : State) (p : CtrlPacket), p.ctype = 0x0C →
    let cl := coreAt p.sx.toNat p.sy.toNat / 64
    let b := field p.body.toNat 0 15
    let t := { s with jobs := Tbl.map s.jobs fun _ x => { x with acks := x.acks.filter fun a => !(a.1 = cl && a.2.1 = b) } }
    let t := (t.jobs.map (·.1)).foldl resetFenced t
    ((t.fenceWaits.find? fun w => w.cl = cl && w.body = b) = none → exec (.fenceAck p) s = .next t) ∧
    (∀ w, (t.fenceWaits.find? fun w => w.cl = cl && w.body = b) = some w →
      exec (.fenceAck p) s = .next (complete { t with fenceWaits := t.fenceWaits.erase w } w.reply stOk []))) ∧
  (∀ (s : State) (j : Nat),
    ((∀ a ∈ (getJob s j).acks, now s < a.2.2.toNat + 1000000) → exec (.fenceAckTimeout j) s = .next s) ∧
    ((∃ a ∈ (getJob s j).acks, a.2.2.toNat + 1000000 ≤ now s) →
      exec (.fenceAckTimeout j) s = .next (withReports s (rungPartition s j)))) ∧
  (∀ (s : State) (p : Nat) (t : Word) (r : Option Reply), (getPart s p).fenceAt = some (t, r) →
    (now s < t.toNat → exec (.fenceTimeout (.partition p)) s = .next s) ∧
    (t.toNat ≤ now s → exec (.fenceTimeout (.partition p)) s =
      .next (withReports s (fenceDone (refuseWork (abandonStep s (jobOfPart s p)) p) p)))) ∧
  (∀ (s : State) (d : Domain) (k n : Nat), d = .context k n ∨ d = .engine k n →
    exec (.fenceTimeout d) s = .next s ∧ exec (.resetNotServingTimeout d) s = .next s) ∧
  (∀ (s : State) (p : Nat) (t : Word) (r : Reply), (getPart s p).resetting = some (t, some r) → t.toNat + 4000000000 ≤ now s →
    exec (.resetNotServingTimeout (.partition p)) s = .next (withReports s (rungPanel (complete s r stTimeout [])))) ∧
  ∀ (s : State) (t : Word), s.resets.panelAt = some t →
    (now s < t.toNat + 4000000000 → exec (.resetNotServingTimeout .panel) s = .next s) ∧
    (t.toNat + 4000000000 ≤ now s → (∀ q ∈ s.parts, q.2.resetting = none) → exec (.resetNotServingTimeout .panel) s = .next (withReports s
      (requestPowerCycle (enterSafe (noteRung { s with
        parts := Tbl.map s.parts fun _ q => { q with resetting := none }, resets := { s.resets with panelAt := none } } 5) 2))))

/-- PROBE is answered PROBE_ANS with the cores that answered. The answer is a fault of the step: contexts that have not arrived, of cores
that answered, are fenced, and the cores of the partition that did not answer are lost. A cluster that has not answered after 1 ms is
lost, with its die where the whole die is silent and with both dies of a tripped stage; its partition's step is abandoned first. (R394,
R403) -/
def Obligations.SilentNodesProbed : Prop :=
  (∀ (s : State) (cl : Nat) (p : CtrlPacket) (a : BitVec 64), p.ctype = 0x0E → (getClu s cl).lost = false →
    exec (.probe cl p a) s = .next (sendCtrl s 0x0F (coreX (portCore cl)) (coreY (portCore cl)) p.sx.toNat p.sy.toNat a.toNat)) ∧
  (∀ (s : State) (p : CtrlPacket) (q : Nat), p.ctype = 0x0F →
    let cl := coreAt p.sx.toNat p.sy.toNat / 64
    let t := modClu s cl fun u => { u with probedAt := none }
    let mine := ((List.range 64).map (cl * 64 + ·)).filter fun k => (getPart s q).numbering.contains k
    let hung (k : Nat) : BitVec 4 := hungCtxs t q cl k
    let v := (mine.filter fun k => p.body.getLsbD (k % 64)).foldl
      (fun v k => if hung k = 0 then v else fenceFor v (jobOfPart s q) cl 0 (hung k).toNat 0 (k % 64)) (reportStep t (jobOfPart s q) 1 true)
    (getClu s cl).probedAt ≠ none → partOfSite s (cl / 64) = some q →
      exec (.probeAns p) s = .next (withReports s ((mine.filter fun k => !p.body.getLsbD (k % 64)).foldl loseCore v))) ∧
  ∀ (s : State) (cl : Nat) (t : Word), (getClu s cl).probedAt = some t →
    let u := modClu s cl fun u => { u with probedAt := none }
    (∀ w, now s < t.toNat + 1000000 → exec (.probeTimeout cl w) s = .next s) ∧
    (t.toNat + 1000000 ≤ now s → partOfSite s (cl / 64) = none →
      exec (.probeTimeout cl false) s = .next (withReports s (loseCluster u cl false))) ∧
    ∀ q, t.toNat + 1000000 ≤ now s → partOfSite s (cl / 64) = some q →
      exec (.probeTimeout cl false) s = .next (withReports s (loseCluster (reportStep u (jobOfPart s q) 1 true) cl false)) ∧
      (let v := reportStep u (jobOfPart s q) 3 true
       let trip := (Tbl.get v.stages (cl / 128) Stage.reset).state
       (trip ≠ 3 → trip ≠ 4 → exec (.probeTimeout cl true) s = .next (withReports s (loseDies v [cl / 64] 6))) ∧
       (trip = 3 ∨ trip = 4 →
         exec (.probeTimeout cl true) s = .next (withReports s (loseDies v [cl / 64 / 2 * 2, cl / 64 / 2 * 2 + 1] 7))))

/-- Once every fence is acknowledged, every probe answered, no bank change of the job under way and no spare being prepared, the abandoned
groups go back to work under the numbering in force: everything fenced for them returns, the abandonment is over, the loaders are
launched, but for Base-bound images, which run once, and the job goes on. Before that nothing happens. A spare is numbered when its
clusters are on, and its partition launched when it holds its weights as well and the bank with it is in force. (R6, R258, R259, R399,
R405, R437) -/
def Obligations.StepsReplayed : Prop :=
  (∀ (s : State) (j : Nat),
    let x := getJob s j
    let ps := partsOfJob s j
    x.rung ≠ 0 → probing s j = false → (s.replacing.any fun r => ps.contains r.part) = false → changing s ps = false →
    (∀ p ∈ ps, (getPart s p).fenced = false ∧ (getPart s p).map ≠ none) → s.state = .serving → x.lostAt = none →
      (x.acks ≠ [] → exec (.stepReplay j) s = .next s) ∧
      (x.acks = [] → ∃ u, exec (.stepReplay j) s = .next (kickJob (ps.foldl relaunchPart u) j) ∧ (getJob u j).rung = 0 ∧
        (getJob u j).counted = false ∧ (getJob u j).aborts = [] ∧ (s.twin.attached = false → u.mem = s.mem) ∧ u.requests = s.requests ∧
        (∀ t ∈ (getJob u j).steps, t.abandoned = false ∧ (keepsInputs s j = false ∨ x.fromZero = true → t.layA = 0 ∧ t.layB = 0)) ∧
        ∀ i, i ≠ j → getJob u i = getJob s i)) ∧
  (∀ (s : State) (j : Nat), (getJob s j).rung = 0 ∨ probing s j = true ∨ changing s (partsOfJob s j) = true ∨ s.state ≠ .serving →
    exec (.stepReplay j) s = .next s) ∧
  (∀ (s : State) (p : Nat), ((getPart s p).map.any (·.bb) = true → relaunchPart s p = s) ∧
    ((getPart s p).map.any (·.bb) = false → relaunchPart s p = launchPart s p)) ∧
  (∀ (s : State) (site : Nat) (r : Replacement), (s.replacing.find? fun r => r.spare = site && !r.copied) = some r →
    let v := if s.twin.attached then copyWeights s r else s
    let t := { v with replacing := v.replacing.map fun x => if x.spare = site then { x with copied := true } else x }
    let u := { t with replacing := t.replacing.filter fun x => x.part ≠ r.part }
    let waiting : Prop := (t.replacing.any fun x => x.part = r.part && !(x.warm && x.copied)) = true ∨ changing t [r.part] = true
    (waiting → exec (.weightCopyComplete site) s = .next t) ∧
    (¬ waiting → (getPart t r.part).resetting = none →
      exec (.weightCopyComplete site) s = .next (kickJob (relaunchPart (buildDist u r.part) r.part) (jobOfPart u r.part))) ∧
    (¬ waiting → (getPart t r.part).resetting ≠ none →
      exec (.weightCopyComplete site) s = .next (kickJob (finishReset u r.part) (jobOfPart u r.part)))) ∧
  ∀ (s : State) (site : Nat) (r : Replacement), s.replacing = [r] → r.spare = site → r.warm = false → r.copied = false →
    let on : Prop := ∀ c ∈ clustersOf [site], wakeable s c = true → (getClu s c).pwrState = 2
    (¬ on → exec (.spareWarmupDone site) s = .next s) ∧
    (on → ∃ u, exec (.spareWarmupDone site) s = .next (startEpoch u [r.part]) ∧ u.replacing = [{ r with warm := true }] ∧
      (getPart u r.part).numbering = ((getPart s r.part).sites.map (dieCores s)).flatten ∧ u.mem = s.mem ∧ u.cores = s.cores ∧
      ∀ c ∈ clustersOf [site], getClu u c = { getClu s c with slicesLeft := 8 })

/-- A controller that applies a change of a descriptor holds the new one, and with it the close of the inbound windows over it; when the
last has applied it, what waited for that alone completes. An invalidated handle is free 200 µs after the last task that then ran has
ended while no step has been in flight, or after a later step. A window closes at its expiry and not before. A change writes what the hub
computes into the bank that is not in force; after the last router's acknowledgement, between the steps of the partitions concerned, the
hub announces the switch 10 µs ahead. At that time the other epoch is in force, spares that waited for it are launched and a half that
leaves ramps down, and the old bank is retired LIFE clocks and 1 µs later, but not while the clocks are stopped, when a change that waits
begins. A write that is not acknowledged for 10 ms climbs to the panel rung. (R172, R173, R180, R228, R229, R363, R395, R405) -/
def Obligations.HandlesWindowsEpochs : Prop :=
  ((∀ (s : State) (cl p h : Nat) (lag : Tbl Handle), h < 4096 → Tbl.find (getPart s p).lags h = some lag → Tbl.has lag cl = true →
     let v := (closingOver (getPart s p) h).foldl (fun s w => applyWindow s cl p w) s
     let done := { setPart v p { getPart v p with lags := Tbl.drop (getPart v p).lags h } with
       waits := v.waits.map fun w => { w with handles := w.handles.filter (· ≠ (p, h)) } }
     (getPart v p).lags = (getPart s p).lags ∧ (getPart v p).handles = (getPart s p).handles ∧
     (∀ w ∈ closingOver (getPart s p) h, Tbl.wf (getPart s p).winLags = true → ∀ l, Tbl.find (getPart s p).winLags w = some l → Tbl.wf l = true →
       ∀ l', Tbl.find (getPart v p).winLags w = some l' → Tbl.has l' cl = false) ∧
     (Tbl.drop lag cl ≠ [] → exec (.handleDescriptorUpdate cl p h) s =
       .next (setPart v p { getPart v p with lags := Tbl.put (getPart v p).lags h (Tbl.drop lag cl) })) ∧
     (Tbl.drop lag cl = [] → (Tbl.get (getPart s p).handles h Handle.reset).state ≠ 2 →
       exec (.handleDescriptorUpdate cl p h) s = .next (sendReady done))) ∧
   (∀ (s : State) (cl p w : Nat) (lag : Tbl Window), Tbl.find (getPart s p).winLags w = some lag → (getWindow s p w).outbound = true →
     Tbl.drop lag cl ≠ [] → exec (.handleDescriptorUpdate cl p (4096 + w)) s =
       .next (setPart s p { getPart s p with winLags := Tbl.put (getPart s p).winLags w (Tbl.drop lag cl) })) ∧
   (∀ (s : State) (p h : Nat) (i : Inval), Tbl.find (getPart s p).invals h = some i →
     (i.steps < (getPart s p).steps ∨ (i.idle = true ∧ i.tasks = [] ∧ i.ended.toNat + 200000 ≤ now s) →
       exec (.handleFreeTimer p h) s = .next (changeHandle (setPart s p { getPart s p with invals := Tbl.drop (getPart s p).invals h }) p h
         { Tbl.get (getPart s p).handles h Handle.reset with state := 0 })) ∧
     (i.steps ≥ (getPart s p).steps → (i.idle = false ∨ i.tasks ≠ [] ∨ now s < i.ended.toNat + 200000) →
       exec (.handleFreeTimer p h) s = .next s)) ∧
   ∀ (s : State) (p w : Nat), (getWindow s p w).state ≠ 0 → (getWindow s p w).expiry ≠ 0 →
     ((getWindow s p w).expiry.toNat ≤ now s → ∃ t, exec (.windowExpiry p w) s = .next t ∧ (getWindow t p w).state = 0 ∧
       (∀ n, n ≠ w → getWindow t p n = getWindow s p n) ∧ t.mem = s.mem ∧ t.sessions = s.sessions) ∧
     (now s < (getWindow s p w).expiry.toNat → exec (.windowExpiry p w) s = .next s)) ∧
  ((∀ (s : State) (ps : List Nat), s.epoch.switchAt = none → s.epoch.kept = none → let t := startEpoch s ps
     t.epoch.cur = s.epoch.cur ∧ bankOf t s.epoch.cur = bankOf s s.epoch.cur ∧ bankOf t (!s.epoch.cur) = hubBank s ∧
     t.epoch.writesAt = some s.tally ∧ t.epoch.acked = [] ∧ t.mem = s.mem ∧ t.cores = s.cores ∧ t.parts = s.parts) ∧
   (∀ (s : State) (unit : Nat), let t := { s with epoch := { s.epoch with acked := unit :: s.epoch.acked } }
      let write := exec (.bankWrite unit (!s.epoch.cur)) s
     (s.epoch.writesAt ≠ none → writesBank s unit = true → unit ∉ s.epoch.acked →
       (bankWritten t = true → (∀ p ∈ s.epoch.parts, betweenSteps s p = true) → write = .next (emit { s with epoch :=
         { s.epoch with acked := [], writesAt := none, switchAt := some (s.tally + 10000) } } (.announce (s.tally + 10000)))) ∧
       (bankWritten t = false ∨ (∃ p ∈ s.epoch.parts, betweenSteps s p = false) → write = .next t)) ∧
     (s.epoch.writesAt = none ∨ writesBank s unit = false ∨ unit ∈ s.epoch.acked → write = .next s) ∧
      exec (.bankWrite unit s.epoch.cur) s = .next s) ∧
   (∀ (s : State) (t : Word), s.epoch.switchAt = some t →
     let u := { s with epoch := { s.epoch with cur := !s.epoch.cur, switchAt := none, parts := [], kept := some (t, s.clock.step) } }
     let v := (s.parts.map (·.1)).foldl spareReady u
     let w := if v.epoch.next = none then [0, 1].foldl rampLeaving v else v
     (s.tally < t → exec (.epochSwitch) s = .next s) ∧
     (t ≤ s.tally → exec (.epochSwitch) s = .next ((w.jobs.map (·.1)).foldl kickJob w)) ∧
     (s.replacing = [] → (∀ h, (getHalf s h).leaving = false) → w = u)) ∧
   (∀ (s : State) (t : Word) (step : BitVec 5), s.epoch.kept = some (t, step) →
     let due := t + BitVec.ofNat 64 (lifeNs step.toNat + 1000)
     (s.clock.stopped = true ∨ s.tally < due → exec (.epochRetire) s = .next s) ∧
     (s.clock.stopped = false → due ≤ s.tally → s.epoch.next = none → exec (.epochRetire) s = .next { s with epoch := { s.epoch with kept := none } }) ∧
     (s.clock.stopped = false → due ≤ s.tally → ∀ ps, s.epoch.next = some ps →
       exec (.epochRetire) s = .next (writeBank { s with epoch := { s.epoch with kept := none, next := none } } ps))) ∧
   ∀ (s : State) (t : Word), s.epoch.writesAt = some t →
     (bankWritten s = true ∨ now s < t.toNat + 10000000 → exec (.epochWriteAckTimeout) s = .next s) ∧
     (bankWritten s = false → t.toNat + 10000000 ≤ now s → exec (.epochWriteAckTimeout) s = .next (withReports s (rungPanel s))))

/-- Lanes below the margin are due once. A due lane of a die link is steered onto a free spare of its group of 64, or retrains in place
where both are in use; an optical lane retrains in place. A lane that has retrained carries its traffic again; one that has failed on a
spare is recorded in the redundancy map. A crossing fault of a link lane makes it due. (R261, R262, R263, R273, R354) -/
def Obligations.LanesRetrain : Prop :=
  (∀ (s : State) (site side lane : Nat), let x := getLink s site (side % 4)
    lane ∈ x.due →
      let y := { x with due := x.due.filter (· ≠ lane) }
      (((x.steered ++ x.failed).filter fun m => m / 64 = lane / 64).length < 2 →
        exec (.laneRetrainStart (.die site side) lane) s = .next (setLink s (.die site side) { y with steered := y.steered ++ [lane] })) ∧
      (2 ≤ ((x.steered ++ x.failed).filter fun m => m / 64 = lane / 64).length →
        exec (.laneRetrainStart (.die site side) lane) s = .next (setLink s (.die site side) { y with bare := y.bare ++ [lane] }))) ∧
  (∀ (s : State) (l : LinkRef) (lane : Nat), let x := linkOf s l
    lane ∈ x.steered →
      let y := { x with steered := x.steered.filter (· ≠ lane), bare := x.bare.filter (· ≠ lane) }
      exec (.laneRetrainDone l lane true) s = .next (withReports s (answerLane (setLink s l y) l lane)) ∧
      (∀ site side, l = .die site side → exec (.laneRetrainDone l lane false) s = .next (withReports s
        (answerLane (vaultRedundancy (setLink s l { y with failed := y.failed ++ [lane] }) 3 site 0 (side % 4) lane 0) l lane)))) ∧
  (∀ (s : State) (l : LinkRef) (lane : Nat), let x := linkOf s l
    (lane < laneCount l → lane ∉ x.steered → lane ∉ x.failed → lane ∉ x.bare → lane ∉ x.due →
      exec (.eyeMarginSample l [lane]) s = .next (setLink s l { x with due := x.due ++ [lane] })) ∧
    (lane ∈ x.due → exec (.eyeMarginSample l [lane]) s = .next s)) ∧
  ∀ (s : State) (site side lane : Nat), exec (.crossFault (.link site side lane)) s = .next (withReports s (laneDue s (.die site side) lane))

/-- The channel serves a stream's line first, else the read whose core's turn it is: a good line is sent to its core with the stored data,
a line that waits for a cure is counted uncorrectable instead. The received line whose turn it is is stored, cures the line and is
answered COMMIT. A scrub visit advances and counts what it meets. During a recalibration slice the channel does none of the first two.
REFRESH advances the row counter alone. A recalibration falls due when its interval has passed or the temperature has changed by 8 K; a
die that has reached 95 °C stays on record; its slices run one per die at a time, at least 1 ms apart, and the last one ends it with its
time and temperature noted and its completions sent; requests that waited through a slice are served then. (R65, R188, R189, R191, R192,
R196, R199, R213, R190) -/
def Obligations.ChannelsServe : Prop :=
  ((∀ (s : State) (cl : Nat) (r : ArrayRead), let u := getClu s cl
     u.waits = [] →
       (u.inSlice = true → exec (.dramReadComplete cl r) s = .next s ∧ exec (.dramWriteCommit cl) s = .next s) ∧
       (∀ j turn credit (x y : BitVec 10) (sp cnt : Nat), pickRead u cl = some (j, turn, credit) → j.dest = .core x y sp cnt → j.via = none →
         u.inSlice = false → u.channelOut = false →
         (r.inner = false → r.fresh = 0 → Tbl.find u.lineErr j.line = none → pendingEntry u j.line = none → j.line ∉ u.exhLines → ∃ t,
           exec (.dramReadComplete cl r) s = .next (withReports s (emit t (.inject (cl * 64 + 27)
             (DataPacket.mk s.epoch.cur 0 (.unicast false (BitVec.ofNat 4 cnt) (BitVec.ofNat 10 sp) x y 0 false)
               (BitVec.ofNat 512 (Mem.readN s.mem (cl * 2 ^ 26 + 64 * j.line) 64)))))) ∧
           t.mem = s.mem ∧ t.emitted = s.emitted ∧ t.cores = s.cores ∧ (getClu t cl).reads = u.reads.erase j ∧ (getClu t cl).ueRead = u.ueRead) ∧
         (∀ e, pendingEntry u j.line = some e → j.line ∉ u.exhLines → ∃ t,
           exec (.dramReadComplete cl r) s = .next (withReports s (sendCountOnly t cl x.toNat y.toNat cnt 1 stEcc)) ∧
           t.mem = s.mem ∧ (cl, j.line) ∈ (getCore t (coreAt x.toNat y.toNat)).ueLines ∧ (getClu t cl).reads = u.reads.erase j ∧
           (getClu t cl).ueRead = satAdd u.ueRead 1)) ∧
       (∀ j turn credit, pickCommit u cl = some (j, turn, credit) → j.via = none → u.inSlice = false → u.channelOut = false → ∃ t,
         exec (.dramWriteCommit cl) s = .next (withReports s
           (sendCtrl t 4 (coreX (portCore cl)) (coreY (portCore cl)) j.x.toNat j.y.toNat (j.cnt + 16))) ∧
         t.mem = Mem.writeN s.mem (cl * 2 ^ 26 + 64 * j.line) 64 j.data.toNat ∧ (getClu t cl).commits = u.commits.erase j ∧ t.cores = s.cores ∧
         (j.line ∉ u.exhLines → Tbl.wf u.lineErr = true → Tbl.find (getClu t cl).lineErr j.line = none)) ∧
       (∀ j, (u.reads.find? fun j => j.core.isNone) = some j → pickRead u cl = some (j, u.turn, u.credit))) ∧
   ∀ (s : State) (cl : Nat) (r : ArrayRead), let u := getClu s cl
     let due : Prop := u.scrubAt.toNat + s.sys.scrubHours * 3600000000000 / 2 ^ 20 ≤ now s
     (u.inSlice = true ∨ ¬ due → exec (.patrolScrubVisit cl r) s = .next s) ∧
     (u.inSlice = false → due → Tbl.find u.lineErr u.scrubPos.toNat = none → r.fresh = 0 → pendingEntry u u.scrubPos.toNat = none →
       u.scrubPos.toNat ∉ u.exhLines → ∃ t, exec (.patrolScrubVisit cl r) s = .next (withReports s t) ∧
         (getClu t cl).scrubPos = u.scrubPos + 1 ∧ (getClu t cl).outerCe = u.outerCe ∧ (getClu t cl).ueScrub = u.ueScrub ∧ t.mem = s.mem) ∧
     (∀ e, u.inSlice = false → due → pendingEntry u u.scrubPos.toNat = some e → u.scrubPos.toNat ∉ u.exhLines →
       ∃ t, exec (.patrolScrubVisit cl r) s = .next (withReports s t) ∧ (getClu t cl).scrubPos = u.scrubPos + 1 ∧
         (getClu t cl).ueScrub = satAdd u.ueScrub 1 ∧ t.mem = s.mem)) ∧
  ((∀ (s : State) (cl : Nat), exec (.refresh cl) s = .next (setClu s cl { getClu s cl with refreshPos := (getClu s cl).refreshPos + 1 })) ∧
   (∀ (s : State) (cl : Nat) (temp : BitVec 8), let u := getClu s cl
     partOfSite s (cl / 64) = none → u.slicesLeft = 0 →
       (u.lastRecal.toNat + s.sys.recalS * 1000000000 ≤ now s ∨ 8 ≤ u.recalTemp.toNat - temp.toNat ∨ 8 ≤ temp.toNat - u.recalTemp.toNat →
         exec (.recalibrationTrigger cl temp) s = .next (withReports s (setClu s cl { u.noteDie temp with slicesLeft := 8 }))) ∧
       (now s < u.lastRecal.toNat + s.sys.recalS * 1000000000 → u.recalTemp.toNat - temp.toNat < 8 → temp.toNat - u.recalTemp.toNat < 8 →
         exec (.recalibrationTrigger cl temp) s = .next (withReports s (setClu s cl (u.noteDie temp))))) ∧
   (∀ (u : Cluster) (temp : BitVec 8), (u.noteDie temp).dieTemp = temp ∧ (u.noteDie temp).hotDram = (u.hotDram || decide (95 ≤ temp.toNat))) ∧
   (∀ (s : State) (cl : Nat), let u := getClu s cl
     u.slicesLeft ≠ 0 → u.inSlice = false → u.pwrState ≠ 1 → (∀ c, c < 64 → (getClu s (cl / 64 * 64 + c)).inSlice = false) →
       (u.slicesLeft = 8 ∨ u.lastSlice.toNat + 1000000 ≤ now s →
         exec (.recalSliceStart cl) s = .next (setClu s cl { u with inSlice := true, lastSlice := s.tally })) ∧
       (u.slicesLeft < 8 → now s < u.lastSlice.toNat + 1000000 → exec (.recalSliceStart cl) s = .next s)) ∧
   ∀ (s : State) (cl : Nat), let u := getClu s cl
     u.inSlice = true →
       (1 < u.slicesLeft → exec (.recalSliceEnd cl) s = .next (withReports s
         (drain (setClu s cl { u with inSlice := false, slicesLeft := u.slicesLeft - 1, heldTo := u.nextArr }) cl))) ∧
       (u.slicesLeft ≤ 1 → exec (.recalSliceEnd cl) s = .next (withReports s (drain (u.recalReply.foldl (fun s r => complete s r stOk [])
         (setClu s cl { u with inSlice := false, slicesLeft := 0, heldTo := u.nextArr, recalCount := satAdd u.recalCount 1,
                               lastRecal := s.tally, recalTemp := u.dieTemp, recalReply := [] })) cl))))

/-- A request whose tag or replay window fails is dropped and counted. An authentic one is answered RING_FULL, INTERIM, with its kept
completion or STALE, or held, by its RSEQ; in turn it is refused UNSUPPORTED, FENCED, REFUSED_POLICY or BAD_ARGUMENT, or as its own checks
say, by the first check that fails. TELLER_MESSAGE_DROP counts the drop alone. (R311, R312, R318, R319, R320) -/
def Obligations.TellerDiscipline : Prop :=
  (∀ (i : Instr) (m : Msg) (c : Cmd) (s : State),
    let q := m.rseq.toNat
    let b := getBox s m.sess.toNat m.mbox.toNat
    let r := replyOf s m
    let u := started c.ro m s
    let kept (n : Nat) := b.kept.find? fun d => d.1 = n
    let answered (st : Status) : Prop := exec i s = .next (complete (c.refuse u r) r st [])
    heldCmd i = some (m, c) → m.cls = 0 → (m.cmd.toNat = c.code ∨ m.cmd.toNat ∉ listedCodes) →
      (portAlive s m.port = true → tellerServes s = true →
        (Tbl.find s.sessions m.sess.toNat = none → exec i s = .next (dropMac s m.port)) ∧
        (∀ t, Tbl.find s.sessions m.sess.toNat = some t →
          ((t.est = false ∨ msgTag t.khp m ≠ m.mac) → exec i s = .next (dropMac s m.port)) ∧
          (t.est = true → msgTag t.khp m = m.mac → (winOf t m.port).drops m.seq.toNat = true → exec i s = .next (dropReplay s m.port)))) ∧
      (Authentic m s →
        (b.next + 64 ≤ q → exec i s = .next (sendCompletion (noteRing (received m s) m.port) r stRingFull [] false false)) ∧
        (q < b.next + 64 → (q ∈ b.running ∨ Tbl.has b.held q = true) →
          exec i s = .next (sendCompletion (received m s) r stOk [] true false)) ∧
        (q < b.next + 64 → q ∉ b.running → Tbl.has b.held q = false →
          (∀ d, kept q = some d →
            exec i s = .next (sendCompletion (received m s) { r with cmd := d.2.cmd } d.2.status d.2.payload false true)) ∧
          (kept q = none → q < b.next →
            exec i s = .next (sendCompletion (noteRing (received m s) m.port) r stStale [] false false)) ∧
          (kept q = none → b.next < q → ∃ t, exec i s = .next t ∧ t.emitted = s.emitted ∧
            Tbl.find (getBox t m.sess.toNat m.mbox.toNat).held q = some (HeldRequest.mk i r c.ro) ∧ (getBox t m.sess.toNat m.mbox.toNat).next = b.next)) ∧
        (InTurn m s →
          ((m.ver ≠ 3 ∨ m.cmd.toNat ≠ c.code) → exec i s = .next (complete u r stUnsupported [])) ∧
          (m.ver = 3 → m.cmd.toNat = c.code →
            (s.state ≠ .serving → c.safe = false → answered stFenced) ∧
            ((s.state = .serving ∨ c.safe = true) →
              (privOf s m.sess.toNat < c.priv → answered stRefusedPolicy) ∧
              (c.priv ≤ privOf s m.sess.toNat →
                ((c.form = false ∨ m.rsv ≠ 0) → answered stBadArgument) ∧
                (∀ st, c.form = true → m.rsv = 0 → c.check u = some st → answered st))))))) ∧
  ∀ (m : Msg) (s : State), m.cls ≠ 5 → portAlive s m.port = true → tellerServes s = true →
    (Tbl.find s.sessions m.sess.toNat = none → exec (.tellerMessageDrop m) s = .next (dropMac s m.port)) ∧
    (∀ t, Tbl.find s.sessions m.sess.toNat = some t →
      ((t.est = false ∨ msgTag t.khp m ≠ m.mac) → exec (.tellerMessageDrop m) s = .next (dropMac s m.port)) ∧
      (t.est = true → msgTag t.khp m = m.mac → (winOf t m.port).drops m.seq.toNat = true →
        exec (.tellerMessageDrop m) s = .next (dropReplay s m.port)))

/-- A HELLO whose fragments are all in is rejected for its form, its chain (one that does not verify, has more than 4 certificates or an
expired one) or the lack of a session number, or accepted on the lowest free number with a nonce, ciphertext and signature sent back and
the session key material kept. A FINISH with a good tag and signature of a listed host establishes the session with the keys of R314 and
the privilege of its entry, and sends READY. After 2 s an unfinished handshake is discarded; after KEEPALIVE without a message a session
ends. (R313, R314, R315, R316, R422, R423) -/
def Obligations.SessionsEstablished : Prop :=
  (∀ (m : Msg) (ok : Bool) (ss ct nonce sigma : Bytes) (s : State),
    let h := Tbl.get s.handshakes m.rseq.toNat (Handshake.new s m)
    let h2 := { h with frags := Tbl.put h.frags m.frag.toNat m.payload }
    let run := exec (.hello m ok ss ct nonce sigma) s
    m.cls = 5 → m.cmd = 1 → portAlive s m.port = true → tellerServes s = true → s.state ≠ .safeNoId →
      (fragOk m = false → run = .next (reject s m stBadArgument)) ∧
      (fragOk m = true → h.accepted = false →
        (joined h2.frags m.nfrag.toNat = none → run = .next { s with handshakes := Tbl.put s.handshakes m.rseq.toNat h2 }) ∧
        (∀ hello, joined h2.frags m.nfrag.toNat = some hello →
          let formed : Prop := 1224 ≤ hello.length ∧ hello.length ≤ 16384 ∧ at_ hello 0 2 ≤ 600 ∧ at_ hello 2 6 = 0
          (¬ formed → run = .next (reject s m stBadArgument)) ∧
          let allowed : Prop := ok = true ∧ chainAllowed s (hello.drop 1224) = true ∧ s.vault.config ≠ none
          (formed → ¬ allowed → run = .next (reject s m stAuthFail)) ∧
          (formed → allowed → freeSession s = none → run = .next (reject s m stRefusedCapacity)) ∧
          (∀ n, formed → allowed → freeSession s = some n → ∃ t x, run = .next t ∧ t.sessions = s.sessions ∧
            Tbl.find t.handshakes m.rseq.toNat = some x ∧ x.accepted = true ∧ x.sess = n ∧ x.nonce = sub_ hello 8 32 ∧ x.ss = ss ∧
            x.keepalive = (if at_ hello 0 2 = 0 then 10 else at_ hello 0 2) ∧
            t.emitted.length = s.emitted.length + Nat.max 1 (ceilDiv (3548 + (panelChain s).length) 4096))))) ∧
  (∀ (m : Msg) (ok : Bool) (s : State) (h : Handshake),
    let khp := kmac256 h.ss h.h2 (ascii "GP144-TELLER-3 HP") 32
    let kph := kmac256 h.ss h.h2 (ascii "GP144-TELLER-3 PH") 32
    let frags := Tbl.put h.finFrags m.frag.toNat m.payload
    let run := exec (.finish m ok) s
    m.cls = 5 → m.cmd = 3 → portAlive s m.port = true → Tbl.find s.handshakes m.rseq.toNat = some h → h.accepted = true →
      (fragOk m = false → run = .next (reject s m stBadArgument)) ∧
      (fragOk m = true → (msgTag khp m ≠ m.mac ∨ m.seq ≠ 1) → run = .next (dropMac s m.port)) ∧
      (fragOk m = true → msgTag khp m = m.mac → m.seq = 1 → joined frags m.nfrag.toNat = none →
        run = .next { s with handshakes := Tbl.put s.handshakes m.rseq.toNat { h with finFrags := frags } }) ∧
      (fragOk m = true → msgTag khp m = m.mac → m.seq = 1 → ∀ fin, joined frags m.nfrag.toNat = some fin →
        (fin.length ≠ 2420 → run = .next (reject s m stBadArgument)) ∧
        (fin.length = 2420 → (ok = false ∨ hostEntry s h.subject = none) → run = .next (reject s m stAuthFail)) ∧
        (fin.length = 2420 → ok = true → hostEntry s h.subject ≠ none → (16 ≤ s.sessions.length ∨ Tbl.has s.sessions h.sess = true) →
          run = .next (reject s m stRefusedCapacity)) ∧
        (∀ priv top, fin.length = 2420 → ok = true → hostEntry s h.subject = some (priv, top) → s.sessions.length < 16 →
          Tbl.has s.sessions h.sess = false → ∃ t x, run = .next t ∧ Tbl.has t.handshakes m.rseq.toNat = false ∧
            Tbl.find t.sessions h.sess = some x ∧ x.est = true ∧ x.priv = priv ∧ x.topclass = top ∧ x.khp = khp ∧ x.kph = kph ∧
            x.nonce = h.nonce ∧ x.seqOut = 2 ∧ x.repGen = 1 ∧ x.boxes = [] ∧ winOf x m.port = { high := 1, got := [1] } ∧
            ∃ w hd, t.emitted.getLast? = some (.teller w hd) ∧ w.cls = 5 ∧ w.cmd = 4 ∧ w.sess = 0 ∧ w.seq = 1 ∧ w.payload = [] ∧
              w.mac = msgTag kph { w with mac := 0 }))) ∧
  (∀ (id : BitVec 32) (s : State) (h : Handshake), Tbl.find s.handshakes id.toNat = some h →
    (now s < h.first.toNat + 2000000000 → exec (.handshakeTimeout id) s = .next s) ∧
    (h.first.toNat + 2000000000 ≤ now s → exec (.handshakeTimeout id) s = .next
      (modHub { s with handshakes := Tbl.drop s.handshakes id.toNat } h.port fun x => { x with hsReject := satAdd x.hsReject 1 }))) ∧
  ∀ (n : Nat) (s : State) (t : Session), Tbl.find s.sessions n = some t →
    (now s < t.lastMsg.toNat + t.keepalive * 1000000000 → exec (.sessionKeepaliveExpiry n) s = .next s) ∧
    (t.lastMsg.toNat + t.keepalive * 1000000000 ≤ now s → ∃ u, exec (.sessionKeepaliveExpiry n) s = .next u ∧ Tbl.has u.sessions n = false ∧
      u.tickets.all (fun x => x.2.sess ≠ n) = true ∧ (getHub u t.port).sessExpired = satAdd (getHub s t.port).sessExpired 1)

/-- A stream acknowledgement frees the datagrams at or below CUM, and those its map shows that hold no line of a ring, starts the stopped
sending again and resends what the map misses; one with an older CUM changes nothing. An event acknowledgement frees the events it covers.
A datagram or event unacknowledged for the session's RTO is sent again, by the panel where it last went by UDP. A ticket ends 10 s after
its last answer; its claims end WAIT + 10 ms after it. A gap is reported every 100 ms, and a held request runs once all below it have.
(R300, R303, R318, R319, R328, R331, R380) -/
def Obligations.StreamsAndEvents : Prop :=
  (∀ (m : Msg) (s : State) (t : Session),
    let u := received m s
    let cum := at_ m.payload 0 4
    let map := at_ m.payload 8 32
    m.cls = 4 → Authentic m s → Tbl.find s.sessions m.sess.toNat = some t → m.payload.length = 40 → at_ m.payload 4 4 = 0 → m.rsv = 0 →
      (m.cmd = 0 → 2 ^ 31 ≤ sseqDist t.cum cum → exec (.streamAck m) s = .next u) ∧
      (m.cmd = 0 → sseqDist t.cum cum < 2 ^ 31 → ∃ (v : State) (x : Session) (again : List Nat),
        exec (.streamAck m) s = .next (sendWaiting (again.foldl (fun v q => transmit v m.sess.toNat q) v) m.sess.toNat) ∧
        Tbl.find v.sessions m.sess.toNat = some x ∧ x.cum = cum ∧ x.stopped = false ∧ x.sseq = t.sseq ∧ v.emitted = s.emitted ∧
        x.retained = ackedTable t.retained cum map ∧
        ∀ q, q ∈ again ↔ ∃ d, (q, d) ∈ x.retained ∧ panelResends x d = true ∧ ackMisses map (sseqDist cum q) = true) ∧
      (m.cmd = 1 → exec (.eventAck m) s = .next (modSess u m.sess.toNat fun t => { t with
        events := Tbl.keep t.events fun q _ => !ackCovers map ((q + 2 ^ 32 - cum) % 2 ^ 32) }))) ∧
  (∀ (l : Tbl Retained) (cum map q : Nat) (d : Retained), Tbl.wf l = true → Tbl.find l q = some d → 0 < d.sends →
    let free := ackCovers (if d.ring = 0 then map else 0) (sseqDist cum q)
    (free = true → Tbl.find (ackedTable l cum map) q = none) ∧
    (free = false → ∃ e, Tbl.find (ackedTable l cum map) q = some e ∧ e.payload = d.payload ∧ e.ring = d.ring ∧
      (e.seen = true ↔ d.seen = true ∨ ackCovers map (sseqDist cum q) = true))) ∧
  (∀ (n q : Nat) (s : State) (t : Session) (d : Retained), Tbl.find s.sessions n = some t → Tbl.find t.retained q = some d →
    let ours : Prop := 0 < d.sends ∧ d.seen = false ∧ (d.udp = true ∨ t.byRdma = false)
    (¬ ours ∨ now s < d.sentAt.toNat + t.rto * 100000 → exec (.streamResendTimeout n q) s = .next s) ∧
    (ours → d.sentAt.toNat + t.rto * 100000 ≤ now s →
      (d.sends < 8 → exec (.streamResendTimeout n q) s = .next (transmit s n q)) ∧
      (8 ≤ d.sends → exec (.streamResendTimeout n q) s = .next (transmit (modSess s n fun t => { t with stopped := true }) n q)))) ∧
  (∀ (n q : Nat) (s : State) (t : Session) (e : EventRec), Tbl.find s.sessions n = some t → Tbl.find t.events q = some e →
    (now s < e.sentAt.toNat + t.rto * 100000 → exec (.eventResendTimeout n q) s = .next s) ∧
    (e.sentAt.toNat + t.rto * 100000 ≤ now s → exec (.eventResendTimeout n q) s = .next (sendEvent s n q))) ∧
  (∀ (k : Nat) (s : State) (t : Ticket), Tbl.find s.tickets k = some t →
    (now s < t.last.toNat + 10000000000 → exec (.ticketExpiry k) s = .next s) ∧
    (t.last.toNat + 10000000000 ≤ now s → exec (.ticketExpiry k) s = .next { s with tickets := Tbl.drop s.tickets k }) ∧
    (now s < t.last.toNat + (t.wait + 10) * 1000000 → exec (.ticketClaimEnd k) s = .next s) ∧
    (t.last.toNat + (t.wait + 10) * 1000000 ≤ now s →
      exec (.ticketClaimEnd k) s = .next { s with tickets := Tbl.put s.tickets k { t with active := false } })) ∧
  ∀ (n k : Nat) (s : State),
    let b := getBox s n k
    ((∀ h ∈ b.held, h.1 = b.next) → exec (.mailboxGap n k) s = .next s) ∧
    ((∃ h ∈ b.held, h.1 ≠ b.next) →
      (now s < b.gapAt.toNat + 100000000 → exec (.mailboxGap n k) s = .next s) ∧
      (b.gapAt.toNat + 100000000 ≤ now s → exec (.mailboxGap n k) s =
        .next (eventTo (modBox s n k fun b => { b with gapAt := s.tally }) n 0x11 (leBytes 1 k ++ leBytes 3 0 ++ leBytes 4 b.next)))) ∧
    ∀ h m c, Tbl.find b.held b.next = some h → heldCmd h.cmd = some (m, c) →
      (b.running ≠ [] → exec (.mailboxHeldRequestRelease n k) s = .next s) ∧
      (b.running = [] → exec (.mailboxHeldRequestRelease n k) s = .next (withReports s (boxRun s m c)))

/-- A request of PING, CLOSE, VERSION, SUBSCRIBE, STATUS, SYS_CONFIG, STREAM_SET, QP_CREATE or QP_DESTROY that begins to execute has its
effect and completes: PING answers its payload, CLOSE ends the session, VERSION and STATUS answer their fields, SUBSCRIBE sets the mask,
SYS_CONFIG writes the record of the panel state and takes effect and completes once both dies hold it, STREAM_SET sets the stream,
QP_CREATE and QP_DESTROY the queue pair, without which a stream's datagrams go by UDP again. The number of a queue pair is a free value
(log 7); the record goes to the Vault in the layout of log 28. (R296, R303, R316, R320, R323, R417, R435) -/
def Obligations.SessionCommands : Prop :=
  (∀ (m : Msg) (s : State),
    let u := started false m s
    let v := started true m s
    let r := replyOf s m
    (Begins (cmdPing m) m s → exec (.ping m) s = .next (complete v r stOk m.payload)) ∧
    (Begins (cmdClose m) m s → ∃ t, exec (.close m) s = .next t ∧ Tbl.has t.sessions m.sess.toNat = false ∧
      t.tickets.all (fun x => x.2.sess ≠ m.sess.toNat) = true ∧ t.waits.all (fun w => w.reply.sess ≠ m.sess.toNat) = true) ∧
    (Begins (cmdVersion m) m s → exec (.version m) s = .next (complete v r stOk
      (leBytes 2 3 ++ leBytes 2 0xA1 ++ leBytes 4 s.hub0.fwver.toNat ++ leBytes 4 s.hub1.fwver.toNat ++
        leBytes 1 (s.hub0.bank % 2 + 2 * (s.hub1.bank % 2) + 4 * b2n s.hub0.fellBack + 8 * b2n s.hub1.fellBack) ++ leBytes 1 s.lead ++
        leBytes 2 0 ++ sub_ s.vault.idDig 0 32))) ∧
    (Begins (cmdSubscribe m) m s → exec (.subscribe m) s = .next (complete
      (modSess u m.sess.toNat fun t => { t with mask := BitVec.ofNat 32 (at_ m.payload 0 4) }) r stOk (leBytes 4 (at_ m.payload 0 4)))) ∧
    (Begins (cmdStatus m) m s → exec (.status m) s = .next (complete v r stOk
      (leBytes 1 (stateCode s) ++ leBytes 1 (compCode s) ++ leBytes 1 (roleCode s) ++
        leBytes 1 (b2n s.twin.attached + 2 * b2n (s.twin.takeover || mayTakeOver s)) ++ leBytes 1 (b2n s.hub0.up + 2 * b2n s.hub1.up) ++
        leBytes 1 0 ++ leBytes 2 (activeDies s) ++ leBytes 2 (sparesLeft s) ++ leBytes 2 (sumNat (s.parts.map fun q => 2 ^ q.1)) ++
        leBytes 1 (inWindow s).length ++ leBytes 3 0 ++ leBytes 8 s.tally.toNat))) ∧
    (Begins (cmdSysConfig m) m s → exec (.sysConfig m) s = .next
      (afterWrites (vaultPut u 0x10 0 (sysBody (sysFrom m (sysDue u))) false) (.sysConfig (sysFrom m (sysDue u)) r))) ∧
    (s.vault.writing = [] → sysDue u = s.sys) ∧
    ∀ c, sysConfigDone s c r = { complete (if c.ptpDomain = s.sys.ptpDomain then s else ptpLeave s) r stOk [] with sys := c }) ∧
  (∀ (m : Msg) (s : State) (t : Session),
    let u := started false m s
    let r := replyOf s m
    let rd := keepOr m 1 1 (b2n t.rdma) = 1
    let w := keepOr m 2 1 t.win
    let p := keepOr m 3 1 t.winPart
    Tbl.find s.sessions m.sess.toNat = some t → Begins (cmdStreamSet m) m s →
      (rd → ringWindow s m.sess.toNat p w = false → exec (.streamSet m) s = .next (complete u r stBadArgument [])) ∧
      ((¬ rd ∨ ringWindow s m.sess.toNat p w = true) → exec (.streamSet m) s = .next (complete (modSess u m.sess.toNat fun x => { x with
        port := keepOr m 0 1 t.port, rdma := decide rd, win := w, winPart := p, rto := keepOr m 4 2 t.rto,
        ringAt := if rd ∧ (t.rdma = false ∨ w ≠ t.win ∨ p ≠ t.winPart) then 0 else t.ringAt
        retained := if rd ∧ (t.rdma = false ∨ w ≠ t.win ∨ p ≠ t.winPart) then Tbl.map t.retained fun _ d => { d with ring := 0 }
                    else t.retained }) r stOk []))) ∧
  ∀ (m : Msg) (psn : BitVec 24) (s : State) (t : Session),
    let u := started false m s
    let r := replyOf s m
    Tbl.find s.sessions m.sess.toNat = some t →
      (Begins (cmdQpCreate m psn) m s →
        (t.qp ≠ none → exec (.qpCreate m psn) s = .next (complete u r stRefusedCapacity [])) ∧
        (t.qp = none → ∃ v x q, exec (.qpCreate m psn) s = .next v ∧ Tbl.find v.sessions m.sess.toNat = some x ∧ x.qp = some q ∧
          q.port = at_ m.payload 0 1 ∧ q.hostQpn.toNat = at_ m.payload 4 3 ∧ q.expPsn.toNat = at_ m.payload 8 3 ∧ q.sendPsn = psn ∧
          q.ackPsn = psn ∧ q.error = false ∧ q.out = [])) ∧
      (Begins (cmdQpDestroy m) m s →
        let v := failLines (modSess u m.sess.toNat fun t => { t with qp := none }) (match t.qp with | some q => q.out | none => []) stTimeout
        exec (.qpDestroy m) s = .next (complete (if t.byRdma then resendAll v m.sess.toNat else v) r stOk []))

/-- A request of PART_SET, MAP_STAGE, MAP_COMMIT, MAP_UNLOAD, PART_DRAIN, HANDLE_BIND or HANDLE_INVAL that begins to execute is refused by
its own rules without an effect, or has its effect: a partition of the sites named with no map, no handle and a new generation; staged
bytes; a map that all of R238 to R249 accept comes into force; a map is unloaded; a drain begins and completes when nothing is left; a
handle is bound with the next generation or invalidated, each controller keeping what it holds until it applies the change. A partition
set again starts anew, a MAP_COMMIT with steps in flight is refused, or with requests that no shrunk job keeps, and waits for a
recalibration slice of a channel that the measurement reads, and a drain that RESUME ends is answered ABORTED: the model's choices (logs
43, 44, 45). (R170, R172, R173, R202, R238, R241, R245, R249, R323, R324, R325, R437) -/
def Obligations.PartitionCommands : Prop :=
  (∀ (m : Msg) (s : State),
    let u := started false m s
    let r := replyOf s m
    let p := at_ m.payload 0 1
    let q := getPart s p
    let sites := if at_ m.payload 8 20 = 2 ^ 160 - 1 then q.sites else bitsOf 160 (at_ m.payload 8 20)
    let fits : Prop := q.map = none ∧ sites.all (siteFree u p) = true ∧ sites.length ≤ 16
    Begins (cmdPartSet m) m s → (∀ x ∈ s.sessions, x.2.seqOut.toNat + 3 < 2 ^ 63) → q.resetNext = none → s.panelReset = none →
      (¬ fits → exec (.partSet m) s = .next (complete u r stBadArgument [])) ∧
      (fits → sites = [] → ∃ t, exec (.partSet m) s = .next t ∧ Tbl.has t.parts p = false) ∧
      (fits → sites ≠ [] → ∃ t, exec (.partSet m) s = .next t ∧
        (let w := getPart t p
         w.sites = sites ∧ w.map = none ∧ w.handles = [] ∧ w.windows = [] ∧ w.fenced = false ∧ w.distGen = q.distGen ∧
         w.numbering = (sites.map (dieCores s)).flatten))) ∧
  (∀ (m : Msg) (s : State),
    let u := started false m s
    let r := replyOf s m
    let p := at_ m.payload 0 1
    let n := m.payload.length - 8
    Begins (cmdMapStage m) m s →
      ((hasPart s p = false ∨ 2 ^ 20 < at_ m.payload 4 4 + n) → exec (.mapStage m) s = .next (complete u r stBadArgument [])) ∧
      (hasPart s p = true → at_ m.payload 4 4 + n ≤ 2 ^ 20 → ∃ t, exec (.mapStage m) s = .next t ∧
        (∀ i, i < n → Tbl.find (getPart t p).staged (at_ m.payload 4 4 + i) = some (m.payload.getD (8 + i) 0)) ∧
        (∀ o, (∀ i, i < n → o ≠ at_ m.payload 4 4 + i) → Tbl.find (getPart t p).staged o = Tbl.find (getPart s p).staged o) ∧
        (getPart t p).map = (getPart s p).map ∧ (getPart t p).handles = (getPart s p).handles)) ∧
  (∀ (m : Msg) (s : State),
    let u := started false m s
    let r := replyOf s m
    let p := at_ m.payload 0 1
    let n := at_ m.payload 4 4
    let b := stagedBytes (getPart s p).staged n
    let digest := sub_ m.payload 8 32
    let run := exec (.mapCommit m) s
    let sound : Prop := hasPart s p = true ∧ n ≤ 2 ^ 20 ∧ (getPart s p).sites.all (halfServes s) = true ∧ sha3_256 b = digest
    Begins (cmdMapCommit m) m s →
      (¬ sound → run = .next (complete u r stBadArgument [])) ∧
      (sound → mapRecords (n + 1) b = none → run = .next (complete u r stBadArgument [])) ∧
      (∀ l, sound → mapRecords (n + 1) b = some l →
        (∀ st, buildMap u p digest l = .error st → run = .next (complete u r st [])) ∧
        (∀ pm, buildMap u p digest l = .ok pm →
          let j := getJob s (jobOfPart s p)
          let free : Prop := (partBusy u p = false ∨ j.shrunk = true) ∧ j.steps = []
          (¬ free → run = .next (complete u r stModeConflict [])) ∧
          (∀ cl, free → measureHeld u p = some cl → run = .next (withReports s (holdAt u cl (.mapCommit m r)))) ∧
          (free → measureHeld u p = none → run = .next (withReports s (complete (loadMap u p pm) r stOk
            (leBytes 2 (getPart (loadMap u p pm) p).distGen.toNat ++ leBytes 2 0 ++ leBytes 4 (getPart (loadMap u p pm) p).numbering.length))))))) ∧
  (∀ (m : Msg) (s : State),
    let u := started false m s
    let r := replyOf s m
    let p := at_ m.payload 0 1
    (Begins (cmdMapUnload m) m s →
      (hasPart s p = false → exec (.mapUnload m) s = .next (complete u r stBadArgument [])) ∧
      (hasPart s p = true → partBusy u p = true → exec (.mapUnload m) s = .next (complete u r stModeConflict [])) ∧
      (hasPart s p = true → partBusy u p = false → exec (.mapUnload m) s = .next (withReports s (complete
        (modPart u p fun q => { q with map := none, mapMeas := [], lastWrite := none }) r stOk [])))) ∧
    (Begins (cmdPartDrain m) m s →
      let v := modPart u p fun q => { q with drained := true, drainReply := q.drainReply ++ [r] }
      (hasPart s p = false → exec (.partDrain m) s = .next (complete u r stBadArgument [])) ∧
      (hasPart s p = true → at_ m.payload 1 1 = 1 → exec (.partDrain m) s = .next (complete
        (endDrain (modPart u p fun q => { q with drained := false }) p stAborted) r stOk [])) ∧
      (hasPart s p = true → at_ m.payload 1 1 = 0 → drainedNow v p = false → exec (.partDrain m) s = .next v) ∧
      (hasPart s p = true → at_ m.payload 1 1 = 0 → drainedNow v p = true → exec (.partDrain m) s = .next (endDrain v p stOk)))) ∧
  (∀ (p : Nat) (s : State), (getPart s p).drained = true → (getPart s p).drainReply ≠ [] →
    (drainedNow s p = true → exec (.partDrainComplete p) s = .next (endDrain s p stOk)) ∧
    (drainedNow s p = false → exec (.partDrainComplete p) s = .next s)) ∧
  ∀ (m : Msg) (s : State),
    let u := started false m s
    let r := replyOf s m
    let p := at_ m.payload 0 1
    let h := at_ m.payload 2 2
    let old := Tbl.get (getPart s p).handles h Handle.reset
    let lag : Prop := (getPart s p).sites ≠ [] ∨ Tbl.has (getPart s p).lags h = true
    (Begins (cmdHandleBind m) m s →
      (hasPart s p = false → exec (.handleBind m) s = .next (complete u r stBadArgument [])) ∧
      (hasPart s p = true → (getPart s p).map ≠ none → exec (.handleBind m) s = .next (complete u r stRefusedPolicy [])) ∧
      (hasPart s p = true → (getPart s p).map = none →
        ((bindDesc (getPart s p) (at_ m.payload 16 16) = none ∨ old.state = 1) → exec (.handleBind m) s = .next (complete u r stBadArgument [])) ∧
        (∀ d, bindDesc (getPart s p) (at_ m.payload 16 16) = some d →
          (old.state = 2 → exec (.handleBind m) s = .next (complete u r stDeferred (leBytes 4 (stepLeft s p)))) ∧
          (old.state ≠ 1 → old.state ≠ 2 → ¬ lag → exec (.handleBind m) s =
            .next (complete (changeHandle u p h { d with gen := old.gen + 1 }) r stOk (leBytes 2 (old.gen + 1).toNat))) ∧
          (old.state ≠ 1 → old.state ≠ 2 → lag → ∃ t, exec (.handleBind m) s = .next t ∧
            Tbl.get (getPart t p).handles h Handle.reset = { d with gen := old.gen + 1 } ∧
            t.waits = s.waits ++ [HeldReply.mk r stOk (leBytes 2 (old.gen + 1).toNat) [(p, h)] []] ∧ t.emitted = s.emitted ++ [.handleWrites p h] ∧
            ∀ n, n ≠ h → Tbl.get (getPart t p).handles n Handle.reset = Tbl.get (getPart s p).handles n Handle.reset)))) ∧
    (Begins (cmdHandleInval m) m s → hasPart s p = true → (getPart s p).map = none →
      (old.state = 1 → ¬ lag → exec (.handleInval m) s = .next (complete (invalidateHandle u p h) r stOk [])) ∧
      (old.state = 1 → lag → ∃ t, exec (.handleInval m) s = .next t ∧ Tbl.get (getPart t p).handles h Handle.reset = { old with state := 2 } ∧
        t.waits = s.waits ++ [HeldReply.mk r stOk [] [(p, h)] []] ∧
        ∀ w x, Tbl.find (getPart t p).windows w = some x → x.outbound = false → x.handle = h → x.state = 0) ∧
      (old.state = 2 → exec (.handleInval m) s = .next (complete u r stOk [])) ∧
      (old.state ≠ 1 → old.state ≠ 2 → exec (.handleInval m) s = .next (complete u r stBadArgument [])))

/-- A range that lies in a bound handle is written line by line, or read in order up to the first line that cannot be; one that does not
is BAD_ARGUMENT. During a recalibration slice the request waits. A channel that is out, a fenced cluster or a fenced core gives FENCED; a
line that reads uncorrectable gives ECC with the lines before it. A write into a map handle notes its time for the map measurement.
DIST_READ answers bytes of the Distance Table once one has been built. (R171, R187, R198, R203, R233, R234, R326, R425) -/
def Obligations.DataCommands : Prop :=
  (∀ (m : Msg) (s : State),
    let u := started false m s
    let r := replyOf s m
    let p := at_ m.payload 0 1
    let h := at_ m.payload 2 2
    let off := at_ m.payload 4 4
    let b := m.payload.drop 8
    Begins (cmdDataWrite m) m s →
      (dataRange s p h off (b.length / 64) = none → exec (.dataWrite m) s = .next (complete u r stBadArgument [])) ∧
      (∀ d, dataRange s p h off (b.length / 64) = some d →
        let late : Prop := d.kind = false ∧ inSlice s (dataCluster s p h d) = true
        let w := writeLines u p h d (off / 64) b (b.length / 64)
        let noted := modPart w.1 p fun q => { q with lastWrite := some s.tally }
        let kept : Prop := (getPart s p).map ≠ none ∧ h < mapM (getPart s p)
        (late → exec (.dataWrite m) s = .next (holdAt u (dataCluster s p h d) (.dataWrite m r))) ∧
        (¬ late → kept → exec (.dataWrite m) s = .next (complete noted r (if w.2 then stOk else stFenced) [])) ∧
        (¬ late → ¬ kept → exec (.dataWrite m) s = .next (complete w.1 r (if w.2 then stOk else stFenced) [])) ∧
        (d.kind = false → inSlice s (dataCluster s p h d) = false → Memory.wf s.mem = true → channelServes s (dataCluster s p h d) = true → (getClu s (dataCluster s p h d)).fenced = false →
          ∃ t, exec (.dataWrite m) s = .next t ∧
            (let at0 := dramAddr (dataCluster s p h d) (64 * handleLine d (off / 64))
             (∀ i, i < b.length → Mem.read t.mem (at0 + i) = b.getD i 0) ∧
             ∀ a, (∀ i, i < b.length → a ≠ at0 + i) → Mem.read t.mem a = Mem.read s.mem a)))) ∧
  (∀ (m : Msg) (rs : List ArrayRead) (s : State),
    let u := started true m s
    let r := replyOf s m
    let p := at_ m.payload 0 1
    let h := at_ m.payload 2 2
    let off := at_ m.payload 4 4
    let n := at_ m.payload 8 1
    Begins (cmdDataRead m rs) m s →
      (dataRange s p h off n = none → exec (.dataRead m rs) s = .next (complete u r stBadArgument [])) ∧
      (∀ d, dataRange s p h off n = some d → d.kind = false → inSlice s (dataCluster s p h d) = true →
        exec (.dataRead m rs) s = .next (withReports s (holdAt u (dataCluster s p h d) (.dataRead m rs r)))) ∧
      (∀ d t st b, dataRange s p h off n = some d → (d.kind = true ∨ inSlice s (dataCluster s p h d) = false) → readLines u p h d (off / 64) rs n = (t, st, b) →
        (st = stFenced → exec (.dataRead m rs) s = .next (withReports s (complete t r st []))) ∧
        (st ≠ stFenced → exec (.dataRead m rs) s = .next (withReports s (complete t r st b)))) ∧
      (∀ d, dataRange s p h off n = some d → d.kind = false → inSlice s (dataCluster s p h d) = false →
        (channelServes s (dataCluster s p h d) = false ∨ (getClu s (dataCluster s p h d)).fenced = true) →
          exec (.dataRead m rs) s = .next (complete u r stFenced []))) ∧
  ∀ (m : Msg) (s : State),
    let p := at_ m.payload 0 1
    let off := at_ m.payload 4 4
    let len := at_ m.payload 8 2
    let w := distBytes s p off len
    Begins (cmdDistRead m) m s →
      ((hasPart s p = false ∨ (getPart s p).dist = DistTable.reset ∨ w.1 < off + len) →
        exec (.distRead m) s = .next (complete (started true m s) (replyOf s m) stBadArgument [])) ∧
      (hasPart s p = true → (getPart s p).dist ≠ DistTable.reset → off + len ≤ w.1 →
        exec (.distRead m) s = .next (complete (started true m s) (replyOf s m) stOk w.2))

/-- SUBMIT whose staged prompt is not there, or that breaks its ticket, is BAD_ARGUMENT; one that the class, a Shadow or a drain forbids
is REFUSED_POLICY; a job that waits for a map refuses for capacity. Otherwise the Ledger decides: OK admits and completes when its KV
handles are bound everywhere and its Escrow records are acknowledged, DEFERRED makes or renews a ticket, any other status refuses.
PROMPT_PUT stages tokens, ABORT ends an active request, REQ_QUERY reports the session's own. The wait when a store is full is a free value
in the range of R381 (log 7). (R290, R327, R328, R329, R379, R380, R381) -/
def Obligations.RequestCommands : Prop :=
  (∀ (m : Msg) (s : State),
    let u := started false m s
    let r := replyOf s m
    let n := m.sess.toNat
    let f := subFields m
    let prompt := if at_ m.payload 3 1 = 255 then some f.prompt else stagedPrompt u n (at_ m.payload 3 1) f.plen
    let old := liveTicket u n (at_ m.payload 4 4)
    let run := exec (.submit m) s
    Begins (cmdSubmit m) m s →
      (∀ p, prompt = some p →
        (∀ t, old = some t → repeats t m = false → run = .next (complete (freeStage u n (at_ m.payload 3 1)) r stBadArgument [])) ∧
        ((∀ t, old = some t → repeats t m = true) → policyRefuses u n f = true →
          run = .next (complete (finalAnswer u m n) r stRefusedPolicy [])) ∧
        ((∀ t, old = some t → repeats t m = true) → policyRefuses u n f = false →
          let sub := { f with prompt := p }
          let lacks : Prop := ∃ p, p ∈ partsOfJob u f.job ∧ (getPart u p).lacking = true
          let age := match old with | some t => ageMs u t | none => 0
          let up := match old with | some t => t.promoted || (sub.cls = 2 && decide (agingOf u sub.job ≤ age)) | none => false
          let cls := if up then Nat.min 1 sub.cls else sub.cls
          let decision := decideAdmission u sub cls (if old.isSome then at_ m.payload 4 4 else u.nextTicket) age
          let held : Prop := storesFull u n = true ∨ (getJob u f.job).lostAt ≠ none
          (lacks → run = .next (complete (finalAnswer u m n) r stRefusedCapacity [])) ∧
          (¬ lacks → decision.1 = stOk → ¬ held →
            let a := admitReq (finalAnswer u m n) n sub cls
            let v := kickJob a.1 f.job
            run = .next (completeAfter v r stOk (submitBody a.2 0 0 cls age) ((Tbl.find v.requests a.2).elim [] (·.kvh))
              (admissionSeqs a.1 n a.2))) ∧
          (¬ lacks → decision.1 = stOk → held → ∃ wait, 1 ≤ wait ∧ wait ≤ 10000 ∧
            run = .next (defer (bumpFree u) r m old sub up wait cls age)) ∧
          (¬ lacks → decision.1 = stDeferred → run = .next (defer u r m old sub up decision.2 cls age)) ∧
          (¬ lacks → decision.1 ≠ stOk → decision.1 ≠ stDeferred → run = .next (complete (finalAnswer u m n) r decision.1 []))))) ∧
  (∀ (m : Msg) (s : State),
    let n := (m.payload.length - 8) / 4
    let stage := at_ m.payload 0 1
    Begins (cmdPromptPut m) m s → ∃ t x, exec (.promptPut m) s = .next t ∧ Tbl.find t.sessions m.sess.toNat = some x ∧
      (∀ i, i < n → Tbl.find (Tbl.get x.stages stage []) (at_ m.payload 4 4 + i) = some (BitVec.ofNat 32 (at_ m.payload (8 + 4 * i) 4))) ∧
      ∀ y, Tbl.find s.sessions m.sess.toNat = some y → ∀ k, k ≠ stage → Tbl.get x.stages k [] = Tbl.get y.stages k []) ∧
  (∀ (m : Msg) (s : State) (r : Reply),
    (promptOf s m = none → (cmdSubmit m).check s = some stBadArgument) ∧ (cmdSubmit m).refuse s r = finalAnswer s m r.sess ∧
    (at_ m.payload 3 1 = 255 → promptOf s m = some (subFields m).prompt) ∧
    (at_ m.payload 3 1 ≠ 255 → promptOf s m = stagedPrompt s m.sess.toNat (at_ m.payload 3 1) (at_ m.payload 32 4))) ∧
  ∀ (m : Msg) (s : State),
    let u := started false m s
    let r := replyOf s m
    let v := started true m s
    let own := ownRequest u m.sess.toNat (at_ m.payload 0 8)
    (Begins (cmdAbort m) m s →
      (own = none → exec (.abort m) s = .next (complete u r stBadArgument [])) ∧
      (∀ x, own = some x →
        ((x.state = 4 ∨ x.endSent = true) → exec (.abort m) s = .next (complete u r stAlreadyDone [])) ∧
        (x.state ≠ 4 → x.endSent = false → exec (.abort m) s = .next (completeAfter (endRequest u (at_ m.payload 0 8) stAborted) r stOk [] x.kvh [])))) ∧
    (Begins (cmdReqQuery m) m s → at_ m.payload 0 8 ≠ 0 →
      (own = none → exec (.reqQuery m) s = .next (complete v r stBadArgument [])) ∧
      (∀ x, own = some x → exec (.reqQuery m) s = .next (complete v r stOk
        (leBytes 8 (at_ m.payload 0 8) ++ leBytes 8 x.sub.seed.toNat ++ leBytes 1 x.state ++ leBytes 1 x.cls ++ leBytes 2 x.status.toNat ++
          leBytes 4 x.released)))) ∧
    (Begins (cmdReqQuery m) m s → at_ m.payload 0 8 = 0 →
      let l := ((v.requests.filter fun x => (ownRequest v m.sess.toNat x.1).isSome).drop (at_ m.payload 8 4)).take 170
      exec (.reqQuery m) s = .next (complete v r stOk (leBytes 2 l.length ++ leBytes 6 0 ++ (l.map fun x => reqEntry x.1 x.2).flatten)))

/-- WIN_OPEN that R177 allows sets STATE 1 and the descriptor's fields and increments GEN; one it forbids is BAD_ARGUMENT. WIN_CLOSE sets
STATE 0 and completes when every controller has applied the close, WIN_QUERY answers the descriptor. LEDGER_SET keeps the fields that are
all ones and waits for the period boundary; LEDGER_READ answers the partition's energy, allowance, requests and live tickets; FORECAST
replaces the forecast. (R176, R177, R323, R372, R375, R385) -/
def Obligations.WindowAndLedgerCommands : Prop :=
  (∀ (m : Msg) (s : State),
    let u := started false m s
    let r := replyOf s m
    let p := at_ m.payload 0 1
    let n := at_ m.payload 1 1
    let old := getWindow s p n
    let v := at_ m.payload 8 32
    let may : Prop := hasPart s p = true ∧ openAllowed u p old (openedWindow u old v) = true
    (Begins (cmdWinOpen m) m s →
      (¬ may → exec (.winOpen m) s = .next (complete u r stBadArgument [])) ∧
      (may → ∃ t, exec (.winOpen m) s = .next t ∧
        (let w := getWindow t p n
         w.state = 1 ∧ w.outbound = v.testBit 2 ∧ w.dir = BitVec.ofNat 2 (v / 2 ^ 3) ∧ w.target = v.testBit 5 ∧ w.linesM1 = BitVec.ofNat 20 (v / 2 ^ 8) ∧
         w.gen = old.gen + 1 ∧ w.expiry = BitVec.ofNat 64 (v / 2 ^ 64) ∧ w.hi = BitVec.ofNat 128 (v / 2 ^ 128)) ∧
        (∀ k, k ≠ n → getWindow t p k = getWindow s p k) ∧ (getPart t p).handles = (getPart s p).handles ∧
        ∀ q, q ≠ p → getPart t q = getPart s q)) ∧
    (Begins (cmdWinClose m) m s →
      (hasPart s p = false → exec (.winClose m) s = .next (complete u r stBadArgument [])) ∧
      (hasPart s p = true → old.state = 0 → exec (.winClose m) s = .next (complete u r stOk [])) ∧
      (hasPart s p = true → old.state ≠ 0 →
        exec (.winClose m) s = .next (completeAfter (closeEverywhere u p n) r stOk [] [(p, 4096 + n)] []) ∧
        getWindow (closeEverywhere u p n) p n = { old with state := 0 } ∧
        (∀ k, k ≠ n → getWindow (closeEverywhere u p n) p k = getWindow s p k) ∧
        ((getPart s p).sites ≠ [] → lagging (closeEverywhere u p n) (p, 4096 + n) = true))) ∧
    (Begins (cmdWinQuery m) m s →
      (hasPart s p = false → exec (.winQuery m) s = .next (complete (started true m s) r stBadArgument [])) ∧
      (hasPart s p = true → exec (.winQuery m) s = .next (complete (started true m s) r stOk (leBytes 32 old.word))))) ∧
  ∀ (m : Msg) (s : State),
    let u := started false m s
    let r := replyOf s m
    let p := at_ m.payload 0 1
    let l := (getPart s p).ledger
    let cur := l.next.getD (l.pmode, l.allow, l.resv, l.aging)
    let held (o n c : Nat) : Nat := if at_ m.payload o n = 256 ^ n - 1 then c else at_ m.payload o n
    (Begins (cmdLedgerSet m) m s →
      (hasPart s p = false → exec (.ledgerSet m) s = .next (complete u r stBadArgument [])) ∧
      (hasPart s p = true → exec (.ledgerSet m) s = .next (complete (modPart u p fun q => { q with ledger := { q.ledger with
        next := some (BitVec.ofNat 2 (held 1 1 cur.1.toNat), held 4 4 cur.2.1, held 8 4 cur.2.2.1, held 12 2 cur.2.2.2) } }) r stOk []))) ∧
    (Begins (cmdLedgerRead m) m s →
      let live := s.tickets.filter fun t => (partsOfJob s t.2.sub.job).contains p && decide (now s < t.2.last.toNat + 10000000000)
      (hasPart s p = false → exec (.ledgerRead m) s = .next (complete (started true m s) r stBadArgument [])) ∧
      (hasPart s p = true → exec (.ledgerRead m) s = .next (complete (started true m s) r stOk
        (leBytes 8 l.total ++ leBytes 4 l.last ++ leBytes 4 (allowOf s p) ++
          leBytes 2 (activeReqs s fun x => (partsOfJob s x.sub.job).contains p).length ++ leBytes 2 live.length)))) ∧
    (Begins (cmdForecast m) m s →
      let w (o : Nat) := BitVec.ofNat 32 (at_ m.payload o 4)
      exec (.forecast m) s = .next (complete { u with ledger := { u.ledger with f1 := w 0, f10 := w 4, f60 := w 8, fAt := some s.tally } } r stOk []))

/-- TWIN_ATTACH is refused for its own number, a partner whose identity fails or maps that differ; otherwise the attach is pending under
the pair key, derived from the shared secret and the transcript (log 149), and the role takes effect at a step boundary once the copy is
acknowledged, or is complete at the Shadow and the Primary's BEAT heard. TWIN_DETACH makes the panel Solo, TWIN_TAKEOVER allows the
takeover. The measurements are recomputed 100 ms after the last write, on either panel of a pair, and unequal twins part; a recalibration
slice of a channel that they read is waited for. JOB_FORM refuses what it cannot place (a Shadow may stand in for its Primary) and
otherwise holds the descriptor, its EPOCH rising when members change; a shrunk job that a lost panel is still missing from waits for new
maps further on; JOB_DISSOLVE drops an idle job. A waiting attach is answered ABORTED by a detach, and the attach takes effect between
steps or at one just begun: the model's choices (logs 46, 47). (R239, R280, R281, R282, R287, R290, R291, R292, R425, R438) -/
def Obligations.TwinAndJobCommands : Prop :=
  (∀ (m : Msg) (chainOk : Bool) (theirs : List (Nat × Bytes)) (key : PairExchange) (s : State),
    let r := replyOf s m
    let u := started false m s
    let v := remeasure u
    let num := at_ m.payload 2 2
    let run := exec (.twinAttach m chainOk theirs key) s
    Begins (cmdTwinAttach m chainOk theirs key) m s →
      (∀ cl, measureHeld u 16 = some cl → run = .next (withReports s (holdAt u cl (.twinAttach m chainOk theirs key r)))) ∧
      (measureHeld u 16 = none →
        (num = s.sys.panel → run = .next (withReports s (complete v r stBadArgument []))) ∧
        (num ≠ s.sys.panel → chainOk = false → run = .next (withReports s (complete v r stAuthFail []))) ∧
        (num ≠ s.sys.panel → chainOk = true → theirs ≠ mapMeasures v → run = .next (withReports s (complete v r stModeConflict []))) ∧
        (num ≠ s.sys.panel → chainOk = true → theirs = mapMeasures v → ∃ t, run = .next t ∧ t.twin.role = s.twin.role ∧
          t.twin.pending = some (if at_ m.payload 0 1 = 1 then .primary else .shadow) ∧ t.twin.partner = num ∧ t.twin.reply = some r ∧
          t.twin.pairKey = kmac256 key.ss (sha3_256 (key.ek ++ key.ct)) (ascii "GP144-TWIN") 32 ∧ t.twin.lastHeard = s.tally ∧
          t.twin.silent = false ∧ t.twin.beaten = false ∧ t.twin.records = [] ∧ t.twin.lines = [] ∧
          (at_ m.payload 0 1 = 1 → t.twin.copy = t.twin.unacked.map (·.seq))))) ∧
  (∀ (s : State) (role : TwinRole), s.twin.pending = some role →
    let copied : Prop := (role = .primary → ∀ u ∈ s.twin.unacked, u.seq ∉ s.twin.copy) ∧
      (role ≠ .primary → s.twin.beaten = true ∧ s.twin.lines = [])
    (¬ (copied ∧ atBoundary s = true) → exec .twinAttached s = .next s) ∧
    (copied → atBoundary s = true → ∃ t, exec .twinAttached s = .next t ∧ t.twin.role = role ∧ t.twin.attached = true ∧ t.twin.pending = none ∧
      t.twin.reply = none)) ∧
  (∀ (m : Msg) (s : State),
    let u := started false m s
    let r := replyOf s m
    (Begins (cmdTwinDetach m) m s →
      (twinOn s = false → exec (.twinDetach m) s = .next (complete u r stOk [])) ∧
      (twinOn s = true → ∃ t, exec (.twinDetach m) s = .next t ∧ t.twin.role = .solo ∧ t.twin.pending = none ∧ t.twin.attached = false ∧
        t.twin.pairKey = [] ∧ t.twin.records = [] ∧ t.twin.reply = none)) ∧
    (Begins (cmdTwinTakeover m) m s → exec (.twinTakeover m) s = .next (withReports s (complete { u with twin := { u.twin with takeover := true } } r
      stOk [])))) ∧
  (∀ (p : Nat) (theirs : Bytes) (s : State),
    let t := modPart (remeasure s) p fun q => { q with lastWrite := none }
    let run := exec (.measurementRecompute p theirs) s
    (getPart (measure s p) p).mapMeas = (measureMap s p).2 ∧
    ((getPart s p).lastWrite = none → s.twin.attached = false → run = .next s) ∧
    (∀ w, (getPart s p).lastWrite = some w → now s < w.toNat + 100000000 → run = .next s) ∧
    (((getPart s p).lastWrite = none ∧ s.twin.attached = true) ∨ (∃ w, (getPart s p).lastWrite = some w ∧ w.toNat + 100000000 ≤ now s) →
      (∀ cl, measureHeld s p = some cl → run = .next (withReports s (holdAt s cl (.measure p theirs)))) ∧
      (measureHeld s p = none → t.twin.attached = false ∨ theirs = panelMeas t → run = .next (withReports s t)) ∧
      (measureHeld s p = none → t.twin.attached = true → theirs ≠ panelMeas t → run = .next (withReports s (twinEvent (becomeSolo t) 1))))) ∧
  ∀ (m : Msg) (s : State),
    let u := started false m s
    let r := replyOf s m
    (Begins (cmdJobForm m) m s →
      let ps := bitsOf 16 (at_ m.payload 0 2)
      let v := at_ m.payload 8 12
      let j := v % 2 ^ 16
      let x := getJob s j
      let mem := jobMembers m
      let standby : Prop := s.twin.role = .shadow ∧ s.twin.attached = true ∧ v.testBit 59 = true ∧ s.twin.partner ∈ mem
      let placed : Prop := ps.all (hasPart s) = true ∧ (s.sys.panel ∈ mem ∨ standby) ∧ ps.all (fun p => !inFormedJob s p || jobOfPart s p = j) = true
      (¬ placed → exec (.jobForm m) s = .next (complete u r stBadArgument [])) ∧
      (placed → aligned s = false → exec (.jobForm m) s = .next (complete u r stRefusedPolicy [])) ∧
      (placed → aligned s = true → jobHeldUp s j ps = true → exec (.jobForm m) s = .next (complete u r stModeConflict [])) ∧
      (placed → aligned s = true → jobHeldUp s j ps = false → (x.formed = false ∨ (x.lostAt = none ∧ x.shrunk = false)) → ∃ t, exec (.jobForm m) s = .next t ∧
        (let y := getJob t j
         y.formed = true ∧ y.parts = ps ∧ y.members = mem ∧ y.lead = mem.headD 0 ∧ y.subst = v.testBit 59 ∧ y.xtmo = v / 2 ^ 64 % 2 ^ 10 ∧
         y.rejoin = v / 2 ^ 80 % 2 ^ 8 ∧ y.lost = [] ∧
         y.epoch = (if x.formed = true then (if x.members = mem then x.epoch else x.epoch + 1) else 0)) ∧
        ∀ k, k ≠ j → getJob t k = getJob s k) ∧
      (placed → aligned s = true → jobHeldUp s j ps = false → x.formed = true → x.shrunk = true → (∃ l ∈ x.lost, l ∉ mem) →
        ∃ t, exec (.jobForm m) s = .next t ∧ (getJob t j).members = mem ∧ (getJob t j).lost = x.lost ∧ (getJob t j).lostAt = x.lostAt ∧
          (getJob t j).shrunk = true ∧ ∀ k, k ≠ j → getJob t k = getJob s k)) ∧
    (Begins (cmdJobDissolve m) m s →
      let j := at_ m.payload 0 2
      ((getJob s j).formed = false → exec (.jobDissolve m) s = .next (complete u r stBadArgument [])) ∧
      ((getJob s j).formed = true → activeReqs s (fun x => x.sub.job = j) ≠ [] → exec (.jobDissolve m) s = .next (complete u r stModeConflict [])) ∧
      ((getJob s j).formed = true → activeReqs s (fun x => x.sub.job = j) = [] → ∃ t, exec (.jobDissolve m) s = .next t ∧
        Tbl.has t.jobs j = false ∧ t.requests = s.requests ∧ t.parts = s.parts))

/-- DIAG_READ answers the bytes of the block named, a DRAM line as a demand read that waits through a recalibration slice, FENCED for a
channel that is out or a lost hub. LINK_RETRAIN and DRAM_RECAL name a lane or start eight slices and complete when these end. GUEST_MODE
changes the mode, to Trusted only through a fresh attestation; GUEST_RULE writes a rule inside its target that overlaps no other;
GUEST_RETURN brings a fenced site back. A recalibration under way is joined, and a lane that has left service is BAD_ARGUMENT: the model's
choices (logs 64, 65). (R192, R199, R262, R268, R269, R271, R272, R273, R330, R460) -/
def Obligations.LinkGuestCommands : Prop :=
  (∀ (m : Msg) (a : ArrayRead) (s : State),
    let u := started true m s
    let r := replyOf s m
    let unit := at_ m.payload 0 1
    let site := at_ m.payload 1 1
    let off := at_ m.payload 4 4
    let cl := 64 * site + at_ m.payload 2 1
    let run := exec (.diagRead m a) s
    Begins (cmdDiagRead m a) m s →
      (unit = 5 → channelServes s cl = false → run = .next (complete u r stFenced [])) ∧
      (unit = 5 → channelServes s cl = true → (getClu s cl).inSlice = true → run = .next (withReports s (holdAt u cl (.diagRead m a r)))) ∧
      (∀ t v, unit = 5 → channelServes s cl = true → (getClu s cl).inSlice = false → demandRead u cl (off / 64) a = (t, some v) →
        run = .next (withReports s (complete t r stOk (leBytes 64 v.toNat)))) ∧
      (∀ t, unit = 5 → channelServes s cl = true → (getClu s cl).inSlice = false → demandRead u cl (off / 64) a = (t, none) →
        run = .next (withReports s (complete t r stEcc []))) ∧
      (unit = 0 → hubUp s site = false → run = .next (complete u r stFenced [])) ∧
      (∀ b ok, unit ≠ 5 → (unit = 0 → hubUp s site = true) →
        diagBytes u unit site (at_ m.payload 2 1) (at_ m.payload 3 1) off (at_ m.payload 8 2) = (b, ok) →
          run = .next (complete u r (if ok then stOk else stEcc) b))) ∧
  (∀ (m : Msg) (s : State),
    let u := started false m s
    let r := replyOf s m
    (Begins (cmdLinkRetrain m) m s →
      (at_ m.payload 0 1 = 2 → exec (.linkRetrain m) s = .next (complete (modGuest u (at_ m.payload 1 1) fun g => { g with retrains := 0 }) r stOk [])) ∧
      (at_ m.payload 0 1 ≠ 2 → laneThere s m = false → exec (.linkRetrain m) s = .next (complete u r stBadArgument [])) ∧
      (at_ m.payload 0 1 ≠ 2 → laneThere s m = true → ∃ t, exec (.linkRetrain m) s = .next t ∧ t.emitted = s.emitted ∧
        (let x := linkOf t (laneRef m)
         x.replies = (linkOf s (laneRef m)).replies ++ [(at_ m.payload 4 2, r)] ∧
         ((linkOf s (laneRef m)).sound (at_ m.payload 4 2) = true → at_ m.payload 4 2 ∈ x.due)))) ∧
    (Begins (cmdDramRecal m) m s →
      let cl := 64 * at_ m.payload 0 1 + at_ m.payload 1 1
      exec (.dramRecal m) s = .next (modClu u cl fun x => { x with
        slicesLeft := if x.slicesLeft = 0 then 8 else x.slicesLeft, recalReply := x.recalReply ++ [r] }))) ∧
  (∀ (m : Msg) (nonce : BitVec 64) (s : State),
    let u := started false m s
    let r := replyOf s m
    let site := at_ m.payload 0 1
    let g := getGuest s site
    (Begins (cmdGuestMode m nonce) m s →
      let want := at_ m.payload 1 1
      (at_ m.payload 1 1 = 255 → exec (.guestMode m nonce) s = .next (complete u r stOk [])) ∧
      (at_ m.payload 1 1 = 2 → exec (.guestMode m nonce) s =
        .next (sendAttq (modGuest u site fun g => { g with want := some (2, false, r) }) site nonce)) ∧
      (at_ m.payload 1 1 ≠ 255 → at_ m.payload 1 1 ≠ 2 → ∃ t, exec (.guestMode m nonce) s = .next t ∧ (getGuest t site).mode.toNat = want ∧
        (want = 1 → (getGuest t site).rules.all (fun x => ruleFld x.2 1 2 = 0) = true) ∧ (want = 0 → (getGuest t site).rules = g.rules))) ∧
    (Begins (cmdGuestReturn m nonce) m s →
      (g.powerCut = true → exec (.guestReturn m nonce) s =
        .next (modGuest u site fun g => { g with powerCut := false, retrains := 0, want := some (g.mode.toNat, true, r) })) ∧
      (g.powerCut = false → g.ready = false → exec (.guestReturn m nonce) s = .next (complete u r stModeConflict [])) ∧
      (g.powerCut = false → g.ready = true →
        (g.fenced = false → exec (.guestReturn m nonce) s = .next (complete (sendAttq u site nonce) r stOk [])) ∧
        (g.fenced = true → g.mode = 2 → exec (.guestReturn m nonce) s =
          .next (sendAttq (modGuest u site fun g => { g with want := some (2, true, r) }) site nonce)) ∧
        (g.fenced = true → g.mode ≠ 2 → exec (.guestReturn m nonce) s =
          .next (complete (sendNotice (sendAttq (modGuest u site fun g => { g with fenced := false }) site nonce) site 2) r stOk []))))) ∧
  ∀ (m : Msg) (s : State),
    let u := started false m s
    let r := replyOf s m
    let site := at_ m.payload 0 1
    let i := at_ m.payload 1 1
    let v : BitVec 128 := BitVec.ofNat 128 (at_ m.payload 16 16)
    let inside : Prop := ruleLines v ≤ targetLines s v ∧ ∀ k w, Tbl.find (getGuest s site).rules k = some w → k ≠ i → rulesOverlap w v = false
    Begins (cmdGuestRule m) m s → ((getGuest s site).rules.map (·.1)).Nodup →
      (ruleValid v = false → exec (.guestRule m) s = .next (complete (modGuest u site fun g => { g with rules := Tbl.drop g.rules i }) r stOk [])) ∧
      (ruleValid v = true → ¬ inside → exec (.guestRule m) s = .next (complete u r stBadArgument [])) ∧
      (ruleValid v = true → inside → exec (.guestRule m) s = .next (complete (modGuest u site fun g =>
        { g with rules := Tbl.put g.rules i (v ||| BitVec.ofNat 128 (2 ^ 12 * m.sess.toNat)) }) r stOk []))

/-- IMG_STAGE keeps the bytes that fit. IMG_ACTIVATE refuses an image that a check of R430 fails; firmware is refused with MODE_CONFLICT
while the other hub is out, an activation runs or a takeover is on, and is else written or, where a bank holds it, restarted; a loader
image needs a drained partition and room, is in force at once where the store holds it and is else written. The write's end writes
BANK_SEL or the image's index record, and once both flash dies hold it the hub restarts or the image is in force. A hub that rejoins in
400 ms completes the activation; one that does not boots its previous bank, and the completion waits for the record; with both hubs out
neither happens. The room to stage is the model's choice (log 66). (R417, R424, R429, R430, R431, R432) -/
def Obligations.ImageCommands : Prop :=
  (∀ (m : Msg) (s : State),
    let u := started false m s
    let r := replyOf s m
    let t := at_ m.payload 1 1
    let n := m.payload.length - 8
    let off := at_ m.payload 4 4
    Begins (cmdImgStage m) m s →
      ((stageRoom < off + n ∨ (at_ m.payload 0 1 ≠ 0 ∧ hasPart s t = false)) → exec (.imgStage m) s = .next (complete u r stBadArgument [])) ∧
      (off + n ≤ stageRoom → at_ m.payload 0 1 = 0 → ∃ v, exec (.imgStage m) s = .next v ∧
        (∀ i, i < n → Tbl.find v.hubStage (stageRoom * t + off + i) = some (m.payload.getD (8 + i) 0)) ∧
        ∀ o, (∀ i, i < n → o ≠ stageRoom * t + off + i) → Tbl.find v.hubStage o = Tbl.find s.hubStage o) ∧
      (off + n ≤ stageRoom → at_ m.payload 0 1 ≠ 0 → hasPart s t = true → ∃ v, exec (.imgStage m) s = .next v ∧
        (∀ i, i < n → Tbl.find (getPart v t).imgStage (off + i) = some (m.payload.getD (8 + i) 0)) ∧
        ∀ o, (∀ i, i < n → o ≠ off + i) → Tbl.find (getPart v t).imgStage o = Tbl.find (getPart s t).imgStage o)) ∧
  (∀ (m : Msg) (ok : Bool) (s : State),
    let u := started false m s
    let r := replyOf s m
    let kind := at_ m.payload 0 1
    let t := at_ m.payload 1 1
    let b := stagedImage s kind t (at_ m.payload 4 4)
    let digest := sub_ m.payload 8 32
    let run := exec (.imgActivate m ok) s
    Begins (cmdImgActivate m ok) m s →
      (∀ st, imageCheck s kind t b digest ok = some st → run = .next (complete u r st [])) ∧
      (imageCheck s kind t b digest ok = none → kind = 0 →
        let held : Prop := hubUp s (1 - t) = false ∨ s.fwUpdate ≠ none ∨ s.twin.takeover = true ∨ mayTakeOver s = true
        (held → run = .next (complete u r stModeConflict [])) ∧
        (¬ held → bankHolding s digest = none →
          let n := 1 - (getHub s (1 - t)).bank % 2
          run = .next (withReports s { u with
            fwUpdate := some (FwUpdate.mk t n b true r)
            vault := { s.vault with banks := Tbl.drop s.vault.banks n, bankVer := Tbl.drop s.vault.bankVer n } })) ∧
        (∀ n, ¬ held → bankHolding s digest = some n → run = .next (withReports s (restartHub u (FwUpdate.mk t n b false r))))) ∧
      (imageCheck s kind t b digest ok = none → kind ≠ 0 →
        let drained : Prop := (getPart s t).drained = true ∧ drainedNow u t = true
        let stored : Prop := s.vault.loaders.any (fun x => x.2 = b) = true
        let full : Prop := stageRoom < s.vault.loaderUsed + sumNat (s.loaderWrites.map fun w => storeSize w.image) + storeSize b
        (hasPart s t = false → run = .next (complete u r stBadArgument [])) ∧
        (hasPart s t = true → ¬ drained → run = .next (complete u r stModeConflict [])) ∧
        (hasPart s t = true → drained → stored → run = .next (withReports s (loaderActive u (LoaderWrite.mk t b r)))) ∧
        (hasPart s t = true → drained → ¬ stored → full → run = .next (complete u r stRefusedCapacity [])) ∧
        (hasPart s t = true → drained → ¬ stored → ¬ full → run = .next { u with loaderWrites := s.loaderWrites ++ [LoaderWrite.mk t b r] }))) ∧
  (∀ (s : State) (f : FwUpdate), let t := restartHub s f
    t.fwUpdate = some { f with write := false } ∧ t.hub0 = s.hub0 ∧ t.hub1 = s.hub1 ∧
    ∃ w, t.vault.writing = s.vault.writing ++ [w] ∧ w.acts = [.restart f] ∧ w.record.type = 0x11 ∧
      w.record.body = (if f.hub = 0 then leBytes 1 f.bank ++ leBytes 1 s.hub1.bank else leBytes 1 s.hub0.bank ++ leBytes 1 f.bank)) ∧
  (∀ (s : State) (f : FwUpdate), f.hub < 2 → hubUp s f.hub = true → let x := getHub (restartNow s f) f.hub
    x.bank = f.bank ∧ x.prevBank = (getHub s f.hub).bank ∧ x.rejoinBy = some (s.tally + 400000000) ∧ x.up = false) ∧
  (∀ (k : Nat) (s : State) (f : FwUpdate), k < 2 → s.fwUpdate = some f → f.hub = k →
    (f.write = true → exec (.imageWriteComplete k) s =
      .next (withReports s (restartHub { s with vault := { s.vault with banks := Tbl.put s.vault.banks f.bank f.image } } f))) ∧
    (∀ ver, (getHub s k).rejoinBy = none → exec (.hubRejoin k ver) s = .next s ∧ exec (.hubRejoinTimeout k) s = .next s) ∧
    (s.boot.hubsLost = true → ∀ ver, f.write = false → exec (.hubRejoin k ver) s = .next s ∧ exec (.hubRejoinTimeout k) s = .next s) ∧
    (f.write = false → s.boot.hubsLost = false → ∀ ver, ∀ by_, (getHub s k).rejoinBy = some by_ →
      (s.tally ≤ by_ → exec (.hubRejoinTimeout k) s = .next s ∧ ∃ t, exec (.hubRejoin k ver) s = .next t ∧ t.fwUpdate = none ∧
        (getHub t k).up = true ∧ (getHub t k).fwver = ver ∧ (getHub t k).fwMeas = sha3_256 f.image ∧ (getHub t k).fellBack = false ∧
        (getHub t k).rejoinBy = none) ∧
      (by_ < s.tally → exec (.hubRejoin k ver) s = .next s ∧ ∃ t, exec (.hubRejoinTimeout k) s = .next t ∧ t.fwUpdate = none ∧
        (getHub t k).up = true ∧ (getHub t k).bank = (getHub s k).prevBank ∧ (getHub t k).fellBack = true ∧
        ∃ w, t.vault.writing = s.vault.writing ++ [w] ∧ w.acts = [.answer f.reply stImgFallback] ∧ w.record.type = 0x11))) ∧
  ∀ (p : Nat) (s : State) (w : LoaderWrite), s.loaderWrites.find? (fun w => w.part = p) = some w →
    exec (.imageWriteComplete (2 + p)) s = .next (withReports s (compactLoaders
      (afterWrites (storeImage { s with loaderWrites := s.loaderWrites.erase w } w.image) (.loader w))))

/-- A domain that names no core or partition is BAD_ARGUMENT. FENCE of a context or engine goes to the core's cluster and completes when
it acknowledges; of a partition or the panel it completes when no step is in flight, or at its timeout. UNFENCE of a partition restores
service unless it lacks a die or its reset has not ended. RESET walks the rung of the domain. A RESET of a partition or the panel fences
it first, with the timeout of FENCE. HALF_SET empties a half, which leaves service with the epoch change that follows, or begins its
return; RETURN clears the latch after a power cycle and completes when its record is held. A RESET of a context is a fence that stays, and
UNFENCE of a partition that cannot return answers FENCED: the model's choices (logs 58, 60). (R395, R397, R399, R400, R406, R412, R438,
R449) -/
def Obligations.DomainCommands : Prop :=
  (∀ (m : Msg) (s : State),
    let u := started false m s
    let r := replyOf s m
    let dom := at_ m.payload 0 1
    let p := at_ m.payload 1 1
    let n := at_ m.payload 8 1
    (Begins (cmdFence m) m s →
      (dom ≤ 1 → domainCore s m = none → exec (.fence m) s = .next (complete u r stBadArgument [])) ∧
      (∀ k, dom ≤ 1 → domainCore s m = some k → ∃ t, exec (.fence m) s = .next t ∧
        t.fenceWaits = s.fenceWaits ++ [FenceWait.mk (clusterOf k) (if dom = 0 then 4 * 2 ^ n + 256 * posOf k else 1 + 64 * n + 256 * posOf k) r] ∧
        t.emitted.length = s.emitted.length + 1 ∧ (dom = 0 → (getCore t k).hostFenced = (getCore s k).hostFenced ||| BitVec.ofNat 4 (2 ^ n)) ∧
        (dom = 1 → ((getCore t k).eng n).hung = true)) ∧
      (dom = 2 → hasPart s p = false → exec (.fence m) s = .next (complete u r stBadArgument [])) ∧
      (dom = 2 → hasPart s p = true → exec (.fence m) s = .next (endIdleFence (hostFencePart u p (fenceMs m) (some r)) p)) ∧
      (dom = 3 → s.parts = [] → exec (.fence m) s = .next (complete u r stOk [])) ∧
      (dom = 3 → s.parts ≠ [] →
        let ps := (s.parts.filter fun q => !q.2.fenced).map (·.1)
        exec (.fence m) s = .next (ps.foldl endIdleFence (ps.foldl (fun v q => hostFencePart v q (fenceMs m) none) { u with panelFence := some r })))) ∧
    (Begins (cmdUnfence m) m s →
      (dom ≤ 1 → domainCore s m = none → exec (.unfence m) s = .next (complete u r stBadArgument [])) ∧
      (∀ k, dom ≤ 1 → domainCore s m = some k → ∃ t, exec (.unfence m) s = .next t ∧
        t.fenceWaits = s.fenceWaits ++
          [FenceWait.mk (clusterOf k) ((if dom = 0 then 4 * 2 ^ n + 256 * posOf k else 1 + 64 * n + 256 * posOf k) + 2 ^ 14) r] ∧
        (dom = 0 → (getCore t k).hostFenced = (getCore s k).hostFenced &&& ~~~ BitVec.ofNat 4 (2 ^ n))) ∧
      (dom = 2 → hasPart s p = false → exec (.unfence m) s = .next (complete u r stBadArgument [])) ∧
      (dom = 2 → hasPart s p = true → mayUnfence (getPart s p) = false → exec (.unfence m) s = .next (complete u r stFenced [])) ∧
      (dom = 2 → hasPart s p = true → mayUnfence (getPart s p) = true → exec (.unfence m) s = .next (complete (unfenceService u p) r stOk [])) ∧
      (dom = 3 → exec (.unfence m) s = .next (complete
        (((s.parts.filter fun q => q.2.fenced && mayUnfence q.2).map (·.1)).foldl unfenceService u) r stOk []))) ∧
    (Begins (cmdReset m) m s →
      (dom ≤ 1 → domainCore s m = none → exec (.reset m) s = .next (complete u r stBadArgument [])) ∧
      (∀ k, dom = 0 → domainCore s m = some k → exec (.reset m) s = .next (withReports s (hostFenceCtx u k n r))) ∧
      (∀ k q, dom = 1 → domainCore s m = some k → partOfCore s k = some q → exec (.reset m) s = .next (withReports s (resetEngineRun u k n r))) ∧
      (dom = 2 → hasPart s p = false → exec (.reset m) s = .next (complete u r stBadArgument [])) ∧
      (dom = 2 → hasPart s p = true → exec (.reset m) s = .next (withReports s (resetPartRun u p (fenceMs m) r))) ∧
      (dom = 3 → exec (.reset m) s = .next (withReports s (resetPanelRun u (fenceMs m) r))))) ∧
  ∀ (m : Msg) (s : State),
    let u := started false m s
    let r := replyOf s m
    let h := at_ m.payload 0 1
    (Begins (cmdHalfSet m) m s →
      (at_ m.payload 1 1 = 0 → (getHalf s h).inService = true → (getHalf s h).leaving = false → exec (.halfSet m) s =
        .next (withReports s (complete (emptyHalf (modHalf u h fun x => { x with leaving := true }) h) r stOk []))) ∧
      (at_ m.payload 1 1 = 0 → (getHalf s h).inService = false ∨ (getHalf s h).leaving = true →
        exec (.halfSet m) s = .next (complete u r stOk [])) ∧
      (at_ m.payload 1 1 = 1 → (getHalf s h).inService = true → exec (.halfSet m) s = .next (complete u r stOk [])) ∧
      (at_ m.payload 1 1 = 1 → (getHalf s h).inService = false →
        exec (.halfSet m) s = .next { u with boot := { u.boot with half := some (h, r), halfPhase := 6 } })) ∧
    (Begins (cmdReturn m) m s →
      ((s.state ≠ .safe ∨ s.boot.powerCycled = false) → exec (.return_ m) s = .next (complete u r stModeConflict [])) ∧
      (s.state = .safe → s.boot.powerCycled = true → ∃ t, exec (.return_ m) s = .next t ∧ t.state = .serving ∧ t.safeCause = 0 ∧
        t.vault.latch = false ∧ t.vault.latchCause = 0 ∧ t.resets.times = [] ∧ t.boot.powerCycled = false ∧ t.parts = s.parts ∧
        ∃ w, t.vault.writing = s.vault.writing ++ [w] ∧ w.acts = [.answer r stOk] ∧ w.record.type = 0x12))

/-- XPUT_REQ over an outbound window is answered with XGRANT, or waits for room in the resend buffer, and a granted line leaves as a PUT
frame; XGET_REQ makes the core grant a tag and one GET frame leave for each line. A PUT or GET at its inbound window is refused as R178
says, waits in a recalibration slice, or is done in the channel, and its bytes alone change. The answer settles the line: COMMIT for a
put, a tagged packet for a get, COUNT_ONLY for a refusal or after 200 µs. A frame that fails its FEC or CRC, of a reserved type or to a
panel that is not configured is dropped and counted; one for another panel goes over the mesh to the die of its next direction and on. The
transfer that a line belongs to is an operand (log 108), and so is the tag of a frame in transit the model's choice (log 119). (R178,
R180, R212, R273, R275, R276, R277, R278) -/
def Obligations.OpticalTransfers : Prop :=
  (∀ (oe q : Nat) (p : CtrlPacket) (s : State),
    let b := p.body.toNat
    let w := getWindow s q (field b 0 8)
    let lines := field b 28 10 + 1
    let tag := (getOe s oe).nextTag.toNat
    let near := opticalNear oe p.sx.toNat p.sy.toNat
    let k := coreAt p.sx.toNat p.sy.toNat
    let grant := Grant.mk (getCore s k).nextTag (field b 38 10) lines (field b 48 4) p.sx p.sy lines
    let opened (y : OptXfer) : Prop := y.dst = w.fld 0 10 ∧ y.dpart = w.fld 12 4 ∧ y.win = w.fld 16 8 ∧ y.gen = w.farGen ∧
      y.first = field b 8 20 ∧ y.lines = lines ∧ y.left = List.range lines ∧ y.part = q ∧ y.cnt = field b 48 4 ∧ y.x = p.sx ∧ y.y = p.sy
    oeServes s oe = true → partOfCore s k = some q → w.outbound = true → w.target = false →
      (p.ctype = 0x10 → resendFull s oe = false → ∃ t y, exec (.xputReq oe p) s = .next t ∧
        t = { s with optDies := t.optDies, emitted := s.emitted ++
          [.ctrl (mkCtrl s 0x12 near.2.1 near.2.2 p.sx.toNat p.sy.toNat (tag + 2 ^ 26 * lines))] } ∧
        Tbl.find (getOe t oe).xfers tag = some y ∧ opened y ∧ y.granted = true ∧ y.get = false) ∧
      (p.ctype = 0x10 → resendFull s oe = true → ∃ t y, exec (.xputReq oe p) s = .next t ∧ t = { s with optDies := t.optDies } ∧
        Tbl.find (getOe t oe).xfers tag = some y ∧ opened y ∧ y.granted = false ∧ y.get = false) ∧
      (p.ctype = 0x11 → s.state = .serving → ∃ t y, exec (.xgetReq oe p) s = .next t ∧ t.emitted.length = s.emitted.length + lines ∧
        getCore t k = { getCore s k with nextTag := (getCore s k).nextTag + 1, grants := (getCore s k).grants ++ [grant] } ∧
        Tbl.find (getOe t oe).xfers tag = some y ∧ opened y ∧ y.coreTag = (getCore s k).nextTag ∧ y.granted = true ∧ y.get = true)) ∧
  (∀ (p : DataPacket) (s : State) (dx dy : BitVec 10) (tag : BitVec 16) (seq : BitVec 10) (leg : BitVec 4) (oe : Nat),
    p.hdr = .tagged 1 dx dy tag seq leg → oeAt dx.toNat dy.toNat = some oe →
      (∀ x, Tbl.find (getOe s oe).transit tag.toNat = none → Tbl.find (getOe s oe).xfers tag.toNat = some x → x.get = false →
        x.granted = true → seq.toNat ∈ x.left → s.state = .serving → ∃ t f, exec (.taggedLineArrival p) s = .next t ∧
          t.emitted = s.emitted ++ [.frame oe f] ∧ f.otype = 0 ∧ f.payload = p.payload ∧ f.line = BitVec.ofNat 20 (x.first + seq.toNat) ∧
          f.gen = x.gen) ∧
      (∀ f, Tbl.find (getOe s oe).transit tag.toNat = some f → panelFenced s = false → ∃ t, exec (.taggedLineArrival p) s = .next t ∧
        t.emitted = s.emitted ++ [.frame oe { f with payload := p.payload }] ∧ Tbl.find (getOe t oe).transit tag.toNat = none)) ∧
  (∀ (oe first lines : Nat) (f : OptFrame) (r : ArrayRead) (s : State),
    let u := delivered f s
    let q := f.dpart.toNat
    let w := f.win.toNat
    let check (write : Bool) (off n : Nat) :=
      inboundRefusal u q w (some f.gen) (.panel f.src.toNat f.spart.toNat) write (64 * off) (64 * n)
    let cl := (windowLine u q w f.line.toNat).1
    let line := (windowLine u q w f.line.toNat).2
    let runs (write : Bool) (t : State) : Prop :=
      exec (if write then .putLine oe { frame := f, first := first, lines := lines } else .getRequest oe { frame := f, first := first, lines := lines } r) s = .next (withReports s t)
    let passes (write : Bool) : Prop := oeServes s oe = true ∧ Delivered (if write then 0 else 1) f s ∧ check write first lines = none ∧
      check write f.line.toNat 1 = none
    (∀ write, oeServes s oe = true → Delivered (if write then 0 else 1) f s →
      (∀ st, check write first lines = some st → runs write (sendDone u oe f st)) ∧
      (∀ st, check write first lines = none → check write f.line.toNat 1 = some st → runs write (sendDone u oe f st))) ∧
    (∀ write, passes write → channelServes u cl = false → runs write u) ∧
    (∀ write, passes write → channelServes u cl = true → (getClu u cl).fenced = true → runs write (sendDone u oe f stFenced)) ∧
    (∀ write, passes write → channelServes u cl = true → (getClu u cl).fenced = false → (getClu u cl).inSlice = true →
      runs write (holdAt u cl (.far oe f first lines write (if write then cleanRead else r)))) ∧
    (passes true → channelServes u cl = true → (getClu u cl).fenced = false → (getClu u cl).inSlice = false → Memory.wf s.mem = true →
      ∃ t, exec (.putLine oe { frame := f, first := first, lines := lines }) s = .next t ∧
        (∀ b, b < 64 → (Mem.read t.mem (dramAddr cl (64 * line) + b)).toNat = f.payload.toNat / 256 ^ b % 256) ∧
        ∀ a, (∀ b, b < 64 → a ≠ dramAddr cl (64 * line) + b) → Mem.read t.mem a = Mem.read s.mem a) ∧
    (passes false → channelServes u cl = true → (getClu u cl).fenced = false → (getClu u cl).inSlice = false →
      (∀ v, (demandRead u cl line r).2 = some v → runs false (sendFrame (demandRead u cl line r).1 (exitFrom (demandRead u cl line r).1 oe f.src.toNat) (answerFrame (demandRead u cl line r).1 2 f v))) ∧
      ((demandRead u cl line r).2 = none → runs false (sendDone (demandRead u cl line r).1 oe f stEcc)))) ∧
  (∀ (o tag : Nat) (f : OptFrame) (x : OptXfer) (s : State), OnlyFor o tag x f s → ∀ oe,
    answered (delivered f s) oe x.get f = some (o, tag, f.line.toNat - x.first, x) ∧ answered (delivered f s) oe (!x.get) f = none) ∧
  (∀ (oe o tag seq : Nat) (f : OptFrame) (x : OptXfer) (s : State),
    let u := delivered f s
    let near := opticalNear o x.x.toNat x.y.toNat
    let st : Status := f.payload.setWidth 16
    let settled (c : Instr) (e : List Emit) : Prop := ∃ t, exec c s = .next t ∧ t.emitted = s.emitted ++ e ∧ t.mem = s.mem ∧
      ∀ y, Tbl.find (getOe t o).xfers tag = some y → seq ∉ y.left
    let counts (ctype : Nat) (st : Status) : List Emit :=
      [.ctrl (mkCtrl s ctype near.2.1 near.2.2 x.x.toNat x.y.toNat (countBody x.cnt 1 st.toNat))]
    Tbl.find (getOe s o).xfers tag = some x → seq ∈ x.left →
      (Delivered 3 f s → oeServes s oe = true → answered u oe false f = some (o, tag, seq, x) →
        (st = stOk → settled (.done oe f) (counts 4 stOk)) ∧ (st ≠ stOk → settled (.done oe f) (counts 5 st))) ∧
      (Delivered 3 f s → oeServes s oe = true → answered u oe false f = none → answered u oe true f = some (o, tag, seq, x) →
        (st = stOk → exec (.done oe f) s = .next u) ∧ (st ≠ stOk → settled (.done oe f) (counts 5 st))) ∧
      (Delivered 2 f s → oeServes s oe = true → answered u oe true f = some (o, tag, seq, x) →
        settled (.getLine oe f) [.inject (coreAt near.2.1 near.2.2)
          (DataPacket.mk s.epoch.cur 0 (.tagged 3 x.x x.y x.coreTag (BitVec.ofNat 10 seq) 0) f.payload)]) ∧
      (∀ at0, Tbl.find x.at_ seq = some at0 →
        (now s < at0.toNat + 200000 → exec (.opticalLineTimeout o tag seq) s = .next s) ∧
        (at0.toNat + 200000 ≤ now s → settled (.opticalLineTimeout o tag seq) (counts 5 stTimeout)))) ∧
  ∀ (oe : Nat) (f : OptFrame) (fec : Bool) (crc : BitVec 32) (s : State),
    let sound : Prop := fec = true ∧ crc = frameCrc f
    let stray : Prop := 11 ≤ f.otype.toNat ∨ panelConfigured s f.dst.toNat = false
    let counted (t : State) : Prop := getOe t oe = { getOe s oe with discards := (getOe s oe).discards + 1 }
    oeServes s oe = true →
      (sound → ¬ stray → exec (.opticalFrameDiscard oe f fec crc) s = .next s) ∧
      (sound → stray → exec (.opticalFrameDiscard oe f fec crc) s = .next (countDropped s oe) ∧ counted (countDropped s oe)) ∧
      (¬ sound → ∃ t, exec (.opticalFrameDiscard oe f fec crc) s = .next t ∧ counted t ∧
        (16 ≤ ((Tbl.get s.optLinks oe Link.reset).discards.filter fun d => decide (now s < d.toNat + 1000000)).length →
          (Tbl.get t.optLinks oe Link.reset).due = (List.range 16).filter (Tbl.get s.optLinks oe Link.reset).sound)) ∧
      (stray → panelFenced s = false → exec (.opticalFrameTransit oe f) s = .next (countDropped s oe)) ∧
      ∀ dir, ¬ stray → panelFenced s = false → torusDir s.sys.panel f.dst.toNat = some dir →
        let x := exitFrom s oe f.dst.toNat
        ∃ t k dx dy, exec (.opticalFrameTransit oe f) s = .next t ∧ k ∈ opticalRouters oe ∧
          t.emitted = s.emitted ++ [.inject k (DataPacket.mk s.epoch.cur 0 (.tagged 1 dx dy (getOe s x).nextTag 0 0) f.payload)] ∧
          coreAt dx.toNat dy.toNat ∈ opticalRouters x ∧ Tbl.find (getOe t x).transit (getOe s x).nextTag.toNat = some f

/-- In Assured a frame whose E2E fails or whose SEQ has come before is not delivered. An ACK goes out every 1 µs or after 64 frames with
the lowest SEQ missing; an ACK in frees the frames it covers and grants what waited. A frame unacknowledged for 20 µs is sent again; after
eight sends its panel is unreachable and its line is counted, but on the twin link the frame stays. A TIME frame leaves each torus lane
every 1,024 µs; one from the neighbour toward the root steers Tally by half the difference of the two measurements, at most 100 ppm, and
gives, with the neighbour's own offset, the offset from the root. The layout of a TIME frame is the model's choice (log 26). (R278, R279,
R281, R366) -/
def Obligations.AssuredFramesAndTime : Prop :=
  (∀ (oe first lines : Nat) (f : OptFrame) (r : ArrayRead) (s : State), f.dst.toNat = s.sys.panel → s.sys.assured = true →
    (f.e2e ≠ e2eOf f ∨ (Tbl.get s.assured f.src.toNat Assured.reset).received f.seq = true) →
      (f.otype = 0 → exec (.putLine oe { frame := f, first := first, lines := lines }) s = .next s) ∧ (f.otype = 1 → exec (.getRequest oe { frame := f, first := first, lines := lines } r) s = .next s) ∧
      (f.otype = 2 → exec (.getLine oe f) s = .next s) ∧ (f.otype = 3 → exec (.done oe f) s = .next s) ∧
      (f.otype = 5 → exec (.clearUp f) s = .next s) ∧ (f.otype = 6 → exec (.clearNotice f) s = .next s) ∧ (f.otype = 7 → exec (.job f) s = .next s)) ∧
  (∀ (oe src : Nat) (s : State) (a : Assured), Tbl.find s.assured src = some a → s.state = .serving → (s.sys.assured = true ∨ 1024 ≤ src) →
      oeServes s oe = true → (dirOf oe = 6 ↔ 1024 ≤ src) →
    (a.since < 64 → now s < a.lastAck.toNat + 1000 → exec (.assuredAckDue oe src) s = .next s) ∧
    ((64 ≤ a.since ∨ a.lastAck.toNat + 1000 ≤ now s) → ∃ t f b, exec (.assuredAckDue oe src) s = .next t ∧
      t.emitted = s.emitted ++ [.frame (if 1024 ≤ src then oe else exitFrom s oe src) f] ∧ f.otype = 4 ∧ f.dst.toNat = src % 1024 ∧ f.e2e = e2eOf f ∧ f.payload.setWidth 20 = a.low ∧
      Tbl.find t.assured src = some b ∧ b.since = 0 ∧ b.lastAck = s.tally ∧ b.low = a.low ∧ b.got = a.got)) ∧
  (∀ (oe : Nat) (f : OptFrame) (s : State) (a : Assured), f.otype = 4 → f.dst.toNat = s.sys.panel → f.e2e = e2eOf f → dirOf oe ≠ 6 → oeServes s oe = true →
    Tbl.find s.assured f.src.toNat = some a →
      let sent := a.sent.filter fun x => !acked f.payload x.frame.seq
      sent.all (fun x => !missed f.payload x.frame.seq) = true → exec (.ack oe f) s =
        .next (withReports s (grantWaiting { s with assured := Tbl.put s.assured f.src.toNat { a with sent := sent, unreachable := false } }))) ∧
  (∀ (dst seq : Nat) (s : State) (a : Assured) (f : SentFrame), dst < 1024 → Tbl.find s.assured dst = some a →
    a.sent.find? (fun f => f.frame.seq.toNat = seq) = some f → s.state = .serving →
      (now s < f.sentAt.toNat + 20000 → exec (.assuredResendTimeout dst seq) s = .next s) ∧
      (f.sentAt.toNat + 20000 ≤ now s → f.sends < 8 → exec (.assuredResendTimeout dst seq) s = .next (withReports s (emit { s with
        assured := Tbl.put s.assured dst { a with sent := a.sent.map fun g =>
          if g.frame.seq = f.frame.seq then { g with sentAt := s.tally, sends := g.sends + 1 } else g } } (.frame f.oe f.frame)))) ∧
      (f.sentAt.toNat + 20000 ≤ now s → 8 ≤ f.sends → exec (.assuredResendTimeout dst seq) s = .next (withReports s (unreachable s dst f)))) ∧
  (∀ (seq : Nat) (s : State) (u : EscSent), s.twin.unacked.find? (fun u => u.seq = seq) = some u → s.state = .serving →
    (now s < u.sentAt.toNat + 20000 → exec (.assuredResendTimeout (twinKey s) seq) s = .next s) ∧
    (u.sentAt.toNat + 20000 ≤ now s → u.sends < 8 → exec (.assuredResendTimeout (twinKey s) seq) s = .next (withReports s (launchFrame s u))) ∧
    (u.sentAt.toNat + 20000 ≤ now s → 8 ≤ u.sends → ∃ t a, exec (.assuredResendTimeout (twinKey s) seq) s = .next t ∧
      t.twin = s.twin ∧ t.emitted = s.emitted ∧ Tbl.find t.assured (twinKey s) = some a ∧ a.unreachable = true)) ∧
  (∀ (oe : Nat) (f : OptFrame) (arrived : BitVec 64) (s : State), f.otype = 8 → dirOf oe ≠ 6 → oeServes s oe = true → f.src.toNat = neighbour s.sys.panel (dirOf oe) →
    let mine : BitVec 64 := arrived - f.payload.setWidth 64
    let theirs : BitVec 64 := BitVec.ofNat 64 (f.payload.toNat / 2 ^ 64)
    let off := Int.tdiv ((mine - theirs).toInt * 5) 16
    let ahead : Prop := f.payload.getLsbD 128 = true ∧ torusDir s.sys.panel s.sys.troot = some (dirOf oe)
    (¬ ahead → exec (.time oe f arrived) s = .next { s with timeMeas := Tbl.put s.timeMeas oe mine }) ∧
    (ahead → s.master.firstMap = true → ∃ t, exec (.time oe f arrived) s = .next t ∧ t.tally = s.tally ∧ t.timeMeas = Tbl.put s.timeMeas oe mine ∧
      t.master.offset = off + (BitVec.ofNat 32 (field f.payload.toNat 160 32)).toInt ∧ t.master.hasSource = true ∧ t.master.steerAt = s.tally ∧ -100000 ≤ t.master.steer ∧ t.master.steer ≤ 100000 ∧
      (0 < t.master.steer → off < 0) ∧ (t.master.steer < 0 → 0 < off))) ∧
  ∀ (oe lane : Nat) (s : State), oe < 48 → lane < 16 → dirOf oe ≠ 6 → oeServes s oe = true →
    lane ∉ (Tbl.get s.optLinks oe Link.reset).failed → s.state = .serving →
    (∀ t, Tbl.find s.timeSent (16 * oe + lane) = some t → now s < t.toNat + 1024000 → exec (.timeFrameDue oe lane) s = .next s) ∧
    ((Tbl.find s.timeSent (16 * oe + lane)).all (fun t => decide (t.toNat + 1024000 ≤ now s)) = true → ∃ t f, exec (.timeFrameDue oe lane) s = .next t ∧
      t.emitted = s.emitted ++ [.frame oe f] ∧ f.otype = 8 ∧ f.dst.toNat = neighbour s.sys.panel (dirOf oe) % 1024 ∧
      f.payload.setWidth 64 = BitVec.ofNat 64 (now s * 8 / 5) ∧ Tbl.find t.timeSent (16 * oe + lane) = some s.tally)

/-- A CLEAR_UP of the generation and epoch in force is noted by the lead, which clears when it has its own part and every member's; a
CLEAR_NOTICE from the lead clears at a waiting member; one of another epoch or generation changes nothing. XTMO after its own part the
lead declares the silent members lost, 2 × XTMO after its own a member names the lead. A JOB frame of the next epoch, or going on in this
one, loses the members it names. A member that asks to be back within REJOIN, or a Shadow in its place, is taken back by the lead, which
tells the others; after REJOIN the job is shrunk. The payload of a JOB frame is the model's choice (log 25). (R283, R284, R285, R286) -/
def Obligations.PanelsClearAndLose : Prop :=
  (∀ (f : OptFrame) (s : State),
    let u := delivered f s
    (Delivered 5 f s →
      (clearFrameOf u f = none → exec (.clearUp f) s = .next (withReports s u)) ∧
      (∀ j p ch, clearFrameOf u f = some (j, p, ch) →
        ((leads u j = false ∨ (getJob u j).memberAt f.src.toNat = none) → exec (.clearUp f) s = .next (withReports s u)) ∧
        (∀ m, leads u j = true → (getJob u j).memberAt f.src.toNat = some m → exec (.clearUp f) s = .next (withReports s (leadDecides
          (modJob u j fun x => { x with ups := Tbl.put x.ups ch (insNat m (Tbl.get x.ups ch [])) }) p ch))))) ∧
    (Delivered 6 f s →
      (clearFrameOf u f = none → exec (.clearNotice f) s = .next (withReports s u)) ∧
      (∀ j p ch, clearFrameOf u f = some (j, p, ch) →
        let x := getJob u j
        ((f.src.toNat ≠ x.panelOf x.lead ∨ Tbl.find x.upAt ch = none) → exec (.clearNotice f) s = .next (withReports s u)) ∧
        (f.src.toNat = x.panelOf x.lead → Tbl.find x.upAt ch ≠ none → exec (.clearNotice f) s =
          .next (withReports s (boundary (clearGen (modJob u j fun x => { x with upAt := Tbl.drop x.upAt ch }) p ch) j))))) ∧
    (Delivered 7 f s →
      let v := f.payload.toNat
      let j := field v 0 16
      let e : BitVec 32 := BitVec.ofNat 32 (field v 16 32)
      let m := field v 64 10
      let p := field v 80 10
      let x := getJob u j
      let lost := (framedMembers f).filter (x.members.contains ·)
      (x.formed = false → exec (.job f) s = .next (withReports s u)) ∧
      (x.formed = true → field v 48 16 ≠ 0 → (e = x.epoch + 1 ∨ e = x.epoch) → lost ≠ [] →
        exec (.job f) s = .next (withReports s (memberLost u j e lost))) ∧
      (x.formed = true → field v 48 16 = 0 → p = f.src.toNat → leads u j = true → m ∈ x.lost → x.shrunk = false → (p = m ∨ x.subst = true) →
        exec (.job f) s = .next (withReports s (leadTakesBack u j m p))) ∧
      (∀ l, x.formed = true → field v 48 16 = 0 → p ≠ f.src.toNat → p = s.sys.panel → x.memberAt f.src.toNat = some l → x.panelOf m = p →
        exec (.job f) s = .next (withReports s (memberBack u j e m p l))) ∧
      (x.formed = true → field v 48 16 = 0 → p ≠ f.src.toNat → p ≠ s.sys.panel → f.src.toNat = x.panelOf x.lead → e = x.epoch + 1 →
        m ∈ x.lost → exec (.job f) s = .next (withReports s (memberBack u j e m p x.lead))))) ∧
  ∀ (j : Nat) (s : State),
    let x := getJob s j
    let due (n : Nat) (u : Nat × Word) : Bool := decide (u.2.toNat + n * x.xtmo * 1000000 ≤ now s)
    x.formed = true →
      (leads s j = true →
        (x.upAt.all (fun u => !due 1 u) = true → exec (.crossPanelClearTimeout j) s = .next s) ∧
        (∀ ch w, x.upAt.find? (due 1) = some (ch, w) → exec (.crossPanelClearTimeout j) s =
          .next (withReports s (declareLost s j ((others s j).filter fun m => !(Tbl.get x.ups ch []).contains m))))) ∧
      (leads s j = false →
        (x.upAt.all (fun u => !due 2 u) = true → exec (.leadLossTimeout j) s = .next s) ∧
        (x.upAt.any (due 2) = true → exec (.leadLossTimeout j) s = .next (withReports s (declareLost s j [x.lead])))) ∧
      (∀ t, x.lostAt = some t → x.shrunk = false →
        (now s < t.toNat + x.rejoin * 1000000000 → exec (.rejoinTimeout j) s = .next s) ∧
        (t.toNat + x.rejoin * 1000000000 ≤ now s → exec (.rejoinTimeout j) s = .next (modJob s j fun x => { x with shrunk := true })))

/-- An ESCROW frame at a Shadow joins those that have come, and a record whose frames are all in is stored; a BEAT is noted, and one that
says the partner has been detached makes this panel Solo too (log 120). An ACK on the twin link frees the frames it covers. After 20 ms of
silence a Primary becomes Solo, an attach ends with TIMEOUT, and a Shadow reports the link once. A Shadow takes over only where R291
allows: its own requests end FENCED, the Primary's sessions and requests resume from the records, and it is Solo. How a record is cut into
frames is the model's choice (log 119). (R280, R287, R288, R290, R291, R292, R317) -/
def Obligations.TwinLink : Prop :=
  (∀ (oe : Nat) (f : OptFrame) (s : State), dirOf oe = 6 → oeServes s oe = true → TwinDelivered 9 f s →
      (s.twin.role = .shadow ∨ s.twin.pending = some .shadow) →
    let v := f.payload.toNat
    exec (.escrow oe f) s = .next (withReports s (noteTwin (twinDelivered f s) f (some f.payload))) ∧
    (s.twin.lines = [] → s.twin.nextRec = f.seq.toNat → field v 16 16 ≤ 48 →
      let r := EscrowRec.mk (field v 0 4) (BitVec.ofNat 64 (field v 64 64)) (((leBytes 64 v).drop 16).take (field v 16 16))
      ∃ t, exec (.escrow oe f) s = .next t ∧
        t.twin = { (heard s).twin with nextRec := (f.seq.toNat + 1) % 2 ^ 20, records := storeRecord s.twin.records r })) ∧
  (∀ (f : OptFrame) (s : State), TwinDelivered 10 f s →
    let u := twinDelivered f s
    let v := noteTwin { u with twin := { u.twin with lastBeat := s.tally, beaten := true } } f none
    ((f.payload.getLsbD 0 = false ∨ s.twin.takeover = true ∨ mayTakeOver v = true) → v.twin.lastBeat = s.tally ∧ v.emitted = s.emitted ∧
      exec (.beat f) s = .next (withReports s v)) ∧
    (f.payload.getLsbD 0 = true → s.twin.takeover = false → mayTakeOver v = false → exec (.beat f) s = .next (withReports s (detachHere v)))) ∧
  (∀ (oe : Nat) (f : OptFrame) (s : State), dirOf oe = 6 → oeServes s oe = true → twinOn s = true → f.src.toNat = s.twin.partner →
    (f.e2e ≠ e2eOf f ∨ (Tbl.get s.assured (twinKey s) Assured.reset).received f.seq = true) →
      (f.otype = 9 → (s.twin.role = .shadow ∨ s.twin.pending = some .shadow) → exec (.escrow oe f) s = .next (withReports s (heard s))) ∧
      (f.otype = 10 → exec (.beat f) s = .next (withReports s (heard s)))) ∧
  (∀ (oe : Nat) (f : OptFrame) (s : State), f.otype = 4 → f.dst.toNat = s.sys.panel → f.e2e = e2eOf f → dirOf oe = 6 → oeServes s oe = true →
    twinOn s = true → f.src.toNat = s.twin.partner → s.waits = [] → s.twin.held = [] →
      (Tbl.get s.assured (twinKey s) Assured.reset).unreachable = false →
      let rest := s.twin.unacked.filter fun u => !acked f.payload (BitVec.ofNat 20 u.seq)
      rest.all (fun u => u.sends ≠ 0 && !missed f.payload (BitVec.ofNat 20 u.seq)) = true →
        exec (.ack oe f) s = .next (withReports s { heard s with twin := { (heard s).twin with unacked := rest } })) ∧
  (∀ (s : State), twinOn s = true →
    (now s < s.twin.lastHeard.toNat + 20000000 → exec .twinLinkSilence s = .next s) ∧
    (s.twin.lastHeard.toNat + 20000000 ≤ now s →
      ((s.twin.role = .primary ∨ s.twin.pending = some .primary ∨ s.twin.attached = false) → ∃ t, exec .twinLinkSilence s = .next t ∧
        t.twin.role = .solo ∧ t.twin.pending = none ∧ t.twin.attached = false ∧ t.twin.unacked = []) ∧
      (s.twin.role = .shadow → s.twin.pending = none → s.twin.attached = true →
        (s.twin.silent = true → exec .twinLinkSilence s = .next s) ∧
        (s.twin.silent = false → exec .twinLinkSilence s = .next (withReports s (twinEvent { s with twin := { s.twin with silent := true } } 0)))))) ∧
  (∀ (s : State), (mayTakeOver s = false ∨ s.state = .safe ∨ s.state = .safeNoId) → exec .shadowTakeover s = .next s) ∧
  ∀ (s : State), mayTakeOver s = true → s.state = .serving → ∃ t, exec .shadowTakeover s = .next t ∧ t.twin.role = .solo ∧ t.twin.attached = false ∧
    t.twin.takeover = false ∧ t.twin.records = []

/-- A WRITE in sequence that every check passes writes its lines and is acknowledged; one refused is answered with the NAK of Table 13-4
and puts its queue pair in error; one outside Table 13-3 gets the Invalid Request NAK; one out of sequence gets a sequence NAK; a
duplicate WRITE is acknowledged again. READ answers its lines. In a recalibration slice a request waits, and those behind it. In the safe
state it is refused. An acknowledgement completes the panel's writes, a NAK resends them, a CNP halves the rate. ARP, neighbour
solicitations and echoes for the port's own addresses are answered, any other frame and one with a bad FCS is counted. Sync and Delay_Resp
of the best transmitter set the PTP relation, and a Sync draws a Delay_Req. A port that goes down moves its streams. That a port is locked
after a Delay_Resp, that a duplicate is acknowledged, that each Sync draws a Delay_Req and what an Invalid Request leaves are the model's
choices (logs 31, 70, 113, 114). (R179, R294, R295, R296, R297, R303, R304, R306, R307, R366) -/
def Obligations.EthernetPorts : Prop :=
  (∀ (q : RdmaReq) (s : State) (rs : List ArrayRead),
    let u := modQp s q.sess fun x => { x with expPsn := nextPsn q }
    let idle (t : State) := modQp t q.sess fun x => { x with behind := none }
    let win := rdmaTarget q
    let cl := (windowLine u win.1 win.2.1 (win.2.2.2.1 / 64)).1
    let put := rdmaPut u q 0 (q.lines.take (q.len / 64))
    let got := rdmaGet u q rs (q.len / 64)
    let works (read : Bool) : RdmaWork := { req := q, read := if read then some rs else none }
    let runs (read : Bool) (t : State) : Prop :=
      (read = false → exec (.rdmaWrite q) s = .next t) ∧ (read = true → exec (.rdmaRead q rs) s = .next (withReports s t))
    portAlive s q.port = true → q.ce = false → s.state = .serving →
      (∀ read, rdmaGate s q = .run → rdmaKnown s q read = false → runs read (rdmaInvalid s q)) ∧
      (∀ read l, rdmaGate s q = .run → rdmaKnown s q read = true → ((Tbl.find s.sessions q.sess).bind (·.qp)).bind (·.behind) = some l →
        runs read (modQp u q.sess fun x => { x with behind := some (l ++ [works read]) })) ∧
      (∀ read, rdmaGate s q = .run → rdmaKnown s q read = true → rdmaWaits s q.sess = false →
        (∀ st, rdmaCheck u q (!read) = some st → runs read (idle (rdmaRefuse u q st))) ∧
        (rdmaCheck u q (!read) = none → 0 < q.len → inSlice u cl = true →
          runs read (modQp (holdAt u cl (.rdma (works read))) q.sess fun x => { x with behind := some [] })) ∧
        (rdmaCheck u q (!read) = none → (q.len = 0 ∨ inSlice u cl = false) →
          (read = false → put.2 ≠ stOk → runs read (idle (rdmaRefuse put.1 q put.2))) ∧
          (read = false → put.2 = stOk → runs read (idle (emit put.1 (.rdmaAck q.sess (nextPsn q - 1) (roceHead put.1 q.sess))))) ∧
          (read = true → got.2.1 ≠ stOk → runs read (idle (rdmaRefuse got.1 q got.2.1))) ∧
          (read = true → got.2.1 = stOk → runs read (idle (emit got.1 (.rdmaData q.sess q.psn got.2.2 (roceHead got.1 q.sess))))))) ∧
      (rdmaGate s q = .repeat_ → rdmaWaits s q.sess = false →
        exec (.rdmaWrite q) s = .next (emit s (.rdmaAck q.sess (nextPsn q - 1) (roceHead s q.sess)))) ∧
      (∀ t x, rdmaGate s q = .outOfSequence → Tbl.find s.sessions q.sess = some t → t.qp = some x → ∀ read,
        runs read (modHub (emit s (.nak q.sess x.expPsn 0 (roceHead s q.sess))) q.port fun h => { h with naks := satAdd h.naks 1 })) ∧
      (∀ read, Tbl.find s.sessions q.sess = none → runs read (noteUnknown s q.port))) ∧
  (∀ (q : RdmaReq) (s : State), portAlive s q.port = true → s.state = .safe → rdmaGate s q ≠ .dropped →
    exec (.rdmaWrite q) s = .next (rdmaRefuse s q stFenced)) ∧
  (∀ (n : Nat) (s : State) (t : Session) (q : QueuePair), Tbl.find s.sessions n = some t → t.qp = some q →
    (exec (.cnp n) s = .next (modQp s n fun q => { q with rate := q.rateNow (now s) / 2, cutAt := s.tally })) ∧
    (q.error = false → portAlive s q.port = true →
      (∀ psn, exec (.roceResponse n (.ack psn) false) s = .next (roceAcked s n psn)) ∧
      (∀ psn, exec (.roceResponse n (.seqNak psn) false) s = .next (roceAgain (roceAcked s n (psn - 1)) n)) ∧
      (∀ psn, exec (.roceResponse n (.errorNak psn) false) s = .next (qpFail (roceAcked s n (psn - 1)) n)) ∧
      (∀ psn, t.byRdma = false → ∃ u v x, exec (.roceResponse n (.errorNak psn) false) s = .next u ∧ Tbl.find u.sessions n = some v ∧
        v.qp = some x ∧ x.error = true ∧ x.out = []) ∧
      (s.state = .serving → exec (.roceAckTimeout n) s = .next (emits s (q.out.map fun w => .rdma n w (roceHead s n)))))) ∧
  (∀ (port domain rank : Nat) (a b : BitVec 64) (s : State), portAlive s port = true → domain = s.sys.ptpDomain →
    (ptpBest s.master = some port →
      (∀ net, ∃ t h, exec (.ptpSync port ⟨domain, net⟩ a b) s = .next t ∧ t.master.ptpLast = some (a, b) ∧ t.master.ptpDelay = s.master.ptpDelay ∧
        t.master.ptpOff = BitVec.ofInt 64 ((8 * (a.toNat : Int) + s.master.ptpDelay - 5 * b.toNat) / 8) ∧
        t.emitted = s.emitted ++ [.eth port 4 (leBytes 1 domain) h] ∧ h.dscp = (if net = .ieee8023 then none else some 46)) ∧
      (∀ o i, s.master.ptpLast = some (o, i) →
        let d : Int := Int.tdiv (5 * i.toNat - 8 * o.toNat + (8 * b.toNat - 5 * a.toNat)) 2
        ∃ t, exec (.ptpDelayResp port domain a b) s = .next t ∧ t.master.locked = true ∧ t.master.ptpDelay = d ∧
          t.master.ptpOff = BitVec.ofInt 64 ((8 * (o.toNat : Int) + d - 5 * i.toNat) / 8))) ∧
    (ptpBest s.master ≠ some port → (∀ net, exec (.ptpSync port ⟨domain, net⟩ a b) s = .next s) ∧ exec (.ptpDelayResp port domain a b) s = .next s) ∧
    (∃ t, exec (.ptpAnnounce port domain rank) s = .next t ∧ Tbl.find t.master.ptpRanks port = some rank)) ∧
  (∀ (port : Nat) (v4 : BitVec 32) (v6 : BitVec 128) (data : Bytes) (s : State), portAlive s port = true →
    let head := netHead s none none
    (v4 ≠ 0 → v4 = portIp4 s port →
      exec (.arpRequest port v4) s = .next (emit s (.eth port 1 (portMac s port ++ beBytes 4 v4.toNat) (head false))) ∧
      (28 + data.length ≤ s.sys.mtu →
        exec (.icmpEcho port (mapped4 v4) data) s = .next (emit s (.eth port 3 (beBytes 16 (mapped4 v4).toNat ++ data) (head true))))) ∧
    (v4 ≠ portIp4 s port → exec (.arpRequest port v4) s = .next (noteUnknown s port)) ∧
    (v6 ≠ 0 → v6 = portIp6 s port →
      exec (.neighborSolicitation port v6) s = .next (emit s (.eth port 2 (portMac s port ++ beBytes 16 v6.toNat) (head false))) ∧
      (v6 ≠ mapped4 (portIp4 s port) → 48 + data.length ≤ s.sys.mtu →
        exec (.icmpEcho port v6 data) s = .next (emit s (.eth port 3 (beBytes 16 v6.toNat ++ data) (head false))))) ∧
    (v6 ≠ portIp6 s port → exec (.neighborSolicitation port v6) s = .next (noteUnknown s port)) ∧
    (exec (.unknownFrame { port := port, kind := .other }) s = .next (noteUnknown s port)) ∧
    (exec (.unknownFrame { port := port, kind := .badFcs }) s = .next (modHub s port fun h => { h with fcsErr := satAdd h.fcsErr 1 })) ∧
    (∀ (n : Nat) (psn : BitVec 24) (t : Session) (q : QueuePair), Tbl.find s.sessions n = some t → t.qp = some q → q.port = port →
      q.error = false → q.expPsn = psn → s.state = .serving →
      exec (.unknownFrame { port := port, kind := .roce n psn false }) s = .next (emit s (.nak n psn 3 (roceHead s n))))) ∧
  ∀ (port : Nat) (s : State), port < 2 →
    (portAlive s port = true → ∃ t, exec (.portLinkDown port) s = .next t ∧ (getHub t port).portUp = false ∧
      (getHub t port).linkDown = satAdd (getHub s port).linkDown 1 ∧
      (portAlive s (1 - port) = true → ∀ n x, Tbl.find t.sessions n = some x → x.est = true → x.port ≠ port)) ∧
    (hubUp s port = true → (getHub s port).portUp = false → ∃ t, exec (.portLinkUp port) s = .next t ∧ (getHub t port).portUp = true ∧
      (portAlive s (1 - port) = true → (∀ x, x ∈ s.sessions → x.2.est = true → x.2.port ≠ port) →
        t = modHub s port fun h => { h with portUp := true }))

/-- A message that breaks the protocol fences its site with cause 0; a good RD or WR of a ready site is answered by the first step of R270
that fails, or done, in the same way as a request of its session; a target that stays silent is answered TIMEOUT after 50 µs. CAP admits
version 1, an ATTR is accepted only under the nonce and key in force and in 10 ms, else the site is Closed. Links that go down, hold back
or draw too much fence the site; one that comes up sends CAP. A line that a guest's write leaves undefined is a free value (log 7). (R265,
R266, R267, R268, R270, R271, R272, R427, R460) -/
def Obligations.GuestSites : Prop :=
  (∀ (n : Nat) (p : PlpMsg) (r : ArrayRead) (nonce : BitVec 64) (s : State),
    let g := getGuest s n
    let bad := fenceSite (modGuest s n fun g => { g with viol := satAdd g.viol 1 }) n 0
    g.link = true → g.powerCut = false → plpEmpty p = false →
      (plpViolation g p = true → exec (.cap n p nonce) s = .next bad ∧ exec (.rd n p r) s = .next (withReports s bad) ∧
        exec (.wr n p) s = .next (withReports s bad) ∧ exec (.attr n p) s = .next (withReports s bad)) ∧
      (plpViolation g p = false → p.mtype = 5 → ∃ t, exec (.cap n p nonce) s = .next t ∧
        (let u := getGuest t n
         u.capGot = true ∧ u.gclass = BitVec.ofNat 16 (p.arg.toNat / 2 ^ 32) ∧ u.admitted = decide (p.arg.toNat % 2 ^ 8 = 1) ∧
         (p.arg.toNat % 2 ^ 8 ≠ 1 → u.mode = 0))) ∧
      (plpViolation g p = false → g.ready = true →
        let q (w : Bool) : GuestReq := GuestReq.mk p.tag w p.arg s.tally (guestPlace s n p.arg)
        let u (w : Bool) := modGuest s n fun g => { g with reqs := g.reqs ++ [q w] }
        (p.mtype = 1 →
          (∀ t st v, gateHandle (u false) n false p r = (t, .done st v) →
            exec (.rd n p r) s = .next (withReports s (gateComplete t n (q false) st v))) ∧
          (∀ t, gateHandle (u false) n false p r = (t, .silent) → exec (.rd n p r) s = .next (withReports s t)) ∧
          (g.fenced = true → ∃ t, exec (.rd n p r) s = .next t ∧ t.emitted = s.emitted ++ [.plp n (PlpMsg.mk 3 false p.tag stFenced p.arg 0 0)] ∧
            t.mem = s.mem) ∧
          (g.fenced = false → g.mode = 0 → s.denyLimit > g.denyTimes.length + 1 → ∃ t, exec (.rd n p r) s = .next t ∧
            t.emitted = s.emitted ++ [.plp n (PlpMsg.mk 3 false p.tag stRefusedPolicy p.arg 0 0)] ∧ (getGuest t n).denials = satAdd g.denials 1)) ∧
        (p.mtype = 2 →
          (∀ t st v, gateHandle (u true) n true p { fresh := 0, inner := false, miscorrect := none } = (t, .done st v) →
            exec (.wr n p) s = .next (withReports s (gateComplete t n (q true) st v))) ∧
          (∀ t, gateHandle (u true) n true p { fresh := 0, inner := false, miscorrect := none } = (t, .silent) →
            exec (.wr n p) s = .next (withReports s t))))) ∧
  (∀ (n : Nat) (p : PlpMsg) (nonce : BitVec 64) (at0 : Word) (k : Bytes) (s : State),
    let g := getGuest s n
    let b := leBytes 64 p.line.toNat
    let tag := kmac256 k (leBytes 8 nonce.toNat ++ b.take 32 ++ leBytes 1 n) (ascii "GP144-GUEST") 32
    let good : Prop := p.arg = nonce ∧ now s < at0.toNat + 10000000 ∧ b.drop 32 = tag
    g.link = true → g.powerCut = false → p.mtype = 7 → plpEmpty p = false → plpViolation g p = false → g.ready = true → g.attq = some (nonce, at0) →
      allowedKey s (b.take 32) = some k →
        (good → exec (.attr n p) s = .next (withReports s (guestReady (modGuest s n fun g =>
          { g with meas := b.take 32, attested := true, attq := none }) n))) ∧
        (¬ good → exec (.attr n p) s = .next (withReports s (fenceClosed (modGuest s n fun g => { g with attested := false }) n 2)))) ∧
  (∀ (n tag : Nat) (q : GuestReq) (s : State), (getGuest s n).reqs.find? (fun r => r.tag.toNat = tag) = some q →
    (now s < q.at_.toNat + 50000 → exec (.gateRequestTimeout n tag) s = .next s) ∧
    (q.at_.toNat + 50000 ≤ now s → exec (.gateRequestTimeout n tag) s = .next (gateComplete s n q stTimeout none))) ∧
  (∀ (n : Nat) (nonce : BitVec 64) (at0 : Word) (s : State), (getGuest s n).attq = some (nonce, at0) →
    (now s < at0.toNat + 10000000 → exec (.attrTimeout n) s = .next s) ∧
    (at0.toNat + 10000000 ≤ now s → exec (.attrTimeout n) s = .next (fenceClosed (modGuest s n fun g => { g with attested := false }) n 2))) ∧
  ∀ (n : Nat) (nonce : BitVec 64) (modules : BitVec 3) (rate16 : Bool) (s : State),
    let g := getGuest s n
    let runs : Prop := g.ready = true ∧ g.mode = 2 ∧ g.fenced = false
    (runs → g.lastAttq.toNat + 60000000000 ≤ now s → exec (.attqPeriodic n nonce) s = .next (sendAttq s n nonce)) ∧
    (runs → now s < g.lastAttq.toNat + 60000000000 → exec (.attqPeriodic n nonce) s = .next s) ∧
    (exec (.guestHoldbackTimeout n) s = .next (fenceSite s n 1)) ∧
    (∃ t, exec (.guestLinkDown n) s = .next t ∧
      (let u := getGuest t n
       u.fenced = true ∧ u.link = false ∧ u.capGot = false ∧ u.modules = 0 ∧ u.retrains = (if g.link then 0 else Nat.min 3 (g.retrains + 1)))) ∧
    (∃ t, exec (.guestOvercurrent n) s = .next t ∧ (getGuest t n).fenced = true ∧ (getGuest t n).link = false ∧ (getGuest t n).powerCut = true) ∧
    (g.powerCut = false → g.retrains < 3 → modules ≠ 0 → modules.toNat ≤ 4 → ∃ t, exec (.guestLinkUp n modules rate16) s = .next t ∧
      t.emitted = s.emitted ++ [.plp n (PlpMsg.mk 5 false 0 stOk panelCap 0 0)] ∧ (getGuest t n).link = true ∧ (getGuest t n).modules = modules ∧
      (getGuest t n).rate16 = rate16 ∧ (getGuest t n).capSent = true ∧ (getGuest t n).capGot = false ∧ (getGuest t n).fenced = g.fenced) ∧
    (g.powerCut = true → exec (.guestLinkUp n modules rate16) s = .next s)

/-- A main output that trips latches off: both dies of the pair go dark, fenced and empty, and with partitions on them the step in flight
ends and the dies are replaced; a FAULT event says so. The fourth auxiliary output lost in a half reduces the guest sites, the last takes
its plane down, and without a plane the panel keeps only its Vault. Inputs in range change only their record; an input out of range for 1
ms, or a current above its limit, takes its half out, both inputs the whole panel, and one above 84 V switches its stages off. In a
ramp-down stage j opens at 25 µs times j and the auxiliary outputs in scope at 2 ms. Without a heartbeat for 500 ms the half ramps down
whole; below 58 V its stages switch off. The reads of 8 ms and of 64 ms ask the stage and update its record, SMBALERT its status. (R31,
R32, R33, R333, R334, R335, R336, R338, R347, R348, R349, R350) -/
def Obligations.StagesAndInputs : Prop :=
  (∀ (s : State) (n : Nat) (hot : Bool), let x := getStage s n
    let v := if s.state = .bringUp ∧ x.trippedOnce = true then vaultRedundancy s 5 (2 * n) 0 0 0 0 else s
    let y : Stage := { x with state := if hot then 4 else 3, trips := satAdd x.trips 1, trippedOnce := true }
    let t := darkDie (darkDie (modStage v n fun _ => y) (2 * n) 3) (2 * n + 1) 3
    ((x.state = 3 ∨ x.state = 4 ∨ stageNow s n = 0) → exec (.stageMainTrip n hot) s = .next s) ∧
    (x.state ≠ 3 → x.state ≠ 4 → stageNow s n ≠ 0 →
      (partOfSite s (2 * n) = none → partOfSite s (2 * n + 1) = none → ∃ u, exec (.stageMainTrip n hot) s = .next (withReports s u) ∧
        u = loseDies (faultEvent t 7 0 stFenced 3 []) [2 * n, 2 * n + 1] 7 ∧ getStage u n = y ∧ (∀ m, m ≠ n → getStage u m = getStage s m) ∧ u.vault = v.vault ∧
        (∀ d, d / 2 = n → (getDie u d).dark = true ∧ (getDie u d).fenced = true ∧ (getDie u d).spare = false) ∧
        (∀ d, d / 2 ≠ n → getDie u d = getDie s d) ∧
        ∀ a, Mem.read u.mem a = if ofDie (2 * n) a = true ∨ ofDie (2 * n + 1) a = true then Mem.unlisted else Mem.read s.mem a) ∧
      (∀ p r, [2 * n, 2 * n + 1].filterMap (partOfSite s) = p :: r →
        let w := faultEvent (reportStep t (jobOfPart t p) 3 false) 7 p stFenced 3 []
        (r = [] → exec (.stageMainTrip n hot) s = .next (withReports s (loseDies w [2 * n, 2 * n + 1] 7))) ∧
        (∀ b, r = [b] → jobOfPart w p = jobOfPart w b → exec (.stageMainTrip n hot) s = .next (withReports s (loseDies w [2 * n, 2 * n + 1] 7))) ∧
        (∀ b, r = [b] → jobOfPart w p ≠ jobOfPart w b → exec (.stageMainTrip n hot) s =
          .next (withReports s (loseDies (reportStep w (jobOfPart w b) 3 false) [2 * n, 2 * n + 1] 7)))))) ∧
  (∀ (s : State) (n : Nat), let x := getStage s n
    let t := modStage s n fun x => { x with auxOn := false, trips := satAdd x.trips 1 }
    (x.auxOn = false → exec (.auxOutputTrip n) s = .next s) ∧
    (x.auxOn = true →
      let out := ((stagesOf (n / 40)).filter fun j => !(getStage t j).auxOn).length
      (out ≠ 4 → out ≠ 40 → exec (.auxOutputTrip n) s = .next (withReports s t)) ∧
      (out = 4 → exec (.auxOutputTrip n) s = .next (withReports s (powerEvent { t with guestCut := true } 0 (n / 40) 40))) ∧
      (out = 40 → exec (.auxOutputTrip n) s = .next (withReports s (auxPlaneDown t (n / 40)))))) ∧
  (∀ (s : State) (h : Nat), (getHalf s h).inService = false →
    let t := { s with optDies := Tbl.keep s.optDies fun o _ => decide (o / 24 ≠ h) }
    (spineFed t 0 = true ∨ spineFed t 1 = true → auxPlaneDown s h = t) ∧ (spineFed t 0 = false → spineFed t 1 = false → auxPlaneDown s h = powerOff t) ∧
    (spineFed s h = true ↔ (getHalf s h).power = true ∧ ((∃ j, j / 40 = h ∧ (getStage s j).auxOn = true) ∨
      (s.half0.outSince ≠ none ∧ s.half1.outSince ≠ none) ∨ s.boot.phase ≤ 1))) ∧
  (∀ (s : State), let u := powerOff s
    u.boot.phase = 0 ∧ u.mem = [] ∧ u.cores = [] ∧ u.sessions = [] ∧ u.requests = [] ∧ u.vault = cutVault s ∧ u.sys = s.sys ∧
    u.nextEst = s.nextEst ∧ u.freeCtr = s.freeCtr + 1) ∧
  (∀ (s : State) (h0 h1 : InputSample),
    let a := s.half0.sample s.tally h0
    let b := s.half1.sample s.tally h1
    let t := { s with half0 := a, half1 := b }
    let inRange (r : InputSample) : Prop := 6400 ≤ r.v.toNat ∧ r.v.toNat ≤ 8000
    let quiet (r : InputSample) : Prop := inRange r ∧ r.i.toNat ≤ 2250
    let high (r : InputSample) (x : Half) : Prop := x.power = true ∧ 8400 < r.v.toNat
    let since (o : Option Word) (ns : Nat) : Prop := ∃ u, o = some u ∧ u.toNat + ns ≤ now s
    let out (r : InputSample) (o : Option Word) : Prop := ¬ inRange r ∧ since o 1000000
    let above (r : InputSample) (x : Half) : Prop := (2250 < r.i.toNat ∧ since x.over10Since 10000000) ∨ (2500 < r.i.toNat ∧ since x.overSince 100000)
    (quiet h0 → quiet h1 → exec (.inputSample h0 h1) s = .next (withReports s t)) ∧
    (high h0 s.half0 → ¬ high h1 s.half1 → exec (.inputSample h0 h1) s = .next (withReports s (stagesOff t 0))) ∧
    (¬ high h0 s.half0 → high h1 s.half1 → exec (.inputSample h0 h1) s = .next (withReports s (stagesOff t 1))) ∧
    (high h0 s.half0 → high h1 s.half1 → exec (.inputSample h0 h1) s = .next (withReports s (stagesOff (stagesOff t 0) 1))) ∧
    (¬ high h0 s.half0 → ¬ high h1 s.half1 → out h0 s.half0.outSince → out h1 s.half1.outSince → s.half0.inService = true ∨ s.half1.inService = true →
      exec (.inputSample h0 h1) s = .next (withReports s (rampPanel t 2 true))) ∧
    (quiet h0 → s.half1.inService = true →
      (¬ high h1 s.half1 → out h1 s.half1.outSince → exec (.inputSample h0 h1) s =
        .next (withReports s (takeHalfOut (powerEvent t 3 1 (h1.v.toNat * h1.i.toNat / 1000)) 1))) ∧
      (inRange h1 → above h1 s.half1 → exec (.inputSample h0 h1) s = .next (withReports s (takeHalfOut t 1)))) ∧
    (quiet h1 → s.half0.inService = true →
      (∀ u, u = takeHalfOut (powerEvent t 3 0 (h0.v.toNat * h0.i.toNat / 1000)) 0 → u.half1 = b → ¬ high h0 s.half0 → out h0 s.half0.outSince →
        exec (.inputSample h0 h1) s = .next (withReports s u)) ∧
      (∀ u, u = takeHalfOut t 0 → u.half1 = b → inRange h0 → above h0 s.half0 → exec (.inputSample h0 h1) s = .next (withReports s u)))) ∧
  (∀ (s : State) (n : Nat), let x := getStage s n
    ((getHalf s (n / 40)).ramp = none → exec (.rampDownStageStart n) s = .next s) ∧
    (∀ t aux, (getHalf s (n / 40)).ramp = some (t, aux) →
      (x.state ≠ 1 ∨ now s < t.toNat + 25000 * (n % 40) → exec (.rampDownStageStart n) s = .next s) ∧
      (x.state = 1 → t.toNat + 25000 * (n % 40) ≤ now s → ∃ u, exec (.rampDownStageStart n) s = .next (withReports s u) ∧
        getStage u n = { x with state := 2 } ∧ (∀ m, m ≠ n → getStage u m = getStage s m) ∧
        (∀ d, d / 2 = n → (getDie u d).dark = true ∧ (getDie u d).fenced = true) ∧ (∀ d, d / 2 ≠ n → getDie u d = getDie s d) ∧
        ∀ a, Mem.read u.mem a = if ofDie (2 * n) a = true ∨ ofDie (2 * n + 1) a = true then Mem.unlisted else Mem.read s.mem a))) ∧
  (∀ (s : State) (half : Nat), let h := half % 2
    ((getHalf s h).ramp = none → exec (.auxOutputOpen half) s = .next s) ∧
    (∀ t aux, (getHalf s h).ramp = some (t, aux) →
      (now s < t.toNat + 2000000 → exec (.auxOutputOpen half) s = .next s) ∧
      (t.toNat + 2000000 ≤ now s → s.pins.resetLow = false → ∃ u,
        (aux = false → exec (.auxOutputOpen half) s = .next (withReports s u)) ∧
        (aux = true → exec (.auxOutputOpen half) s = .next (withReports s (auxPlaneDown u h))) ∧
        getHalf u h = { getHalf s h with ramp := none, inService := (getHalf s h).inService && !(getHalf s h).leaving, leaving := false } ∧
        getHalf u (1 - h) = getHalf s (1 - h) ∧ u.mem = s.mem ∧ u.cores = s.cores ∧ u.optDies = s.optDies ∧
        ∀ j, getStage u j = if j / 40 = h then
          { getStage s j with state := if (getStage s j).state = 2 then 0 else (getStage s j).state, auxOn := (getStage s j).auxOn && !aux }
          else getStage s j))) ∧
  (∀ (s : State) (half : Nat), let h := half % 2
    let v := if (getHalf s h).inService then takeHalfOut (powerEvent s 3 h 0) h else s
    exec (.inputBelowLockout half) s = .next (withReports s (stagesOff s h)) ∧ ∃ u, stagesOff s h = auxPlaneDown u h ∧
      (getHalf u h).power = false ∧ (getHalf u h).ramp = none ∧ (getHalf u h).inService = false ∧ getHalf u (1 - h) = getHalf v (1 - h) ∧
      (∀ j, getStage u j = if j / 40 = h then
        { getStage v j with state := if (getStage v j).state = 1 ∨ (getStage v j).state = 2 then 0 else (getStage v j).state, auxOn := false }
        else getStage v j) ∧
      (∀ d, d / 80 = h → (getDie u d).dark = true ∧ (getDie u d).fenced = true) ∧ ∀ d, d / 80 ≠ h → getDie u d = getDie v d) ∧
  (∀ (s : State) (half : Nat), let h := half % 2
    let x := getHalf s h
    (now s < x.heartbeat.toNat + 500000000 → exec (.stageHeartbeatLoss half) s = .next s) ∧
    (x.heartbeat.toNat + 500000000 ≤ now s → x.ramp = none → s.pins.resetLow = false → (∃ j, j / 40 = h ∧ (getStage s j).auxOn = true) →
      ∃ u, exec (.stageHeartbeatLoss half) s = .next (withReports s u) ∧ getHalf u h = { x with inService := false, leaving := false, ramp := some (x.heartbeat + 500000000, true) } ∧
        getHalf u (1 - h) = getHalf s (1 - h) ∧ u.mem = s.mem ∧ u.stages = s.stages ∧ u.cores = s.cores)) ∧
  (∀ (s : State) (half : Nat), let h := half % 2
    let due : Prop := (getHalf s h).heartbeat.toNat + 100000000 ≤ now s
    ((hubUp s 0 = false ∧ hubUp s 1 = false) ∨ ¬ due → exec (.heartbeatWrite half) s = .next s) ∧
    ((hubUp s 0 = true ∨ hubUp s 1 = true) → due → ∃ k, k < 2 ∧ hubUp s k = true ∧ (hubUp s h = true → k = h) ∧
      exec (.heartbeatWrite half) s = .next (emit (modHalf s h fun x => { x with heartbeat := s.tally }) (.pmbus h 0x1F 0xD0 k)))) ∧
  (∀ (w : BitVec 16) (mode : BitVec 5) (k : Int), let m : Int := (w.setWidth 11).toInt * k
    let e : Int := (BitVec.ofNat 5 (w.toNat / 2 ^ 11)).toInt
    (0 ≤ e → linear11 w k = m * 2 ^ e.toNat) ∧ (e < 0 → linear11 w k = Int.tdiv m (2 ^ (-e).toNat)) ∧
    (0 ≤ mode.toInt → linear16 w mode = w.toNat * 1000 * 2 ^ mode.toInt.toNat) ∧
    (mode.toInt < 0 → linear16 w mode = Int.tdiv (w.toNat * 1000) (2 ^ (-mode.toInt).toNat))) ∧
  ∀ (s : State) (r : StageRead) (cause : BitVec 16),
    let n := r.stage
    let x := getStage s n
    let served : Prop := hubUp s 0 = true ∨ hubUp s 1 = true
    let due (o : Option Word) (ns : Nat) : Prop := ∀ t, o = some t → t.toNat + ns ≤ now s
    let asks (v : State) (l : List (Nat × Nat)) : State := { v with emitted := v.emitted ++ l.map fun c => Emit.pmbus (n / 40) (0x20 + n % 40) c.1 c.2 }
    let fast := modStage (asks s [(0x00, 0), (0x88, 0), (0x8C, 0), (0x20, 0), (0x8B, 0), (0x00, 1), (0x88, 0), (0x8C, 0)]) n fun y => { y with
      vin := field16 (linear11 r.vin 100), iout := field16 (linear11 r.iout 10), vout := field16 (linear16 r.vout r.voutMode),
      iaux := field16 (linear11 r.iaux 100), readAt := some s.tally }
    let temp := fieldTemp (linear11 r.temp 1)
    let slow := modStage (asks fast [(0x00, 0), (0x8D, 0), (0x79, 0)]) n fun y => { y with
      temp := temp, status := r.status, readAt := some s.tally, slowAt := some s.tally }
    let hot : Prop := 110 < temp.toInt ∧ x.temp.toInt ≤ 110
    n < 80 →
      (¬ served ∨ ¬ due x.readAt 8000000 → exec (.telemetryPoll r) s = .next s) ∧
      (served → due x.readAt 8000000 →
        (¬ due x.slowAt 64000000 → exec (.telemetryPoll r) s = .next fast) ∧
        (due x.slowAt 64000000 → ¬ hot → exec (.telemetryPoll r) s = .next slow) ∧
        (due x.slowAt 64000000 → hot → exec (.telemetryPoll r) s = .next (powerEvent slow 2 (n / 40) (1000 * temp.toInt.toNat)))) ∧
      (¬ served → exec (.smbalert r cause) s = .next s) ∧
      (served → exec (.smbalert r cause) s =
        .next (modStage (asks s [(0x79, 0), (0xD2, 0)]) n fun y => { y with status := r.status, readAt := some s.tally }))

/-- A failed phase is recorded in the redundancy map; the cluster goes on under the 75 % cap with three phases and is lost and dark with
fewer. A droop stretches the cluster and keeps the lowest sample; the cycles that no interval has counted count at its end, and passing
the bound counts one overrun. A wake starts at once with 6 A of headroom and otherwise waits; one of a cluster that may no longer be
powered is refused; after 20 µs the other clusters stretch for it. A cluster is on after its staged turn-on, and it parks where its
partition does. (R341, R342, R343, R344, R345, R355, R357, R375) -/
def Obligations.ClustersPowered : Prop :=
  (∀ (s : State) (cl n : Nat), n < 4 → cl < 10240 →
    (phaseFailed s cl n = true ∨ (getClu s cl).pwrState = 3 → exec (.phaseFailure cl n) s = .next s) ∧
    (phaseFailed s cl n = false → (getClu s cl).pwrState ≠ 3 →
      let v := vaultRedundancy s 4 (cl / 64) (cl % 64) 0 n 0
      let ok := phasesOk v cl
      (3 ≤ (bitsOf 4 ok.toNat).length → exec (.phaseFailure cl n) s = .next (withReports s
        (faultEvent (modClu v cl fun u => { u with phOk := ok, cap75 := true }) 5 ((partOfSite s (cl / 64)).getD 0) stOk 0 []))) ∧
      ((bitsOf 4 ok.toNat).length < 3 → partOfSite s (cl / 64) = none → ∃ t, exec (.phaseFailure cl n) s = .next (withReports s t) ∧
        (getClu t cl).pwrState = 3 ∧ (getClu t cl).lost = true ∧ (getClu t cl).phOk = ok ∧ t.vault = v.vault ∧ t.mem = s.mem))) ∧
  (∀ (s : State) (cl : Nat) (sample : BitVec 8) (sensor : BitVec 4), let u := getClu s cl
    (u.pwrState = 2 → sample.toNat + 10 < u.vset.toNat →
      let v := { u with
        stretching := true, stretchFrom := if u.stretching then u.stretchFrom else s.tally, stretchSent := if u.stretching then u.stretchSent else 0 }
      (u.vminSeen = false ∨ sample.toNat < u.vmin.toNat → exec (.droopStretchRequest cl sample sensor) s =
        .next (setClu s cl { v with vminSeen := true, vmin := sample, vminIdx := sensor })) ∧
      (u.vminSeen = true → u.vmin.toNat ≤ sample.toNat → exec (.droopStretchRequest cl sample sensor) s = .next (setClu s cl v))) ∧
    (u.pwrState ≠ 2 ∨ u.vset.toNat ≤ sample.toNat + 10 → exec (.droopStretchRequest cl sample sensor) s = .next s)) ∧
  (∀ (s : State) (cl n : Nat), let u := getClu s cl
    let bound := (400 + 50 * s.clock.step.toNat) * 10240 / 16000
    let k := n - u.stretchSent
    let past : Prop := u.stretchNow ≤ bound ∧ bound < u.stretchNow + k
    let v := { u with stretching := false, stretchSent := 0, stretchNow := u.stretchNow + k }
    (u.stretching = false → exec (.stretchEnd cl n) s = .next s) ∧
    (u.stretching = true →
      ∃ t, exec (.stretchEnd cl n) s = .next t ∧ (∀ c, c ≠ cl → getClu t c = getClu s c) ∧ t.mem = s.mem ∧ t.cores = s.cores ∧
        (¬ past → getClu t cl = v) ∧
        (past → getClu t cl = { v with overruns := satAdd u.overruns 1, overrunLeft := 2 }))) ∧
  (∀ (s : State) (cl current : Nat), let u := getClu s cl
    let d := cl / 64
    let t := modDie s d fun x => { x with current := current }
    (u.pwrState = 2 → (getDie s d).wakes = [] → exec (.wakeRequest cl current) s = .next t) ∧
    (wakeable s cl = true → u.pwrState = 0 → (getDie s d).wakes = [] →
      let w := WakeReq.mk cl s.tally false
      let waiting := modDie s d fun x => { x with current := current, wakes := [w] }
      (current ≤ 8400 → dieWaking s d = false → s.clock.hold = false → s.clock.stopped = false →
        exec (.wakeRequest cl current) s = .next (modClu (modDie s d fun x => { x with current := current, wakes := [] }) cl
          fun v => { v with pwrState := 1, onStart := some s.tally })) ∧
      (8400 < current ∨ dieWaking s d = true ∨ s.clock.hold = true ∨ s.clock.stopped = true →
        exec (.wakeRequest cl current) s = .next waiting)) ∧
    (wakeable s cl = false → (getDie s d).wakes = [] → exec (.wakeRequest cl current) s = .next t)) ∧
  (∀ (s : State) (site : Nat) (w : WakeReq) (r : List WakeReq), (getDie s site).wakes = w :: r →
    let held : Prop := s.clock.hold = true ∨ s.clock.stopped = true ∨ dieWaking s site = true
    let on := (clustersOf [site]).filter fun c => decide ((getClu s c).pwrState = 2)
    let n := wakeCycles s
    let may : Prop := wakeable s w.cl = true
    (¬ may → exec (.wakeHeadroomTimeout site) s = .next (serveWake s site)) ∧
    (may → now s < w.t0.toNat + 20000 ∨ held → exec (.wakeHeadroomTimeout site) s = .next s) ∧
    (may → w.t0.toNat + 20000 ≤ now s → ¬ held → w.waited = true →
      ((∃ c, c ∈ on ∧ stretchBound s < (getClu s c).stretchNow + n) → exec (.wakeHeadroomTimeout site) s = .next s) ∧
      ((∀ c, c ∈ on → (getClu s c).stretchNow + n ≤ stretchBound s) →
        exec (.wakeHeadroomTimeout site) s = .next (turnOn (on.foldl (fun s c => addStretch s c n) s) site w))) ∧
    (may → w.t0.toNat + 20000 ≤ now s → ¬ held → w.waited = false → exec (.wakeHeadroomTimeout site) s =
      exec (.wakeHeadroomTimeout site) (modClu (modDie s site fun d => { d with wakes := { w with waited := true } :: r }) w.cl fun u => { u with
        wakeStretch := satAdd u.wakeStretch 1 }))) ∧
  (∀ (s : State) (site : Nat), (getDie s site).wakes = [] → exec (.wakeHeadroomTimeout site) s = .next s) ∧
  (∀ (s : State) (cl : Nat), let u := getClu s cl
    let ok := phasesOk s cl
    (u.onStart = none → exec (.clusterOn cl) s = .next s) ∧
    (∀ t, u.onStart = some t →
      (now s < t.toNat + 2000 → exec (.clusterOn cl) s = .next s) ∧
      (t.toNat + 2000 ≤ now s → (getDie s (cl / 64)).wakes = [] →
        let v := setClu (modDie s (cl / 64) fun d => { d with wakes := [] }) cl { u with
          pwrState := 2, onStart := none, maxSeen := false, phOk := ok, cap75 := u.cap75 || decide ((bitsOf 4 ok.toNat).length = 3) }
        (partOfSite s (cl / 64) = none → exec (.clusterOn cl) s = .next v) ∧
        (∀ p, partOfSite s (cl / 64) = some p →
          ((getPart s p).ledger.waking = false → exec (.clusterOn cl) s = .next v) ∧
          ((getPart s p).ledger.waking = true → exec (.clusterOn cl) s = .next (wakeDone v p)))))) ∧
  ∀ (s : State) (cl : Nat),
    (∀ p, partOfSite s (cl / 64) = some p → (getPart s p).ledger.pmode ≠ 3 → panelFenced s = false → exec (.clusterPark cl) s = .next s) ∧
    ((partOfSite s (cl / 64) = none ∨ ∃ p, partOfSite s (cl / 64) = some p ∧ ((getPart s p).ledger.pmode = 3 ∨ panelFenced s = true)) →
      ∃ t, exec (.clusterPark cl) s = .next t ∧ (getClu t cl).onStart = (if (getClu s cl).pwrState = 3 then (getClu s cl).onStart else none) ∧
        ((getClu s cl).pwrState = 3 → (getClu t cl).pwrState = 3) ∧ ((getClu s cl).pwrState ≠ 3 → (getClu t cl).pwrState = 0) ∧
        (∀ k, k / 64 ≠ cl → getCore t k = getCore s k) ∧ (∀ c, c ≠ cl → getClu t c = getClu s c))

/-- A lost reference puts the islands of its half on their own oscillators and takes the half out; its return puts them back. An interval
boundary counts the cycles of a running droop stretch up to it, starts the stretch bounds afresh, lets each island take its latched count
against its line delay and sets each monitored cluster's setpoint, MAXSTEP and cap. The step is evaluated as the lower of what is asked
and what the regions allow, and a change is journaled and announced at least 128 µs ahead; wakes are held 10 µs before it, the clocks stop
at it and restart at the new step after 4 µs, with the retention of the old epoch extended. At a period boundary the energy is counted and
charged, the receipt of a request that ended in the period is closed, and the charges of the requests of the period add up to the input
less the guests' energy. A coolant sample is recorded and ramps the panel down beyond its limits, and the requested flow changes by 1
L/min or more at most once a second. (R353, R357, R358, R360, R361, R362, R363, R365, R367, R370, R384, R387) -/
def Obligations.ClocksAndLedger : Prop :=
  (∀ (s : State) (half : Nat), let h := half % 2
    let island (b : Bool) (u : State) : Prop := getHalf u (1 - h) = getHalf s (1 - h) ∧ u.mem = s.mem ∧ u.cores = s.cores ∧ u.parts = s.parts ∧
      ∀ d, getDie u d = if d / 80 = h then { getDie s d with island := { (getDie s d).island with osc := b } } else getDie s d
    ((getHalf s h).refOk = false → exec (.referenceLoss half) s = .next s) ∧
    ((getHalf s h).refOk = true → ∃ u, exec (.referenceLoss half) s = .next (withReports s (takeHalfOut u h)) ∧
      getHalf u h = { getHalf s h with refOk := false } ∧ island true u) ∧
    ∃ u, exec (.referenceReturn half) s = .next u ∧ getHalf u h = { getHalf s h with refOk := true } ∧ island false u) ∧
  (∀ s : State,
    let req := requestedStep s
    let low := lowestStep s
    let n := Nat.min req low
    let c := { s.clock with req := BitVec.ofNat 5 req, minAllow := BitVec.ofNat 5 low, evalAt := s.tally }
    let due : Prop := (s.clock.evalAt.toNat + 1024000 ≤ now s ∨ low < s.clock.step.toNat) ∧ (hubUp s 0 = true ∨ hubUp s 1 = true)
    let early : Prop := s.clock.pending = true ∨ n = s.clock.step.toNat ∨ (s.clock.step.toNat < n ∧ now s < s.clock.since.toNat + 1024000)
    low ≤ 24 ∧ (∀ cl u, (cl, u) ∈ s.clusters → u.pwrState = 2 → u.maxSeen = true → low ≤ u.maxStep.toNat) ∧
    (∀ r v, (r, v) ∈ s.clock.regions → (160 ≤ r ∨ (getDie s r).dark = false) → low ≤ v.toNat) ∧
    (∀ p q, (p, q) ∈ s.parts → q.ledger.pmode = 2 → q.ledger.reqstep ≤ req) ∧
    (¬ due → exec .clockStepEvaluation s = .next s) ∧ (due → early → exec .clockStepEvaluation s = .next { s with clock := c }) ∧
    (due → ¬ early → ∃ t, t % 10240 = 0 ∧ now s + 128000 ≤ t ∧ t < now s + 138240 ∧ exec .clockStepEvaluation s =
      .next (emit (journal { s with clock := { c with next := BitVec.ofNat 5 n, pending := true, tChange := BitVec.ofNat 64 t } }
        (.clock (BitVec.ofNat 64 t))) (.announce (BitVec.ofNat 64 t))))) ∧
  (∀ s : State, let c := s.clock
    (c.pending = true ∧ c.tChange.toNat ≤ now s + 10000 → exec .wakeHoldStart s = .next { s with clock := { c with hold := true } }) ∧
    (c.pending = false ∨ now s + 10000 < c.tChange.toNat → exec .wakeHoldStart s = .next s) ∧
    (c.pending = true ∧ c.tChange.toNat ≤ now s → exec .clockStop s = .next { s with clock := { c with stopped := true, hold := true } }) ∧
    (c.pending = false ∨ now s < c.tChange.toNat → exec .clockStop s = .next s) ∧
    (c.stopped = false ∨ now s < c.tChange.toNat + 4000 → exec .clockRestart s = .next s) ∧
    (c.stopped = true → c.tChange.toNat + 4000 ≤ now s → ∃ t, exec .clockRestart s = .next t ∧
      t.clock = { c with step := c.next, pending := false, stopped := false, hold := false, changes := satAdd c.changes 1, since := s.tally,
                         joining := none } ∧
      t.mem = s.mem ∧ t.cores = s.cores ∧ t.parts = s.parts ∧ t.sessions = s.sessions ∧
      (∀ x, s.epoch.kept = some x → t.epoch.kept = some (if c.tChange < x.1 + BitVec.ofNat 64 (lifeNs x.2.toNat + 1000)
        then (x.1 + (s.tally - c.tChange), if c.next < x.2 then c.next else x.2) else x)) ∧
      (∀ cl, Tbl.has s.clusters cl = true → getClu t cl = { getClu s cl with
        capMargin := if (getClu s cl).pwrState = 2 ∧ (getClu s cl).maxSeen = true then marginCap (getClu s cl).maxStep.toNat c.next.toNat else 16 }) ∧
      (∀ d w r, (getDie s d).wakes = w :: r → (getDie t d).wakes =
        { w with t0 := w.t0 + (s.tally - BitVec.ofNat 64 (Nat.max w.t0.toNat (c.tChange.toNat - 10000))) } :: r) ∧
      (c.joining = none → t.boot = s.boot) ∧ (c.joining ≠ none → s.boot.half ≠ none → t.boot = { s.boot with halfPhase := 10 }))) ∧
  (∀ s : State,
    (∀ m, now s / 10240 = s.clock.interval → exec (.tallyIntervalBoundary m) s = .next s) ∧
    (now s / 10240 ≠ s.clock.interval → ∃ t,
      (∀ m, exec (.tallyIntervalBoundary m) s = .next (withReports s (
        let v := m.foldl evalMargin t
        if lowestStep v < v.clock.step.toNat then evalStep v else v))) ∧
      t.mem = s.mem ∧ t.cores = s.cores ∧ t.parts = s.parts ∧ t.clock = { s.clock with interval := now s / 10240 } ∧
      (∀ cl, Tbl.has s.clusters cl = true → let u := getClu s cl
        let b := now s / 10240 * 10240
        let n := if u.stretching then (b - u.stretchFrom.toNat) * stepMHz s.clock.step.toNat / 2000 else 0
        let bound := stepMHz s.clock.step.toNat * 10240 / 16000
        let past : Prop := u.stretchNow ≤ bound ∧ bound < u.stretchNow + n
        (past → getClu t cl = { u with
          stretch := BitVec.ofNat 12 (Nat.min 4095 (u.stretchNow + n)), stretchNow := 0, overruns := satAdd u.overruns 1, overrunLeft := 1,
          stretchFrom := BitVec.ofNat 64 b, stretchSent := u.stretchSent + n }) ∧
        (¬ past → getClu t cl = { u with
          stretch := BitVec.ofNat 12 (Nat.min 4095 (u.stretchNow + n)), stretchNow := 0, overrunLeft := u.overrunLeft - 1,
          stretchFrom := if u.stretching then BitVec.ofNat 64 b else u.stretchFrom, stretchSent := u.stretchSent + n })) ∧
      (∀ d, Tbl.has s.dies d = true → let i := (getDie s d).island
        let seen := i.off + Config.lineDelay d
        ((hubUp s 0 = true ∨ hubUp s 1 = true) → i.osc = false →
          (getDie t d).island = { i with latched := seen, steer := i.delay - seen, missed := 0, hold := false }) ∧
        ((hubUp s 0 = false ∧ hubUp s 1 = false) ∨ i.osc = true →
          (getDie t d).island = { i with missed := i.missed + 1, hold := decide (16 ≤ i.missed + 1) })))) ∧
  (∀ (t : State) (m : MonitorRead), let u := getClu t m.cl
    let w := Nat.max 60 (Nat.min 180 (m.need.toNat + m.ageOff.toNat))
    let v := modClu t m.cl fun u => { u with
      vset := BitVec.ofNat 8 (if u.vset.toNat ≤ w then w else u.vset.toNat - 1), maxSeen := true, maxStep := m.maxStep, temp := m.temp, ageOff := m.ageOff,
      hotLogic := u.hotLogic || decide (105 ≤ m.temp.toInt), vminSeen := true, vmin := m.vmin, vminIdx := m.vminIdx, capMargin := if m.maxStep.toNat < t.clock.step.toNat
        then 16 * (400 + 50 * m.maxStep.toNat) / (400 + 50 * t.clock.step.toNat) else u.capMargin }
    (10240 ≤ m.cl → evalMargin t m = { t with clock := { t.clock with regions := Tbl.put t.clock.regions (m.cl - 10240) m.maxStep } }) ∧
    (m.cl < 10240 → u.pwrState ≠ 2 → evalMargin t m = t) ∧
    (m.cl < 10240 → u.pwrState = 2 →
      (m.temp.toInt < 105 → evalMargin t m = v) ∧
      (105 ≤ m.temp.toInt → m.temp.toInt < 115 → evalMargin t m = leaveIfIdle v m.cl ∧ (partOfSite t (m.cl / 64) = none → evalMargin t m = v)) ∧
      (115 ≤ m.temp.toInt →
        (∀ p, partOfSite t (m.cl / 64) = some p →
          evalMargin t m = loseDies (parkOff (reportStep v (jobOfPart v p) 3 false) m.cl) [m.cl / 64] 6) ∧
        (partOfSite t (m.cl / 64) = none →
          (getClu (evalMargin t m) m.cl).pwrState = 0 ∧ (getDie (evalMargin t m) (m.cl / 64)).fenced = true)))) ∧
  (∀ (s : State) (e : PeriodEnergy), now s / 1024000 = s.clock.period → exec (.ledgerPeriodBoundary e) s = .next s) ∧
  (∀ (s : State) (e : PeriodEnergy), now s / 1024000 ≠ s.clock.period → e.dramTemp = [] → Inv s →
    (∀ q ∈ s.parts, q.2.ledger.next = none ∧ q.2.ledger.pmode ≠ 3 ∧ q.2.ledger.waking = false) →
    let idle : Prop := periodReqs s = []
    ∃ t, exec (.ledgerPeriodBoundary e) s = .next (withReports s t) ∧
      t.ledger.ein = s.ledger.ein + BitVec.ofNat 64 (e.inH0 + e.inH1) ∧ t.ledger.pin = BitVec.ofNat 32 (e.inH0 + e.inH1) ∧
      t.ledger.guest = BitVec.ofNat 32 e.guest ∧ t.mem = s.mem ∧ t.cores = s.cores ∧
      (∀ r x, Tbl.find s.requests r = some x → ∃ y, Tbl.find t.requests r = some y ∧ (x.state = 4 → y.charged = true) ∧
        (idle ∨ x.charged = true → y.dir = x.dir ∧ y.ovh = x.ovh)) ∧
      (idle → t.ledger.unch = BitVec.ofNat 32 (e.inH0 + e.inH1 - e.guest) ∧
        t.ledger.unchTotal = s.ledger.unchTotal + (e.inH0 + e.inH1 - e.guest)) ∧
      (¬ idle → t.ledger.unchTotal = s.ledger.unchTotal) ∧
      ∀ q ∈ s.parts, (getPart t q.1).ledger.total = q.2.ledger.total + (getPart t q.1).ledger.last ∧
        (q.2.ledger.busy = false → partBusy s q.1 = false → (getPart t q.1).ledger.last = dieEnergy e q.2.sites) ∧ (getPart t q.1).sites = q.2.sites ∧ (getPart t q.1).map = q.2.map) ∧
  (∀ (s : State) (e : PeriodEnergy) (dirs : List (Nat × List (Nat × Nat))) (o : Nat) (ovh : List (Nat × Nat)),
    let direct := sumNat (((dirs.map (·.2)).flatten).map (·.2))
    periodReqs s ≠ [] → Inv s → chargeShares s e = (dirs, o, ovh) →
      direct + e.guest ≤ e.inH0 + e.inH1 → direct + sumNat (ovh.map (·.2)) + e.guest = e.inH0 + e.inH1) ∧
  (∀ (s : State) (tin tout : BitVec 16),
    let i := tin.toInt
    let o := tout.toInt
    (1500 ≤ i → i ≤ 4500 → o ≤ 5800 → o - i ≤ 1000 → ∃ u l, exec (.coolantSample tin tout) s = .next (withReports s u) ∧ u = { s with ledger := l } ∧
      l.tin = tin ∧ l.tout = tout ∧ l.limits = s.ledger.limits &&& 0x3C ∧ l.envLower = 0 ∧ l.lowIn = none ∧ l.highIn = none ∧ l.hotIn = none ∧
      l.rise11 = none ∧ l.rise15 = none) ∧
    (s.half0.inService = true ∨ s.half1.inService = true →
      (5800 < o ∨ (5000 ≤ i ∧ ∃ t, s.ledger.hotIn = some t ∧ t.toNat + 1000000000 ≤ now s) ∨
        (1500 < o - i ∧ ∃ t, s.ledger.rise15 = some t ∧ t.toNat + 1000000000 ≤ now s)) →
      ∃ u, exec (.coolantSample tin tout) s = .next (withReports s (rampPanel u 3 false)) ∧ u.ledger.tin = tin ∧ u.ledger.tout = tout ∧
        u.mem = s.mem ∧ u.cores = s.cores ∧ u.half0 = s.half0 ∧ u.half1 = s.half1)) ∧
  ∀ s : State,
    let f := flowWanted s
    let l := s.ledger
    200 ≤ f ∧ f ≤ 480 ∧
    (f < l.flow.toNat + 10 → l.flow.toNat < f + 10 → exec .coolantFlowUpdate s = .next s) ∧
    (∀ t, l.flowAt = some t → now s < t.toNat + 1000000000 → exec .coolantFlowUpdate s = .next s) ∧
    ((l.flow.toNat + 10 ≤ f ∨ f + 10 ≤ l.flow.toNat) → (∀ t, l.flowAt = some t → t.toNat + 1000000000 ≤ now s) →
      exec .coolantFlowUpdate s = .next (raiseAlert { s with ledger := { l with flow := BitVec.ofNat 16 f, flowAt := some s.tally } }))

/-- The oldest record that is being written stands once both dies hold it, and what waited for it proceeds; a COMPACT puts its region's
other half in use and erases the old one, and a loss of power leaves the record on VLT0 or on no die. An input above 60 V begins bring-up,
or brings the auxiliary plane of its half up. The end of a phase has its effect and starts the next, the last one serving, or the safe
state with the latch set; a phase past twice its length ends as it stands. A half that returns goes through its phases and joins after an
epoch change, or stays out with TIMEOUT (the model's status, log 36). THERM_TRIP# and RESET# ramp both halves down; at the end RESET#
holds the hubs, and its release starts again from phase 3 with nothing kept but the Vault and what has power. TWIN_PRESENT is noted. The
survivor of a lost hub leads and answers FENCED the requests that wait and that its journal does not hold; the lost one returns while its
partner serves, with its partner's journal. With both hubs lost the panel is in the safe state and RESET# starts nothing. (R26, R29, R32,
R412, R417, R442, R444, R445, R446, R448, R449, R459) -/
def Obligations.BringUpAndPins : Prop :=
  (∀ (s : State) (w : VaultWrite) (rest : List VaultWrite),
    (s.vault.writing = [] → exec .vaultRecordWritten s = .next s) ∧
    (s.vault.writing = w :: rest →
      let g := (recordRegion w.record).getD 0
      let old := Tbl.get s.vault.halves g 0
      let r := { w.record with seq := s.vault.seq, half := if w.copy then 1 - old else old, on0 := true, on1 := true }
      ∃ v, exec .vaultRecordWritten s = .next (withReports s (w.acts.foldl runAct { s with vault := v })) ∧ v.seq = s.vault.seq + 1 ∧
        (∃ l, v.writing = l ++ rest ∧ (∀ x ∈ l, x.copy = true ∧ x.acts = []) ∧
          ((∀ g, g < 3 → Tbl.get (holdWrite { s.vault with writing := rest } w true).used g 0 * 4 < regionHalf g * 3) → l = [])) ∧
        (r.type ≠ 3 → r ∈ v.recs ∧ v.halves = s.vault.halves ∧
          (w.copy = true → v.recs = s.vault.recs ++ [r]) ∧
          (w.copy = false → (∀ x ∈ v.recs, x.type = r.type → x.key = r.key → x = r) ∧
            ∀ x ∈ s.vault.recs, ¬ (x.type = r.type ∧ x.key = r.key) → x ∈ v.recs)) ∧
        (r.type = 3 → Tbl.get v.halves g 0 = 1 - old ∧ (∀ x ∈ v.recs, recordRegion x = some g → x.half ≠ old) ∧
          (w.copy = true → r ∈ v.recs ∧ ∀ x ∈ s.vault.recs, (recordRegion x ≠ some g ∨ x.half ≠ old) → x ∈ v.recs)))) ∧
  (∀ (one : Bool) (v : Vault), (v.writing = [] → vaultAfterLoss one v = v) ∧
    (∀ w rest, v.writing = w :: rest → vaultAfterLoss false v = { v with writing := [] } ∧ (vaultAfterLoss true v).writing = [] ∧
      (w.record.type ≠ 3 → ∃ r, (vaultAfterLoss true v).recs = v.recs ++ [r] ∧ r.type = w.record.type ∧ r.key = w.record.key ∧
        r.body = w.record.body ∧ r.on0 = true ∧ r.on1 = false))) ∧
  (∀ (s : State) (half : Nat), let h := half % 2
    let x := { getHalf s h with power := true, inSince := none, heartbeat := s.tally }
    ((getHalf s h).power = true → exec (.busbarInputRise half) s = .next s) ∧
    ((getHalf s h).power = false → ∃ t, exec (.busbarInputRise half) s = .next t ∧ getHalf t (1 - h) = getHalf s (1 - h) ∧ t.mem = s.mem ∧
      t.vault = s.vault ∧
      (s.boot.phase = 0 → getHalf t h = x ∧ t.state = .bringUp ∧ t.boot = { s.boot with phase := 1, started := s.tally } ∧ t.stages = s.stages) ∧
      (s.boot.phase = 1 → t = modHalf s h fun _ => x) ∧
      (2 ≤ s.boot.phase → getHalf t h = { x with refOk := true } ∧ t.boot = s.boot ∧ t.state = s.state ∧
        ∀ j, getStage t j = if j / 40 = h then { getStage s j with auxOn := true } else getStage s j))) ∧
  (∀ (s : State) (r : PhaseResult), let n := s.boot.phase
    let age := (s.tally - s.boot.started).toNat
    s.state = .bringUp → 1 ≤ n → n ≤ 12 → s.pins.resetLow = false →
      (∃ t, exec (.bringUpPhaseComplete r) s = .next (withReports s t) ∧ t.boot.phase = n + 1 ∧
        t.boot.tMs = BitVec.ofNat 16 (Nat.min 65535 (age / 1000000)) ∧
        (n = 1 → ∀ h, h < 2 → (getHalf s h).power = true → (getHalf t h).refOk = true ∧ ∀ j, j / 40 = h → (getStage t j).auxOn = true) ∧
        (n = 2 → t.tally = 0) ∧
        (n = 5 → s.boot.rstBoot = false ∨ s.pins.thermTrip = false → t.hub0.up = (s.hub0.selfTest && r.hub0ok) ∧ t.hub1.up = (s.hub1.selfTest && r.hub1ok) ∧ t.lead = if t.hub0.up then 0 else 1) ∧
        (n = 5 → (s.hub0.selfTest && r.hub0ok) = false → (s.hub1.selfTest && r.hub1ok) = false → t.state = .safeNoId) ∧
        (n = 6 → r.tripped = [] → ∀ h, h < 2 → (getHalf s h).power = true → (getHalf t h).inService = true ∧
          ∀ j, j / 40 = h → (getStage s j).state ≠ 3 → (getStage s j).state ≠ 4 → pairFailed s j = false →
            (getStage t j).state = 1 ∧ (getDie t (2 * j)).dark = false ∧ (getDie t (2 * j + 1)).dark = false) ∧
        (n = 7 → ∀ d, d < 160 → (getHalf s (d / 80)).power = true →
          (getDie t d).island = { (getDie s d).island with
            off := 0, steer := 0, latched := Config.lineDelay d, delay := Config.lineDelay d, missed := 0, hold := false }) ∧
        (n = 8 → t.boot.spineFailed = !r.spineOk) ∧
        (n = 9 → t.clock = { ClockPlan.reset with
          regions := s.clock.regions, since := s.tally, interval := s.clock.interval, period := s.clock.period }) ∧
        (n = 11 → s.boot.spineFailed = false → (∀ k ∈ r.badCores, (getHalf s (siteOf k / 80)).power = true → siteOf k < 160 → k ∈ t.badCores)) ∧
        (n = 12 → s.vault.latch = false → t.state = .serving ∧ t.epoch = Epoch.reset) ∧
        (n = 12 → s.vault.latch = true → t.state = .safe ∧ t.safeCause = s.vault.latchCause)) ∧
      ((2 * phaseEnd n - phaseEnd (n - 1)) * 1000000 < age → exec (.bringUpPhaseTimeout r) s = exec (.bringUpPhaseComplete r) s) ∧
      (age ≤ (2 * phaseEnd n - phaseEnd (n - 1)) * 1000000 → exec (.bringUpPhaseTimeout r) s = .next s)) ∧
  (∀ (s : State) (r : PhaseResult), booting s = false →
    exec (.bringUpPhaseTimeout r) s = .next s ∧
    (s.boot.half = none → exec (.bringUpPhaseComplete r) s = .next s) ∧
    (∀ h q, s.boot.half = some (h, q) →
      ((s.boot.halfPhase = 6 ∨ s.boot.halfPhase = 7 ∨ s.boot.halfPhase = 10) →
        ∃ t, exec (.bringUpPhaseComplete r) s = .next (withReports s t) ∧ t.boot.halfPhase = s.boot.halfPhase + 1) ∧
      (s.boot.halfPhase = 8 → r.spineOk = true → ∃ t, exec (.bringUpPhaseComplete r) s = .next t ∧ t.boot = { s.boot with halfPhase := 9 } ∧
        t.clock.pending = true ∧ t.clock.joining = some h ∧ t.mem = s.mem ∧
        (s.clock.pending = false → t.clock.next = s.clock.step ∧ t.clock.tChange = BitVec.ofNat 64 (changeTime (now s)))) ∧
      (s.boot.halfPhase = 8 → r.spineOk = false → exec (.bringUpPhaseComplete r) s = .next (withReports s (halfFails s h q))) ∧
      (s.boot.halfPhase = 11 → ∃ t, exec (.bringUpPhaseComplete r) s = .next (withReports s t) ∧ t = halfEnter (testHalf s h r) h ∧
        t.boot.halfPhase = 12 ∧ bankChanges t = true) ∧
      (s.boot.halfPhase = 12 → bankChanges s = true → exec (.bringUpPhaseComplete r) s = .next (withReports s s)) ∧
      (s.boot.halfPhase = 12 → bankChanges s = false → ∃ t, exec (.bringUpPhaseComplete r) s = .next (withReports s t) ∧
        t = halfJoins s h q ∧ (getHalf t h).inService = true ∧ t.boot.half = none))) ∧
  (∀ s : State,
    (s.pins.thermTrip = true → exec .thermTrip s = .next s) ∧
    (s.pins.thermTrip = false → let t := { s with pins := { s.pins with thermTrip := true } }
      (s.pins.resetLow = true → exec .thermTrip s = .next t) ∧
      (s.pins.resetLow = false → exec .thermTrip s = .next (withReports s (rampPanel (bumpFree { t with vault := cutVault s }) 4 false)))) ∧
    exec .thermTripRelease s = .next { s with pins := { s.pins with thermTrip := false } } ∧
    (s.pins.twinPresent = false → exec .twinPresentLow s = .next s) ∧
    (s.pins.twinPresent = true → let t := { s with pins := { s.pins with twinPresent := false } }
      (s.twin.attached = true → now s < s.twin.lastBeat.toNat + 20000000 → exec .twinPresentLow s = .next (withReports s (twinEvent t 0))) ∧
      (s.twin.attached = false ∨ s.twin.lastBeat.toNat + 20000000 ≤ now s → exec .twinPresentLow s = .next (withReports s t))) ∧
    exec .twinPresentHigh s = .next (withReports s { s with pins := { s.pins with twinPresent := true } })) ∧
  (∀ s : State,
    (s.pins.resetLow = true → exec .resetPinAssert s = .next s) ∧
    (s.pins.resetLow = false → ∃ t, exec .resetPinAssert s = .next (withReports s t) ∧ t.pins = { s.pins with resetLow := true } ∧
      t.vault = cutVault s ∧ t.state = s.state ∧ t.mem = s.mem ∧
      ∀ h, h < 2 → (getHalf t h).inService = false ∧ ((getHalf s h).ramp = none → (getHalf t h).ramp = some (s.tally, false))) ∧
    (s.pins.resetLow = false → exec .resetPinRelease s = .next s) ∧
    (s.pins.resetLow = true → s.boot.hubsLost = true → exec .resetPinRelease s = .next { s with pins := { s.pins with resetLow := false } }) ∧
    (s.pins.resetLow = true → s.boot.hubsLost = false → ∃ t, exec .resetPinRelease s = .next t ∧ t.boot.phase = 3 ∧ t.boot.rstBoot = true ∧ t.state = .bringUp ∧
      t.pins = { s.pins with resetLow := false } ∧ t.vault = cutVault s ∧ t.nextEst = s.nextEst ∧ t.mem = [] ∧ t.cores = [] ∧ t.clusters = [] ∧ t.parts = [] ∧
      t.sessions = [] ∧ t.requests = [] ∧
      (∀ h, h < 2 → (getHalf t h).power = (getHalf s h).power ∧ (getHalf t h).inService = false) ∧
      ∀ j, (getStage t j).auxOn = (getStage s j).auxOn)) ∧
  (∀ (s : State) (half : Nat), let h := half % 2
    ∀ t, (getHalf s h).ramp = some (t, false) → t.toNat + 2000000 ≤ now s → s.pins.resetLow = true → (getHalf s (1 - h)).ramp = none →
      ∃ u, exec (.auxOutputOpen half) s = .next (withReports s u) ∧ u.hub0.up = false ∧ u.hub1.up = false ∧ u.boot.phase = 2 ∧
        (getHalf u h).ramp = none) ∧
  (∀ (s : State) (h : Nat), (2 ≤ h ∨ hubUp s h = false) → exec (.hubLoss h) s = .next s) ∧
  (∀ (s : State) (h : Nat), h < 2 → hubUp s h = true →
    ∃ t, exec (.hubLoss h) s = .next (withReports s t) ∧ hubUp t h = false ∧ hubUp t (1 - h) = hubUp s (1 - h) ∧
      t.lead = (if s.lead = h ∧ hubUp s (1 - h) = true then 1 - h else s.lead) ∧
      t.boot.hubsLost = (s.boot.hubsLost || !hubUp s (1 - h)) ∧
      (∀ g ∈ sitesOfHub h, (getGuest t g).fenced = true ∧ (getGuest t g).mode = 0) ∧
      (hubUp s (1 - h) = true → ∀ g ∈ sitesOfHub h, (getGuest t g).kept = some (getGuest s g).mode) ∧
      (hubUp s (1 - h) = false → t.state = .safe ∨ t.state = .safeNoId) ∧
      (Inv s → hubUp s (1 - h) = true → (∀ g ∈ sitesOfHub h, (getGuest s g).reqs = [] ∧ (getGuest s g).want = none) →
        (∀ e ∈ s.sessions, e.2.seqOut.toNat < 2 ^ 62 ∧ e.2.retained = [] ∧ ∀ b ∈ e.2.boxes, b.2.held = []) →
        t.mem = s.mem ∧ t.cores = s.cores ∧ t.parts = s.parts ∧ t.requests = s.requests ∧
        (∀ n, (Tbl.find t.sessions n).isSome = (Tbl.find s.sessions n).isSome) ∧ ∀ g, g ∉ sitesOfHub h → getGuest t g = getGuest s g)) ∧
  (∀ (s : State) (h n : Nat) (e : Session) (b : Mailbox) (q : HeldRequest), h < 2 → hubUp s h = true → hubUp s (1 - h) = true → s.sessions = [(n, e)] →
    e.boxes = [(0, b)] → b.held = [(q.reply.rseq, q)] → q.ro = false → q.reply.entry ∉ (getHub s (1 - h)).journal →
      fenceUnjournaled s (1 - h) = complete s q.reply stFenced []) ∧
  ∀ (s : State) (h : Nat),
    ((2 ≤ h ∨ hubUp s h = true ∨ (getHub s h).selfTest = false ∨ hubUp s (1 - h) = false ∨ s.boot.hubsLost = true ∨
        ∃ f, s.fwUpdate = some f ∧ f.hub = h) →
      exec (.hubReturn h) s = .next s) ∧
    (h < 2 → hubUp s h = false → (getHub s h).selfTest = true → hubUp s (1 - h) = true → s.boot.hubsLost = false →
      (∀ f, s.fwUpdate = some f → f.hub ≠ h) →
      ∃ t, exec (.hubReturn h) s = .next (withReports s t) ∧ hubUp t h = true ∧ hubUp t (1 - h) = true ∧ t.lead = s.lead ∧
        (getHub t h).journal = (getHub s (1 - h)).journal ∧
        (Inv s → (∀ e ∈ s.sessions, e.2.seqOut.toNat < 2 ^ 62) →
          t.mem = s.mem ∧ t.parts = s.parts ∧ t.requests = s.requests ∧ ∀ g,
            getGuest t g = if g ∈ sitesOfHub h then { getGuest s g with mode := (getGuest s g).kept.getD (getGuest s g).mode, kept := none }
              else getGuest s g))

/-- While a hub's target answers, SETDASA gives it an address where it holds none (the model takes the family's rule, log 37), RSTDAA
takes it, ENEC and DISEC switch its events, and the GETs answer their bytes, which are free values (log 7); while it does not answer,
nothing happens. ALERT is cleared and released, FLOWRPT, LEN and the record buffer are written, DONE is cleared. GO submits the buffer, or
is refused while the other hub is busy. A submission ends with BAD_ARGUMENT, AUTH_FAIL or OK; a CONFIG that is accepted is in force, held
by both dies, and ends the sessions whose host entry it removes or lowers, and an OWNER record ends every session and leaves no CONFIG.
(R416, R423, R457, R458) -/
def Obligations.SidebandTarget : Prop :=
  (∀ (s : State) (h : Nat), sbAnswers s h = false → ∀ (a : BitVec 7) (ev : BitVec 8) (f : BitVec 16) (o : Nat) (w : BitVec 64),
    exec (.setdasa h a) s = .next s ∧ exec (.rstdaa h) s = .next s ∧ exec (.enec h ev) s = .next s ∧ exec (.disec h ev) s = .next s ∧
    exec (.getpid h) s = .next s ∧ exec (.getbcr h) s = .next s ∧ exec (.getdcr h) s = .next s ∧ exec (.getstatus h) s = .next s ∧
    exec (.alertClear h) s = .next s ∧ exec (.flowrptWrite h f) s = .next s ∧ exec (.go h) s = .next s ∧ exec (.doneClear h) s = .next s ∧
    exec (.sbRegisterWrite h o w) s = .next s) ∧
  (∀ (s : State) (h : Nat), sbAnswers s h = true → let x := getHub s h
    (∀ a, x.dynAddr = none → exec (.setdasa h a) s = .next (modHub s h fun x => { x with dynAddr := some a })) ∧
    (∀ a b, x.dynAddr = some b → exec (.setdasa h a) s = .next s) ∧
    exec (.rstdaa h) s = .next (modHub s h fun x => { x with dynAddr := none }) ∧
    (∀ ev, exec (.enec h ev) s = .next (modHub s h fun x => { x with events := x.events ||| ev })) ∧
    (∀ ev, exec (.disec h ev) s = .next (modHub s h fun x => { x with events := x.events &&& ~~~ ev })) ∧
    (∃ b, b.length = 6 ∧ exec (.getpid h) s = .next (emit s (.i3c h b))) ∧ (∃ b, exec (.getbcr h) s = .next (emit s (.i3c h [b]))) ∧
    (∃ b, exec (.getdcr h) s = .next (emit s (.i3c h [b]))) ∧ (∃ b, b.length = 2 ∧ exec (.getstatus h) s = .next (bumpFree (emit s (.i3c h b)))) ∧
    (x.alert = false → exec (.alertClear h) s = .next s) ∧
    (x.alert = true → exec (.alertClear h) s =
      .next (emit (modHub s h fun x => { x with alert := false }) (.pin (if h = 0 then "ALERT0#" else "ALERT1#") true))) ∧
    (∀ f, exec (.flowrptWrite h f) s = .next { s with ledger := { s.ledger with flowRpt := f, flowRptAt := some s.tally } }) ∧
    exec (.doneClear h) s = .next (modHub s h fun x => { x with recDone := false }) ∧
    (∀ w, exec (.sbRegisterWrite h 0x28 w) s = .next (modHub s h fun x => { x with recLen := w.setWidth 16 })) ∧
    (∀ o w, o % 8 = 0 → 0x4000 ≤ o → o < 0x8000 → Tbl.wf x.recBuf = true → ∃ t, exec (.sbRegisterWrite h o w) s = .next t ∧
      sbWord t h o = w.toNat ∧ (∀ p, p % 8 = 0 → 0x4000 ≤ p → p < 0x8000 → p ≠ o → sbWord t h p = sbWord s h p) ∧
      getHub t (1 - h) = getHub s (1 - h)) ∧
    (∀ o w, (o % 8 ≠ 0 ∨ (o ≠ 0x28 ∧ (o < 0x4000 ∨ 0x8000 ≤ o))) → exec (.sbRegisterWrite h o w) s = .next s) ∧
    (x.recBusy = true → exec (.go h) s = .next s) ∧
    (x.recBusy = false → (getHub s (1 - h)).recBusy = true →
      exec (.go h) s = .next (modHub s h fun x => { x with recDone := true, recResult := stModeConflict })) ∧
    (x.recBusy = false → (getHub s (1 - h)).recBusy = false →
      exec (.go h) s = .next (modHub s h fun x => { x with recBusy := true, recDone := false, recSub := recBytes x x.recLen.toNat }))) ∧
  (∀ (s : State) (h : Nat) (sig : Bool), (2 ≤ h ∨ (getHub s h).recBusy = false) → exec (.recordSubmissionDone h sig) s = .next s) ∧
  ∀ (s : State) (h : Nat) (sig : Bool), h < 2 → (getHub s h).recBusy = true →
    let x := getHub s h
    let b := x.recSub
    let run := exec (.recordSubmissionDone h sig) s
    let ends (s : State) (st : Status) : State := modHub s h fun x => { x with recBusy := false, recDone := true, recResult := st, recSub := [] }
    let formed : Prop := (at_ b 0 2 = 1 ∨ at_ b 0 2 = 2) ∧ 1 ≤ x.recLen.toNat ∧ x.recLen.toNat ≤ 16384 ∧ x.recLen.toNat = 32 + at_ b 4 4 + 2420 ∧
      at_ b 2 2 / 2 = 0 ∧ at_ b 16 16 = 0
    let c := parseConfig (recBody b) b
    let held (t : State) (type : BitVec 16) : Prop := ∃ v ∈ t.vault.recs, v.type = type ∧ v.signed = true ∧ v.body = recBody b ∧ v.on0 = true ∧ v.on1 = true
    (¬ formed → run = .next (ends s stBadArgument)) ∧
    (formed → recAllowed s b sig = false → run = .next (ends s stAuthFail)) ∧
    (formed → sig = false → run = .next (ends s stAuthFail)) ∧
    (formed → recAllowed s b sig = true → at_ b 0 2 = 2 → configForm (recBody b) = false → run = .next (ends s stBadArgument)) ∧
    (formed → recAllowed s b sig = true → at_ b 0 2 = 2 → configForm (recBody b) = true → ∃ t, run = .next (withReports s t) ∧
      t.vault.config = some c ∧ held t 2 ∧ t.resets.limit = BitVec.ofNat 8 c.limit ∧ t.resets.window = c.window ∧
      Tbl.get t.vault.counters 1 0 = Nat.max (Tbl.get s.vault.counters 1 0) c.version ∧
      (getHub t h).recResult = stOk ∧ (getHub t h).recDone = true ∧ (getHub t h).recBusy = false ∧
      (Inv s → ∀ n u, Tbl.find (writeRecord s b).sessions n = some u →
        let lowered : Prop := ∀ e, c.hosts.find? (fun e => decide (e.1 = u.subject)) = some e →
          ∃ x, hostEntry (writeRecord s b) u.subject = some x ∧ (e.2.1 < x.1 ∨ x.2 < e.2.2)
        (lowered → Tbl.find t.sessions n = none) ∧ (¬ lowered → (Tbl.find t.sessions n).isSome = true))) ∧
    (formed → recAllowed s b sig = true → at_ b 0 2 = 1 → ∃ t, run = .next (withReports s t) ∧ (Inv s → t.sessions = []) ∧ t.vault.config = none ∧
      t.vault.ownerKey = certKey (recBody b) ∧ held t 1 ∧ Tbl.get t.vault.counters 3 0 = Tbl.get s.vault.counters 3 0 + 1 ∧
      (getHub t h).recResult = stOk ∧ (getHub t h).recDone = true ∧ (getHub t h).recBusy = false)

/-- From every state in which memory is in its canonical form and partitions, requests and sessions are listed once each in rising order,
every step answers a state in which they still are. (R9, R160, R183) -/
def Obligations.EveryStepKeepsInvariant : Prop :=
  ∀ s t : State, Inv s → step s = .next t → Inv t

/-- The machine after reset meets the invariant, has nothing pending, is in bring-up with no phase begun, no partition, no session, no
request and every pin at rest. In memory in its canonical form a byte written reads back, every other byte is unchanged, and the form is
kept. That nothing is listed, and that it then reads 0, is the model's choice (log 5). (R9, R160, R183, R435, R446) -/
def Obligations.ResetAndMemory : Prop :=
  Inv State.reset ∧ State.reset.pending = [] ∧ State.reset.mem = [] ∧ State.reset.state = .bringUp ∧ State.reset.boot.phase = 0 ∧
  State.reset.tally = 0 ∧ State.reset.parts = [] ∧ State.reset.sessions = [] ∧ State.reset.requests = [] ∧ State.reset.cores = [] ∧
  State.reset.twin.role = .solo ∧ State.reset.clock.step = 0 ∧
  ∀ (m : List Host.Cell) (a : Nat) (b : Byte), Memory.wf m = true →
    Memory.wf (Mem.write m a b) = true ∧ Mem.read (Mem.write m a b) a = b ∧ ∀ c, c ≠ a → Mem.read (Mem.write m a b) c = Mem.read m c
end

