-- ==== Sys2Proof/Laws/State.lean ====
section
/-! SUPPORT. What the updates of one part of the state leave alone, field by field, and what they set. -/

namespace Sys2Proof.Machine

/-! ### setCore -/

@[simp] theorem setCore_pending (s : State) (k : Nat) (c : Core) : (setCore s k c).pending = s.pending := rfl
@[simp] theorem setCore_emitted (s : State) (k : Nat) (c : Core) : (setCore s k c).emitted = s.emitted := rfl
@[simp] theorem setCore_freeCtr (s : State) (k : Nat) (c : Core) : (setCore s k c).freeCtr = s.freeCtr := rfl
@[simp] theorem setCore_tally (s : State) (k : Nat) (c : Core) : (setCore s k c).tally = s.tally := rfl
@[simp] theorem setCore_master (s : State) (k : Nat) (c : Core) : (setCore s k c).master = s.master := rfl
@[simp] theorem setCore_mem (s : State) (k : Nat) (c : Core) : (setCore s k c).mem = s.mem := rfl
@[simp] theorem setCore_clusters (s : State) (k : Nat) (c : Core) : (setCore s k c).clusters = s.clusters := rfl
@[simp] theorem setCore_dies (s : State) (k : Nat) (c : Core) : (setCore s k c).dies = s.dies := rfl
@[simp] theorem setCore_badCores (s : State) (k : Nat) (c : Core) : (setCore s k c).badCores = s.badCores := rfl
@[simp] theorem setCore_links (s : State) (k : Nat) (c : Core) : (setCore s k c).links = s.links := rfl
@[simp] theorem setCore_optLinks (s : State) (k : Nat) (c : Core) : (setCore s k c).optLinks = s.optLinks := rfl
@[simp] theorem setCore_bank0 (s : State) (k : Nat) (c : Core) : (setCore s k c).bank0 = s.bank0 := rfl
@[simp] theorem setCore_bank1 (s : State) (k : Nat) (c : Core) : (setCore s k c).bank1 = s.bank1 := rfl
@[simp] theorem setCore_meshHalf (s : State) (k : Nat) (c : Core) : (setCore s k c).meshHalf = s.meshHalf := rfl
@[simp] theorem setCore_epoch (s : State) (k : Nat) (c : Core) : (setCore s k c).epoch = s.epoch := rfl
@[simp] theorem setCore_parts (s : State) (k : Nat) (c : Core) : (setCore s k c).parts = s.parts := rfl
@[simp] theorem setCore_jobs (s : State) (k : Nat) (c : Core) : (setCore s k c).jobs = s.jobs := rfl
@[simp] theorem setCore_hub0 (s : State) (k : Nat) (c : Core) : (setCore s k c).hub0 = s.hub0 := rfl
@[simp] theorem setCore_hub1 (s : State) (k : Nat) (c : Core) : (setCore s k c).hub1 = s.hub1 := rfl
@[simp] theorem setCore_lead (s : State) (k : Nat) (c : Core) : (setCore s k c).lead = s.lead := rfl
@[simp] theorem setCore_state (s : State) (k : Nat) (c : Core) : (setCore s k c).state = s.state := rfl
@[simp] theorem setCore_boot (s : State) (k : Nat) (c : Core) : (setCore s k c).boot = s.boot := rfl
@[simp] theorem setCore_resets (s : State) (k : Nat) (c : Core) : (setCore s k c).resets = s.resets := rfl
@[simp] theorem setCore_safeCause (s : State) (k : Nat) (c : Core) : (setCore s k c).safeCause = s.safeCause := rfl
@[simp] theorem setCore_sys (s : State) (k : Nat) (c : Core) : (setCore s k c).sys = s.sys := rfl
@[simp] theorem setCore_sessions (s : State) (k : Nat) (c : Core) : (setCore s k c).sessions = s.sessions := rfl
@[simp] theorem setCore_handshakes (s : State) (k : Nat) (c : Core) : (setCore s k c).handshakes = s.handshakes := rfl
@[simp] theorem setCore_nextEst (s : State) (k : Nat) (c : Core) : (setCore s k c).nextEst = s.nextEst := rfl
@[simp] theorem setCore_tickets (s : State) (k : Nat) (c : Core) : (setCore s k c).tickets = s.tickets := rfl
@[simp] theorem setCore_nextTicket (s : State) (k : Nat) (c : Core) : (setCore s k c).nextTicket = s.nextTicket := rfl
@[simp] theorem setCore_requests (s : State) (k : Nat) (c : Core) : (setCore s k c).requests = s.requests := rfl
@[simp] theorem setCore_nextReq (s : State) (k : Nat) (c : Core) : (setCore s k c).nextReq = s.nextReq := rfl
@[simp] theorem setCore_waits (s : State) (k : Nat) (c : Core) : (setCore s k c).waits = s.waits := rfl
@[simp] theorem setCore_replacing (s : State) (k : Nat) (c : Core) : (setCore s k c).replacing = s.replacing := rfl
@[simp] theorem setCore_optDies (s : State) (k : Nat) (c : Core) : (setCore s k c).optDies = s.optDies := rfl
@[simp] theorem setCore_assured (s : State) (k : Nat) (c : Core) : (setCore s k c).assured = s.assured := rfl
@[simp] theorem setCore_timeSent (s : State) (k : Nat) (c : Core) : (setCore s k c).timeSent = s.timeSent := rfl
@[simp] theorem setCore_timeMeas (s : State) (k : Nat) (c : Core) : (setCore s k c).timeMeas = s.timeMeas := rfl
@[simp] theorem setCore_twin (s : State) (k : Nat) (c : Core) : (setCore s k c).twin = s.twin := rfl
@[simp] theorem setCore_guests (s : State) (k : Nat) (c : Core) : (setCore s k c).guests = s.guests := rfl
@[simp] theorem setCore_stages (s : State) (k : Nat) (c : Core) : (setCore s k c).stages = s.stages := rfl
@[simp] theorem setCore_half0 (s : State) (k : Nat) (c : Core) : (setCore s k c).half0 = s.half0 := rfl
@[simp] theorem setCore_half1 (s : State) (k : Nat) (c : Core) : (setCore s k c).half1 = s.half1 := rfl
@[simp] theorem setCore_clock (s : State) (k : Nat) (c : Core) : (setCore s k c).clock = s.clock := rfl
@[simp] theorem setCore_ledger (s : State) (k : Nat) (c : Core) : (setCore s k c).ledger = s.ledger := rfl
@[simp] theorem setCore_vault (s : State) (k : Nat) (c : Core) : (setCore s k c).vault = s.vault := rfl
@[simp] theorem setCore_fwUpdate (s : State) (k : Nat) (c : Core) : (setCore s k c).fwUpdate = s.fwUpdate := rfl
@[simp] theorem setCore_loaderWrites (s : State) (k : Nat) (c : Core) : (setCore s k c).loaderWrites = s.loaderWrites := rfl
@[simp] theorem setCore_fenceWaits (s : State) (k : Nat) (c : Core) : (setCore s k c).fenceWaits = s.fenceWaits := rfl
@[simp] theorem setCore_panelFence (s : State) (k : Nat) (c : Core) : (setCore s k c).panelFence = s.panelFence := rfl
@[simp] theorem setCore_panelReset (s : State) (k : Nat) (c : Core) : (setCore s k c).panelReset = s.panelReset := rfl
@[simp] theorem setCore_hubStage (s : State) (k : Nat) (c : Core) : (setCore s k c).hubStage = s.hubStage := rfl
@[simp] theorem setCore_guestCut (s : State) (k : Nat) (c : Core) : (setCore s k c).guestCut = s.guestCut := rfl
@[simp] theorem setCore_denyLimit (s : State) (k : Nat) (c : Core) : (setCore s k c).denyLimit = s.denyLimit := rfl
@[simp] theorem setCore_pins (s : State) (k : Nat) (c : Core) : (setCore s k c).pins = s.pins := rfl

/-! ### setClu -/

@[simp] theorem setClu_pending (s : State) (k : Nat) (c : Cluster) : (setClu s k c).pending = s.pending := rfl
@[simp] theorem setClu_emitted (s : State) (k : Nat) (c : Cluster) : (setClu s k c).emitted = s.emitted := rfl
@[simp] theorem setClu_freeCtr (s : State) (k : Nat) (c : Cluster) : (setClu s k c).freeCtr = s.freeCtr := rfl
@[simp] theorem setClu_tally (s : State) (k : Nat) (c : Cluster) : (setClu s k c).tally = s.tally := rfl
@[simp] theorem setClu_master (s : State) (k : Nat) (c : Cluster) : (setClu s k c).master = s.master := rfl
@[simp] theorem setClu_mem (s : State) (k : Nat) (c : Cluster) : (setClu s k c).mem = s.mem := rfl
@[simp] theorem setClu_cores (s : State) (k : Nat) (c : Cluster) : (setClu s k c).cores = s.cores := rfl
@[simp] theorem setClu_dies (s : State) (k : Nat) (c : Cluster) : (setClu s k c).dies = s.dies := rfl
@[simp] theorem setClu_badCores (s : State) (k : Nat) (c : Cluster) : (setClu s k c).badCores = s.badCores := rfl
@[simp] theorem setClu_links (s : State) (k : Nat) (c : Cluster) : (setClu s k c).links = s.links := rfl
@[simp] theorem setClu_optLinks (s : State) (k : Nat) (c : Cluster) : (setClu s k c).optLinks = s.optLinks := rfl
@[simp] theorem setClu_bank0 (s : State) (k : Nat) (c : Cluster) : (setClu s k c).bank0 = s.bank0 := rfl
@[simp] theorem setClu_bank1 (s : State) (k : Nat) (c : Cluster) : (setClu s k c).bank1 = s.bank1 := rfl
@[simp] theorem setClu_meshHalf (s : State) (k : Nat) (c : Cluster) : (setClu s k c).meshHalf = s.meshHalf := rfl
@[simp] theorem setClu_epoch (s : State) (k : Nat) (c : Cluster) : (setClu s k c).epoch = s.epoch := rfl
@[simp] theorem setClu_parts (s : State) (k : Nat) (c : Cluster) : (setClu s k c).parts = s.parts := rfl
@[simp] theorem setClu_jobs (s : State) (k : Nat) (c : Cluster) : (setClu s k c).jobs = s.jobs := rfl
@[simp] theorem setClu_hub0 (s : State) (k : Nat) (c : Cluster) : (setClu s k c).hub0 = s.hub0 := rfl
@[simp] theorem setClu_hub1 (s : State) (k : Nat) (c : Cluster) : (setClu s k c).hub1 = s.hub1 := rfl
@[simp] theorem setClu_lead (s : State) (k : Nat) (c : Cluster) : (setClu s k c).lead = s.lead := rfl
@[simp] theorem setClu_state (s : State) (k : Nat) (c : Cluster) : (setClu s k c).state = s.state := rfl
@[simp] theorem setClu_boot (s : State) (k : Nat) (c : Cluster) : (setClu s k c).boot = s.boot := rfl
@[simp] theorem setClu_resets (s : State) (k : Nat) (c : Cluster) : (setClu s k c).resets = s.resets := rfl
@[simp] theorem setClu_safeCause (s : State) (k : Nat) (c : Cluster) : (setClu s k c).safeCause = s.safeCause := rfl
@[simp] theorem setClu_sys (s : State) (k : Nat) (c : Cluster) : (setClu s k c).sys = s.sys := rfl
@[simp] theorem setClu_sessions (s : State) (k : Nat) (c : Cluster) : (setClu s k c).sessions = s.sessions := rfl
@[simp] theorem setClu_handshakes (s : State) (k : Nat) (c : Cluster) : (setClu s k c).handshakes = s.handshakes := rfl
@[simp] theorem setClu_nextEst (s : State) (k : Nat) (c : Cluster) : (setClu s k c).nextEst = s.nextEst := rfl
@[simp] theorem setClu_tickets (s : State) (k : Nat) (c : Cluster) : (setClu s k c).tickets = s.tickets := rfl
@[simp] theorem setClu_nextTicket (s : State) (k : Nat) (c : Cluster) : (setClu s k c).nextTicket = s.nextTicket := rfl
@[simp] theorem setClu_requests (s : State) (k : Nat) (c : Cluster) : (setClu s k c).requests = s.requests := rfl
@[simp] theorem setClu_nextReq (s : State) (k : Nat) (c : Cluster) : (setClu s k c).nextReq = s.nextReq := rfl
@[simp] theorem setClu_waits (s : State) (k : Nat) (c : Cluster) : (setClu s k c).waits = s.waits := rfl
@[simp] theorem setClu_replacing (s : State) (k : Nat) (c : Cluster) : (setClu s k c).replacing = s.replacing := rfl
@[simp] theorem setClu_optDies (s : State) (k : Nat) (c : Cluster) : (setClu s k c).optDies = s.optDies := rfl
@[simp] theorem setClu_assured (s : State) (k : Nat) (c : Cluster) : (setClu s k c).assured = s.assured := rfl
@[simp] theorem setClu_timeSent (s : State) (k : Nat) (c : Cluster) : (setClu s k c).timeSent = s.timeSent := rfl
@[simp] theorem setClu_timeMeas (s : State) (k : Nat) (c : Cluster) : (setClu s k c).timeMeas = s.timeMeas := rfl
@[simp] theorem setClu_twin (s : State) (k : Nat) (c : Cluster) : (setClu s k c).twin = s.twin := rfl
@[simp] theorem setClu_guests (s : State) (k : Nat) (c : Cluster) : (setClu s k c).guests = s.guests := rfl
@[simp] theorem setClu_stages (s : State) (k : Nat) (c : Cluster) : (setClu s k c).stages = s.stages := rfl
@[simp] theorem setClu_half0 (s : State) (k : Nat) (c : Cluster) : (setClu s k c).half0 = s.half0 := rfl
@[simp] theorem setClu_half1 (s : State) (k : Nat) (c : Cluster) : (setClu s k c).half1 = s.half1 := rfl
@[simp] theorem setClu_clock (s : State) (k : Nat) (c : Cluster) : (setClu s k c).clock = s.clock := rfl
@[simp] theorem setClu_ledger (s : State) (k : Nat) (c : Cluster) : (setClu s k c).ledger = s.ledger := rfl
@[simp] theorem setClu_vault (s : State) (k : Nat) (c : Cluster) : (setClu s k c).vault = s.vault := rfl
@[simp] theorem setClu_fwUpdate (s : State) (k : Nat) (c : Cluster) : (setClu s k c).fwUpdate = s.fwUpdate := rfl
@[simp] theorem setClu_loaderWrites (s : State) (k : Nat) (c : Cluster) : (setClu s k c).loaderWrites = s.loaderWrites := rfl
@[simp] theorem setClu_fenceWaits (s : State) (k : Nat) (c : Cluster) : (setClu s k c).fenceWaits = s.fenceWaits := rfl
@[simp] theorem setClu_panelFence (s : State) (k : Nat) (c : Cluster) : (setClu s k c).panelFence = s.panelFence := rfl
@[simp] theorem setClu_panelReset (s : State) (k : Nat) (c : Cluster) : (setClu s k c).panelReset = s.panelReset := rfl
@[simp] theorem setClu_hubStage (s : State) (k : Nat) (c : Cluster) : (setClu s k c).hubStage = s.hubStage := rfl
@[simp] theorem setClu_guestCut (s : State) (k : Nat) (c : Cluster) : (setClu s k c).guestCut = s.guestCut := rfl
@[simp] theorem setClu_denyLimit (s : State) (k : Nat) (c : Cluster) : (setClu s k c).denyLimit = s.denyLimit := rfl
@[simp] theorem setClu_pins (s : State) (k : Nat) (c : Cluster) : (setClu s k c).pins = s.pins := rfl

/-! ### setDie -/

@[simp] theorem setDie_pending (s : State) (k : Nat) (d : Die) : (setDie s k d).pending = s.pending := rfl
@[simp] theorem setDie_emitted (s : State) (k : Nat) (d : Die) : (setDie s k d).emitted = s.emitted := rfl
@[simp] theorem setDie_freeCtr (s : State) (k : Nat) (d : Die) : (setDie s k d).freeCtr = s.freeCtr := rfl
@[simp] theorem setDie_tally (s : State) (k : Nat) (d : Die) : (setDie s k d).tally = s.tally := rfl
@[simp] theorem setDie_master (s : State) (k : Nat) (d : Die) : (setDie s k d).master = s.master := rfl
@[simp] theorem setDie_mem (s : State) (k : Nat) (d : Die) : (setDie s k d).mem = s.mem := rfl
@[simp] theorem setDie_cores (s : State) (k : Nat) (d : Die) : (setDie s k d).cores = s.cores := rfl
@[simp] theorem setDie_clusters (s : State) (k : Nat) (d : Die) : (setDie s k d).clusters = s.clusters := rfl
@[simp] theorem setDie_badCores (s : State) (k : Nat) (d : Die) : (setDie s k d).badCores = s.badCores := rfl
@[simp] theorem setDie_links (s : State) (k : Nat) (d : Die) : (setDie s k d).links = s.links := rfl
@[simp] theorem setDie_optLinks (s : State) (k : Nat) (d : Die) : (setDie s k d).optLinks = s.optLinks := rfl
@[simp] theorem setDie_bank0 (s : State) (k : Nat) (d : Die) : (setDie s k d).bank0 = s.bank0 := rfl
@[simp] theorem setDie_bank1 (s : State) (k : Nat) (d : Die) : (setDie s k d).bank1 = s.bank1 := rfl
@[simp] theorem setDie_meshHalf (s : State) (k : Nat) (d : Die) : (setDie s k d).meshHalf = s.meshHalf := rfl
@[simp] theorem setDie_epoch (s : State) (k : Nat) (d : Die) : (setDie s k d).epoch = s.epoch := rfl
@[simp] theorem setDie_parts (s : State) (k : Nat) (d : Die) : (setDie s k d).parts = s.parts := rfl
@[simp] theorem setDie_jobs (s : State) (k : Nat) (d : Die) : (setDie s k d).jobs = s.jobs := rfl
@[simp] theorem setDie_hub0 (s : State) (k : Nat) (d : Die) : (setDie s k d).hub0 = s.hub0 := rfl
@[simp] theorem setDie_hub1 (s : State) (k : Nat) (d : Die) : (setDie s k d).hub1 = s.hub1 := rfl
@[simp] theorem setDie_lead (s : State) (k : Nat) (d : Die) : (setDie s k d).lead = s.lead := rfl
@[simp] theorem setDie_state (s : State) (k : Nat) (d : Die) : (setDie s k d).state = s.state := rfl
@[simp] theorem setDie_boot (s : State) (k : Nat) (d : Die) : (setDie s k d).boot = s.boot := rfl
@[simp] theorem setDie_resets (s : State) (k : Nat) (d : Die) : (setDie s k d).resets = s.resets := rfl
@[simp] theorem setDie_safeCause (s : State) (k : Nat) (d : Die) : (setDie s k d).safeCause = s.safeCause := rfl
@[simp] theorem setDie_sys (s : State) (k : Nat) (d : Die) : (setDie s k d).sys = s.sys := rfl
@[simp] theorem setDie_sessions (s : State) (k : Nat) (d : Die) : (setDie s k d).sessions = s.sessions := rfl
@[simp] theorem setDie_handshakes (s : State) (k : Nat) (d : Die) : (setDie s k d).handshakes = s.handshakes := rfl
@[simp] theorem setDie_nextEst (s : State) (k : Nat) (d : Die) : (setDie s k d).nextEst = s.nextEst := rfl
@[simp] theorem setDie_tickets (s : State) (k : Nat) (d : Die) : (setDie s k d).tickets = s.tickets := rfl
@[simp] theorem setDie_nextTicket (s : State) (k : Nat) (d : Die) : (setDie s k d).nextTicket = s.nextTicket := rfl
@[simp] theorem setDie_requests (s : State) (k : Nat) (d : Die) : (setDie s k d).requests = s.requests := rfl
@[simp] theorem setDie_nextReq (s : State) (k : Nat) (d : Die) : (setDie s k d).nextReq = s.nextReq := rfl
@[simp] theorem setDie_waits (s : State) (k : Nat) (d : Die) : (setDie s k d).waits = s.waits := rfl
@[simp] theorem setDie_replacing (s : State) (k : Nat) (d : Die) : (setDie s k d).replacing = s.replacing := rfl
@[simp] theorem setDie_optDies (s : State) (k : Nat) (d : Die) : (setDie s k d).optDies = s.optDies := rfl
@[simp] theorem setDie_assured (s : State) (k : Nat) (d : Die) : (setDie s k d).assured = s.assured := rfl
@[simp] theorem setDie_timeSent (s : State) (k : Nat) (d : Die) : (setDie s k d).timeSent = s.timeSent := rfl
@[simp] theorem setDie_timeMeas (s : State) (k : Nat) (d : Die) : (setDie s k d).timeMeas = s.timeMeas := rfl
@[simp] theorem setDie_twin (s : State) (k : Nat) (d : Die) : (setDie s k d).twin = s.twin := rfl
@[simp] theorem setDie_guests (s : State) (k : Nat) (d : Die) : (setDie s k d).guests = s.guests := rfl
@[simp] theorem setDie_stages (s : State) (k : Nat) (d : Die) : (setDie s k d).stages = s.stages := rfl
@[simp] theorem setDie_half0 (s : State) (k : Nat) (d : Die) : (setDie s k d).half0 = s.half0 := rfl
@[simp] theorem setDie_half1 (s : State) (k : Nat) (d : Die) : (setDie s k d).half1 = s.half1 := rfl
@[simp] theorem setDie_clock (s : State) (k : Nat) (d : Die) : (setDie s k d).clock = s.clock := rfl
@[simp] theorem setDie_ledger (s : State) (k : Nat) (d : Die) : (setDie s k d).ledger = s.ledger := rfl
@[simp] theorem setDie_vault (s : State) (k : Nat) (d : Die) : (setDie s k d).vault = s.vault := rfl
@[simp] theorem setDie_fwUpdate (s : State) (k : Nat) (d : Die) : (setDie s k d).fwUpdate = s.fwUpdate := rfl
@[simp] theorem setDie_loaderWrites (s : State) (k : Nat) (d : Die) : (setDie s k d).loaderWrites = s.loaderWrites := rfl
@[simp] theorem setDie_fenceWaits (s : State) (k : Nat) (d : Die) : (setDie s k d).fenceWaits = s.fenceWaits := rfl
@[simp] theorem setDie_panelFence (s : State) (k : Nat) (d : Die) : (setDie s k d).panelFence = s.panelFence := rfl
@[simp] theorem setDie_panelReset (s : State) (k : Nat) (d : Die) : (setDie s k d).panelReset = s.panelReset := rfl
@[simp] theorem setDie_hubStage (s : State) (k : Nat) (d : Die) : (setDie s k d).hubStage = s.hubStage := rfl
@[simp] theorem setDie_guestCut (s : State) (k : Nat) (d : Die) : (setDie s k d).guestCut = s.guestCut := rfl
@[simp] theorem setDie_denyLimit (s : State) (k : Nat) (d : Die) : (setDie s k d).denyLimit = s.denyLimit := rfl
@[simp] theorem setDie_pins (s : State) (k : Nat) (d : Die) : (setDie s k d).pins = s.pins := rfl

/-! ### setPart -/

@[simp] theorem setPart_pending (s : State) (p : Nat) (q : Partition) : (setPart s p q).pending = s.pending := rfl
@[simp] theorem setPart_emitted (s : State) (p : Nat) (q : Partition) : (setPart s p q).emitted = s.emitted := rfl
@[simp] theorem setPart_freeCtr (s : State) (p : Nat) (q : Partition) : (setPart s p q).freeCtr = s.freeCtr := rfl
@[simp] theorem setPart_tally (s : State) (p : Nat) (q : Partition) : (setPart s p q).tally = s.tally := rfl
@[simp] theorem setPart_master (s : State) (p : Nat) (q : Partition) : (setPart s p q).master = s.master := rfl
@[simp] theorem setPart_mem (s : State) (p : Nat) (q : Partition) : (setPart s p q).mem = s.mem := rfl
@[simp] theorem setPart_cores (s : State) (p : Nat) (q : Partition) : (setPart s p q).cores = s.cores := rfl
@[simp] theorem setPart_clusters (s : State) (p : Nat) (q : Partition) : (setPart s p q).clusters = s.clusters := rfl
@[simp] theorem setPart_dies (s : State) (p : Nat) (q : Partition) : (setPart s p q).dies = s.dies := rfl
@[simp] theorem setPart_badCores (s : State) (p : Nat) (q : Partition) : (setPart s p q).badCores = s.badCores := rfl
@[simp] theorem setPart_links (s : State) (p : Nat) (q : Partition) : (setPart s p q).links = s.links := rfl
@[simp] theorem setPart_optLinks (s : State) (p : Nat) (q : Partition) : (setPart s p q).optLinks = s.optLinks := rfl
@[simp] theorem setPart_bank0 (s : State) (p : Nat) (q : Partition) : (setPart s p q).bank0 = s.bank0 := rfl
@[simp] theorem setPart_bank1 (s : State) (p : Nat) (q : Partition) : (setPart s p q).bank1 = s.bank1 := rfl
@[simp] theorem setPart_meshHalf (s : State) (p : Nat) (q : Partition) : (setPart s p q).meshHalf = s.meshHalf := rfl
@[simp] theorem setPart_epoch (s : State) (p : Nat) (q : Partition) : (setPart s p q).epoch = s.epoch := rfl
@[simp] theorem setPart_jobs (s : State) (p : Nat) (q : Partition) : (setPart s p q).jobs = s.jobs := rfl
@[simp] theorem setPart_hub0 (s : State) (p : Nat) (q : Partition) : (setPart s p q).hub0 = s.hub0 := rfl
@[simp] theorem setPart_hub1 (s : State) (p : Nat) (q : Partition) : (setPart s p q).hub1 = s.hub1 := rfl
@[simp] theorem setPart_lead (s : State) (p : Nat) (q : Partition) : (setPart s p q).lead = s.lead := rfl
@[simp] theorem setPart_state (s : State) (p : Nat) (q : Partition) : (setPart s p q).state = s.state := rfl
@[simp] theorem setPart_boot (s : State) (p : Nat) (q : Partition) : (setPart s p q).boot = s.boot := rfl
@[simp] theorem setPart_resets (s : State) (p : Nat) (q : Partition) : (setPart s p q).resets = s.resets := rfl
@[simp] theorem setPart_safeCause (s : State) (p : Nat) (q : Partition) : (setPart s p q).safeCause = s.safeCause := rfl
@[simp] theorem setPart_sys (s : State) (p : Nat) (q : Partition) : (setPart s p q).sys = s.sys := rfl
@[simp] theorem setPart_sessions (s : State) (p : Nat) (q : Partition) : (setPart s p q).sessions = s.sessions := rfl
@[simp] theorem setPart_handshakes (s : State) (p : Nat) (q : Partition) : (setPart s p q).handshakes = s.handshakes := rfl
@[simp] theorem setPart_nextEst (s : State) (p : Nat) (q : Partition) : (setPart s p q).nextEst = s.nextEst := rfl
@[simp] theorem setPart_tickets (s : State) (p : Nat) (q : Partition) : (setPart s p q).tickets = s.tickets := rfl
@[simp] theorem setPart_nextTicket (s : State) (p : Nat) (q : Partition) : (setPart s p q).nextTicket = s.nextTicket := rfl
@[simp] theorem setPart_requests (s : State) (p : Nat) (q : Partition) : (setPart s p q).requests = s.requests := rfl
@[simp] theorem setPart_nextReq (s : State) (p : Nat) (q : Partition) : (setPart s p q).nextReq = s.nextReq := rfl
@[simp] theorem setPart_waits (s : State) (p : Nat) (q : Partition) : (setPart s p q).waits = s.waits := rfl
@[simp] theorem setPart_replacing (s : State) (p : Nat) (q : Partition) : (setPart s p q).replacing = s.replacing := rfl
@[simp] theorem setPart_optDies (s : State) (p : Nat) (q : Partition) : (setPart s p q).optDies = s.optDies := rfl
@[simp] theorem setPart_assured (s : State) (p : Nat) (q : Partition) : (setPart s p q).assured = s.assured := rfl
@[simp] theorem setPart_timeSent (s : State) (p : Nat) (q : Partition) : (setPart s p q).timeSent = s.timeSent := rfl
@[simp] theorem setPart_timeMeas (s : State) (p : Nat) (q : Partition) : (setPart s p q).timeMeas = s.timeMeas := rfl
@[simp] theorem setPart_twin (s : State) (p : Nat) (q : Partition) : (setPart s p q).twin = s.twin := rfl
@[simp] theorem setPart_guests (s : State) (p : Nat) (q : Partition) : (setPart s p q).guests = s.guests := rfl
@[simp] theorem setPart_stages (s : State) (p : Nat) (q : Partition) : (setPart s p q).stages = s.stages := rfl
@[simp] theorem setPart_half0 (s : State) (p : Nat) (q : Partition) : (setPart s p q).half0 = s.half0 := rfl
@[simp] theorem setPart_half1 (s : State) (p : Nat) (q : Partition) : (setPart s p q).half1 = s.half1 := rfl
@[simp] theorem setPart_clock (s : State) (p : Nat) (q : Partition) : (setPart s p q).clock = s.clock := rfl
@[simp] theorem setPart_ledger (s : State) (p : Nat) (q : Partition) : (setPart s p q).ledger = s.ledger := rfl
@[simp] theorem setPart_vault (s : State) (p : Nat) (q : Partition) : (setPart s p q).vault = s.vault := rfl
@[simp] theorem setPart_fwUpdate (s : State) (p : Nat) (q : Partition) : (setPart s p q).fwUpdate = s.fwUpdate := rfl
@[simp] theorem setPart_loaderWrites (s : State) (p : Nat) (q : Partition) : (setPart s p q).loaderWrites = s.loaderWrites := rfl
@[simp] theorem setPart_fenceWaits (s : State) (p : Nat) (q : Partition) : (setPart s p q).fenceWaits = s.fenceWaits := rfl
@[simp] theorem setPart_panelFence (s : State) (p : Nat) (q : Partition) : (setPart s p q).panelFence = s.panelFence := rfl
@[simp] theorem setPart_panelReset (s : State) (p : Nat) (q : Partition) : (setPart s p q).panelReset = s.panelReset := rfl
@[simp] theorem setPart_hubStage (s : State) (p : Nat) (q : Partition) : (setPart s p q).hubStage = s.hubStage := rfl
@[simp] theorem setPart_guestCut (s : State) (p : Nat) (q : Partition) : (setPart s p q).guestCut = s.guestCut := rfl
@[simp] theorem setPart_denyLimit (s : State) (p : Nat) (q : Partition) : (setPart s p q).denyLimit = s.denyLimit := rfl
@[simp] theorem setPart_pins (s : State) (p : Nat) (q : Partition) : (setPart s p q).pins = s.pins := rfl

/-! ### setJob -/

@[simp] theorem setJob_pending (s : State) (j : Nat) (x : Job) : (setJob s j x).pending = s.pending := rfl
@[simp] theorem setJob_emitted (s : State) (j : Nat) (x : Job) : (setJob s j x).emitted = s.emitted := rfl
@[simp] theorem setJob_freeCtr (s : State) (j : Nat) (x : Job) : (setJob s j x).freeCtr = s.freeCtr := rfl
@[simp] theorem setJob_tally (s : State) (j : Nat) (x : Job) : (setJob s j x).tally = s.tally := rfl
@[simp] theorem setJob_master (s : State) (j : Nat) (x : Job) : (setJob s j x).master = s.master := rfl
@[simp] theorem setJob_mem (s : State) (j : Nat) (x : Job) : (setJob s j x).mem = s.mem := rfl
@[simp] theorem setJob_cores (s : State) (j : Nat) (x : Job) : (setJob s j x).cores = s.cores := rfl
@[simp] theorem setJob_clusters (s : State) (j : Nat) (x : Job) : (setJob s j x).clusters = s.clusters := rfl
@[simp] theorem setJob_dies (s : State) (j : Nat) (x : Job) : (setJob s j x).dies = s.dies := rfl
@[simp] theorem setJob_badCores (s : State) (j : Nat) (x : Job) : (setJob s j x).badCores = s.badCores := rfl
@[simp] theorem setJob_links (s : State) (j : Nat) (x : Job) : (setJob s j x).links = s.links := rfl
@[simp] theorem setJob_optLinks (s : State) (j : Nat) (x : Job) : (setJob s j x).optLinks = s.optLinks := rfl
@[simp] theorem setJob_bank0 (s : State) (j : Nat) (x : Job) : (setJob s j x).bank0 = s.bank0 := rfl
@[simp] theorem setJob_bank1 (s : State) (j : Nat) (x : Job) : (setJob s j x).bank1 = s.bank1 := rfl
@[simp] theorem setJob_meshHalf (s : State) (j : Nat) (x : Job) : (setJob s j x).meshHalf = s.meshHalf := rfl
@[simp] theorem setJob_epoch (s : State) (j : Nat) (x : Job) : (setJob s j x).epoch = s.epoch := rfl
@[simp] theorem setJob_parts (s : State) (j : Nat) (x : Job) : (setJob s j x).parts = s.parts := rfl
@[simp] theorem setJob_hub0 (s : State) (j : Nat) (x : Job) : (setJob s j x).hub0 = s.hub0 := rfl
@[simp] theorem setJob_hub1 (s : State) (j : Nat) (x : Job) : (setJob s j x).hub1 = s.hub1 := rfl
@[simp] theorem setJob_lead (s : State) (j : Nat) (x : Job) : (setJob s j x).lead = s.lead := rfl
@[simp] theorem setJob_state (s : State) (j : Nat) (x : Job) : (setJob s j x).state = s.state := rfl
@[simp] theorem setJob_boot (s : State) (j : Nat) (x : Job) : (setJob s j x).boot = s.boot := rfl
@[simp] theorem setJob_resets (s : State) (j : Nat) (x : Job) : (setJob s j x).resets = s.resets := rfl
@[simp] theorem setJob_safeCause (s : State) (j : Nat) (x : Job) : (setJob s j x).safeCause = s.safeCause := rfl
@[simp] theorem setJob_sys (s : State) (j : Nat) (x : Job) : (setJob s j x).sys = s.sys := rfl
@[simp] theorem setJob_sessions (s : State) (j : Nat) (x : Job) : (setJob s j x).sessions = s.sessions := rfl
@[simp] theorem setJob_handshakes (s : State) (j : Nat) (x : Job) : (setJob s j x).handshakes = s.handshakes := rfl
@[simp] theorem setJob_nextEst (s : State) (j : Nat) (x : Job) : (setJob s j x).nextEst = s.nextEst := rfl
@[simp] theorem setJob_tickets (s : State) (j : Nat) (x : Job) : (setJob s j x).tickets = s.tickets := rfl
@[simp] theorem setJob_nextTicket (s : State) (j : Nat) (x : Job) : (setJob s j x).nextTicket = s.nextTicket := rfl
@[simp] theorem setJob_requests (s : State) (j : Nat) (x : Job) : (setJob s j x).requests = s.requests := rfl
@[simp] theorem setJob_nextReq (s : State) (j : Nat) (x : Job) : (setJob s j x).nextReq = s.nextReq := rfl
@[simp] theorem setJob_waits (s : State) (j : Nat) (x : Job) : (setJob s j x).waits = s.waits := rfl
@[simp] theorem setJob_replacing (s : State) (j : Nat) (x : Job) : (setJob s j x).replacing = s.replacing := rfl
@[simp] theorem setJob_optDies (s : State) (j : Nat) (x : Job) : (setJob s j x).optDies = s.optDies := rfl
@[simp] theorem setJob_assured (s : State) (j : Nat) (x : Job) : (setJob s j x).assured = s.assured := rfl
@[simp] theorem setJob_timeSent (s : State) (j : Nat) (x : Job) : (setJob s j x).timeSent = s.timeSent := rfl
@[simp] theorem setJob_timeMeas (s : State) (j : Nat) (x : Job) : (setJob s j x).timeMeas = s.timeMeas := rfl
@[simp] theorem setJob_twin (s : State) (j : Nat) (x : Job) : (setJob s j x).twin = s.twin := rfl
@[simp] theorem setJob_guests (s : State) (j : Nat) (x : Job) : (setJob s j x).guests = s.guests := rfl
@[simp] theorem setJob_stages (s : State) (j : Nat) (x : Job) : (setJob s j x).stages = s.stages := rfl
@[simp] theorem setJob_half0 (s : State) (j : Nat) (x : Job) : (setJob s j x).half0 = s.half0 := rfl
@[simp] theorem setJob_half1 (s : State) (j : Nat) (x : Job) : (setJob s j x).half1 = s.half1 := rfl
@[simp] theorem setJob_clock (s : State) (j : Nat) (x : Job) : (setJob s j x).clock = s.clock := rfl
@[simp] theorem setJob_ledger (s : State) (j : Nat) (x : Job) : (setJob s j x).ledger = s.ledger := rfl
@[simp] theorem setJob_vault (s : State) (j : Nat) (x : Job) : (setJob s j x).vault = s.vault := rfl
@[simp] theorem setJob_fwUpdate (s : State) (j : Nat) (x : Job) : (setJob s j x).fwUpdate = s.fwUpdate := rfl
@[simp] theorem setJob_loaderWrites (s : State) (j : Nat) (x : Job) : (setJob s j x).loaderWrites = s.loaderWrites := rfl
@[simp] theorem setJob_fenceWaits (s : State) (j : Nat) (x : Job) : (setJob s j x).fenceWaits = s.fenceWaits := rfl
@[simp] theorem setJob_panelFence (s : State) (j : Nat) (x : Job) : (setJob s j x).panelFence = s.panelFence := rfl
@[simp] theorem setJob_panelReset (s : State) (j : Nat) (x : Job) : (setJob s j x).panelReset = s.panelReset := rfl
@[simp] theorem setJob_hubStage (s : State) (j : Nat) (x : Job) : (setJob s j x).hubStage = s.hubStage := rfl
@[simp] theorem setJob_guestCut (s : State) (j : Nat) (x : Job) : (setJob s j x).guestCut = s.guestCut := rfl
@[simp] theorem setJob_denyLimit (s : State) (j : Nat) (x : Job) : (setJob s j x).denyLimit = s.denyLimit := rfl
@[simp] theorem setJob_pins (s : State) (j : Nat) (x : Job) : (setJob s j x).pins = s.pins := rfl

/-! ### emit -/

@[simp] theorem emit_pending (s : State) (e : Emit) : (emit s e).pending = s.pending := rfl
@[simp] theorem emit_freeCtr (s : State) (e : Emit) : (emit s e).freeCtr = s.freeCtr := rfl
@[simp] theorem emit_tally (s : State) (e : Emit) : (emit s e).tally = s.tally := rfl
@[simp] theorem emit_master (s : State) (e : Emit) : (emit s e).master = s.master := rfl
@[simp] theorem emit_mem (s : State) (e : Emit) : (emit s e).mem = s.mem := rfl
@[simp] theorem emit_cores (s : State) (e : Emit) : (emit s e).cores = s.cores := rfl
@[simp] theorem emit_clusters (s : State) (e : Emit) : (emit s e).clusters = s.clusters := rfl
@[simp] theorem emit_dies (s : State) (e : Emit) : (emit s e).dies = s.dies := rfl
@[simp] theorem emit_badCores (s : State) (e : Emit) : (emit s e).badCores = s.badCores := rfl
@[simp] theorem emit_links (s : State) (e : Emit) : (emit s e).links = s.links := rfl
@[simp] theorem emit_optLinks (s : State) (e : Emit) : (emit s e).optLinks = s.optLinks := rfl
@[simp] theorem emit_bank0 (s : State) (e : Emit) : (emit s e).bank0 = s.bank0 := rfl
@[simp] theorem emit_bank1 (s : State) (e : Emit) : (emit s e).bank1 = s.bank1 := rfl
@[simp] theorem emit_meshHalf (s : State) (e : Emit) : (emit s e).meshHalf = s.meshHalf := rfl
@[simp] theorem emit_epoch (s : State) (e : Emit) : (emit s e).epoch = s.epoch := rfl
@[simp] theorem emit_parts (s : State) (e : Emit) : (emit s e).parts = s.parts := rfl
@[simp] theorem emit_jobs (s : State) (e : Emit) : (emit s e).jobs = s.jobs := rfl
@[simp] theorem emit_hub0 (s : State) (e : Emit) : (emit s e).hub0 = s.hub0 := rfl
@[simp] theorem emit_hub1 (s : State) (e : Emit) : (emit s e).hub1 = s.hub1 := rfl
@[simp] theorem emit_lead (s : State) (e : Emit) : (emit s e).lead = s.lead := rfl
@[simp] theorem emit_state (s : State) (e : Emit) : (emit s e).state = s.state := rfl
@[simp] theorem emit_boot (s : State) (e : Emit) : (emit s e).boot = s.boot := rfl
@[simp] theorem emit_resets (s : State) (e : Emit) : (emit s e).resets = s.resets := rfl
@[simp] theorem emit_safeCause (s : State) (e : Emit) : (emit s e).safeCause = s.safeCause := rfl
@[simp] theorem emit_sys (s : State) (e : Emit) : (emit s e).sys = s.sys := rfl
@[simp] theorem emit_sessions (s : State) (e : Emit) : (emit s e).sessions = s.sessions := rfl
@[simp] theorem emit_handshakes (s : State) (e : Emit) : (emit s e).handshakes = s.handshakes := rfl
@[simp] theorem emit_nextEst (s : State) (e : Emit) : (emit s e).nextEst = s.nextEst := rfl
@[simp] theorem emit_tickets (s : State) (e : Emit) : (emit s e).tickets = s.tickets := rfl
@[simp] theorem emit_nextTicket (s : State) (e : Emit) : (emit s e).nextTicket = s.nextTicket := rfl
@[simp] theorem emit_requests (s : State) (e : Emit) : (emit s e).requests = s.requests := rfl
@[simp] theorem emit_nextReq (s : State) (e : Emit) : (emit s e).nextReq = s.nextReq := rfl
@[simp] theorem emit_waits (s : State) (e : Emit) : (emit s e).waits = s.waits := rfl
@[simp] theorem emit_replacing (s : State) (e : Emit) : (emit s e).replacing = s.replacing := rfl
@[simp] theorem emit_optDies (s : State) (e : Emit) : (emit s e).optDies = s.optDies := rfl
@[simp] theorem emit_assured (s : State) (e : Emit) : (emit s e).assured = s.assured := rfl
@[simp] theorem emit_timeSent (s : State) (e : Emit) : (emit s e).timeSent = s.timeSent := rfl
@[simp] theorem emit_timeMeas (s : State) (e : Emit) : (emit s e).timeMeas = s.timeMeas := rfl
@[simp] theorem emit_twin (s : State) (e : Emit) : (emit s e).twin = s.twin := rfl
@[simp] theorem emit_guests (s : State) (e : Emit) : (emit s e).guests = s.guests := rfl
@[simp] theorem emit_stages (s : State) (e : Emit) : (emit s e).stages = s.stages := rfl
@[simp] theorem emit_half0 (s : State) (e : Emit) : (emit s e).half0 = s.half0 := rfl
@[simp] theorem emit_half1 (s : State) (e : Emit) : (emit s e).half1 = s.half1 := rfl
@[simp] theorem emit_clock (s : State) (e : Emit) : (emit s e).clock = s.clock := rfl
@[simp] theorem emit_ledger (s : State) (e : Emit) : (emit s e).ledger = s.ledger := rfl
@[simp] theorem emit_vault (s : State) (e : Emit) : (emit s e).vault = s.vault := rfl
@[simp] theorem emit_fwUpdate (s : State) (e : Emit) : (emit s e).fwUpdate = s.fwUpdate := rfl
@[simp] theorem emit_loaderWrites (s : State) (e : Emit) : (emit s e).loaderWrites = s.loaderWrites := rfl
@[simp] theorem emit_fenceWaits (s : State) (e : Emit) : (emit s e).fenceWaits = s.fenceWaits := rfl
@[simp] theorem emit_panelFence (s : State) (e : Emit) : (emit s e).panelFence = s.panelFence := rfl
@[simp] theorem emit_panelReset (s : State) (e : Emit) : (emit s e).panelReset = s.panelReset := rfl
@[simp] theorem emit_hubStage (s : State) (e : Emit) : (emit s e).hubStage = s.hubStage := rfl
@[simp] theorem emit_guestCut (s : State) (e : Emit) : (emit s e).guestCut = s.guestCut := rfl
@[simp] theorem emit_denyLimit (s : State) (e : Emit) : (emit s e).denyLimit = s.denyLimit := rfl
@[simp] theorem emit_pins (s : State) (e : Emit) : (emit s e).pins = s.pins := rfl

/-! ### emits -/

@[simp] theorem emits_pending (s : State) (e : List Emit) : (emits s e).pending = s.pending := rfl
@[simp] theorem emits_freeCtr (s : State) (e : List Emit) : (emits s e).freeCtr = s.freeCtr := rfl
@[simp] theorem emits_tally (s : State) (e : List Emit) : (emits s e).tally = s.tally := rfl
@[simp] theorem emits_master (s : State) (e : List Emit) : (emits s e).master = s.master := rfl
@[simp] theorem emits_mem (s : State) (e : List Emit) : (emits s e).mem = s.mem := rfl
@[simp] theorem emits_cores (s : State) (e : List Emit) : (emits s e).cores = s.cores := rfl
@[simp] theorem emits_clusters (s : State) (e : List Emit) : (emits s e).clusters = s.clusters := rfl
@[simp] theorem emits_dies (s : State) (e : List Emit) : (emits s e).dies = s.dies := rfl
@[simp] theorem emits_badCores (s : State) (e : List Emit) : (emits s e).badCores = s.badCores := rfl
@[simp] theorem emits_links (s : State) (e : List Emit) : (emits s e).links = s.links := rfl
@[simp] theorem emits_optLinks (s : State) (e : List Emit) : (emits s e).optLinks = s.optLinks := rfl
@[simp] theorem emits_bank0 (s : State) (e : List Emit) : (emits s e).bank0 = s.bank0 := rfl
@[simp] theorem emits_bank1 (s : State) (e : List Emit) : (emits s e).bank1 = s.bank1 := rfl
@[simp] theorem emits_meshHalf (s : State) (e : List Emit) : (emits s e).meshHalf = s.meshHalf := rfl
@[simp] theorem emits_epoch (s : State) (e : List Emit) : (emits s e).epoch = s.epoch := rfl
@[simp] theorem emits_parts (s : State) (e : List Emit) : (emits s e).parts = s.parts := rfl
@[simp] theorem emits_jobs (s : State) (e : List Emit) : (emits s e).jobs = s.jobs := rfl
@[simp] theorem emits_hub0 (s : State) (e : List Emit) : (emits s e).hub0 = s.hub0 := rfl
@[simp] theorem emits_hub1 (s : State) (e : List Emit) : (emits s e).hub1 = s.hub1 := rfl
@[simp] theorem emits_lead (s : State) (e : List Emit) : (emits s e).lead = s.lead := rfl
@[simp] theorem emits_state (s : State) (e : List Emit) : (emits s e).state = s.state := rfl
@[simp] theorem emits_boot (s : State) (e : List Emit) : (emits s e).boot = s.boot := rfl
@[simp] theorem emits_resets (s : State) (e : List Emit) : (emits s e).resets = s.resets := rfl
@[simp] theorem emits_safeCause (s : State) (e : List Emit) : (emits s e).safeCause = s.safeCause := rfl
@[simp] theorem emits_sys (s : State) (e : List Emit) : (emits s e).sys = s.sys := rfl
@[simp] theorem emits_sessions (s : State) (e : List Emit) : (emits s e).sessions = s.sessions := rfl
@[simp] theorem emits_handshakes (s : State) (e : List Emit) : (emits s e).handshakes = s.handshakes := rfl
@[simp] theorem emits_nextEst (s : State) (e : List Emit) : (emits s e).nextEst = s.nextEst := rfl
@[simp] theorem emits_tickets (s : State) (e : List Emit) : (emits s e).tickets = s.tickets := rfl
@[simp] theorem emits_nextTicket (s : State) (e : List Emit) : (emits s e).nextTicket = s.nextTicket := rfl
@[simp] theorem emits_requests (s : State) (e : List Emit) : (emits s e).requests = s.requests := rfl
@[simp] theorem emits_nextReq (s : State) (e : List Emit) : (emits s e).nextReq = s.nextReq := rfl
@[simp] theorem emits_waits (s : State) (e : List Emit) : (emits s e).waits = s.waits := rfl
@[simp] theorem emits_replacing (s : State) (e : List Emit) : (emits s e).replacing = s.replacing := rfl
@[simp] theorem emits_optDies (s : State) (e : List Emit) : (emits s e).optDies = s.optDies := rfl
@[simp] theorem emits_assured (s : State) (e : List Emit) : (emits s e).assured = s.assured := rfl
@[simp] theorem emits_timeSent (s : State) (e : List Emit) : (emits s e).timeSent = s.timeSent := rfl
@[simp] theorem emits_timeMeas (s : State) (e : List Emit) : (emits s e).timeMeas = s.timeMeas := rfl
@[simp] theorem emits_twin (s : State) (e : List Emit) : (emits s e).twin = s.twin := rfl
@[simp] theorem emits_guests (s : State) (e : List Emit) : (emits s e).guests = s.guests := rfl
@[simp] theorem emits_stages (s : State) (e : List Emit) : (emits s e).stages = s.stages := rfl
@[simp] theorem emits_half0 (s : State) (e : List Emit) : (emits s e).half0 = s.half0 := rfl
@[simp] theorem emits_half1 (s : State) (e : List Emit) : (emits s e).half1 = s.half1 := rfl
@[simp] theorem emits_clock (s : State) (e : List Emit) : (emits s e).clock = s.clock := rfl
@[simp] theorem emits_ledger (s : State) (e : List Emit) : (emits s e).ledger = s.ledger := rfl
@[simp] theorem emits_vault (s : State) (e : List Emit) : (emits s e).vault = s.vault := rfl
@[simp] theorem emits_fwUpdate (s : State) (e : List Emit) : (emits s e).fwUpdate = s.fwUpdate := rfl
@[simp] theorem emits_loaderWrites (s : State) (e : List Emit) : (emits s e).loaderWrites = s.loaderWrites := rfl
@[simp] theorem emits_fenceWaits (s : State) (e : List Emit) : (emits s e).fenceWaits = s.fenceWaits := rfl
@[simp] theorem emits_panelFence (s : State) (e : List Emit) : (emits s e).panelFence = s.panelFence := rfl
@[simp] theorem emits_panelReset (s : State) (e : List Emit) : (emits s e).panelReset = s.panelReset := rfl
@[simp] theorem emits_hubStage (s : State) (e : List Emit) : (emits s e).hubStage = s.hubStage := rfl
@[simp] theorem emits_guestCut (s : State) (e : List Emit) : (emits s e).guestCut = s.guestCut := rfl
@[simp] theorem emits_denyLimit (s : State) (e : List Emit) : (emits s e).denyLimit = s.denyLimit := rfl
@[simp] theorem emits_pins (s : State) (e : List Emit) : (emits s e).pins = s.pins := rfl

/-! ### bumpFree -/

@[simp] theorem bumpFree_pending (s : State) : (bumpFree s).pending = s.pending := rfl
@[simp] theorem bumpFree_emitted (s : State) : (bumpFree s).emitted = s.emitted := rfl
@[simp] theorem bumpFree_tally (s : State) : (bumpFree s).tally = s.tally := rfl
@[simp] theorem bumpFree_master (s : State) : (bumpFree s).master = s.master := rfl
@[simp] theorem bumpFree_mem (s : State) : (bumpFree s).mem = s.mem := rfl
@[simp] theorem bumpFree_cores (s : State) : (bumpFree s).cores = s.cores := rfl
@[simp] theorem bumpFree_clusters (s : State) : (bumpFree s).clusters = s.clusters := rfl
@[simp] theorem bumpFree_dies (s : State) : (bumpFree s).dies = s.dies := rfl
@[simp] theorem bumpFree_badCores (s : State) : (bumpFree s).badCores = s.badCores := rfl
@[simp] theorem bumpFree_links (s : State) : (bumpFree s).links = s.links := rfl
@[simp] theorem bumpFree_optLinks (s : State) : (bumpFree s).optLinks = s.optLinks := rfl
@[simp] theorem bumpFree_bank0 (s : State) : (bumpFree s).bank0 = s.bank0 := rfl
@[simp] theorem bumpFree_bank1 (s : State) : (bumpFree s).bank1 = s.bank1 := rfl
@[simp] theorem bumpFree_meshHalf (s : State) : (bumpFree s).meshHalf = s.meshHalf := rfl
@[simp] theorem bumpFree_epoch (s : State) : (bumpFree s).epoch = s.epoch := rfl
@[simp] theorem bumpFree_parts (s : State) : (bumpFree s).parts = s.parts := rfl
@[simp] theorem bumpFree_jobs (s : State) : (bumpFree s).jobs = s.jobs := rfl
@[simp] theorem bumpFree_hub0 (s : State) : (bumpFree s).hub0 = s.hub0 := rfl
@[simp] theorem bumpFree_hub1 (s : State) : (bumpFree s).hub1 = s.hub1 := rfl
@[simp] theorem bumpFree_lead (s : State) : (bumpFree s).lead = s.lead := rfl
@[simp] theorem bumpFree_state (s : State) : (bumpFree s).state = s.state := rfl
@[simp] theorem bumpFree_boot (s : State) : (bumpFree s).boot = s.boot := rfl
@[simp] theorem bumpFree_resets (s : State) : (bumpFree s).resets = s.resets := rfl
@[simp] theorem bumpFree_safeCause (s : State) : (bumpFree s).safeCause = s.safeCause := rfl
@[simp] theorem bumpFree_sys (s : State) : (bumpFree s).sys = s.sys := rfl
@[simp] theorem bumpFree_sessions (s : State) : (bumpFree s).sessions = s.sessions := rfl
@[simp] theorem bumpFree_handshakes (s : State) : (bumpFree s).handshakes = s.handshakes := rfl
@[simp] theorem bumpFree_nextEst (s : State) : (bumpFree s).nextEst = s.nextEst := rfl
@[simp] theorem bumpFree_tickets (s : State) : (bumpFree s).tickets = s.tickets := rfl
@[simp] theorem bumpFree_nextTicket (s : State) : (bumpFree s).nextTicket = s.nextTicket := rfl
@[simp] theorem bumpFree_requests (s : State) : (bumpFree s).requests = s.requests := rfl
@[simp] theorem bumpFree_nextReq (s : State) : (bumpFree s).nextReq = s.nextReq := rfl
@[simp] theorem bumpFree_waits (s : State) : (bumpFree s).waits = s.waits := rfl
@[simp] theorem bumpFree_replacing (s : State) : (bumpFree s).replacing = s.replacing := rfl
@[simp] theorem bumpFree_optDies (s : State) : (bumpFree s).optDies = s.optDies := rfl
@[simp] theorem bumpFree_assured (s : State) : (bumpFree s).assured = s.assured := rfl
@[simp] theorem bumpFree_timeSent (s : State) : (bumpFree s).timeSent = s.timeSent := rfl
@[simp] theorem bumpFree_timeMeas (s : State) : (bumpFree s).timeMeas = s.timeMeas := rfl
@[simp] theorem bumpFree_twin (s : State) : (bumpFree s).twin = s.twin := rfl
@[simp] theorem bumpFree_guests (s : State) : (bumpFree s).guests = s.guests := rfl
@[simp] theorem bumpFree_stages (s : State) : (bumpFree s).stages = s.stages := rfl
@[simp] theorem bumpFree_half0 (s : State) : (bumpFree s).half0 = s.half0 := rfl
@[simp] theorem bumpFree_half1 (s : State) : (bumpFree s).half1 = s.half1 := rfl
@[simp] theorem bumpFree_clock (s : State) : (bumpFree s).clock = s.clock := rfl
@[simp] theorem bumpFree_ledger (s : State) : (bumpFree s).ledger = s.ledger := rfl
@[simp] theorem bumpFree_vault (s : State) : (bumpFree s).vault = s.vault := rfl
@[simp] theorem bumpFree_fwUpdate (s : State) : (bumpFree s).fwUpdate = s.fwUpdate := rfl
@[simp] theorem bumpFree_loaderWrites (s : State) : (bumpFree s).loaderWrites = s.loaderWrites := rfl
@[simp] theorem bumpFree_fenceWaits (s : State) : (bumpFree s).fenceWaits = s.fenceWaits := rfl
@[simp] theorem bumpFree_panelFence (s : State) : (bumpFree s).panelFence = s.panelFence := rfl
@[simp] theorem bumpFree_panelReset (s : State) : (bumpFree s).panelReset = s.panelReset := rfl
@[simp] theorem bumpFree_hubStage (s : State) : (bumpFree s).hubStage = s.hubStage := rfl
@[simp] theorem bumpFree_guestCut (s : State) : (bumpFree s).guestCut = s.guestCut := rfl
@[simp] theorem bumpFree_denyLimit (s : State) : (bumpFree s).denyLimit = s.denyLimit := rfl
@[simp] theorem bumpFree_pins (s : State) : (bumpFree s).pins = s.pins := rfl

/-! ### setHub -/

@[simp] theorem setHub_pending (s : State) (h : Nat) (x : Hub) : (setHub s h x).pending = s.pending := by unfold setHub; split <;> rfl
@[simp] theorem setHub_emitted (s : State) (h : Nat) (x : Hub) : (setHub s h x).emitted = s.emitted := by unfold setHub; split <;> rfl
@[simp] theorem setHub_freeCtr (s : State) (h : Nat) (x : Hub) : (setHub s h x).freeCtr = s.freeCtr := by unfold setHub; split <;> rfl
@[simp] theorem setHub_tally (s : State) (h : Nat) (x : Hub) : (setHub s h x).tally = s.tally := by unfold setHub; split <;> rfl
@[simp] theorem setHub_master (s : State) (h : Nat) (x : Hub) : (setHub s h x).master = s.master := by unfold setHub; split <;> rfl
@[simp] theorem setHub_mem (s : State) (h : Nat) (x : Hub) : (setHub s h x).mem = s.mem := by unfold setHub; split <;> rfl
@[simp] theorem setHub_cores (s : State) (h : Nat) (x : Hub) : (setHub s h x).cores = s.cores := by unfold setHub; split <;> rfl
@[simp] theorem setHub_clusters (s : State) (h : Nat) (x : Hub) : (setHub s h x).clusters = s.clusters := by unfold setHub; split <;> rfl
@[simp] theorem setHub_dies (s : State) (h : Nat) (x : Hub) : (setHub s h x).dies = s.dies := by unfold setHub; split <;> rfl
@[simp] theorem setHub_badCores (s : State) (h : Nat) (x : Hub) : (setHub s h x).badCores = s.badCores := by unfold setHub; split <;> rfl
@[simp] theorem setHub_links (s : State) (h : Nat) (x : Hub) : (setHub s h x).links = s.links := by unfold setHub; split <;> rfl
@[simp] theorem setHub_optLinks (s : State) (h : Nat) (x : Hub) : (setHub s h x).optLinks = s.optLinks := by unfold setHub; split <;> rfl
@[simp] theorem setHub_bank0 (s : State) (h : Nat) (x : Hub) : (setHub s h x).bank0 = s.bank0 := by unfold setHub; split <;> rfl
@[simp] theorem setHub_bank1 (s : State) (h : Nat) (x : Hub) : (setHub s h x).bank1 = s.bank1 := by unfold setHub; split <;> rfl
@[simp] theorem setHub_meshHalf (s : State) (h : Nat) (x : Hub) : (setHub s h x).meshHalf = s.meshHalf := by unfold setHub; split <;> rfl
@[simp] theorem setHub_epoch (s : State) (h : Nat) (x : Hub) : (setHub s h x).epoch = s.epoch := by unfold setHub; split <;> rfl
@[simp] theorem setHub_parts (s : State) (h : Nat) (x : Hub) : (setHub s h x).parts = s.parts := by unfold setHub; split <;> rfl
@[simp] theorem setHub_jobs (s : State) (h : Nat) (x : Hub) : (setHub s h x).jobs = s.jobs := by unfold setHub; split <;> rfl
@[simp] theorem setHub_lead (s : State) (h : Nat) (x : Hub) : (setHub s h x).lead = s.lead := by unfold setHub; split <;> rfl
@[simp] theorem setHub_state (s : State) (h : Nat) (x : Hub) : (setHub s h x).state = s.state := by unfold setHub; split <;> rfl
@[simp] theorem setHub_boot (s : State) (h : Nat) (x : Hub) : (setHub s h x).boot = s.boot := by unfold setHub; split <;> rfl
@[simp] theorem setHub_resets (s : State) (h : Nat) (x : Hub) : (setHub s h x).resets = s.resets := by unfold setHub; split <;> rfl
@[simp] theorem setHub_safeCause (s : State) (h : Nat) (x : Hub) : (setHub s h x).safeCause = s.safeCause := by unfold setHub; split <;> rfl
@[simp] theorem setHub_sys (s : State) (h : Nat) (x : Hub) : (setHub s h x).sys = s.sys := by unfold setHub; split <;> rfl
@[simp] theorem setHub_sessions (s : State) (h : Nat) (x : Hub) : (setHub s h x).sessions = s.sessions := by unfold setHub; split <;> rfl
@[simp] theorem setHub_handshakes (s : State) (h : Nat) (x : Hub) : (setHub s h x).handshakes = s.handshakes := by unfold setHub; split <;> rfl
@[simp] theorem setHub_nextEst (s : State) (h : Nat) (x : Hub) : (setHub s h x).nextEst = s.nextEst := by unfold setHub; split <;> rfl
@[simp] theorem setHub_tickets (s : State) (h : Nat) (x : Hub) : (setHub s h x).tickets = s.tickets := by unfold setHub; split <;> rfl
@[simp] theorem setHub_nextTicket (s : State) (h : Nat) (x : Hub) : (setHub s h x).nextTicket = s.nextTicket := by unfold setHub; split <;> rfl
@[simp] theorem setHub_requests (s : State) (h : Nat) (x : Hub) : (setHub s h x).requests = s.requests := by unfold setHub; split <;> rfl
@[simp] theorem setHub_nextReq (s : State) (h : Nat) (x : Hub) : (setHub s h x).nextReq = s.nextReq := by unfold setHub; split <;> rfl
@[simp] theorem setHub_waits (s : State) (h : Nat) (x : Hub) : (setHub s h x).waits = s.waits := by unfold setHub; split <;> rfl
@[simp] theorem setHub_replacing (s : State) (h : Nat) (x : Hub) : (setHub s h x).replacing = s.replacing := by unfold setHub; split <;> rfl
@[simp] theorem setHub_optDies (s : State) (h : Nat) (x : Hub) : (setHub s h x).optDies = s.optDies := by unfold setHub; split <;> rfl
@[simp] theorem setHub_assured (s : State) (h : Nat) (x : Hub) : (setHub s h x).assured = s.assured := by unfold setHub; split <;> rfl
@[simp] theorem setHub_timeSent (s : State) (h : Nat) (x : Hub) : (setHub s h x).timeSent = s.timeSent := by unfold setHub; split <;> rfl
@[simp] theorem setHub_timeMeas (s : State) (h : Nat) (x : Hub) : (setHub s h x).timeMeas = s.timeMeas := by unfold setHub; split <;> rfl
@[simp] theorem setHub_twin (s : State) (h : Nat) (x : Hub) : (setHub s h x).twin = s.twin := by unfold setHub; split <;> rfl
@[simp] theorem setHub_guests (s : State) (h : Nat) (x : Hub) : (setHub s h x).guests = s.guests := by unfold setHub; split <;> rfl
@[simp] theorem setHub_stages (s : State) (h : Nat) (x : Hub) : (setHub s h x).stages = s.stages := by unfold setHub; split <;> rfl
@[simp] theorem setHub_half0 (s : State) (h : Nat) (x : Hub) : (setHub s h x).half0 = s.half0 := by unfold setHub; split <;> rfl
@[simp] theorem setHub_half1 (s : State) (h : Nat) (x : Hub) : (setHub s h x).half1 = s.half1 := by unfold setHub; split <;> rfl
@[simp] theorem setHub_clock (s : State) (h : Nat) (x : Hub) : (setHub s h x).clock = s.clock := by unfold setHub; split <;> rfl
@[simp] theorem setHub_ledger (s : State) (h : Nat) (x : Hub) : (setHub s h x).ledger = s.ledger := by unfold setHub; split <;> rfl
@[simp] theorem setHub_vault (s : State) (h : Nat) (x : Hub) : (setHub s h x).vault = s.vault := by unfold setHub; split <;> rfl
@[simp] theorem setHub_fwUpdate (s : State) (h : Nat) (x : Hub) : (setHub s h x).fwUpdate = s.fwUpdate := by unfold setHub; split <;> rfl
@[simp] theorem setHub_loaderWrites (s : State) (h : Nat) (x : Hub) : (setHub s h x).loaderWrites = s.loaderWrites := by unfold setHub; split <;> rfl
@[simp] theorem setHub_fenceWaits (s : State) (h : Nat) (x : Hub) : (setHub s h x).fenceWaits = s.fenceWaits := by unfold setHub; split <;> rfl
@[simp] theorem setHub_panelFence (s : State) (h : Nat) (x : Hub) : (setHub s h x).panelFence = s.panelFence := by unfold setHub; split <;> rfl
@[simp] theorem setHub_panelReset (s : State) (h : Nat) (x : Hub) : (setHub s h x).panelReset = s.panelReset := by unfold setHub; split <;> rfl
@[simp] theorem setHub_hubStage (s : State) (h : Nat) (x : Hub) : (setHub s h x).hubStage = s.hubStage := by unfold setHub; split <;> rfl
@[simp] theorem setHub_guestCut (s : State) (h : Nat) (x : Hub) : (setHub s h x).guestCut = s.guestCut := by unfold setHub; split <;> rfl
@[simp] theorem setHub_denyLimit (s : State) (h : Nat) (x : Hub) : (setHub s h x).denyLimit = s.denyLimit := by unfold setHub; split <;> rfl
@[simp] theorem setHub_pins (s : State) (h : Nat) (x : Hub) : (setHub s h x).pins = s.pins := by unfold setHub; split <;> rfl

/-! ### setHalf -/

@[simp] theorem setHalf_pending (s : State) (h : Nat) (x : Half) : (setHalf s h x).pending = s.pending := by unfold setHalf; split <;> rfl
@[simp] theorem setHalf_emitted (s : State) (h : Nat) (x : Half) : (setHalf s h x).emitted = s.emitted := by unfold setHalf; split <;> rfl
@[simp] theorem setHalf_freeCtr (s : State) (h : Nat) (x : Half) : (setHalf s h x).freeCtr = s.freeCtr := by unfold setHalf; split <;> rfl
@[simp] theorem setHalf_tally (s : State) (h : Nat) (x : Half) : (setHalf s h x).tally = s.tally := by unfold setHalf; split <;> rfl
@[simp] theorem setHalf_master (s : State) (h : Nat) (x : Half) : (setHalf s h x).master = s.master := by unfold setHalf; split <;> rfl
@[simp] theorem setHalf_mem (s : State) (h : Nat) (x : Half) : (setHalf s h x).mem = s.mem := by unfold setHalf; split <;> rfl
@[simp] theorem setHalf_cores (s : State) (h : Nat) (x : Half) : (setHalf s h x).cores = s.cores := by unfold setHalf; split <;> rfl
@[simp] theorem setHalf_clusters (s : State) (h : Nat) (x : Half) : (setHalf s h x).clusters = s.clusters := by unfold setHalf; split <;> rfl
@[simp] theorem setHalf_dies (s : State) (h : Nat) (x : Half) : (setHalf s h x).dies = s.dies := by unfold setHalf; split <;> rfl
@[simp] theorem setHalf_badCores (s : State) (h : Nat) (x : Half) : (setHalf s h x).badCores = s.badCores := by unfold setHalf; split <;> rfl
@[simp] theorem setHalf_links (s : State) (h : Nat) (x : Half) : (setHalf s h x).links = s.links := by unfold setHalf; split <;> rfl
@[simp] theorem setHalf_optLinks (s : State) (h : Nat) (x : Half) : (setHalf s h x).optLinks = s.optLinks := by unfold setHalf; split <;> rfl
@[simp] theorem setHalf_bank0 (s : State) (h : Nat) (x : Half) : (setHalf s h x).bank0 = s.bank0 := by unfold setHalf; split <;> rfl
@[simp] theorem setHalf_bank1 (s : State) (h : Nat) (x : Half) : (setHalf s h x).bank1 = s.bank1 := by unfold setHalf; split <;> rfl
@[simp] theorem setHalf_meshHalf (s : State) (h : Nat) (x : Half) : (setHalf s h x).meshHalf = s.meshHalf := by unfold setHalf; split <;> rfl
@[simp] theorem setHalf_epoch (s : State) (h : Nat) (x : Half) : (setHalf s h x).epoch = s.epoch := by unfold setHalf; split <;> rfl
@[simp] theorem setHalf_parts (s : State) (h : Nat) (x : Half) : (setHalf s h x).parts = s.parts := by unfold setHalf; split <;> rfl
@[simp] theorem setHalf_jobs (s : State) (h : Nat) (x : Half) : (setHalf s h x).jobs = s.jobs := by unfold setHalf; split <;> rfl
@[simp] theorem setHalf_hub0 (s : State) (h : Nat) (x : Half) : (setHalf s h x).hub0 = s.hub0 := by unfold setHalf; split <;> rfl
@[simp] theorem setHalf_hub1 (s : State) (h : Nat) (x : Half) : (setHalf s h x).hub1 = s.hub1 := by unfold setHalf; split <;> rfl
@[simp] theorem setHalf_lead (s : State) (h : Nat) (x : Half) : (setHalf s h x).lead = s.lead := by unfold setHalf; split <;> rfl
@[simp] theorem setHalf_state (s : State) (h : Nat) (x : Half) : (setHalf s h x).state = s.state := by unfold setHalf; split <;> rfl
@[simp] theorem setHalf_boot (s : State) (h : Nat) (x : Half) : (setHalf s h x).boot = s.boot := by unfold setHalf; split <;> rfl
@[simp] theorem setHalf_resets (s : State) (h : Nat) (x : Half) : (setHalf s h x).resets = s.resets := by unfold setHalf; split <;> rfl
@[simp] theorem setHalf_safeCause (s : State) (h : Nat) (x : Half) : (setHalf s h x).safeCause = s.safeCause := by unfold setHalf; split <;> rfl
@[simp] theorem setHalf_sys (s : State) (h : Nat) (x : Half) : (setHalf s h x).sys = s.sys := by unfold setHalf; split <;> rfl
@[simp] theorem setHalf_sessions (s : State) (h : Nat) (x : Half) : (setHalf s h x).sessions = s.sessions := by unfold setHalf; split <;> rfl
@[simp] theorem setHalf_handshakes (s : State) (h : Nat) (x : Half) : (setHalf s h x).handshakes = s.handshakes := by unfold setHalf; split <;> rfl
@[simp] theorem setHalf_nextEst (s : State) (h : Nat) (x : Half) : (setHalf s h x).nextEst = s.nextEst := by unfold setHalf; split <;> rfl
@[simp] theorem setHalf_tickets (s : State) (h : Nat) (x : Half) : (setHalf s h x).tickets = s.tickets := by unfold setHalf; split <;> rfl
@[simp] theorem setHalf_nextTicket (s : State) (h : Nat) (x : Half) : (setHalf s h x).nextTicket = s.nextTicket := by unfold setHalf; split <;> rfl
@[simp] theorem setHalf_requests (s : State) (h : Nat) (x : Half) : (setHalf s h x).requests = s.requests := by unfold setHalf; split <;> rfl
@[simp] theorem setHalf_nextReq (s : State) (h : Nat) (x : Half) : (setHalf s h x).nextReq = s.nextReq := by unfold setHalf; split <;> rfl
@[simp] theorem setHalf_waits (s : State) (h : Nat) (x : Half) : (setHalf s h x).waits = s.waits := by unfold setHalf; split <;> rfl
@[simp] theorem setHalf_replacing (s : State) (h : Nat) (x : Half) : (setHalf s h x).replacing = s.replacing := by unfold setHalf; split <;> rfl
@[simp] theorem setHalf_optDies (s : State) (h : Nat) (x : Half) : (setHalf s h x).optDies = s.optDies := by unfold setHalf; split <;> rfl
@[simp] theorem setHalf_assured (s : State) (h : Nat) (x : Half) : (setHalf s h x).assured = s.assured := by unfold setHalf; split <;> rfl
@[simp] theorem setHalf_timeSent (s : State) (h : Nat) (x : Half) : (setHalf s h x).timeSent = s.timeSent := by unfold setHalf; split <;> rfl
@[simp] theorem setHalf_timeMeas (s : State) (h : Nat) (x : Half) : (setHalf s h x).timeMeas = s.timeMeas := by unfold setHalf; split <;> rfl
@[simp] theorem setHalf_twin (s : State) (h : Nat) (x : Half) : (setHalf s h x).twin = s.twin := by unfold setHalf; split <;> rfl
@[simp] theorem setHalf_guests (s : State) (h : Nat) (x : Half) : (setHalf s h x).guests = s.guests := by unfold setHalf; split <;> rfl
@[simp] theorem setHalf_stages (s : State) (h : Nat) (x : Half) : (setHalf s h x).stages = s.stages := by unfold setHalf; split <;> rfl
@[simp] theorem setHalf_clock (s : State) (h : Nat) (x : Half) : (setHalf s h x).clock = s.clock := by unfold setHalf; split <;> rfl
@[simp] theorem setHalf_ledger (s : State) (h : Nat) (x : Half) : (setHalf s h x).ledger = s.ledger := by unfold setHalf; split <;> rfl
@[simp] theorem setHalf_vault (s : State) (h : Nat) (x : Half) : (setHalf s h x).vault = s.vault := by unfold setHalf; split <;> rfl
@[simp] theorem setHalf_fwUpdate (s : State) (h : Nat) (x : Half) : (setHalf s h x).fwUpdate = s.fwUpdate := by unfold setHalf; split <;> rfl
@[simp] theorem setHalf_loaderWrites (s : State) (h : Nat) (x : Half) : (setHalf s h x).loaderWrites = s.loaderWrites := by unfold setHalf; split <;> rfl
@[simp] theorem setHalf_fenceWaits (s : State) (h : Nat) (x : Half) : (setHalf s h x).fenceWaits = s.fenceWaits := by unfold setHalf; split <;> rfl
@[simp] theorem setHalf_panelFence (s : State) (h : Nat) (x : Half) : (setHalf s h x).panelFence = s.panelFence := by unfold setHalf; split <;> rfl
@[simp] theorem setHalf_panelReset (s : State) (h : Nat) (x : Half) : (setHalf s h x).panelReset = s.panelReset := by unfold setHalf; split <;> rfl
@[simp] theorem setHalf_hubStage (s : State) (h : Nat) (x : Half) : (setHalf s h x).hubStage = s.hubStage := by unfold setHalf; split <;> rfl
@[simp] theorem setHalf_guestCut (s : State) (h : Nat) (x : Half) : (setHalf s h x).guestCut = s.guestCut := by unfold setHalf; split <;> rfl
@[simp] theorem setHalf_denyLimit (s : State) (h : Nat) (x : Half) : (setHalf s h x).denyLimit = s.denyLimit := by unfold setHalf; split <;> rfl
@[simp] theorem setHalf_pins (s : State) (h : Nat) (x : Half) : (setHalf s h x).pins = s.pins := by unfold setHalf; split <;> rfl

/-! ### What they set -/

@[simp] theorem setCore_cores (s : State) (k : Nat) (c : Core) : (setCore s k c).cores = Tbl.put s.cores k c := rfl
@[simp] theorem setClu_clusters (s : State) (k : Nat) (c : Cluster) : (setClu s k c).clusters = Tbl.put s.clusters k c := rfl
@[simp] theorem setDie_dies (s : State) (k : Nat) (d : Die) : (setDie s k d).dies = Tbl.put s.dies k d := rfl
@[simp] theorem setPart_parts (s : State) (p : Nat) (q : Partition) : (setPart s p q).parts = Tbl.put s.parts p q := rfl
@[simp] theorem setJob_jobs (s : State) (j : Nat) (x : Job) : (setJob s j x).jobs = Tbl.put s.jobs j x := rfl
@[simp] theorem emit_emitted (s : State) (e : Emit) : (emit s e).emitted = s.emitted ++ [e] := rfl
@[simp] theorem emits_emitted (s : State) (es : List Emit) : (emits s es).emitted = s.emitted ++ es := rfl
@[simp] theorem bumpFree_freeCtr (s : State) : (bumpFree s).freeCtr = s.freeCtr + 1 := rfl

end Sys2Proof.Machine
end

