-- ==== Sys2Proof/Laws/Tables.lean ====
section
/-! SUPPORT. Laws of the sparse tables and of byte memory. -/

namespace Sys2Proof.Machine

/-! ### Tables -/

@[simp] theorem Tbl.find_put_self {α : Type} (t : Tbl α) (k : Nat) (a : α) : Tbl.find (Tbl.put t k a) k = some a := by
  induction t with
  | nil => simp [Tbl.put, Tbl.find]
  | cons p t ih =>
    obtain ⟨j, w⟩ := p
    simp only [Tbl.put]; split
    · simp [Tbl.find]
    · split
      · simp [Tbl.find]
      · rename_i h1 h2; simp [Tbl.find, Ne.symm h2, ih]

theorem Tbl.find_put_ne {α : Type} (t : Tbl α) (k j : Nat) (a : α) (h : j ≠ k) : Tbl.find (Tbl.put t k a) j = Tbl.find t j := by
  induction t with
  | nil => simp [Tbl.put, Tbl.find, Ne.symm h]
  | cons p t ih =>
    obtain ⟨i, w⟩ := p
    simp only [Tbl.put]; split
    · simp [Tbl.find, Ne.symm h]
    · split
      · rename_i h1 h2; subst h2; simp [Tbl.find, Ne.symm h]
      · simp [Tbl.find, ih]

@[simp] theorem Tbl.get_put_self {α : Type} (t : Tbl α) (k : Nat) (a d : α) : Tbl.get (Tbl.put t k a) k d = a := by simp [Tbl.get]

theorem Tbl.get_put_ne {α : Type} (t : Tbl α) (k j : Nat) (a d : α) (h : j ≠ k) : Tbl.get (Tbl.put t k a) j d = Tbl.get t j d := by
  simp [Tbl.get, Tbl.find_put_ne t k j a h]

@[simp] theorem Tbl.find_drop_self {α : Type} (t : Tbl α) (k : Nat) : Tbl.find (Tbl.drop t k) k = none := by
  induction t with
  | nil => rfl
  | cons p t ih =>
    obtain ⟨j, w⟩ := p
    simp only [Tbl.drop]
    split
    · exact ih
    · next h => simp [Tbl.find, h, ih]

theorem Tbl.find_drop_ne {α : Type} (t : Tbl α) (k j : Nat) (h : j ≠ k) : Tbl.find (Tbl.drop t k) j = Tbl.find t j := by
  induction t with
  | nil => rfl
  | cons p t ih =>
    obtain ⟨i, w⟩ := p
    simp only [Tbl.drop]
    split
    · next e => simp [Tbl.find, ih, e, Ne.symm h]
    · simp [Tbl.find, ih]

theorem Tbl.find_map {α β : Type} (t : Tbl α) (f : Nat → α → β) (k : Nat) : Tbl.find (Tbl.map t f) k = (Tbl.find t k).map (f k) := by
  induction t with
  | nil => rfl
  | cons p t ih =>
    obtain ⟨i, w⟩ := p
    simp only [Tbl.map] at ih
    simp only [Tbl.map, List.map_cons, Tbl.find]
    split
    · next e => simp [e]
    · exact ih

@[simp] theorem Tbl.put_put {α : Type} (t : Tbl α) (k : Nat) (a b : α) : Tbl.put (Tbl.put t k a) k b = Tbl.put t k b := by
  induction t with
  | nil => simp [Tbl.put]
  | cons p t ih =>
    obtain ⟨j, w⟩ := p
    simp only [Tbl.put]; split
    · simp [Tbl.put]
    · split
      · simp [Tbl.put]
      · rename_i h1 h2; simp [Tbl.put, h1, h2, ih]

/-! ### Memory -/

theorem Mem.read_insert (m : List Host.Cell) (a b : Nat) (v : Byte) (h : Memory.wf m = true) :
    Mem.read (Mem.insert m a v) b = if a = b then v else Mem.read m b := by
  induction m with
  | nil => simp [Mem.insert, Mem.read]
  | cons p t ih =>
    obtain ⟨j, w⟩ := p
    have ht : Memory.wf t = true := by
      cases t with
      | nil => rfl
      | cons q r => simp only [Memory.wf, Bool.and_eq_true] at h; exact h.2
    simp only [Mem.insert]; split
    · rename_i hj
      simp only [Mem.read, ih ht]
      by_cases hjb : j = b
      · subst hjb; simp [Nat.ne_of_gt hj]
      · simp [hjb]
    · split
      · rename_i h2; subst h2; simp only [Mem.read]; split <;> rfl
      · rfl

/-- Every listed address of a well-formed memory is above its first. -/
theorem Memory.wf_above {j : Nat} {w : Byte} {t : List Host.Cell} (h : Memory.wf ((j, w) :: t) = true) (b : Nat) (hb : b ≤ j) :
    Mem.read t b = Mem.unlisted := by
  induction t generalizing j w with
  | nil => rfl
  | cons q r ih =>
    obtain ⟨k, c⟩ := q
    simp only [Memory.wf, Bool.and_eq_true, decide_eq_true_eq] at h
    have hk : j < k := h.1.2
    simp only [Mem.read]
    rw [if_neg (by omega), ih h.2 (by omega)]

theorem Mem.read_erase (m : List Host.Cell) (a b : Nat) (h : Memory.wf m = true) :
    Mem.read (Mem.erase m a) b = if a = b then Mem.unlisted else Mem.read m b := by
  induction m with
  | nil => simp [Mem.erase, Mem.read]
  | cons p t ih =>
    obtain ⟨j, w⟩ := p
    have ht : Memory.wf t = true := by
      cases t with
      | nil => rfl
      | cons q r => simp only [Memory.wf, Bool.and_eq_true] at h; exact h.2
    simp only [Mem.erase]; split
    · rename_i hj
      simp only [Mem.read, ih ht]
      by_cases hjb : j = b
      · subst hjb; simp [Nat.ne_of_gt hj]
      · simp [hjb]
    · split
      · rename_i h2; subst h2
        by_cases hjb : j = b
        · subst hjb; simp [Memory.wf_above h j (Nat.le_refl j)]
        · simp [Mem.read, hjb]
      · rename_i h1 h2
        by_cases hab : a = b
        · subst hab; simp [Mem.read, h2, Memory.wf_above h a (by omega)]
        · simp [hab]

/-- Read after write (R9). -/
theorem Mem.read_write (m : List Host.Cell) (a b : Nat) (v : Byte) (h : Memory.wf m = true) :
    Mem.read (Mem.write m a v) b = if a = b then v else Mem.read m b := by
  unfold Mem.write; split
  · rename_i hv; rw [Mem.read_erase m a b h, hv]
  · exact Mem.read_insert m a b v h

theorem Memory.wf_tail {p : Host.Cell} {t : List Host.Cell} (h : Memory.wf (p :: t) = true) : Memory.wf t = true := by
  cases t with
  | nil => rfl
  | cons q r => obtain ⟨j, w⟩ := p; obtain ⟨k, c⟩ := q; simp only [Memory.wf, Bool.and_eq_true] at h; exact h.2

/-- The canonical form as: every byte listed differs from the unlisted one, and the addresses rise strictly. -/
theorem Memory.wf_iff (m : List Host.Cell) :
    Memory.wf m = true ↔ (∀ p ∈ m, p.2 ≠ Mem.unlisted) ∧ m.Pairwise fun p q => p.1 < q.1 := by
  induction m with
  | nil => simp [Memory.wf]
  | cons p t ih =>
    obtain ⟨j, w⟩ := p
    cases t with
    | nil => simp [Memory.wf]
    | cons q r =>
      obtain ⟨k, c⟩ := q
      simp only [Memory.wf, Bool.and_eq_true, decide_eq_true_eq, ih, bne_iff_ne]
      constructor
      · rintro ⟨⟨hw, hj⟩, hall, hp⟩
        refine ⟨?_, ?_⟩
        · intro x hx
          rcases List.mem_cons.mp hx with rfl | hx
          · exact hw
          · exact hall x hx
        · refine List.pairwise_cons.mpr ⟨?_, hp⟩
          intro x hx
          rcases List.mem_cons.mp hx with rfl | hx
          · exact hj
          · exact Nat.lt_trans hj ((List.pairwise_cons.mp hp).1 x hx)
      · rintro ⟨hall, hp⟩
        have h := List.pairwise_cons.mp hp
        exact ⟨⟨hall _ List.mem_cons_self, h.1 _ List.mem_cons_self⟩, fun x hx => hall x (List.mem_cons_of_mem _ hx), h.2⟩

theorem Mem.mem_erase (m : List Host.Cell) (a : Nat) (p : Host.Cell) (h : p ∈ Mem.erase m a) : p ∈ m := by
  induction m with
  | nil => exact h
  | cons q t ih =>
    obtain ⟨j, w⟩ := q
    simp only [Mem.erase] at h; split at h
    · rcases List.mem_cons.mp h with rfl | h
      · exact List.mem_cons_self
      · exact List.mem_cons_of_mem _ (ih h)
    · split at h
      · exact List.mem_cons_of_mem _ h
      · exact h

theorem Mem.mem_insert (m : List Host.Cell) (a : Nat) (v : Byte) (p : Host.Cell) (h : p ∈ Mem.insert m a v) : p = (a, v) ∨ p ∈ m := by
  induction m with
  | nil => exact .inl (by simpa [Mem.insert] using h)
  | cons q t ih =>
    obtain ⟨j, w⟩ := q
    simp only [Mem.insert] at h; split at h
    · rcases List.mem_cons.mp h with rfl | h
      · exact .inr List.mem_cons_self
      · rcases ih h with h | h
        · exact .inl h
        · exact .inr (List.mem_cons_of_mem _ h)
    · split at h
      · rcases List.mem_cons.mp h with rfl | h
        · exact .inl rfl
        · exact .inr (List.mem_cons_of_mem _ h)
      · rcases List.mem_cons.mp h with rfl | h
        · exact .inl rfl
        · exact .inr h

theorem Mem.erase_wf (m : List Host.Cell) (a : Nat) (h : Memory.wf m = true) : Memory.wf (Mem.erase m a) = true := by
  rw [Memory.wf_iff] at h ⊢
  refine ⟨fun p hp => h.1 p (Mem.mem_erase m a p hp), ?_⟩
  have hp := h.2
  clear h
  induction m with
  | nil => exact hp
  | cons q t ih =>
    obtain ⟨j, w⟩ := q
    have hq := List.pairwise_cons.mp hp
    simp only [Mem.erase]; split
    · exact List.pairwise_cons.mpr ⟨fun x hx => hq.1 x (Mem.mem_erase t a x hx), ih hq.2⟩
    · split
      · exact hq.2
      · exact hp

theorem Mem.insert_wf (m : List Host.Cell) (a : Nat) (v : Byte) (hv : v ≠ Mem.unlisted) (h : Memory.wf m = true) :
    Memory.wf (Mem.insert m a v) = true := by
  rw [Memory.wf_iff] at h ⊢
  refine ⟨fun p hp => ?_, ?_⟩
  · rcases Mem.mem_insert m a v p hp with rfl | hp
    · exact hv
    · exact h.1 p hp
  · have hp := h.2
    clear h
    induction m with
    | nil => simp [Mem.insert]
    | cons q t ih =>
      obtain ⟨j, w⟩ := q
      have hq := List.pairwise_cons.mp hp
      simp only [Mem.insert]; split
      · rename_i hj
        refine List.pairwise_cons.mpr ⟨fun x hx => ?_, ih hq.2⟩
        rcases Mem.mem_insert t a v x hx with rfl | hx
        · exact hj
        · exact hq.1 x hx
      · split
        · rename_i h2; subst h2; exact List.pairwise_cons.mpr ⟨hq.1, hq.2⟩
        · rename_i h1 h2
          have hlt : a < j := by omega
          refine List.pairwise_cons.mpr ⟨fun x hx => ?_, hp⟩
          rcases List.mem_cons.mp hx with rfl | hx
          · exact hlt
          · exact Nat.lt_trans hlt (hq.1 x hx)

/-- A byte written keeps the canonical form. -/
theorem Mem.write_wf (m : List Host.Cell) (a : Nat) (v : Byte) (h : Memory.wf m = true) : Memory.wf (Mem.write m a v) = true := by
  unfold Mem.write; split
  · exact Mem.erase_wf m a h
  · rename_i hv; exact Mem.insert_wf m a v hv h

/-- Bytes written keep the canonical form. -/
theorem Mem.writeN_wf (m : List Host.Cell) (a n v : Nat) (h : Memory.wf m = true) : Memory.wf (Mem.writeN m a n v) = true := by
  induction n generalizing m a v with
  | zero => exact h
  | succ n ih => exact ih _ _ _ (Mem.write_wf m a _ h)

/-- Cells left out keep the canonical form. -/
theorem Memory.filter_wf (m : List Host.Cell) (f : Host.Cell → Bool) (h : Memory.wf m = true) : Memory.wf (m.filter f) = true := by
  rw [Memory.wf_iff] at h ⊢
  exact ⟨fun p hp => h.1 p (List.mem_filter.mp hp).1, h.2.sublist List.filter_sublist⟩

/-- A byte outside the written ones reads as before; the written ones read as the value's bytes. -/
theorem Mem.read_writeN (m : List Host.Cell) (a n v b : Nat) (h : Memory.wf m = true) :
    Mem.read (Mem.writeN m a n v) b = if a ≤ b ∧ b < a + n then BitVec.ofNat 8 (v / 256 ^ (b - a)) else Mem.read m b := by
  induction n generalizing m a v with
  | zero => rw [if_neg (by omega)]; rfl
  | succ n ih =>
    rw [Mem.writeN, ih _ _ _ (Mem.write_wf m a _ h), Mem.read_write m a b _ h]
    by_cases hab : a = b
    · subst hab; rw [if_neg (by omega), if_pos (by omega)]; simp
    · by_cases h1 : a + 1 ≤ b ∧ b < a + 1 + n
      · rw [if_pos h1, if_pos (by omega)]
        rw [Nat.div_div_eq_div_mul, ← Nat.pow_succ', show (b - (a + 1)).succ = b - a by omega]
      · rw [if_neg h1, if_neg hab, if_neg (by omega)]

end Sys2Proof.Machine
end

