-- ==== Sys2Proof/Laws/Core.lean ====
section
/-! SUPPORT. Reading back a part of the state that was set, and what the issue and the retire point of a core instruction come to. -/

namespace Sys2Proof.Machine

/-! ### Reading back -/

@[simp] theorem getCore_setCore (s : State) (k : Nat) (c : Core) : getCore (setCore s k c) k = c := by simp [getCore, setCore]
@[simp] theorem setCore_setCore (s : State) (k : Nat) (c d : Core) : setCore (setCore s k c) k d = setCore s k d := by simp [setCore]
@[simp] theorem getClu_setClu (s : State) (k : Nat) (c : Cluster) : getClu (setClu s k c) k = c := by simp [getClu, setClu]
@[simp] theorem setClu_setClu (s : State) (k : Nat) (c d : Cluster) : setClu (setClu s k c) k d = setClu s k d := by simp [setClu]
@[simp] theorem getPart_setPart (s : State) (p : Nat) (q : Partition) : getPart (setPart s p q) p = q := by simp [getPart, setPart]
@[simp] theorem getJob_setJob (s : State) (j : Nat) (x : Job) : getJob (setJob s j x) j = x := by simp [getJob, setJob]
@[simp] theorem getDie_setDie (s : State) (k : Nat) (d : Die) : getDie (setDie s k d) k = d := by simp [getDie, setDie]
@[simp] theorem getHub_setHub (s : State) (h : Nat) (x : Hub) : getHub (setHub s h x) h = x := by
  unfold getHub setHub; split <;> simp
@[simp] theorem getClu_setCore (s : State) (k j : Nat) (c : Core) : getClu (setCore s k c) j = getClu s j := rfl
@[simp] theorem getCore_setClu (s : State) (k j : Nat) (c : Cluster) : getCore (setClu s k c) j = getCore s j := rfl

@[simp] theorem Core.ctx_setCtx (c : Core) (n : Nat) (x : Ctx) : (c.setCtx n x).ctx n = x := by simp [Core.setCtx, Core.ctx]
@[simp] theorem Core.setCtx_setCtx (c : Core) (n : Nat) (x y : Ctx) : (c.setCtx n x).setCtx n y = c.setCtx n y := by simp [Core.setCtx]

@[simp] theorem getCtx_setCtx (s : State) (k n : Nat) (x : Ctx) : getCtx (setCtx s k n x) k n = x := by
  simp [getCtx, setCtx, modCore]
@[simp] theorem setCtx_setCtx (s : State) (k n : Nat) (x y : Ctx) : setCtx (setCtx s k n x) k n y = setCtx s k n y := by
  simp [setCtx, modCore]

@[simp] theorem getCtx_begun (i : Issue) (s : State) : getCtx (begun i s) i.core i.ctx = getCtx s i.core i.ctx := by
  simp [begun, getCtx, modCore, Core.upset, Core.ctx]

@[simp] theorem Ctx.setS_pc (x : Ctx) (n : Nat) (v : Word) : (x.setS n v).pc = x.pc := by unfold Ctx.setS; split <;> rfl
@[simp] theorem Ctx.setV_pc (x : Ctx) (n : Nat) (v : Line) : (x.setV n v).pc = x.pc := rfl
@[simp] theorem Ctx.setM_pc (x : Ctx) (n : Nat) (v : BitVec 16) : (x.setM n v).pc = x.pc := rfl

/-! ### Issue and retire -/

/-- An instruction that issues runs its body on the state with the words lost. -/
theorem issue_eq {f : Enc} {i : Issue} {s : State} (body : State → Ctx → Res) (h : Issues f i s) :
    issue f i s body = settle (begun i s) i.core i.ctx (body (begun i s) (ctxOf i s)) := by
  obtain ⟨h1, h2, h3, _, h5, h6⟩ := h
  simp only [issue, canIssue, h1, h2, h3, ← begun.eq_def, getCtx_begun, h5, h6, ctxOf]
  simp

/-- A context with nothing due at its retire point. -/
theorem Ctx.endDue_false {x : Ctx} (h : x.endDue = false) : x.pend = [] ∧ x.fired.isSome = false ∧ x.fenceDue = false ∧ x.aborts.isEmpty = true := by
  simp [Ctx.endDue] at h ⊢
  tauto

/-- At a retire point with nothing pending the effects stand. -/
theorem retirePoint_clear {f : Enc} {i : Issue} {s : State} (t : State) (h : Issues f i s) : retirePoint (begun i s) i.core i.ctx [] t = t := by
  obtain ⟨_, _, _, h4, _, _⟩ := h
  obtain ⟨p, q, r, a⟩ := Ctx.endDue_false h4
  simp [retirePoint, p, q, r, a, worstFault]

theorem settle_retire {f : Enc} {i : Issue} {s : State} (t : State) (h : Issues f i s) :
    settle (begun i s) i.core i.ctx (.retire t (nextPc (ctxOf i s))) = wentOn i s t := by
  simp [settle, retirePoint_clear _ h, wentOn, nextPc]

theorem settle_jump {f : Enc} {i : Issue} {s : State} (t : State) (pc : Word) (h : Issues f i s) :
    settle (begun i s) i.core i.ctx (.retire t pc) = goOn t i.core i.ctx pc := by
  simp [settle, retirePoint_clear _ h]

/-- The registers of the context are written and it goes on at the next word. -/
theorem settle_retireCtx {f : Enc} {i : Issue} {s t : State} {x : Ctx} (h : Issues f i s) (hp : x.pc = (ctxOf i s).pc) :
    settle (begun i s) i.core i.ctx (retireCtx t i x) = wentOn i s (setCtx t i.core i.ctx x) := by
  simp [retireCtx, settle, retirePoint_clear _ h, wentOn, nextPc, hp]

/-- A fault ends the task with its status. -/
theorem settle_fault {f : Enc} {i : Issue} {s : State} (fs : List FaultRec) (g : FaultRec) (h : Issues f i s) (hg : worstFault fs = some g) :
    settle (begun i s) i.core i.ctx (.fault (begun i s) fs) = endTask (begun i s) i.core i.ctx g.status fs := by
  obtain ⟨_, _, _, h4, _, _⟩ := h
  obtain ⟨p, _, _, _⟩ := Ctx.endDue_false h4
  simp [settle, retirePoint, p, hg, endTask]

/-- An instruction that waits. -/
theorem settle_wait {f : Enc} {i : Issue} {s : State} (t : State) (w : Wait) (st : CtxState) (h : Issues f i s) :
    settle (begun i s) i.core i.ctx (.wait t w st) = waits i t st w := by
  obtain ⟨_, _, _, h4, _, _⟩ := h
  simp [settle, h4, waits]

end Sys2Proof.Machine
end

