-- ==== Sys2Proof/Laws/Teller.lean ====
section
/-! SUPPORT. What a Teller message comes to: an authentic request in its turn runs its command. -/

namespace Sys2Proof.Machine

@[simp] theorem find_modSess (s : State) (n : Nat) (f : Session → Session) :
    Tbl.find (modSess s n f).sessions n = (Tbl.find s.sessions n).map f := by
  unfold modSess
  cases h : Tbl.find s.sessions n <;> simp [h]

@[simp] theorem setWin_boxes (t : Session) (p : Nat) (w : ReplayWin) : (setWin t p w).boxes = t.boxes := by unfold setWin; split <;> rfl
@[simp] theorem setWin_estNum (t : Session) (p : Nat) (w : ReplayWin) : (setWin t p w).estNum = t.estNum := by unfold setWin; split <;> rfl
@[simp] theorem setWin_priv (t : Session) (p : Nat) (w : ReplayWin) : (setWin t p w).priv = t.priv := by unfold setWin; split <;> rfl

@[simp] theorem modSess_state (s : State) (n : Nat) (f : Session → Session) : (modSess s n f).state = s.state := by
  unfold modSess; split <;> rfl

/-- An authentic message is taken in. -/
theorem authIn_authentic {m : Msg} {s : State} (f : State → State) (h : Authentic m s) : authIn s m f = f (received m s) := by
  obtain ⟨h1, h2, t, h3, h4, h5, h6, h7, h8⟩ := h
  simp only [authIn, h1, h2, h3, h4, h5, h6, received, modSess]
  have n7 : ¬ 2 ^ 63 ≤ m.seq.toNat := Nat.not_le.mpr h7
  have n8 : ¬ 2 ^ 63 ≤ t.seqOut.toNat := Nat.not_le.mpr h8
  simp only [n7, n8, decide_false, Bool.or_self, Bool.not_true, ne_eq, not_true_eq_false, if_false, Bool.false_eq_true]

theorem getBox_received (m : Msg) (s : State) (b : Nat) : getBox (received m s) m.sess.toNat b = getBox s m.sess.toNat b := by
  simp only [getBox, received, find_modSess]
  cases Tbl.find s.sessions m.sess.toNat <;> simp

theorem replyOf_received (m : Msg) (s : State) : replyOf (received m s) m = replyOf s m := by
  simp only [replyOf, received, find_modSess]
  cases Tbl.find s.sessions m.sess.toNat <;> simp

@[simp] theorem journal_sessions (s : State) (e : Journaled) : (journal s e).sessions = s.sessions := rfl
@[simp] theorem journal_state (s : State) (e : Journaled) : (journal s e).state = s.state := rfl

/-- Taking a request in changes its session, and the hubs' journals for one that changes state. -/
theorem started_sessions (ro : Bool) (m : Msg) (s : State) : (started ro m s).sessions =
    (modBox (received m s) m.sess.toNat m.mbox.toNat fun b =>
      { b with running := b.running ++ [m.rseq.toNat], held := Tbl.drop b.held m.rseq.toNat }).sessions := by
  unfold started; split <;> rfl

theorem privOf_started (ro : Bool) (m : Msg) (s : State) : privOf (started ro m s) m.sess.toNat = privOf s m.sess.toNat := by
  simp only [privOf, started_sessions, modBox, find_modSess, received]
  cases Tbl.find s.sessions m.sess.toNat <;> simp

theorem started_state (ro : Bool) (m : Msg) (s : State) : (started ro m s).state = s.state := by
  unfold started; split <;> simp [modBox, received]

/-- A request in turn that passes every check runs its command. -/
theorem teller_begins {c : Cmd} {m : Msg} {s : State} (i : Instr) (h : Begins c m s) : teller s m i c = c.run (started c.ro m s) (replyOf s m) := by
  obtain ⟨h1, h2, h3, h4, ⟨b1, b2, b3, b4⟩, h6, h7, h8, h9⟩ := h
  have e : teller s m i c = boxIn (received m s) m i c := by
    simp only [teller, h1, h3]
    simp [authIn_authentic _ h4]
  rw [e]
  simp only [boxIn, getBox_received, b1, b3, b4]
  have hn : ¬ (m.rseq.toNat + 64 ≤ m.rseq.toNat) := by omega
  have b2' : List.contains (getBox s m.sess.toNat m.mbox.toNat).running m.rseq.toNat = false := by simpa using b2
  simp only [hn, b2', if_false, Bool.or_false, Nat.lt_irrefl, Bool.false_eq_true]
  rw [boxRun, replyOf_received]
  have hs : (if c.ro then modBox (received m s) m.sess.toNat m.mbox.toNat (fun b =>
        { b with running := b.running ++ [m.rseq.toNat], held := Tbl.drop b.held m.rseq.toNat })
      else journal (modBox (received m s) m.sess.toNat m.mbox.toNat fun b =>
        { b with running := b.running ++ [m.rseq.toNat], held := Tbl.drop b.held m.rseq.toNat }) (replyOf s m).entry) = started c.ro m s := rfl
  simp only [hs]
  have hp : ¬ (privOf (started c.ro m s) (replyOf s m).sess < c.priv) := by
    have : (replyOf s m).sess = m.sess.toNat := rfl
    rw [this, privOf_started]; omega
  simp only [cmdRun, h2, h3, started_state, h8, h9, hp]
  rcases h6 with h6 | h6 <;> simp [h6]

end Sys2Proof.Machine
end

