-- ==== Sys2Proof/Laws/Replies.lean ====
section
/-! SUPPORT. What the shared operations of replies and reports can change. -/

namespace Sys2Proof.Machine

theorem emit_eq (s : State) (e : Emit) : emit s e = { s with emitted := s.emitted ++ [e] } := rfl

/-- The session's numbering has not run out (R312): a message to it does not end it. -/
def Numbered (s : State) (n : Nat) : Prop := ∀ t, Tbl.find s.sessions n = some t → t.seqOut.toNat < 2 ^ 63

/-- A message changes the sessions' numbering and what the panel has sent, nothing else. -/
theorem sendMsg_frame (s : State) (n port : Nat) (m : Msg) (hn : Numbered s n) :
    ∃ ss es, sendMsg s n port m = { s with sessions := ss, emitted := es } := by
  unfold sendMsg
  split
  · exact ⟨_, _, rfl⟩
  · rename_i t ht
    have : ¬ 2 ^ 63 ≤ t.seqOut.toNat := Nat.not_le.mpr (hn t ht)
    rw [if_neg this]
    split <;> exact ⟨_, _, rfl⟩

/-- A completion changes the sessions and what the panel has sent, nothing else. -/
theorem complete_frame (s : State) (r : Reply) (st : Status) (p : Bytes) (hn : Numbered s r.sess) :
    ∃ ss es, complete s r st p = { s with sessions := ss, emitted := es } := by
  unfold complete
  split
  · exact ⟨_, _, rfl⟩
  · rename_i t ht
    split
    · exact ⟨_, _, rfl⟩
    · generalize Mailbox.completed _ _ _ = b
      obtain ⟨ss, es, h⟩ := sendMsg_frame { s with sessions := Tbl.put s.sessions r.sess { t with boxes := Tbl.put t.boxes r.mbox b } } r.sess
        r.port { Msg.none with cls := 1, mbox := BitVec.ofNat 6 r.mbox, cmd := r.cmd, status := st, rseq := BitVec.ofNat 32 r.rseq,
                               interim := false, resend := false, payload := p } (by
          intro u hu
          simp only [Tbl.find_put_self, Option.some.injEq] at hu
          subst hu; exact hn t ht)
      exact ⟨ss, es, h⟩

/-- Taking a request in changes the sessions and the hubs' journals only. -/
theorem started_frame (ro : Bool) (m : Msg) (s : State) : ∃ ss h0 h1, started ro m s = { s with sessions := ss, hub0 := h0, hub1 := h1 } := by
  unfold started modBox received
  unfold modSess
  repeat' split
  all_goals exact ⟨_, _, _, rfl⟩

/-- A message that is authentic finds the numbering of its session good, and taking it in leaves it so. -/
theorem numbered_started {ro : Bool} {m : Msg} {s : State} (h : Authentic m s) : Numbered (started ro m s) m.sess.toNat := by
  obtain ⟨_, _, t, ht, _, _, _, _, hq⟩ := h
  intro u hu
  rw [started_sessions] at hu
  simp only [modBox, find_modSess, received, ht, Option.map_some] at hu
  have : u.seqOut = t.seqOut := by
    simp only [Option.some.injEq] at hu
    subst hu
    unfold setWin; split <;> rfl
  rw [this]; exact hq

/-- The generation of a report changes the sessions and the free values' counter, nothing else. -/
theorem renewReport_frame (s : State) (n : Nat) : ∃ ss c, renewReport s n = { s with sessions := ss, freeCtr := c } := by
  unfold renewReport
  split <;> exact ⟨_, _, rfl⟩

/-- New reports change the sessions and the free values' counter, nothing else. -/
theorem withReports_frame (s t : State) : ∃ ss c, withReports s t = { t with sessions := ss, freeCtr := c } := by
  have h : ∀ (l : List Nat) (t : State), ∃ ss c, l.foldl renewReport t = { t with sessions := ss, freeCtr := c } := by
    intro l
    induction l with
    | nil => exact fun t => ⟨_, _, rfl⟩
    | cons n l ih =>
      intro t
      obtain ⟨ss, c, e⟩ := renewReport_frame t n
      obtain ⟨ss', c', e'⟩ := ih (renewReport t n)
      exact ⟨ss', c', by rw [List.foldl_cons, e', e]⟩
  unfold withReports
  split
  · exact ⟨_, _, rfl⟩
  · split
    · exact ⟨_, _, rfl⟩
    · exact h _ t

/-- Where nothing that a report says has changed, no report is generated. -/
theorem report_of_key {s t : State} (h : reportKey s = reportKey t) : report s t = .next t := by
  unfold report withReports
  split
  · rfl
  · simp

/-- A report says nothing of the sessions, of what was sent, nor of the free values' counter. -/
@[simp] theorem reportKey_sessions (s : State) (ss : Tbl Session) : reportKey { s with sessions := ss } = reportKey s := rfl
@[simp] theorem reportKey_emitted (s : State) (es : List Emit) : reportKey { s with emitted := es } = reportKey s := rfl
@[simp] theorem reportKey_pending (s : State) (l : List Instr) : reportKey { s with pending := l } = reportKey s := rfl

theorem reportKey_complete (s : State) (r : Reply) (st : Status) (p : Bytes) (hn : Numbered s r.sess) :
    reportKey (complete s r st p) = reportKey s := by
  obtain ⟨ss, es, h⟩ := complete_frame s r st p hn
  rw [h]; rfl

theorem reportKey_journal (s : State) (e : Journaled) : reportKey (journal s e) = reportKey s := by
  unfold journal
  simp only [reportKey]
  split <;> split <;> rfl

@[simp] theorem reportKey_started (ro : Bool) (m : Msg) (s : State) : reportKey (started ro m s) = reportKey s := by
  have h : ∀ t : State, (∃ ss, t = { s with sessions := ss }) → reportKey t = reportKey s := by
    rintro t ⟨ss, rfl⟩; rfl
  have k : reportKey (modBox (received m s) m.sess.toNat m.mbox.toNat fun b =>
      { b with running := b.running ++ [m.rseq.toNat], held := Tbl.drop b.held m.rseq.toNat }) = reportKey s := by
    apply h
    unfold modBox received modSess
    repeat' split
    all_goals exact ⟨_, rfl⟩
  unfold started
  split
  · exact k
  · rw [reportKey_journal]; exact k

/-- A request that ends at once, having changed nothing else, generates no report. -/
theorem report_complete {ro : Bool} {m : Msg} {s : State} (h : Authentic m s) (st : Status) (p : Bytes) :
    report s (complete (started ro m s) (replyOf s m) st p) = .next (complete (started ro m s) (replyOf s m) st p) :=
  report_of_key (by rw [reportKey_complete _ _ _ _ (numbered_started h), reportKey_started])

end Sys2Proof.Machine
end

