-- ==== Sys2Proof/Tests/Slice0.lean ====
section
/-! SUPPORT. Tests: ill-formed commands that WellFormed refuses, single commands on small states with results from the spec, and for every
statement of Certificates/Slice0/Obligations.lean states and operands that meet its hypotheses. -/

namespace Sys2Proof.Tests

set_option Elab.async false

open Sys2Proof Sys2Proof.Machine

/-! ### Small states -/

/-- The state that a command leaves. -/
def after (c : Instr) (s : State) : State :=
  match exec c s with
  | .next t => t
  | _ => s

/-- A word of a core instruction on context 0 of core 0. -/
def word (rd ra rb : Nat) (imm : BitVec 32) : Issue :=
  Issue.mk 0 0 (BitVec.ofNat 5 rd) (BitVec.ofNat 5 ra) (BitVec.ofNat 5 rb) 0 0 false imm []

def wordC (rd ra rb rc : Nat) (imm : BitVec 32) : Issue := { word rd ra rb imm with c := BitVec.ofNat 5 rc }

/-- A ready context with a 4 KiB program and the registers given. -/
def liveCtx (regs : Tbl Word) : Ctx := { Ctx.reset with state := .ready, codeLen := 4096, pc := 64, regs := regs }

/-- A serving panel whose core 0 runs context `x` as its context 0. -/
def live (x : Ctx) : State := setCtx { State.reset with state := .serving } 0 0 x

def regAfter (c : Instr) (s : State) (n : Nat) : Word := (getCtx (after c s) 0 0).s n
def vecAfter (c : Instr) (s : State) (n : Nat) : Line := (getCtx (after c s) 0 0).v n

/-- A vector whose lanes are the listed words, 0 beyond them. -/
def vec (l : List (BitVec 32)) : Line := ofLanes fun j => l.getD j 0

/-- A map with no records, of a partition on site 0. -/
def bareMap (bb : Bool) : PartMap :=
  { step := { nlayer := 1, lkeep := true, slots := 1, split := 0, overlap := 0, chunk := 512, sloth := 0, rech := 0, inh := 0, relA0 := 0, relA1 := 0, relB0 := 0, relB1 := 0 }, clear := [], streams := [], m := 0, kvlo := 0, kvhi := 0, tokb := 0, sparse := { tolerant := false, xo4 := 308, xo8 := 410, xo16 := 512 }, pred := { mode := 0, log := false, logh := 0, layers := [] }, mcast := [], circuits := [], bb := bb, loader := [], digest := [] }

/-- Partition 3 on site 0, its cores 0 and 1 numbered, with a map and the partition fields that `f` sets. -/
def withPart (s : State) (f : Partition → Partition) : State :=
  { s with parts := [(3, f { Partition.reset with sites := [0], numbering := [0, 1], map := some (bareMap false) })] }

/-! ### Well-formed commands: each range refuses the first number beyond it -/

def w0 : Issue := word 0 0 0 0

theorem test_wf_accepts : [Instr.nop w0, .nop { w0 with core := 655359, ctx := 3, upsets := [(6143, true)] }].all Instr.wf = true := by decide

theorem test_wf_core_instruction :
    [Instr.add { w0 with core := 655360 }, .ld { w0 with ctx := 4 }, .vst { w0 with upsets := [(6144, false)] }].all (fun c => !c.wf) = true := by
  decide

def p0 : CtrlPacket := CtrlPacket.mk 0 false 0 0 0 0 0 0 0
def d0 : DataPacket := DataPacket.mk false 0 (.unicast false 0 0 0 0 0 false) 0
def f0 : OptFrame := OptFrame.mk 0 0 0 0 0 0 0 0 0 0 0
def a0 : ArrayRead := ArrayRead.mk 0 false none
def m0 : Msg := Msg.mk 0 0 0 3 0 0 0 false false 0 0 0 1 0 1 0 [] 0
def g0 : PlpMsg := PlpMsg.mk 1 false 0 0 0 0 0
def q0 : RdmaReq := { port := 0, sess := 0, psn := 0, va := 0, rkey := 0, len := 64, lines := [], ce := false }

theorem test_wf_core_events :
    [Instr.waitcComplete 655360 0, .waitcUeFault 0 4, .arrivalDeadlineExpiry 655360 0, .carrAfterClear 0 4, .cwaitRetire 0 4,
     .engineQueueRoom 0 4, .operandRangeRelease 655360 0, .routerInjectionAccept 655360 (RouterClock.mk 0 [] [] false), .engineBlockClose 0 4 [],
     .tileCheckerTakeOp 655360, .tileCheckComplete 655360, .tileCheckFailureReport 655360, .spmCeRewrite 0 6144, .lineArrival 655360 d0,
     .note 655360 d0, .writeGrant 655360 p0, .commit 655360 p0, .countOnly 655360 p0, .xgrant 655360 p0, .abortPacket 655360 p0,
     .clearingNoticeArrival 0 16, .contextWatchdogExpiry 0 4, .engineWatchdogExpiry 0 4, .compatibleRelaunchWindowEnd 0 4].all
      (fun c => !c.wf) = true := by decide

theorem test_wf_clusters_and_routers :
    [Instr.dataPacketAtRouter 655360 0 (RouterClock.mk 0 [] [] false) d0 0, .dataPacketAtRouter 0 12 (RouterClock.mk 0 [] [] false) d0 0,
     .controlPacketAtRouter 0 12 (RouterClock.mk 0 [] [] false) { past := false, p := p0 } 0,
     .readReq 10240 p0, .writeReq 10240 p0, .taggedLineTimeout 0 65536, .fencePacket 10240 p0, .probe 10240 p0 0, .probeTimeout 10240 false,
     .handleDescriptorUpdate 0 16 0, .handleDescriptorUpdate 0 0 4352, .handleDescriptorUpdate 10240 0 0, .dramReadComplete 10240 a0,
     .dramWriteCommit 10240, .patrolScrubVisit 10240 a0, .refresh 10240, .recalibrationTrigger 10240 0, .recalSliceStart 10240,
     .recalSliceEnd 10240, .phaseFailure 0 4, .droopStretchRequest 10240 0 0, .stretchEnd 0 4096, .wakeRequest 10240 0, .clusterOn 10240,
     .clusterPark 10240].all (fun c => !c.wf) = true := by decide

theorem test_wf_links_and_domains :
    [Instr.laneRetrainStart (.die 160 0) 0, .laneRetrainStart (.die 0 4) 0, .laneRetrainStart (.die 0 0) 2048, .laneRetrainDone (.optical 48) 0 true,
     .eyeMarginSample (.optical 48) [], .crossFault (.link 160 0 0), .crossFault (.link 0 0 2048), .crossFault (.core 655360),
     .fenceTimeout (.context 0 4), .fenceTimeout (.engine 655360 0), .resetNotServingTimeout (.partition 16), .stepReplay 65536,
     .fenceAckTimeout 65536, .clearingGenerationClear 16 0, .clearingWatchdogExpiry 0 16, .spareWarmupDone 160, .weightCopyComplete 160,
     .handleFreeTimer 0 4096, .windowExpiry 0 256, .wakeHeadroomTimeout 160, .measurementRecompute 16 [], .partDrainComplete 16].all
      (fun c => !c.wf) = true := by decide

theorem test_wf_optical :
    [Instr.xputReq 48 p0, .xgetReq 48 p0, .putLine 48 { frame := f0, first := 0, lines := 1 },
     .getRequest 48 { frame := f0, first := 0, lines := 1 } a0, .escrow 48 f0, .getLine 48 f0, .done 48 f0, .opticalLineTimeout 0 65536 0,
     .opticalLineTimeout 0 0 1048576, .ack 48 f0, .assuredAckDue 0 1024, .assuredResendTimeout 1024 0, .crossPanelClearTimeout 65536,
     .leadLossTimeout 65536, .rejoinTimeout 65536, .time 48 f0 0, .timeFrameDue 0 2048, .opticalFrameDiscard 48 f0 true 0,
     .opticalFrameTransit 48 f0].all (fun c => !c.wf) = true := by decide

theorem test_wf_teller :
    [Instr.ping { m0 with port := 2 }, .sessionKeepaliveExpiry 16, .mailboxHeldRequestRelease 0 64, .mailboxGap 16 0, .streamResendTimeout 0 4294967296,
     .eventResendTimeout 16 0].all (fun c => !c.wf) = true := by decide

theorem test_wf_payload (l : Bytes) (h : l.length = 4097) : (Instr.dataWrite { m0 with payload := l }).wf = false := by
  simp [Instr.wf, msgOk, h]

theorem test_wf_ports_guests_pins :
    [Instr.hubRejoin 2 0, .hubRejoinTimeout 2, .rdmaWrite { q0 with port := 2 }, .rdmaRead { q0 with sess := 16 } [], .cnp 16,
     .roceResponse 16 (.ack 0) false, .ptpSync 2 ⟨0, .ipv4⟩ 0 0, .ptpSync 0 ⟨128, .ipv4⟩ 0 0, .ptpDelayResp 2 0 0 0, .ptpAnnounce 0 128 0, .arpRequest 2 0,
     .neighborSolicitation 2 0, .icmpEcho 2 0 [], .unknownFrame { port := 2, kind := .other }, .portLinkDown 2, .portLinkUp 2, .hubLoss 2, .hubReturn 2, .cap 8 g0 0,
     .rd 8 g0 a0, .wr 8 g0, .attr 8 g0, .gateRequestTimeout 0 4096, .guestHoldbackTimeout 8, .attrTimeout 8, .attqPeriodic 8 0, .guestLinkDown 8,
     .guestOvercurrent 8, .guestLinkUp 8 0 false, .roceAckTimeout 16].all (fun c => !c.wf) = true := by decide

theorem test_wf_power_and_sideband :
    [Instr.stageMainTrip 80 false, .auxOutputTrip 80, .rampDownStageStart 80, .inputBelowLockout 2, .stageHeartbeatLoss 2, .heartbeatWrite 2,
     .telemetryPoll (StageRead.mk 80 0 0 0 0 0 0 0), .smbalert (StageRead.mk 80 0 0 0 0 0 0 0) 0, .referenceLoss 2, .referenceReturn 2, .busbarInputRise 2,
     .auxOutputOpen 2, .imageWriteComplete 18, .setdasa 2 0, .rstdaa 2, .enec 2 0, .disec 2 0, .getpid 2, .getbcr 2, .getdcr 2, .getstatus 2,
     .alertClear 2, .flowrptWrite 2 0, .go 2, .recordSubmissionDone 2 true, .doneClear 2, .sbRegisterWrite 2 0 0,
     .sbRegisterWrite 0 32768 0].all (fun c => !c.wf) = true := by decide

/-! ### Coordinates and formats, from the spec's worked examples -/

/-- Local core (5, 12) on H1.D37 (00, after R4): x 453, y 716, cluster 8; on H0.D37 it lies at (453, 307). -/
theorem test_core_coordinates :
    (coreX (117 * 4096 + 8 * 64 + 37), coreY (117 * 4096 + 8 * 64 + 37)) = (453, 716) ∧
    (coreX (37 * 4096 + 8 * 64 + 37), coreY (37 * 4096 + 8 * 64 + 37)) = (453, 307) ∧ coreAt 453 716 = 117 * 4096 + 8 * 64 + 37 := by decide

/-- FP32 5.0, -1.25, 0.1875, 10.5 under T = 0.75: scale 0x80 and codes 5, A, 0, 7 (03, first worked example; R81). -/
theorem test_quantise_fp4 :
    (quantBlock 6 0x3A00 (fun _ => none) ([0x40A00000, 0xBFA00000, 0x3E400000, 0x41280000] ++ List.replicate 28 0)) =
      (0x80, [5, 0xA, 0, 7] ++ List.replicate 28 0) := by decide +kernel

/-- With r = 8,000 the third element rounds up to code 1 (03; R84). -/
theorem test_quantise_stochastic :
    ((quantBlock 6 0x3A00 (fun _ => some 8000) ([0x40A00000, 0xBFA00000, 0x3E400000, 0x41280000] ++ List.replicate 28 0)).2).getD 2 0 = 1 := by
  decide +kernel

/-- The engine's block of the second worked example of 03: cell (0, 0) becomes 7.5 (R42). -/
theorem test_engine_cell :
    cellBlock ([0x5, 0xA, 0x0, 0x7].map (decodeElem 6) ++ List.replicate 28 (decodeElem 6 0))
      ([0x2, 0x4, 0x6, 0x3].map (decodeElem 6) ++ List.replicate 28 (decodeElem 6 0)) 128 126 (decodeElem 2 0x3A00) (decodeElem 2 0x3C00) 0 =
    0x40F00000 := by decide +kernel

/-- One rounding per block: 2^24 + 1.5 gives 0x4B800001, and 2^24 + 3.0 gives 0x4B800002 (02, after R45). -/
theorem test_one_rounding :
    let one := [0x38, 0x38, 0x38].map (decodeElem 3) ++ List.replicate 29 (decodeElem 3 0)
    let half := [0x30, 0x30, 0x30].map (decodeElem 3) ++ List.replicate 29 (decodeElem 3 0)
    cellBlock one half 127 127 (decodeElem 2 0x3C00) (decodeElem 2 0x3C00) 0x4B800000 = 0x4B800001 ∧
    cellBlock one half 128 127 (decodeElem 2 0x3C00) (decodeElem 2 0x3C00) 0x4B800000 = 0x4B800002 := by decide +kernel

/-! ### Core instructions: one step each, expected results from the rules of 04 -/

theorem test_add_wraps : regAfter (.add (word 3 1 2 0)) (live (liveCtx [(1, -1), (2, 5)])) 3 = 4 := by decide +kernel
theorem test_add_to_register_0 : regAfter (.add (word 0 1 2 0)) (live (liveCtx [(1, 7), (2, 5)])) 0 = 0 := by decide +kernel
theorem test_sub : regAfter (.sub (word 3 1 2 0)) (live (liveCtx [(1, 5), (2, 7)])) 3 = -2 := by decide +kernel
theorem test_and : regAfter (.and (word 1 1 2 0)) (live (liveCtx [(1, 0xF0), (2, 0x3C)])) 1 = 0x30 := by decide +kernel
theorem test_or : regAfter (.or (word 3 1 2 0)) (live (liveCtx [(1, 0xF0), (2, 0x0C)])) 3 = 0xFC := by decide +kernel
theorem test_xor : regAfter (.xor (word 3 1 2 0)) (live (liveCtx [(1, 0xF0), (2, 0x3C)])) 3 = 0xCC := by decide +kernel
theorem test_shl_count_64 : regAfter (.shl (word 3 1 2 0)) (live (liveCtx [(1, 3), (2, 65)])) 3 = 6 := by decide +kernel
theorem test_shr : regAfter (.shr (word 3 1 2 0)) (live (liveCtx [(1, 0x8000000000000000), (2, 63)])) 3 = 1 := by decide +kernel
theorem test_sar : regAfter (.sar (word 3 1 2 0)) (live (liveCtx [(1, 0x8000000000000000), (2, 63)])) 3 = -1 := by decide +kernel
theorem test_mul_low : regAfter (.mul (word 3 1 2 0)) (live (liveCtx [(1, -1), (2, 3)])) 3 = -3 := by decide +kernel
theorem test_slt : regAfter (.slt (word 3 1 2 0)) (live (liveCtx [(1, -1), (2, 0)])) 3 = 1 := by decide +kernel
theorem test_sltu : regAfter (.sltu (word 3 1 2 0)) (live (liveCtx [(1, -1), (2, 0)])) 3 = 0 := by decide +kernel
theorem test_addi : regAfter (.addi (word 3 1 0 0xFFFFFFFE)) (live (liveCtx [(1, 1)])) 3 = -1 := by decide +kernel
theorem test_min : regAfter (.min (word 3 1 2 0)) (live (liveCtx [(1, -4), (2, 3)])) 3 = -4 := by decide +kernel
theorem test_max : regAfter (.max (word 3 1 2 0)) (live (liveCtx [(1, -4), (2, 3)])) 3 = 3 := by decide +kernel
theorem test_lih : regAfter (.lih (word 3 1 0 0x12345678)) (live (liveCtx [(1, -1)])) 3 = 0x12345678FFFFFFFF := by decide +kernel
theorem test_nop : (getCtx (after (.nop (word 0 0 0 0)) (live (liveCtx []))) 0 0).pc = 72 := by decide +kernel
theorem test_reserved_bits_trap : (getCtx (after (.add (word 3 1 2 1)) (live (liveCtx []))) 0 0).fault = 2 := by decide +kernel

theorem test_beq_taken : (getCtx (after (.beq (word 0 1 2 0xFFFFFFFF)) (live (liveCtx [(1, 4), (2, 4)]))) 0 0).pc = 56 := by decide +kernel
theorem test_bne_falls_through : (getCtx (after (.bne (word 0 1 2 9)) (live (liveCtx [(1, 4), (2, 4)]))) 0 0).pc = 72 := by decide +kernel
theorem test_blt_signed : (getCtx (after (.blt (word 0 1 2 1)) (live (liveCtx [(1, -1), (2, 4)]))) 0 0).pc = 72 := by decide +kernel
theorem test_bltu_unsigned : (getCtx (after (.bltu (word 0 1 2 4)) (live (liveCtx [(1, -1), (2, 4)]))) 0 0).pc = 72 := by decide +kernel
theorem test_bge_equal : (getCtx (after (.bge (word 0 1 2 2)) (live (liveCtx [(1, 4), (2, 4)]))) 0 0).pc = 80 := by decide +kernel
theorem test_b_out_of_image : (getCtx (after (.b (word 0 0 0 0xFFFFFFF7)) (live (liveCtx []))) 0 0).lastStatus = stIllegalOp := by decide +kernel
theorem test_jal_links : regAfter (.jal (word 31 0 0 2)) (live (liveCtx [])) 31 = 72 := by decide +kernel
theorem test_jr : (getCtx (after (.jr (word 0 1 0 0)) (live (liveCtx [(1, 4088)]))) 0 0).pc = 4088 := by decide +kernel
theorem test_end : (getCtx (after (.end_ (word 0 0 0 0)) (live (liveCtx []))) 0 0).state = .idle := by decide +kernel
theorem test_crr_tally : regAfter (.crr (word 3 0 0 0x10)) { live (liveCtx []) with tally := 777 } 3 = 777 := by decide +kernel
theorem test_crw_clears_fault : (getCtx (after (.crw (word 0 1 0 0x18)) (live { liveCtx [(1, 2)] with fault := 3 })) 0 0).fault = 1 := by decide +kernel

theorem test_st_then_ld :
    regAfter (.ld (word 3 1 0 0x30008)) (after (.st (word 0 1 2 0x30008)) (live (liveCtx [(1, 0x100), (2, 0x1122334455667788)]))) 3 = 0x1122334455667788 := by
  decide +kernel
theorem test_ld_sign_extends :
    regAfter (.ld (word 3 1 0 0x80000)) (after (.st (word 0 1 2 0)) (live (liveCtx [(1, 0x100), (2, 0x80)]))) 3 = -128 := by decide +kernel
theorem test_vst_then_vld :
    vecAfter (.vld (word 5 1 0 0)) (after (.vst (word 0 1 2 0)) (live { liveCtx [(1, 0x40)] with vregs := [(2, vec [1, 2, 3])] })) 5 = vec [1, 2, 3] := by
  decide +kernel
theorem test_vld_beyond_traps : (getCtx (after (.vld (word 5 1 0 0)) (live (liveCtx [(1, 49152)]))) 0 0).lastStatus = stBoundFault := by decide +kernel

def lanes2 : Ctx := { liveCtx [(1, 7)] with vregs := [(1, vec [0x3F800000, 0x40400000, 5]), (2, vec [0x40000000, 0xBF800000, 3])], masks := [(1, 1), (2, 3)] }

theorem test_vadd : vecAfter (.vadd (word 3 1 2 0)) (live lanes2) 3 = vec [0x40400000, 0x40000000, 8] := by decide +kernel
theorem test_vsub : vecAfter (.vsub (word 3 1 2 0)) (live lanes2) 3 = vec [0xBF800000, 0x40800000, 2] := by decide +kernel
theorem test_vmul : lane (vecAfter (.vmul (word 3 1 2 0)) (live lanes2) 3) 1 = 0xC0400000 := by decide +kernel
theorem test_vfma : lane (vecAfter (.vfma (wordC 3 1 2 1 0)) (live lanes2) 3) 0 = 0x40400000 := by decide +kernel
theorem test_vmin_vmax : lane (vecAfter (.vmin (word 3 1 2 0)) (live lanes2) 3) 1 = 0xBF800000 ∧ lane (vecAfter (.vmax (word 3 1 2 0)) (live lanes2) 3) 1 = 0x40400000 := by
  decide +kernel
theorem test_vmul_masked : vecAfter (.vmul { word 2 1 2 0 with men := true, msk := 1 }) (live lanes2) 2 = vec [0x40000000, 0xBF800000, 3] := by decide +kernel
/-- VDIV of 1.0 by 3.0 gives 0x3EAAAAAB and RCP of 3.0 gives 0x3EAAAB00 (04, after Table 4-7). -/
theorem test_vdiv_and_rcp : f32Div 0x3F800000 0x40400000 = 0x3EAAAAAB ∧ vfnRcp 0x40400000 = 0x3EAAAB00 := by decide +kernel
theorem test_vfn_special_inputs :
    [vfnRcp 0x80000000, vfnRsq 0xFF800000, vfnRsq 0x80000000, vfnExp2 0xFF800000, vfnExp2 0x80000000, vfnLog2 0, vfnLog2 0xBF800000] =
      [0xFF800000, 0x7FC00000, 0xFF800000, 0, 0x3F800000, 0xFF800000, 0x7FC00000] := by decide +kernel
theorem test_vfn_exact_powers : vfnExp2 0x40400000 = 0x41000000 ∧ vfnLog2 0x41000000 = 0x40400000 ∧ vfnRsq 0x40800000 = 0x3F000000 := by decide +kernel
theorem test_vsqrt : f32Sqrt 0x40800000 = 0x40000000 ∧ f32Sqrt 0xBF800000 = 0x7FC00000 := by decide +kernel
theorem test_vcmp : (getCtx (after (.vcmp (word 4 1 2 2)) (live lanes2)) 0 0).m 4 = 1 := by decide +kernel
theorem test_vlog_andn : lane (vecAfter (.vlog (word 3 1 2 3)) (live lanes2) 3) 2 = 4 := by decide +kernel
theorem test_viop_sub : lane (vecAfter (.viop (word 3 1 2 1)) (live lanes2) 3) 2 = 2 := by decide +kernel
theorem test_vsel : vecAfter (.vsel { word 3 1 2 0 with msk := 2 }) (live lanes2) 3 = vec [0x3F800000, 0x40400000, 3] := by decide +kernel
theorem test_vbcast : lane (vecAfter (.vbcast (word 3 1 0 0)) (live lanes2) 3) 15 = 7 := by decide +kernel
theorem test_vext : regAfter (.vext (word 3 1 0 2)) (live lanes2) 3 = 5 := by decide +kernel
theorem test_vred_max : regAfter (.vred (word 3 1 0 1)) (live lanes2) 3 = 0x40400000 := by decide +kernel
theorem test_vred_sum_masked : regAfter (.vred { word 3 1 0 0 with men := true, msk := 1 }) (live lanes2) 3 = 0x3F800000 := by decide +kernel
theorem test_vargmax : regAfter (.vargmax (word 3 1 0 0)) (live lanes2) 3 = 1 := by decide +kernel
theorem test_mlog_not : (getCtx (after (.mlog (word 3 2 0 3)) (live lanes2)) 0 0).m 3 = 0xFFFC := by decide +kernel
/-- FP32 1.0 to BF16 code 0x3F80, in the low half of the first lane. -/
theorem test_vcvt_to_bf16 : lane (vecAfter (.vcvt (word 3 1 0 0x10)) (live lanes2) 3) 0 % 65536 = 0x3F80 := by decide +kernel

/-- The strides, addresses and formats of "Encoding an engine operation" (04): the fields of 0x0505361603106060. -/
theorem test_etile_queues :
    ((getCore (after (.etile (wordC 0 3 4 6 0x05053616)) (live (liveCtx [(3, 0x1000), (4, 0x4000), (6, 0x0802400240)]))) 0).eng 1).queue.map
      (fun o => [o.aset, o.aAddr, o.bAddr, o.aStride, o.bStride, o.nblk, o.fba.toNat, o.fbb.toNat]) =
      [[1, 0x1000, 0x4000, 0x240, 0x240, 8, 0x16, 0x36]] := by
  decide +kernel
theorem test_etile_other_set_traps :
    (getCtx (after (.etile (wordC 0 3 4 6 0x05093616)) (live (liveCtx [(3, 0x1000), (4, 0x4000), (6, 0x0802400240)]))) 0 0).lastStatus = stIllegalOp := by
  decide +kernel
theorem test_azero : ((getCore (after (.azero (word 0 0 0 0x10000)) (modCore (live (liveCtx [])) 0 (·.setAcc 1 0 7))) 0).accSet 1 0) = 0 := by decide +kernel
theorem test_drain_writes_cells :
    spmBytes (after (.drain (word 0 1 0 0x10000)) (modCore (live (liveCtx [(1, 0x40)])) 0 (·.setAcc 1 0 (vec [0x3F800000, 0x40000000])))) 0 0x40 8 =
      0x400000003F800000 := by decide +kernel

theorem test_arm : ((getCore (after (.arm (word 0 1 0 0x50000)) (live (liveCtx [(1, 3)]))) 0).cnt 5).armed = true ∧
    ((getCore (after (.arm (word 0 1 0 0x50000)) (live (liveCtx [(1, 3)]))) 0).cnt 5).total = 3 := by decide +kernel
theorem test_waitc_not_armed_traps : (getCtx (after (.waitc (word 3 0 0 0x50000)) (live (liveCtx []))) 0 0).lastStatus = stIllegalOp := by decide +kernel
theorem test_carr_not_enrolled_traps : (getCtx (after (.carr (word 0 0 0 0)) (live (liveCtx []))) 0 0).lastStatus = stIllegalOp := by decide +kernel

/-- The stream bytes of the worked example of 05 give CHECK 0xD917 (R127). -/
theorem test_sparse_check : fletcher (49 + 256 * (196 + 256 * (159 + 256 * (112 + 256 * 17)))) 5 0 0 = 0xD917 := by decide +kernel

/-! ### Witnesses: for each statement, states and operands that meet its hypotheses. A name says which statement. -/

theorem wit_StepRunsFront :
    State.reset.pending = [] ∧ State.reset.boot.phase = 0 ∧
    (let s := { State.reset with boot := { State.reset.boot with phase := 13 } }; s.pending = [] ∧ s.boot.phase ≠ 0 ∧ s.sessions = [] ∧ s.master.steer = 0) := by
  decide +kernel

theorem wit_ScalarArithmetic :
    Issues { Enc.none with d := true, a := true, b := true } (word 31 1 2 0) (live (liveCtx [(1, 5), (2, 64)])) ∧
    Issues { Enc.none with d := true, a := true, imm := 0xFFFFFFFF } (word 0 31 0 0xFFFFFFFF) (live (liveCtx [])) := by
  unfold Issues; and_intros <;> decide +kernel

/-- A target inside the image and one just beyond it, for each form. -/
theorem wit_BranchesAndJumps :
    Issues { Enc.none with a := true, b := true, imm := 0xFFFFFFFF } (word 0 1 2 503) (live (liveCtx [(1, 1)])) ∧
    Issues { Enc.none with imm := 0xFFFFFFFF } (word 0 0 0 504) (live (liveCtx [])) ∧
    Issues { Enc.none with d := true, imm := 0xFFFFFFFF } (word 1 0 0 0) (live (liveCtx [])) ∧
    Issues { Enc.none with a := true } (word 0 1 0 0) (live (liveCtx [(1, 4096)])) ∧ Issues Enc.none (word 0 0 0 0) (live (liveCtx [])) ∧
    (liveCtx []).inImage (64 + 8 * 503) = true ∧ (liveCtx []).inImage (64 + 8 * 504) = false := by
  unfold Issues; and_intros <;> decide +kernel

def armedCore : State := modCore (live (liveCtx [])) 0 fun c => (c.setCnt 2 { Counter.reset with armed := true, count := 4 }).setCnt 3
  { Counter.reset with armed := true, owner := 1 }

theorem wit_TasksEnd :
    (Issues Enc.none (word 0 0 0 0) armedCore ∧ partOfCore armedCore 0 = none ∧ ((getCore armedCore 0).cnt 2).owner = 0 ∧
      ((getCore armedCore 0).cnt 3).owner ≠ 0) ∧
    (let x := getCtx armedCore 0 0
     x.state = .ready ∧ coreServing armedCore 0 = true ∧ x.pend = [] ∧ x.launch = none ∧ partOfCore armedCore 0 = none ∧ x.inImage x.pc.toNat = true ∧
     (word 0 0 1 0).b ≠ 0) ∧
    (let s := live { liveCtx [] with pc := 4096, fault := 1 }
     (getCtx s 0 0).inImage (getCtx s 0 0).pc.toNat = false ∧ (getCtx s 0 0).fault ≠ 0 ∧ (getCtx s 0 0).state = .ready ∧ coreServing s 0 = true ∧
     s.clock.stopped = false ∧ (getCtx s 0 0).endDue = false) := by
  unfold Issues; and_intros <;> decide +kernel

/-- CRR at the lowest and the highest offset; CRW with each clause's condition met. -/
theorem wit_ControlRegisters :
    Issues { Enc.none with d := true, imm := 0xFFF } (word 3 0 0 0) (live (liveCtx [])) ∧
    Issues { Enc.none with d := true, imm := 0xFFF } (word 3 0 0 0xF8) (live (liveCtx [])) ∧
    Issues { Enc.none with d := true, imm := 0xFFF } (word 3 0 0 0x18) (live { liveCtx [] with fault := 0x7F }) ∧
    Issues { Enc.none with a := true, imm := 0xFFF } (word 0 1 0 0x18) (live (liveCtx [(1, 0x7F)])) ∧ (0x7F : Word) &&& 0xFFFFFFFF0000FF80 = 0 ∧
    Issues { Enc.none with a := true, imm := 0xFFF } (word 0 1 0 0x28) (live { liveCtx [(1, 0x3FFFFC0)] with loader := true }) ∧
    (0x3FFFFC0 : Word) &&& 0xFFFFFFFFFC00003F = 0 ∧
    Issues { Enc.none with a := true, imm := 0xFFF } (word 0 1 0 0x30) (live { liveCtx [(1, 0x4000001)] with loader := true }) ∧
    (0x4000001 : Word) &&& 0xFFFFFFFFF800003E = 0 ∧ ((0x4000001 : Word) >>> 6).toNat ≤ 0x100000 ∧
    Issues { Enc.none with a := true, imm := 0xFFF } (word 0 1 0 0x10) (live (liveCtx [])) ∧
    Issues { Enc.none with a := true, imm := 0xFFF } (word 0 1 0 0x100) (live (liveCtx [])) ∧
    Issues { Enc.none with a := true, imm := 0xFFF } (word 0 1 0 4) (live (liveCtx [])) ∧
    Issues { Enc.none with a := true, imm := 0xFFF } (word 0 1 0 0x28) (live (liveCtx [])) ∧ (liveCtx []).loader = false ∧
    (0x4000000 : Word) &&& 0xFFFFFFFFFC00003F ≠ 0 := by
  unfold Issues; and_intros <;> decide +kernel

/-- Accesses of 16 and 64 bytes at the last place that fits, one misaligned and one beyond. -/
theorem wit_ScratchpadAccess :
    (let i := word 4 1 0 0x40000; let s := live (liveCtx [(1, 49136)])
     Issues { Enc.none with d := true, a := true, imm := 0xFFFFF } i s ∧ i.fld 16 3 ≤ 4 ∧ accessSize i = 16 ∧ i.rd % 2 = 0 ∧
     accessAddr i (ctxOf i s) % 16 = 0 ∧ accessAddr i (ctxOf i s) + 16 ≤ 49152 ∧ ∃ p, tillLoad (begun i s) 0 49136 16 = (p, .ok 0)) ∧
    (let i := word 0 1 2 0; let s := live (liveCtx [(1, 49151)])
     Issues { Enc.none with a := true, b := true, imm := 0x7FFFF } i s ∧ accessSize i = 1 ∧ accessAddr i (ctxOf i s) + 1 ≤ 49152 ∧
     rangeBusy (begun i s) 0 49151 1 = false) ∧
    (let i := word 0 1 2 0x30000; let s := live (liveCtx [(1, 4)])
     Issues { Enc.none with a := true, b := true, imm := 0x7FFFF } i s ∧ accessAddr i (ctxOf i s) % accessSize i ≠ 0) ∧
    (let i := { word 0 1 2 0 with men := true, msk := 7 }; let s := live (liveCtx [(1, 49152)])
     Issues { Enc.none with d := true, a := true, imm := 0xFFFF, men := true } { word 3 1 0 0 with men := true } (live (liveCtx [(1, 49088)])) ∧
     Issues { Enc.none with a := true, b := true, imm := 0xFFFF, men := true } i s ∧ accessAddr i (ctxOf i s) % 64 = 0 ∧
     49152 < accessAddr i (ctxOf i s) + 64) ∧
    (spmRead (live (liveCtx [])) 0 49088 64).bad = none ∧
    (∀ j, j < 16 → (1 : BitVec 16).getLsbD j = true → rangeBusy (live (liveCtx [])) 0 (4 * j) 4 = false) := by
  unfold Issues
  refine ⟨⟨?_, ?_, ?_, ?_, ?_, ?_, ⟨_, rfl⟩⟩, ?_, ?_, ?_, ?_, ?_⟩ <;> decide +kernel

theorem wit_TillIsCoherent :
    (∃ j, j < 8 ∧ (Tbl.get (getCore State.reset 0).till j TillEntry.reset).valid = false) ∧ (getCore State.reset 0).tillOf (49088 / 64) = none ∧
    (∀ j, j < 8 → Tbl.find (getCore State.reset 0).spmErr (8 * (49088 / 64) + j) ≠ some true) ∧ 49088 % 64 + 64 ≤ 64 :=
  ⟨⟨0, by decide +kernel⟩, by decide +kernel, by decide +kernel, by decide⟩

theorem wit_VectorArithmetic :
    Issues Enc.vab { word 3 1 2 0 with men := true, msk := 1 } (live lanes2) ∧ Issues { Enc.vab with c := true } (wordC 3 1 2 1 0) (live lanes2) ∧
    Issues Enc.va (word 31 1 0 0) (live lanes2) ∧ Issues { Enc.vab with sel := true } { word 3 1 2 0 with msk := 2 } (live lanes2) ∧
    Issues { Enc.vab with imm := 0x7 } (word 3 1 2 5) (live lanes2) ∧ Issues { Enc.vab with imm := 0x7 } (word 3 1 2 4) (live lanes2) ∧
    Issues { Enc.va with imm := 0x7 } (word 3 1 0 3) (live lanes2) ∧ Issues { Enc.va with imm := 0x7 } (word 3 1 0 7) (live lanes2) := by
  unfold Issues; and_intros <;> decide +kernel

theorem wit_ComparesMasksReductions :
    Issues { Enc.vab with imm := 0xF } (word 7 1 2 5) (live lanes2) ∧ Issues { Enc.vab with imm := 0xF } (word 7 1 2 8) (live lanes2) ∧
    (word 7 1 2 5).fld 0 3 = 5 ∧ (word 7 1 2 8).bit 3 = true ∧
    Issues { Enc.da with b := decide ((word 7 1 2 2).fld 0 3 < 3), imm := 0x7 } (word 7 1 2 2) (live lanes2) ∧
    Issues { Enc.da with b := decide ((word 7 7 0 3).fld 0 3 < 3), imm := 0x7 } (word 7 7 0 3) (live lanes2) ∧
    Issues { Enc.da with b := decide ((word 7 31 0 4).fld 0 3 < 3), imm := 0x7 } (word 7 31 0 4) (live lanes2) ∧
    Issues { Enc.da with b := decide ((word 31 7 0 5).fld 0 3 < 3), imm := 0x7 } (word 31 7 0 5) (live lanes2) ∧
    Issues { Enc.da with imm := 0xF } (word 3 1 0 15) (live lanes2) ∧
    Issues { Enc.none with d := true, a := true, b := true, imm := 0xFFFFFFFF } (word 3 1 2 9) (live lanes2) ∧
    Issues { Enc.va with imm := 0x7 } (word 3 1 0 2) (live lanes2) ∧ Issues { Enc.va with imm := 0x7 } (word 3 1 0 3) (live lanes2) := by
  unfold Issues; and_intros <;> decide +kernel

theorem wit_LargestLane :
    Issues Enc.va (word 3 1 0 0) (live lanes2) ∧ (maskOf (word 3 1 0 0) lanes2).getLsbD 15 = true ∧ isNan32 (lane (lanes2.v 1) 15) = false ∧
    Issues Enc.va { word 3 1 0 0 with men := true, msk := 3 } (live lanes2) ∧
    (∀ j, j < 16 → (maskOf { word 3 1 0 0 with men := true, msk := 3 } lanes2).getLsbD j = false) := by
  unfold Issues; and_intros <;> decide +kernel

theorem wit_Quantisation :
    (let i := word 3 1 0 0x10
     Issues { Enc.va with b := i.bit 9, c := i.bit 9, imm := 0x3FF } i (live lanes2) ∧ (convert 0 1 false (fun _ => none) (lanes2.v 1)).isSome = true) ∧
    (let i := wordC 0 2 3 4 (6 + 2 ^ 5 * 0x3C00); let s := live { lanes2 with regs := [(3, 49136), (4, 49151)] }
     Issues { Enc.none with d := i.bit 4, a := true, b := true, c := true, imm := 0x1FFFFF } i s ∧ i.fld 0 4 = 6 ∧ i.ra % 2 = 0 ∧ 49136 % 8 = 0 ∧
     tileScaleOk (i.fld 5 16) = true ∧ 49136 + 4 * elemBits 6 ≤ 49152 ∧ rangeBusy (begun i s) 0 49136 16 = false ∧
     rangeBusy (begun i s) 0 49151 1 = false) ∧
    (let i := word 2 3 4 (7 + 2 ^ 5 * 0x3C00)
     Issues { Enc.vab with imm := 0x1FFFEF } i (live { lanes2 with regs := [(3, 49120), (4, 49151)] }) ∧ 49120 + 4 * elemBits 7 ≤ 49152 ∧
     (getCore (live lanes2) 0).spmErr = []) := by
  unfold Issues; and_intros <;> decide +kernel

def tileRegs : Tbl Word := [(3, 0x1000), (4, 0x4000), (6, 0x0802400240)]
def tileIss : Issue := wordC 0 3 4 6 0x05053616
/-- The policy of a core whose partition has no map. -/
def noPolicy : MapSparse := sparsePolicy State.reset 0
def tileOp : EngOp := mkOp false tileIss (liveCtx tileRegs) 0 noPolicy
/-- Engine 1 holds `n` tile operations of the context. -/
def queued (n : Nat) : State := modCore (live (liveCtx tileRegs)) 0 fun c => c.setEng 1 { queue := List.replicate n tileOp, wdStart := 0, hung := false }

theorem wit_EngineQueue :
    Issues encTile tileIss (queued 3) ∧ opIllegal false tileIss (liveCtx tileRegs) tileOp = false ∧
    operandBound false tileOp.aAddr tileOp.aStride tileOp.fba.toNat tileOp.nblk = [] ∧
    operandBound false tileOp.bAddr tileOp.bStride tileOp.fbb.toNat tileOp.nblk = [] ∧ serialBlocked (getCore (queued 4) 0) 1 0 = false ∧
    ((getCore (queued 3) 0).eng 1).live.length < 4 ∧ 4 ≤ ((getCore (queued 4) 0).eng 1).live.length := by
  unfold Issues; and_intros <;> decide +kernel

def sparseIss : Issue := wordC 0 3 4 6 0x0D053616

theorem wit_EngineQueue_sparse_drain_zero :
    (let x := liveCtx [(3, 0x1000), (4, 0x4000), (6, 0x0802400000)]
     Issues { encTile with imm := 0x1FFFFFFF } sparseIss (live x) ∧ opIllegal true sparseIss x (mkOp true sparseIss x 0 noPolicy) = false) ∧
    (let i := wordC 0 1 0 0 0x10000; let s := live (liveCtx [(1, 49088)])
     Issues { Enc.none with a := true, b := i.bit 26, c := i.bit 26, imm := 0xFFF0000 } i s ∧ i.fld 21 4 = 0 ∧ i.fld 18 3 / 2 = i.ctx ∧
     setBusy (getCore s 0) 0 0 0 = false ∧ rangeBusy (begun i s) 0 49088 64 = false ∧ (ctxOf i s).s i.ra = 49088) ∧
    Issues { Enc.none with imm := 0x1F0000 } (word 0 0 0 0x70000) (live (liveCtx [])) ∧ (word 0 0 0 0x70000).fld 18 3 / 2 = 0 ∧
    Issues { Enc.none with imm := 0x1F0000 } (word 0 0 0 0x80000) (live (liveCtx [])) ∧ (word 0 0 0 0x80000).fld 18 3 / 2 ≠ 0 := by
  unfold Issues; and_intros <;> decide +kernel

def waitingOp : EngOp := { mkOp true sparseIss (liveCtx [(3, 0x1000), (4, 0x4000), (6, 0x0802400000)]) 7 noPolicy with check := .waiting }
def checking (o : EngOp) : State := modCore (live (liveCtx tileRegs)) 0 fun c => c.setEng 1 { queue := [o], wdStart := 0, hung := false }

theorem wit_EngineProgress :
    (coreServing (queued 2) 0 = true ∧ ((getCore (queued 2) 0).eng 1).live = tileOp :: [tileOp] ∧ ((getCore (queued 2) 0).eng 1).hung = false ∧
      tileOp.check = .notNeeded ∧ (getCore (queued 2) 0).spmErr = [] ∧ (queued 2).clock.stopped = false ∧ (checking waitingOp).clock.stopped = false) ∧
    ((getCore (checking waitingOp) 0).taken = none ∧ (getCore (checking waitingOp) 0).allOps.find? (fun o => o.check = .waiting) = some waitingOp) ∧
    (let o := { tileOp with check := .taken }
     (getCore (checking o) 0).taken = some o ∧ o.dead = false ∧ (checkOp (checking o) 0 o (!o.policy.tolerant)).ce = [] ∧
     (checkOp (checking o) 0 o (!o.policy.tolerant)).fail = none) ∧
    (let o := { waitingOp with check := .taken }
     (getCore (checking o) 0).taken = some o ∧ o.dead = false ∧ (checkOp (checking o) 0 o (!o.policy.tolerant)).ce = [] ∧
     (checkOp (checking o) 0 o (!o.policy.tolerant)).fail.isSome = true ∧ o.taskRuns (checking o) 0 = true) ∧
    (getCore (modCore State.reset 0 fun c => { c with rewrite := [6143] }) 0).rewrite.contains 6143 = true := by
  decide +kernel

theorem wit_EngineProgress_waits :
    (let s := setCtx (queued 3) 0 0 { liveCtx tileRegs with state := .waitEngine, wait := .engine 0x60 tileIss }
     Waiting s 0 0 .waitEngine (.engine 0x60 tileIss) ∧ s.clock.stopped = false) ∧
    (let i := word 0 1 2 0x30000
     let s := live { liveCtx [(1, 49144)] with state := .waitEngine, wait := .range 0x21 i }
     Waiting s 0 0 .waitEngine (.range 0x21 i) ∧ accessSize i ≤ 8 ∧ accessAddr i (getCtx s 0 0) % 8 = 0 ∧ accessAddr i (getCtx s 0 0) + 8 ≤ 49152 ∧
     i.fld 16 3 ≤ 4 ∧ rangeBusy s 0 49144 8 = false ∧ s.clock.stopped = false) := by
  unfold Waiting; and_intros <;> decide +kernel

/-! #### Transfers, sends, counters, clearing -/

/-- Core 0 in partition 3, whose handle 7 is a valid buffer of `n` lines. -/
def withHandle (x : Ctx) (n : Nat) (wr : Bool) : State :=
  withPart (live x) fun p => { p with handles := [(7, { Handle.reset with state := 1, wr := wr, linesM1 := BitVec.ofNat 20 (n - 1) })] }

/-- Handle 7 is a valid writable buffer over the scratchpad of logical core 0. -/
def withSpm (s : State) : State :=
  withPart s fun p => { p with handles := [(7, { Handle.reset with state := 1, kind := true, wr := true, lcn := 0, start := 0, linesM1 := 767 })] }

theorem wit_HandleTransfers :
    (let i := wordC 0 1 2 3 768
     let s := withHandle (liveCtx [(1, 7)]) 768 true
     Issues Enc.transfer i s ∧ (ctxOf i s).bb = false ∧ partOfCore (begun i s) 0 = some 3 ∧ i.fld 0 16 = 768 ∧ 0 + 64 * 768 ≤ 49152 ∧
     (handleAt (begun i s) 3 7 0).state = 1 ∧ 0 + 64 * 768 ≤ 64 * ((handleAt (begun i s) 3 7 0).linesM1.toNat + 1) ∧
     (handleAt (begun i s) 3 7 0).wr = true ∧ (handleAt (begun i s) 3 7 0).kind = false ∧ rangeBusy (begun i s) 0 0 (64 * 768) = false) ∧
    (let s := withHandle (liveCtx [(1, 7)]) 767 false
     ¬ 0 + 64 * 768 ≤ 64 * ((handleAt s 3 7 0).linesM1.toNat + 1) ∧ Issues Enc.transfer (wordC 0 1 2 3 768) s) ∧
    (let s := withHandle (liveCtx [(1, 7)]) 768 false
     Issues Enc.transfer (wordC 0 1 2 3 768) s ∧ (handleAt s 3 7 0).wr = false ∧ (handleAt s 3 7 0).state = 1) ∧
    rangeBusy (queued 1) 0 0x1000 64 = true ∧ Issues Enc.transfer (wordC 0 1 2 3 0) (withHandle (liveCtx [(1, 7)]) 1 true) ∧
    (handleAt (withHandle (liveCtx [(1, 7)]) 1 true) 3 7 0).state = 1 ∧ (handleAt (withHandle (liveCtx [(1, 8)]) 1 true) 3 8 0).state ≠ 1 ∧
    Issues Enc.transfer (wordC 0 1 2 3 769) (withHandle (liveCtx [(1, 8)]) 1 true) ∧
    (let s := withHandle (liveCtx [(1, 7), (2, 32)]) 2 true
     Issues Enc.transfer (wordC 0 1 2 3 1) s ∧ 32 % 64 ≠ 0 ∧ 32 + 64 * 1 ≤ 64 * ((handleAt s 3 7 0).linesM1.toNat + 1) ∧ (handleAt s 3 7 0).wr = true) := by
  unfold Issues; and_intros <;> decide +kernel

/-- An HST to the core's own scratchpad whose lines an engine operation reads, and an HLD into them. -/
theorem wit_HandleTransfers_waits :
    let i := wordC 0 1 2 3 1
    let s := withSpm (setCtx (queued 1) 0 0 (liveCtx [(1, 7), (2, 0x1000), (3, 0x1000)]))
    Issues Enc.transfer i s ∧ partOfCore (begun i s) 0 = some 3 ∧ (handleAt (begun i s) 3 7 0).kind = true ∧ (handleAt (begun i s) 3 7 0).wr = true ∧
    namedCore (begun i s) 3 (handleAt (begun i s) 3 7 0) = some 0 ∧
    rangeBusy (begun i s) 0 (64 * handleLine (handleAt (begun i s) 3 7 0) (0x1000 / 64)) 64 = true ∧ rangeBusy (begun i s) 0 0x1000 64 = true ∧
    (handleAt (begun i s) 3 7 0).state = 1 := by
  unfold Issues; and_intros <;> decide +kernel

theorem wit_HandleTransfers_rows :
    (let i := wordC 9 1 2 3 0x101
     let s := withHandle (liveCtx [(1, 7), (9, 64)]) 8 true
     Issues { Enc.transfer with d := true } i s ∧ i.fld 0 8 = 1 ∧ i.fld 8 8 = 1 ∧ 64 + 1 ≤ 49152 ∧ (getCore (begun i s) 0).spmErr = [] ∧
     ((List.range 8).filter fun r => (spmBytes (begun i s) 0 64 1).testBit r) = [] ∧ 0 + 1 ≤ 64 * ((handleAt (begun i s) 3 7 0).linesM1.toNat + 1)) ∧
    (let i := wordC 9 1 2 3 0x101
     let s := { withHandle (liveCtx [(1, 7), (9, 64)]) 8 true with mem := [(spmAddr 0 64, 0x81)] }
     Issues { Enc.transfer with d := true } i s ∧ ((List.range 8).filter fun r => (spmBytes (begun i s) 0 64 1).testBit r) = [0, 7] ∧
     0 + 64 * ((7 + 1) * 1) ≤ 64 * ((handleAt (begun i s) 3 7 0).linesM1.toNat + 1) ∧ (handleAt (begun i s) 3 7 0).state = 1 ∧
     0 + 64 * 1 * 2 ≤ 49152 ∧ rangeBusy (begun i s) 0 0 (64 * 1 * 2) = false) := by
  unfold Issues; and_intros <;> decide +kernel

/-- The test image of 07: BASE 0, LIMIT 0x4000; offset 0xFFFC0 with LEN 1 is permitted and LEN 2 is not. -/
theorem wit_BaseBoundTransfers :
    (let i := wordC 0 0 2 3 1
     let x := { liveCtx [(2, 0xFFFC0)] with bb := true, boundEn := true, limit := 0x4000 }
     Issues { Enc.transfer with a := false } i (live x) ∧ x.bb = true ∧ 0xFFFC0 % 64 = 0 ∧ 0xFFFC0 + 64 ≤ 64 * x.limit.toNat ∧
     64 * x.base.toNat + 0xFFFC0 + 64 ≤ 2 ^ 26 ∧ ¬ 0xFFFC0 + 64 * 1 + 64 ≤ 64 * x.limit.toNat ∧ rangeBusy (begun i (live x)) 0 0 64 = false) ∧
    Issues { Enc.transfer with a := false } (wordC 0 0 2 3 2) (live { liveCtx [(2, 0xFFFC0)] with bb := true, boundEn := true, limit := 0x4000 }) ∧
    Issues { Enc.transfer with a := false } (wordC 0 0 2 3 1) (live (liveCtx [])) ∧
    Issues { Enc.transfer with a := false } (wordC 0 0 2 3 768) (live (liveCtx [(3, 64)])) ∧ 49152 < 64 + 64 * 768 := by
  unfold Issues; and_intros <;> decide +kernel

/-- A panel window (2) to panel 1, open for puts and gets, of one line; window 4 is closed. -/
def withWindow : State :=
  { withPart (live (liveCtx [(1, 2)])) (fun p => { p with windows := [(2, { Window.reset with state := 1, outbound := true, dir := 3, hi := 1 })] }) with
    sys := { State.reset.sys with panel := 0 } }

theorem wit_WindowTransfers :
    (let i := wordC 0 1 2 3 1
     Issues Enc.transfer i withWindow ∧ (ctxOf i withWindow).bb = false ∧ partOfCore (begun i withWindow) 0 = some 3 ∧
     windowRefusal (begun i withWindow) 3 2 0 0 1 true = none ∧ windowRefusal (begun i withWindow) 3 2 0 0 1 false = none ∧
     rangeBusy (begun i withWindow) 0 0 64 = false ∧ (windowAt (begun i withWindow) 3 2 0).target = false ∧
     torusDir (begun i withWindow).sys.panel ((windowAt (begun i withWindow) 3 2 0).fld 0 10) = some 0) ∧
    windowRefusal withWindow 3 2 0 0 2 true = some stBadArgument ∧ windowRefusal withWindow 3 4 0 0 1 false = some stBadArgument := by
  unfold Issues; and_intros <;> decide +kernel

/-- A bank that numbers cores 0 and 1 of partition 3 on site 0, with the descriptors and circuits given. -/
def bankWith (mcast : List (BitVec 128)) (circuits : List Circuit) (s : State) : State :=
  { s with bank0 := { Bank.reset with parts := [(3, BankPart.mk [0] [0, 1] mcast circuits)] } }

theorem wit_Sends :
    (let i := wordC 0 1 2 3 0
     let s := bankWith [] [] (withPart (live (liveCtx [(1, 1), (2, 49088), (3, 49088)])) id)
     Issues (encSend i) i s ∧ 49088 % 64 = 0 ∧ 49088 + 64 ≤ 49152 ∧ (spmRead (begun i s) 0 49088 64).bad = none ∧
     translate (begun i s) 0 1 = some 1 ∧ translate (begun i s) 0 2 = none ∧ translate (begun i s) 0 0 = some 0 ∧
     rangeBusy (begun i s) 0 49088 64 = false ∧ i.bit 20 = false ∧ Issues { Enc.none with a := true, b := true } (word 0 1 2 0) s) ∧
    (let i := wordC 9 1 2 3 0x100000
     let s := bankWith [] [] (withPart (live (liveCtx [(1, 1), (9, 5)])) id)
     Issues (encSend i) i s ∧ i.bit 20 = true ∧ ((ctxOf i s).s i.rd).toNat % 65536 ≠ 0) := by
  unfold Issues; and_intros <;> decide +kernel

/-- Circuit 6 takes output 1 of core 0 in slot 15 from the core; descriptor 0 of the map is all zeros. -/
def withCircuit : State :=
  bankWith [0] [{ x := 0, y := 511, slot := 15, out := 1, inp := 4, kind := 0, circ := 6 }] (withPart (live (liveCtx [(1, 6)])) id)

theorem wit_Sends_circuit_and_multicast :
    coreX 0 = 0 ∧ coreY 0 = 511 ∧ (List.range 16).any (injectsIn withCircuit 0 withCircuit.epoch.cur 4 6) = true ∧
    (List.range 16).any (deliversIn withCircuit 0 withCircuit.epoch.cur 6) = false ∧
    mcastMatch withCircuit 0 (BitVec.ofNat 128 (spmBytes withCircuit 0 64 16)) = some 0 ∧ (getCore withCircuit 0).spmErr = [] ∧
    mcastDest withCircuit withCircuit.epoch.cur 0 0 = false ∧ Issues (encSend (wordC 0 1 2 3 0)) (wordC 0 1 2 3 0) withCircuit := by
  unfold Issues; and_intros <;> decide +kernel

def aPacket : DataPacket := DataPacket.mk false 0 (.unicast false 3 0x120 1 511 0 false) 7
def injecting : State :=
  setCtx (modCore (live (liveCtx [])) 0 fun c => { c with inj := [(0, aPacket)] }) 0 0 { liveCtx [] with state := .waitFabric, wait := .accept 1 }

theorem wit_Sends_accepted :
    let s1 := modCore injecting 0 fun c => { c with inj := [] }
    let c := RouterClock.mk 0 [] [] false
    (getCore injecting 0).inj = (0, aPacket) :: [] ∧ injecting.clock.stopped = false ∧ isCirc aPacket.hdr = false ∧
    (doHop s1 0 (clockAt injecting c) { aPacket with epoch := injecting.epoch.cur }
      (injectHop s1 0 (coreTurn injecting 0 c) { aPacket with epoch := injecting.epoch.cur })).isSome = true ∧
    Waiting injecting 0 0 .waitFabric (.accept 1) := by
  unfold Waiting; and_intros <;> decide +kernel

theorem wit_ArmSetsTheCounter :
    Issues { Enc.none with a := true, imm := 0x1FFF0000 } (word 0 1 0 0x1FFF0000) (live (liveCtx [(1, 0xFFFF)])) ∧
    ((getCore (live (liveCtx [])) 0).cnt 15).armed = false ∧ Issues { Enc.none with a := true, imm := 0x1FFF0000 } (word 0 1 0 0x20000) armedCore ∧
    ((getCore armedCore 0).cnt 2).armed = true := by
  unfold Issues; and_intros <;> decide +kernel

/-- Context 0 waits on counter 2, which `v` describes. -/
def waitingOn (v : Counter) : State :=
  setCtx (modCore { State.reset with state := .serving, tally := 100 } 0 fun c => c.setCnt 2 { v with armed := true }) 0 0
    { liveCtx [] with state := .waitFabric, wait := .counter 2 5 }

theorem wit_WaitcEnds :
    Issues { Enc.none with d := true, imm := 0xF0000 } (word 5 0 0 0x20000) armedCore ∧ ((getCore armedCore 0).cnt 2).armed = true ∧
    Issues { Enc.none with d := true, imm := 0xF0000 } (word 5 0 0 0xF0000) armedCore ∧ ((getCore armedCore 0).cnt 15).armed = false ∧
    (let v := { Counter.reset with total := 3, count := 3, deadline := 200 }
     Waiting (waitingOn v) 0 0 .waitFabric (.counter 2 5) ∧ v.total ≠ 0 ∧ v.total.toNat ≤ v.count.toNat ∧ ¬ (v.ueDram = true ∨ v.ueSpm = true)) ∧
    Waiting (waitingOn { Counter.reset with ueSpm := true }) 0 0 .waitFabric (.counter 2 5) ∧
    (let v := { Counter.reset with total := 3, count := 2, deadline := 100 }
     Waiting (waitingOn v) 0 0 .waitFabric (.counter 2 5) ∧ ¬ v.total.toNat ≤ v.count.toNat ∧
     v.deadline.toNat ≤ (dieTally (waitingOn v) 0).toNat) ∧ ¬ (101 : Word).toNat ≤ (dieTally (waitingOn Counter.reset) 0).toNat := by
  unfold Issues Waiting; and_intros <;> decide +kernel

def chEntry : ClearEntry := { ctxmask := 1, parity := 0, join := false, role := false, wdog := 1 }
/-- Partition 3 clears on channel 0 with context 0 of cores 0 and 1; `c` is the channel's state. -/
def clearing (x : Ctx) (c : Chan) : State := withPart (live x) fun p => { p with map := some { bareMap false with clear := [chEntry] }, chans := [(0, c)] }

theorem wit_ClearingInstructions :
    let isCleared (c : Core) (ch : Nat) (g : Option Nat) : Prop := ∃ m, g = some m ∧ m < Tbl.get c.seen ch 0
    (let i := word 0 0 0 0
     Issues encCh i (clearing (liveCtx []) Chan.reset) ∧ clearEntry (begun i (clearing (liveCtx []) Chan.reset)) 0 0 = some (3, chEntry) ∧
     chEntry.ctxmask.getLsbD 0 = true ∧ Tbl.find (liveCtx []).arrGen 0 = none ∧
     Issues encCh (word 0 0 0 15) (clearing (liveCtx []) Chan.reset) ∧ clearEntry (begun (word 0 0 0 15) (clearing (liveCtx []) Chan.reset)) 0 15 = none ∧
     chEntry.ctxmask.getLsbD 1 = false ∧ Issues { encCh with d := true } (word 31 0 0 0) (clearing (liveCtx []) Chan.reset)) ∧
    (let x := { liveCtx [] with arrGen := [(0, some 4)] }
     let s := modCore (clearing x Chan.reset) 0 fun c => { c with seen := [(0, 5)] }
     Issues encCh (word 0 0 0 0) s ∧ Tbl.find (ctxOf (word 0 0 0 0) s).arrGen 0 = some (some 4) ∧ isCleared (getCore s 0) 0 (some 4) ∧
     Issues { encCh with d := true } (word 31 0 0 0) s) ∧
    (let s := clearing { liveCtx [] with arrGen := [(0, some 0)], state := .waitClear, wait := .clear 0 } Chan.reset
     Waiting s 0 0 .waitClear (.clear 0) ∧ ¬ isCleared (getCore s 0) 0 (some 0) ∧ ¬ isCleared (getCore s 0) 0 none ∧
     Waiting (modCore s 0 fun c => { c with seen := [(0, 1)] }) 0 0 .waitClear (.clear 0) ∧
     isCleared (getCore (modCore s 0 fun c => { c with seen := [(0, 1)] }) 0) 0 (some 0)) ∧
    (let s := clearing { liveCtx [] with arrGen := [(0, some 0)], state := .waitClear, wait := .arrive 0 } Chan.reset
     Waiting s 0 0 .waitClear (.arrive 0) ∧ clearEntry s 0 0 = some (3, chEntry) ∧ chEntry.ctxmask.getLsbD 0 = true) := by
  unfold Issues Waiting
  and_intros <;> decide +kernel

theorem wit_LineArrivalWritesAndCounts :
    aPacket.hdr = .unicast false 3 0x120 1 511 0 false ∧ (0x2FF : BitVec 10).toNat < 768 ∧ Memory.wf State.reset.mem = true ∧
    ((getCore State.reset 0).cnt 3).discard = false ∧
    ((getCore (modCore State.reset 0 fun c => c.setCnt 3 { Counter.reset with discard := true }) 0).cnt 3).discard = true ∧
    ((getCore (modCore State.reset 0 fun c => c.setCnt 3 { Counter.reset with total := 9 }) 0).cnt 3).total ≠ 0 := by decide +kernel

/-- Control packets of each type that counts. -/
theorem wit_CountsWithoutData :
    ((getCore State.reset 0).cnt 2).discard = false ∧ (CtrlPacket.mk 4 false 0 0 0 0 0 0 0x12).ctype = 4 ∧ (CtrlPacket.mk 5 false 0 0 0 0 0 0 0x12).ctype = 5 ∧
    (BitVec.ofNat 16 ((0x12 : BitVec 64).toNat / 2 ^ 14) : Status) = stOk ∧
    (BitVec.ofNat 16 ((BitVec.ofNat 64 (0x12 + 2 ^ 14 * stEcc.toNat)).toNat / 2 ^ 14) : Status) = stEcc ∧
    (BitVec.ofNat 16 ((BitVec.ofNat 64 (0x12 + 2 ^ 14 * stTimeout.toNat)).toNat / 2 ^ 14) : Status) = stTimeout ∧ stTimeout ≠ stOk ∧ stTimeout ≠ stEcc := by
  decide +kernel

def xferOut : CoreXfer := { line := 0, lines := 2, cnt := 3, ep := 0, tx := 3, ty := 508, tag := none, left := 2 }
def writeJob : WriteJob := { tag := 9, x := 0, y := 511, cnt := 3, line := 5, lines := 2, got := [], start := 0, via := none }
def granting : State := modClu (modCore { State.reset with tally := 50000 } 0 fun c => { c with writes := [xferOut] }) 0 fun u => { u with writes := [writeJob] }

theorem wit_ChannelRequestsAnswered : (CtrlPacket.mk 1 false 0 0 0 0 0 0 0).ctype = 1 ∧ (CtrlPacket.mk 2 false 0 0 0 0 0 0 0).ctype = 2 := by decide

theorem wit_GrantsSendLines :
    (let p := CtrlPacket.mk 3 false 0 0 0 511 3 508 (9 + 2 ^ 26 * 2)
     let at_ (v : CoreXfer) : Bool := decide (v.tx = p.sx.toNat) && decide (v.ty = p.sy.toNat)
     ((getCore granting 0).writes.find? fun v => (v.ep = 0 || v.ep = 3) && at_ v && v.tag = some 9) = none ∧
     ((getCore granting 0).writes.find? fun v => (v.ep = 0 || v.ep = 3) && at_ v && v.tag.isNone) = some xferOut) ∧
    (getClu granting 0).writes.find? (fun w => w.tag = 9) = some writeJob ∧ (1 : BitVec 10).toNat < writeJob.lines ∧
    writeJob.got.contains 1 = false ∧ coreAt 3 508 / 64 = 0 ∧ writeJob.start.toNat + 50000 ≤ now granting ∧
    now { granting with tally := 49999 } < writeJob.start.toNat + 50000 := by decide +kernel

/-- A transfer that the core has issued and one that a channel has granted. -/
theorem wit_GrantsComplete :
    (CtrlPacket.mk 3 false 0 0 0 0 0 0 0).ctype = 3 ∧ (CtrlPacket.mk 0x12 false 0 0 0 0 0 0 0).ctype = 0x12 ∧
    (getClu granting 0).writes.find? (fun w => w.tag.toNat = 8) = none ∧ (getClu granting 0).writes.find? (fun w => w.tag.toNat = 9) = some writeJob ∧
    writeJob.start.toNat + 50000 ≤ now granting ∧ now { granting with tally := 49999 } < writeJob.start.toNat + 50000 := by decide +kernel

def outer : CoreXfer := { xferOut with ep := 1 }
theorem wit_GrantsSendLines_tagged :
    (let t := { xferOut with tag := some (9 : BitVec 16) }
     let s := modCore granting 0 fun c => { c with writes := [t, xferOut] }
     ((getCore s 0).writes.find? fun v => (v.ep = 0 || v.ep = 3) && decide (v.tx = 3) && decide (v.ty = 508) && v.tag = some 9) = some t) ∧
    (getCore granting 0).spmErr = [] ∧
    ((getCore granting 0).writes.find? fun v => (v.ep = 0 || v.ep = 3) && decide (v.tx = 4) && decide (v.ty = 508) && v.tag = some 9) = none ∧
    ((getCore granting 0).writes.find? fun v => (v.ep = 0 || v.ep = 3) && decide (v.tx = 4) && decide (v.ty = 508) && v.tag.isNone) = none := by
  decide +kernel

theorem wit_GrantsSendLines_optical :
    (let s := withPart (modCore State.reset 0 fun c => { c with writes := [outer], grants := [Grant.mk 4 8 2 3 20 500 2] }) id
     let f := fun p : Partition => { p with fenced := true }
     ((getCore s 0).writes.find? fun v => v.ep = 1 && (decide (v.tx = 3) && decide (v.ty = 508)) && v.tag = some 9) = none ∧
     ((getCore s 0).writes.find? fun v => v.ep = 1 && (decide (v.tx = 3) && decide (v.ty = 508)) && v.tag.isNone) = some outer ∧
     (getCore s 0).grants.find? (fun g => g.tag = 4) = some (Grant.mk 4 8 2 3 20 500 2) ∧ ¬ ((20 : BitVec 10).toNat = coreX 0 ∧ (500 : BitVec 10).toNat = coreY 0) ∧
     coreFenced (forgetSeq s 3 0 511 4 1) 0 = false ∧ inNumbering (forgetSeq s 3 0 511 4 1) 0 = true ∧
     coreFenced (forgetSeq (withPart s f) 3 0 511 4 1) 0 = true) := by
  decide +kernel

/-- Router of core 1, at (1, 511), in partition 3 of a serving panel. -/
theorem wit_RoutersMoveFlits :
    let c := RouterClock.mk 0 [] [] false
    routerDead withCircuit 1 = false ∧ (dataCrc aPacket + 1) ≠ dataCrc aPacket ∧
    epochRetired { withCircuit with epoch := { Epoch.reset with cur := true } } false = true ∧ epochRetired withCircuit false = false ∧
    ((1 : BitVec 10).toNat = coreX 1 ∧ (511 : BitVec 10).toNat = coreY 1) ∧ outFree withCircuit 1 (turnOf withCircuit 1 3 c aPacket) false 4 = true ∧
    (pref withCircuit 1 false 5 511).isSome = true ∧ (∃ o, o < 4 ∧ pref withCircuit 1 false 5 511 = some (o :: (((pref withCircuit 1 false 5 511).getD []).drop 1)) ∧
      outFree withCircuit 1 (turnOf withCircuit 1 3 c aPacket) false o = true) ∧
    pref { withCircuit with bank0 := { Bank.reset with unreach := [1] } } 1 false 64 511 = none ∧
    ctrlPlane 63 = none ∧ ctrlPlane 4 = some 1 ∧
    (let p := CtrlPacket.mk 4 false 0 0 2 511 1 511 0
     ctrlTarget p (coreX 1) (coreY 1) 3 false = (false, false, 2, 511) ∧
     ∃ o, o < 4 ∧ pref withCircuit 1 false 2 511 = some (o :: (((pref withCircuit 1 false 2 511).getD []).drop 1)) ∧
      ctrlFree withCircuit 1 (ctrlUsed withCircuit 1 3 c p) p o = true ∧
      ∃ j, meshLink withCircuit 1 o 1 = some j ∧ siteOf j = siteOf 1) ∧
    (let p := CtrlPacket.mk 4 false 0 0 1 511 0 511 0
     ctrlKey p 4 ∉ ctrlUsed withCircuit 1 3 c p ∧ ctrlMesh 3 = true ∧ ctrlMesh 4 = false) ∧
    withCircuit.clock.stopped = false ∧ { withCircuit.clock with stopped := true }.stopped = true ∧ (RouterClock.mk 0 [] [] true).stretched = true ∧
    { aPacket with hops := 255 }.hops = 255 ∧ ¬ ((0 : BitVec 10).toNat = coreX 1 ∧ (511 : BitVec 10).toNat = coreY 1) := by
  and_intros <;> decide +kernel

theorem wit_ClearingChannels :
    (let all := { Chan.reset with arrived := [(0, 1), (1, 1)] }
     let s := clearing (liveCtx []) all
     (getPart s 3).map = some { bareMap false with clear := [chEntry] } ∧ chanScope s 3 0 = [3] ∧ crossPanel s 3 0 = false ∧ chEntry.ctxmask ≠ 0 ∧
     (Tbl.get (getPart s 3).chans 0 Chan.reset).held = false ∧
     (∀ k ∈ (getPart s 3).numbering, Tbl.get (Tbl.get (getPart s 3).chans 0 Chan.reset).arrived k 0 &&& chEntry.ctxmask = chEntry.ctxmask) ∧
     partOfCore s 0 = some 3 ∧ 0 ∈ (getPart s 3).numbering) ∧
    (let s := clearing (liveCtx []) { Chan.reset with arrived := [(0, 1)], first := some 0 }
     (∃ k ∈ (getPart s 3).numbering, Tbl.get (Tbl.get (getPart s 3).chans 0 Chan.reset).arrived k 0 &&& chEntry.ctxmask ≠ chEntry.ctxmask) ∧
     partArrived s 3 0 = false ∧ firstRise s 3 0 = some 0 ∧ (0 : Word).toNat + chEntry.wdog * 10000 ≤ now { s with tally := 10000 } ∧
     now { s with tally := 9999 } < (0 : Word).toNat + chEntry.wdog * 10000 ∧ chanScope s 3 0 = [3] ∧ (bareMap false).bb = false) ∧
    (let s := withPart { State.reset with jobs := [(3, { Job.reset with formed := true, parts := [3], members := [0, 1] })] } fun p =>
       { p with map := some { bareMap false with clear := [{ chEntry with join := true }] }, chans := [(0, { Chan.reset with arrived := [(0, 1), (1, 1)], first := some 0 })] }
     chanScope s 3 0 = [3] ∧ crossPanel s 3 0 = true ∧ firstRise s 3 0 = some 0 ∧ (Tbl.get (getPart s 3).chans 0 Chan.reset).held = false) := by
  and_intros <;> decide +kernel

/-! #### Recovery, descriptors, banks, links, channels -/

def held30 (x : Ctx) : Ctx := { x with state := .stopped, launch := some { entry := 64, madeCarr := false, foreign := false, relaunched := false, window := some (0, stEcc) } }
/-- Partition 3 runs step 0 under Compatible recovery; context 0 of core 0 has stopped. -/
def compatible : State :=
  { withPart (live (held30 (liveCtx []))) id with
    tally := 30000, jobs := [(jobOfPart (withPart State.reset id) 3, { Job.reset with parts := [3], steps := [Step.mk 0 false false 0 0 false 0], compatible := true })] }

theorem wit_TasksStopped_relaunch :
    (getCtx compatible 0 0).launch = some (Launch.mk 64 false false false (some (0, stEcc))) ∧ (getCtx compatible 0 0).state = .stopped ∧
    (0 : Word).toNat + 30000 ≤ now compatible ∧
    compatNow compatible 0 = true ∧ (getCore compatible 0).reads ++ (getCore compatible 0).writes = [] ∧ compatNow State.reset 0 = false ∧
    stEcc ≠ stCtxWatchdog ∧ now { compatible with tally := 29999 } < (0 : Word).toNat + 30000 ∧
    (let s := modCore compatible 0 fun c => { c with reads := [xferOut] }
     ∃ w, w ∈ (getCore s 0).reads ++ (getCore s 0).writes ∧ ((getCore s 0).cnt w.cnt).owner = 0) ∧
    (getCtx compatible 0 0).fired = none ∧
    (let f : Firing := { state := 1, at_ := 0, sent := false }
     (getCtx (modCtx compatible 0 0 fun x => { x with fired := some f }) 0 0).fired = some f ∧ f.sent = false) := by
  and_intros <;> decide +kernel

theorem wit_TasksStopped_aborts :
    (let s := live { liveCtx [] with task := 5 }
     let runs (n : Nat) : Bool := (getCtx s 0 n).state.running && (getCtx s 0 n).task = 5
     (List.range 4).find? runs = some 0 ∧ (getCtx s 0 0).state = .ready) ∧
    (let s := live { liveCtx [] with task := 5, state := .waitClear, wait := .clear 0 }
     (getCtx s 0 0).state ≠ .ready ∧ (getCtx s 0 0).endDue = false ∧ waitcFault s 0 0 = none) ∧
    (waitcFault (waitingOn { Counter.reset with ueSpm := true }) 0 0).isSome = true ∧
    (List.range 4).find? (fun n => (getCtx (live (liveCtx [])) 0 n).state.running && (getCtx (live (liveCtx [])) 0 n).task = 6) = none ∧
    (CtrlPacket.mk 9 false 0 0 0 0 0 0 (BitVec.ofNat 64 (2 ^ 16 * 0x601))).body.toNat / 2 ^ 16 % 2 ^ 16 = 0x0601 ∧ atHub State.reset 0 0 = false ∧
    (let s := { State.reset with jobs := [(3, { Job.reset with aborts := [(0, 5)] })] }
     let p := CtrlPacket.mk 9 false 0 0 (BitVec.ofNat 10 (hubX 0)) (BitVec.ofNat 10 (hubY s)) 0 511 (BitVec.ofNat 64 (5 + 2 ^ 16 * 0x601))
     atHub s p.dx.toNat p.dy.toNat = true ∧ ∃ j ∈ s.jobs, (coreAt p.sx.toNat p.sy.toNat, p.body.setWidth 16) ∈ j.2.aborts) := by
  decide +kernel

theorem wit_TasksStopped_watchdogs :
    (let s := live { liveCtx [] with wdStart := 0 }
     (getCtx s 0 0).state = .ready ∧ (getCtx s 0 0).endDue = false ∧ (getCtx s 0 0).watched = true ∧ relaunchable s 0 (getCtx s 0 0) stCtxWatchdog = false ∧
     (getCtx s 0 0).wdStart.toNat + 2000000 ≤ now { s with tally := 2000000 } ∧ now { s with tally := 1999999 } < (getCtx s 0 0).wdStart.toNat + 2000000) ∧
    (let g := (getCore (queued 2) 0).eng 1
     g.live = tileOp :: [tileOp] ∧ g.hung = false ∧ g.wdStart.toNat + 250000 ≤ now { queued 2 with tally := 250000 } ∧ tileOp.ctx = 0 ∧
     (∀ n, n < 4 → (getCtx (queued 2) 0 n).fenceDue = false)) ∧
    (let x := { liveCtx [] with fired := some { state := 1, at_ := 0, sent := true } }
     worstFault (x.pend ++ []) = none ∧ x.fired.isSome = true ∧ { liveCtx [] with fenceDue := true }.fenceDue = true ∧ (liveCtx []).fired = none) ∧
    (let s := live { liveCtx [] with state := .waitEngine, wait := .engine 0x60 tileIss }
     (getCtx s 0 0).watched = true ∧ (getCtx s 0 0).state ≠ .ready ∧ relaunchable s 0 (getCtx s 0 0) stCtxWatchdog = false) ∧
    (let p := CtrlPacket.mk 0x0A false 0 0 0 0 3 508 0
     p.body.getLsbD 4 = false ∧ partOfCore compatible (coreAt p.sx.toNat p.sy.toNat / 64 * 64 + field p.body.toNat 5 6) = some 3 ∧
     (getCore compatible 0).wdCtx.getLsbD 0 = false) ∧
    (let p := CtrlPacket.mk 0x0D false 0 0 0 0 0 511 (BitVec.ofNat 64 (2 ^ 16 * 0x602))
     partOfCore compatible (coreAt p.sx.toNat p.sy.toNat) = some 3 ∧ (getPart compatible 3).map = some (bareMap false) ∧ (bareMap false).bb = false ∧
     (getCtx compatible 0 0).task.toNat = field p.body.toNat 0 16 ∧ (getCtx compatible 0 0).state.running = false ∧
     (getJob compatible (jobOfPart compatible 3)).steps ≠ [] ∧ field p.body.toNat 16 16 ≠ 0x0403) := by
  and_intros <;> decide +kernel

def reply0 : Reply := { port := 0, sess := 1, mbox := 0, rseq := 0, cmd := 0x0901, est := 1 }

theorem wit_FencesAnswered :
    (let p := CtrlPacket.mk 0x0B false 0 0 3 508 0 511 (4 + 256)
     p.ctype = 0x0B ∧ (getClu State.reset 0).lost = false ∧ field p.body.toNat 0 2 = 0 ∧ field p.body.toNat 2 4 = 2 ^ 0 ∧ p.body.getLsbD 14 = false ∧
     (getClu State.reset 0).fences = [] ∧ { p with body := 2 ^ 14 }.body.getLsbD 14 = true ∧
     (getCtx State.reset 0 0).state.running = false ∧ (getCtx (live (liveCtx [])) 0 0).state = .ready ∧
     (let s := live { liveCtx [] with state := .waitClear, wait := .clear 0 }
      (getCtx s 0 0).state.running = true ∧ (getCtx s 0 0).endDue = false ∧ waitcFault s 0 0 = none)) ∧
    (let w := FenceWait.mk 0 260 reply0
     let s := { State.reset with fenceWaits := [w] }
     (s.fenceWaits.find? fun w => w.cl = coreAt 3 508 / 64 && w.body = 260 % 2 ^ 15) = some w ∧
     (State.reset.fenceWaits.find? fun w => w.cl = 0 && w.body = 260 % 2 ^ 15) = none) ∧
    (let s := { State.reset with jobs := [(9, { Job.reset with acks := [(0, 4, 0)] })] }
     (∃ a ∈ (getJob s 9).acks, a.2.2.toNat + 1000000 ≤ now { s with tally := 1000000 }) ∧ ∀ a ∈ (getJob s 9).acks, now s < a.2.2.toNat + 1000000) ∧
    (∀ q ∈ (withPart State.reset id).parts, q.2.resetting = none) ∧
    (getPart (withPart State.reset fun p => { p with fenceAt := some (70, none) }) 3).fenceAt = some (70, none) ∧
    (getPart (withPart State.reset fun p => { p with resetting := some (0, some reply0) }) 3).resetting = some (0, some reply0) ∧
    { State.reset.resets with panelAt := some (5 : Word) }.panelAt = some 5 := by
  and_intros <;> decide +kernel

theorem wit_SilentNodesProbed :
    (let s := modClu (withPart { State.reset with tally := 1000000 } id) 0 fun u => { u with probedAt := some 0 }
     (getClu s 0).lost = false ∧ (getClu s 0).probedAt = some 0 ∧ partOfSite s 0 = some 3 ∧ partOfSite { State.reset with clusters := s.clusters } 0 = none ∧
     (((List.range 64).map (0 * 64 + ·)).filter fun k => (getPart s 3).numbering.contains k && !(3 : BitVec 64).getLsbD (k % 64)) = [] ∧
     (((List.range 64).map (0 * 64 + ·)).filter fun k => (getPart s 3).numbering.contains k && !(1 : BitVec 64).getLsbD (k % 64)) = [1] ∧
     (0 : Word).toNat + 1000000 ≤ now s ∧ now State.reset < (0 : Word).toNat + 1000000 ∧
     (let v := reportStep (modClu s 0 fun u => { u with probedAt := none }) (jobOfPart s 3) 3 true
      (Tbl.get v.stages (0 / 128) Stage.reset).state ≠ 3 ∧ (Tbl.get v.stages (0 / 128) Stage.reset).state ≠ 4) ∧
     (let v := reportStep (modClu { s with stages := [(0, { Stage.reset with state := 3 })] } 0 fun u => { u with probedAt := none }) (jobOfPart s 3) 3 true
      (Tbl.get v.stages (0 / 128) Stage.reset).state = 3)) := by
  and_intros <;> decide +kernel

def replaying (acks : List (Nat × Nat × Word)) : State :=
  { withPart { State.reset with state := .serving } id with jobs := [(jobOfPart (withPart State.reset id) 3, { Job.reset with parts := [3], steps := [Step.mk 0 false false 0 0 true 0], rung := 2, acks := acks })] }

theorem wit_StepsReplayed :
    (let s := replaying []
     let j := jobOfPart s 3
     (getJob s j).rung ≠ 0 ∧ partsOfJob s j = [3] ∧ probing s j = false ∧ (s.replacing.any fun r => [3].contains r.part) = false ∧
     changing s [3] = false ∧ (getPart s 3).fenced = false ∧ (getPart s 3).map ≠ none ∧ s.state = .serving ∧ (getJob s j).lostAt = none ∧
     (getJob s j).acks = [] ∧ (getJob (replaying [(4, 4, 0)]) j).acks ≠ [] ∧ ({ bareMap true with m := 0 }).bb = true ∧ (getPart s 3).map.any (·.bb) = false ∧ (getJob State.reset j).rung = 0 ∧
     changing { s with epoch := { Epoch.reset with writesAt := some 0, parts := [3] } } [3] = true) ∧
    (let r := Replacement.mk 3 0 9 true false
     let s := { replaying [] with replacing := [r] }
     (s.replacing.find? fun r => r.spare = 9 && !r.copied) = some r ∧
     ({ s with replacing := [r, Replacement.mk 3 1 10 false false] }.replacing.find? fun r => r.spare = 9 && !r.copied) = some r ∧
     ([{ r with copied := true }].any fun x => x.part = 3 && !(x.warm && x.copied)) = false ∧
     ([{ r with copied := true }, Replacement.mk 3 1 10 false false].any fun x => x.part = 3 && !(x.warm && x.copied)) = true ∧
     changing s [3] = false ∧ (getPart s 3).resetting = none ∧ (getPart (modPart s 3 fun p => { p with resetting := some (0, none) }) 3).resetting ≠ none) ∧
    (let r := Replacement.mk 3 0 9 false false
     let s := { replaying [] with replacing := [r] }
     s.replacing = [r] ∧ r.spare = 9 ∧ r.warm = false ∧ r.copied = false ∧ ¬ (∀ c ∈ clustersOf [9], wakeable s c = true → (getClu s c).pwrState = 2) ∧
     (let t := { s with dies := [(9, { Die.reset with dark := true })] }
      ∀ c ∈ clustersOf [9], wakeable t c = true → (getClu t c).pwrState = 2)) := by
  and_intros <;> decide +kernel

def bound7 (st : BitVec 2) : Handle := { Handle.reset with state := st, wr := true, linesM1 := 15 }

theorem wit_HandlesWindowsEpochs :
    let gone := { at_ := 0, idle := true, ended := 0, steps := 0, tasks := [] : Inval }
    let win := { Window.reset with state := 1, outbound := true, expiry := 80 }
    let s := withPart State.reset fun p => { p with handles := [(7, bound7 1)], lags := [(7, [(0, bound7 0)])], invals := [(9, gone)], windows := [(2, win)], winLags := [(2, [(0, Window.reset), (1, Window.reset)])] }
    Tbl.find (getPart s 3).lags 7 = some [(0, bound7 0)] ∧ Tbl.has [(0, bound7 0)] 0 = true ∧ Tbl.drop [(0, bound7 0)] 0 = ([] : Tbl Handle) ∧
    Tbl.drop [(0, bound7 0), (1, bound7 0)] 0 ≠ ([] : Tbl Handle) ∧ (Tbl.get (getPart s 3).handles 7 Handle.reset).state ≠ 2 ∧
    Tbl.find (getPart s 3).winLags 2 = some [(0, Window.reset), (1, Window.reset)] ∧ (getWindow s 3 2).outbound = true ∧
    Tbl.drop [(0, Window.reset), (1, Window.reset)] 0 ≠ ([] : Tbl Window) ∧
    Tbl.find (getPart s 3).invals 9 = some gone ∧ gone.ended.toNat + 200000 ≤ now { s with tally := 200000 } ∧ gone.steps ≥ (getPart s 3).steps ∧
    now { s with tally := 199999 } < gone.ended.toNat + 200000 ∧ gone.steps < (getPart (modPart s 3 fun p => { p with steps := 1 }) 3).steps ∧
    (getWindow s 3 2).state ≠ 0 ∧ (getWindow s 3 2).expiry ≠ 0 ∧ (getWindow s 3 2).expiry.toNat ≤ now { s with tally := 80 } ∧
    now { s with tally := 79 } < (getWindow s 3 2).expiry.toNat ∧ Tbl.wf (getPart s 3).winLags = true := by
  and_intros <;> decide +kernel

/-- Both halves out of service but for the tray, whose routers need not be written here: no router writes its bank. -/
theorem wit_HandlesWindowsEpochs_banks :
    let s := withPart { State.reset with half0 := { State.reset.half0 with inService := true } } id
    (s.epoch.switchAt = none ∧ s.epoch.kept = none) ∧
    (let e := { s with epoch := { Epoch.reset with writesAt := some 0 } }
     e.epoch.writesAt ≠ none ∧ writesBank e 0 = true ∧ 0 ∉ e.epoch.acked ∧ bankWritten { e with epoch := { e.epoch with acked := [0] } } = false ∧
     bankWritten e = false ∧ (0 : Word).toNat + 10000000 ≤ now { e with tally := 10000000 } ∧ now e < (0 : Word).toNat + 10000000) ∧
    (∃ p ∈ [3], betweenSteps compatible p = false) ∧ (∀ p ∈ [3], betweenSteps s p = true) ∧ writesBank s 655360 = false ∧
    { s.epoch with switchAt := some (7 : Word) }.switchAt = some 7 ∧ { s.epoch with kept := some ((7 : Word), (0 : BitVec 5)) }.kept = some (7, 0) ∧
    s.clock.stopped = false ∧ s.replacing = [] ∧ (∀ h, h < 2 → (getHalf s h).leaving = false) ∧ { s.clock with stopped := true }.stopped = true := by
  and_intros <;> decide +kernel

/-- All but one die dark and all clusters of that die but one lost: the last router's acknowledgement completes the writing. -/
def oneCluster : State :=
  { State.reset with dies := (List.range 159).map fun d => (d + 1, { Die.reset with dark := true }), clusters := (List.range 63).map fun c => (c + 1, { Cluster.reset with lost := true }), half0 := { State.reset.half0 with inService := true }, half1 := { State.reset.half1 with inService := true } }
theorem wit_HandlesWindowsEpochs_written :
    let e := { oneCluster with epoch := { Epoch.reset with writesAt := some 0, acked := (List.range 63).map (· + 1) } }
    writesBank e 0 = true ∧ 0 ∉ e.epoch.acked ∧ bankWritten e = false ∧ bankWritten { e with epoch := { e.epoch with acked := 0 :: e.epoch.acked } } = true := by
  and_intros <;> decide +kernel

theorem wit_LanesRetrain :
    (let x := { Link.reset with due := [70], steered := [64, 65] }
     let s := setLink State.reset (.die 0 1) x
     70 ∈ (getLink s 0 1).due ∧ 2 ≤ ((x.steered ++ x.failed).filter fun m => m / 64 = 70 / 64).length ∧
     (((x.steered ++ x.failed).filter fun m => m / 64 = 0 / 64).length < 2) ∧ 64 ∈ (linkOf s (.die 0 1)).steered ∧ (linkOf s (.die 0 1)).replies = [] ∧
     2047 < laneCount (.die 0 1) ∧ 2047 ∉ x.steered ∧ 2047 ∉ x.failed ∧ 2047 ∉ x.bare ∧ 2047 ∉ x.due) := by
  and_intros <;> decide +kernel

def readJob : ReadJob := { line := 5, dest := .core 0 511 9 3, via := none, arr := 0 }
def pendingBad : BadLine := { type := 3, bank := 5, row := 0, column := 0, spareRow := 0, spareCol := 0, cause := 0 }

theorem wit_ChannelsServe :
    (let j := CommitJob.mk 5 7 0 511 3 none 1
     let u := { Cluster.reset with reads := [readJob], commits := [j] }
     u.waits = [] ∧ (pickRead u 0).map (·.1) = some readJob ∧ readJob.dest = .core 0 511 9 3 ∧ readJob.via = none ∧ u.inSlice = false ∧
     { u with inSlice := true }.inSlice = true ∧ u.channelOut = false ∧
     a0.inner = false ∧ a0.fresh = 0 ∧ Tbl.find u.lineErr readJob.line = none ∧ pendingEntry u readJob.line = none ∧ readJob.line ∉ u.exhLines ∧
     (pendingEntry { u with bad := [(0, pendingBad)] } 5).isSome = true ∧ (pickCommit u 0).map (·.1) = some j ∧ j.via = none ∧ Tbl.wf u.lineErr = true ∧
     pendingEntry u u.scrubPos.toNat = none ∧ (pendingEntry { u with bad := [(0, pendingBad)], scrubPos := 5 } 5).isSome = true ∧
     (let s := { State.reset with tally := BitVec.ofNat 64 (8 * 3600000000000 / 2 ^ 20) }
      u.scrubAt.toNat + s.sys.scrubHours * 3600000000000 / 2 ^ 20 ≤ now s ∧ now State.reset < u.scrubAt.toNat + State.reset.sys.scrubHours * 3600000000000 / 2 ^ 20) ∧
     (let i := { readJob with dest := .stream 0 false 9 }
      ({ u with reads := [readJob, i] }.reads.find? fun j => j.core.isNone) = some i)) ∧
    partOfSite State.reset 0 = none ∧ (getClu State.reset 0).slicesLeft = 0 ∧ 8 ≤ (68 : BitVec 8).toNat - (60 : BitVec 8).toNat ∧
    (67 : BitVec 8).toNat - (60 : BitVec 8).toNat < 8 ∧
    (getClu State.reset 0).lastRecal.toNat + State.reset.sys.recalS * 1000000000 ≤ now { State.reset with tally := BitVec.ofNat 64 (State.reset.sys.recalS * 1000000000) } ∧
    (let s := modClu State.reset 0 fun u => { u with slicesLeft := 7, pwrState := 2 }
     (getClu s 0).slicesLeft ≠ 0 ∧ (getClu s 0).inSlice = false ∧ (getClu s 0).pwrState ≠ 1 ∧ (∀ c, c < 64 → (getClu s (0 / 64 * 64 + c)).inSlice = false) ∧
     (getClu s 0).lastSlice.toNat + 1000000 ≤ now { s with tally := 1000000 } ∧ (getClu s 0).slicesLeft < 8) := by
  and_intros <;> decide +kernel

/-! #### Teller -/

def tkey : Bytes := [1, 2, 3]

/-- A message with its right tag under the test key. -/
def sign (m : Msg) : Msg := { m with mac := msgTag tkey m }

theorem msgTag_sign (m : Msg) : msgTag tkey (sign m) = (sign m).mac := rfl

/-- Session 1: privilege 2 (A), keys `tkey`, SEQ 1 received on port 0. -/
def sess1 : Session := { Session.reset with est := true, estNum := 1, priv := 2, khp := tkey, kph := tkey, keepalive := 600, seqOut := 2, win0 := { high := 1, got := [1] } }

/-- A serving panel with both hubs and ports up and session 1. -/
def tel : State :=
  { State.reset with state := .serving, hub0 := { State.reset.hub0 with up := true, portUp := true, selfTest := true }, hub1 := { State.reset.hub1 with up := true, portUp := true, selfTest := true }, half0 := { State.reset.half0 with power := true, inService := true }, half1 := { State.reset.half1 with power := true, inService := true }, vault := { Vault.reset with recs := Vault.factorySpares }, sessions := [(1, sess1)] }

/-- The first request of mailbox 0 of session 1, with a good tag. -/
def req (cmd : BitVec 16) (payload : Bytes) : Msg := sign { m0 with sess := 1, seq := 5, cmd := cmd, payload := payload }

/-- Everything of `Begins` but the tag, as a check that evaluates. -/
def beginsBut (c : Cmd) (m : Msg) (s : State) (t : Session) : Bool :=
  let b := getBox s m.sess.toNat m.mbox.toNat
  decide (m.cls = 0) && decide (m.ver = 3) && decide (m.cmd.toNat = c.code) && portAlive s m.port && tellerServes s && t.est &&
  !(winOf t m.port).drops m.seq.toNat && decide (m.seq.toNat < 2 ^ 63) && decide (t.seqOut.toNat < 2 ^ 63) && decide (b.next = m.rseq.toNat) &&
  decide (m.rseq.toNat ∉ b.running) && !Tbl.has b.held m.rseq.toNat && (b.kept.find? fun d => d.1 = m.rseq.toNat).isNone && (decide (s.state = .serving) || c.safe) &&
  decide (c.priv ≤ privOf s m.sess.toNat) && c.form && decide (m.rsv = 0) && decide (c.check (started c.ro m s) = none)

theorem begins_of (c : Cmd) (m : Msg) (s : State) (t : Session) (hs : Tbl.find s.sessions m.sess.toNat = some t) (ht : msgTag t.khp m = m.mac)
    (h : beginsBut c m s t = true) : Begins c m s := by
  simp only [beginsBut, Bool.and_eq_true, decide_eq_true_eq, Bool.not_eq_true', Bool.or_eq_true, Option.isNone_iff_eq_none] at h
  obtain ⟨⟨⟨⟨⟨⟨⟨⟨⟨⟨⟨⟨⟨⟨⟨⟨⟨h1, h2⟩, h3⟩, h4⟩, h5⟩, h6⟩, h7⟩, h8⟩, h9⟩, ha⟩, hb⟩, hc⟩, hd⟩, he⟩, hf⟩, hg⟩, hi⟩, hj⟩ := h
  exact ⟨h1, h2, h3, ⟨h4, h5, t, hs, h6, ht, h7, h8, h9⟩, ⟨ha, hb, hc, hd⟩, he, hf, hg, hi, hj⟩

theorem begins_req (cmd : BitVec 16) (payload : Bytes) (c : Cmd) (s : State) (hs : Tbl.find s.sessions 1 = some sess1)
    (h : beginsBut c (req cmd payload) s sess1 = true) : Begins c (req cmd payload) s :=
  begins_of c (req cmd payload) s sess1 hs (msgTag_sign _) h

theorem wit_TellerDiscipline :
    Authentic (req 1 [7]) tel ∧ InTurn (req 1 [7]) tel ∧ heldCmd (.ping (req 1 [7])) = some (req 1 [7], cmdPing (req 1 [7])) ∧
    (req 1 [7]).cls = 0 ∧ (req 1 [7]).cmd.toNat = (cmdPing (req 1 [7])).code ∧ 0x0FFF ∉ listedCodes ∧ Tbl.find tel.sessions 2 = none :=
  ⟨⟨by decide +kernel, by decide +kernel, sess1, rfl, rfl, msgTag_sign _, by decide +kernel, by decide +kernel, by decide +kernel⟩,
    ⟨by decide +kernel, by decide +kernel, rfl, rfl⟩, rfl, rfl, rfl, by decide +kernel, rfl⟩

/-- RSEQ 64 ahead, held, kept, behind and ahead; a session not established; a SEQ received before; a privilege, a form and a state that fail. -/
theorem wit_TellerDiscipline_cases :
    (let b := { Mailbox.reset with next := 9, running := [10], kept := [(7, Done.mk 1 stOk [])], held := [(11, HeldRequest.mk (.ping m0) reply0 true)] }
     let s := { tel with sessions := [(1, { sess1 with boxes := [(0, b)] })] }
     getBox s 1 0 = b ∧ b.next + 64 ≤ 73 ∧ 10 ∈ b.running ∧ Tbl.has b.held 11 = true ∧ (b.kept.find? fun d => d.1 = 7).isSome = true ∧
     ((b.kept.find? fun d => d.1 = 6) = none ∧ 6 < b.next) ∧ ((b.kept.find? fun d => d.1 = 12) = none ∧ b.next < 12)) ∧
    (winOf sess1 0).drops 1 = true ∧ { sess1 with est := false }.est = false ∧ privOf { tel with sessions := [(1, { sess1 with priv := 0 })] } 1 < (cmdReturn m0).priv ∧
    (cmdClose (req 2 [1])).form = false ∧ (cmdMapStage (req 0x102 (List.replicate 8 0))).check (withPart tel fun p => { p with fenced := true }) = none ∧
    (cmdMapStage (req 0x102 (3 :: List.replicate 7 0))).check (withPart tel fun p => { p with fenced := true }) = some stFenced ∧
    ({ tel with state := .safe }).state ≠ .serving ∧ (cmdReturn m0).safe = true ∧ (cmdMapStage m0).safe = false := by
  and_intros <;> decide +kernel

theorem wit_SessionCommands :
    Begins (cmdPing (req 1 [7])) (req 1 [7]) tel ∧ Begins (cmdClose (req 2 [])) (req 2 []) tel ∧ Begins (cmdVersion (req 3 [])) (req 3 []) tel ∧
    Begins (cmdSubscribe (req 4 [1, 0, 0, 0])) (req 4 [1, 0, 0, 0]) tel ∧ Begins (cmdStatus (req 5 [])) (req 5 []) tel := by
  refine ⟨?_, ?_, ?_, ?_, ?_⟩ <;> exact begins_req _ _ _ _ rfl (by decide +kernel)

/-- SYS_CONFIG with every field kept. -/
def sysKeep : Bytes := List.replicate 15 255 ++ [0, 255, 255, 0, 0] ++ List.replicate 8 255 ++ [0, 0, 0, 0] ++ List.replicate 32 255
def streamKeep : Bytes := List.replicate 6 255

theorem wit_SessionCommands_settings :
    Begins (cmdSysConfig (req 6 sysKeep)) (req 6 sysKeep) tel ∧ Begins (cmdStreamSet (req 7 streamKeep)) (req 7 streamKeep) tel ∧
    Begins (cmdStreamSet (req 7 [0, 1, 2, 3, 20, 0])) (req 7 [0, 1, 2, 3, 20, 0]) tel ∧ ringWindow tel 1 3 2 = false ∧
    Begins (cmdQpCreate (req 8 (List.replicate 32 0)) 9) (req 8 (List.replicate 32 0)) tel ∧ sess1.qp = none ∧
    Begins (cmdQpDestroy (req 9 [])) (req 9 []) tel ∧ tel.vault.writing = [] := by
  refine ⟨?_, ?_, ?_, by decide +kernel, ?_, rfl, ?_, rfl⟩ <;> exact begins_req _ _ _ _ rfl (by decide +kernel)

def partNew : Bytes := [3] ++ List.replicate 7 0 ++ [1] ++ List.replicate 19 0
def tel3 (f : Partition → Partition) : State := withPart tel fun p => f { p with map := none }

theorem wit_PartitionCommands :
    Begins (cmdPartSet (req 0x101 partNew)) (req 0x101 partNew) tel ∧ (getPart tel 3).map = none ∧ [0].all (siteFree (started false (req 0x101 partNew) tel) 3) = true ∧
    [9].all (siteFree { tel with dies := [(9, { Die.reset with spare := true })] } 3) = false ∧
    Begins (cmdMapStage (req 0x102 [3, 0, 0, 0, 254, 255, 15, 0, 1, 2])) (req 0x102 [3, 0, 0, 0, 254, 255, 15, 0, 1, 2]) (tel3 id) ∧ hasPart (tel3 id) 3 = true ∧
    at_ [3, 0, 0, 0, 254, 255, 15, 0, 1, 2] 4 4 + 2 ≤ 2 ^ 20 ∧ hasPart tel 3 = false ∧
    Begins (cmdMapUnload (req 0x104 [3])) (req 0x104 [3]) (tel3 id) ∧ partBusy (tel3 id) 3 = false ∧
    Begins (cmdPartDrain (req 0x105 [3, 0])) (req 0x105 [3, 0]) (tel3 id) ∧ Begins (cmdPartDrain (req 0x105 [3, 1])) (req 0x105 [3, 1]) (tel3 id) ∧
    drainedNow (tel3 fun p => { p with drained := true }) 3 = true ∧ (getPart (tel3 fun p => { p with drained := true, drainReply := [reply0] }) 3).drainReply ≠ [] ∧
    (getPart tel 3).resetNext = none ∧ tel.panelReset = none ∧ measureHeld (tel3 id) 3 = none ∧
    (measureHeld (modClu (tel3 fun p => { p with handles := [(7, { Handle.reset with state := 1 })] }) 0 fun u => { u with inSlice := true }) 3).isSome = true := by
  refine ⟨?_, by decide +kernel, by decide +kernel, by decide +kernel, ?_, by decide +kernel, by decide +kernel, by decide +kernel, ?_, by decide +kernel, ?_, ?_,
    by decide +kernel, by decide +kernel, by decide +kernel, rfl, by decide +kernel, by decide +kernel⟩ <;> exact begins_req _ _ _ _ rfl (by decide +kernel)

def bindOne : Bytes := [3, 0, 7, 0] ++ List.replicate 12 0 ++ List.replicate 16 0
def commitNone : Bytes := [3, 0, 0, 0, 0, 0, 0, 0] ++ List.replicate 32 0

theorem wit_PartitionCommands_handles_and_maps :
    Begins (cmdHandleBind (req 0x106 bindOne)) (req 0x106 bindOne) (tel3 id) ∧ (bindDesc (getPart (tel3 id) 3) (at_ bindOne 16 16)).isSome = true ∧
    bindDesc (getPart (tel3 id) 3) (2 ^ 8) = none ∧
    Begins (cmdHandleInval (req 0x107 [3, 0, 7, 0])) (req 0x107 [3, 0, 7, 0]) (tel3 fun p => { p with handles := [(7, bound7 1)] }) ∧
    (Tbl.get (getPart (tel3 fun p => { p with handles := [(7, bound7 1)] }) 3).handles 7 Handle.reset).state = 1 ∧
    Begins (cmdMapCommit (req 0x103 commitNone)) (req 0x103 commitNone) (tel3 id) := by
  refine ⟨?_, by decide +kernel, by decide +kernel, ?_, by decide +kernel, ?_⟩ <;> exact begins_req _ _ _ _ rfl (by decide +kernel)

def withBuf : State := tel3 fun p => { p with handles := [(7, bound7 1)] }
def oneLine : Bytes := [3, 0, 7, 0, 192, 3, 0, 0] ++ List.replicate 64 5
def lineReq : Bytes := [3, 0, 7, 0, 192, 3, 0, 0, 1]

theorem wit_DataCommands :
    Begins (cmdDataWrite (req 0x108 oneLine)) (req 0x108 oneLine) withBuf ∧ dataRange withBuf 3 7 960 1 = some (bound7 1) ∧ dataRange withBuf 3 7 1024 1 = none ∧
    (bound7 1).kind = false ∧ Memory.wf withBuf.mem = true ∧ channelServes withBuf (dataCluster withBuf 3 7 (bound7 1)) = true ∧
    (getClu withBuf (dataCluster withBuf 3 7 (bound7 1))).fenced = false ∧
    Begins (cmdDataRead (req 0x109 lineReq) [a0]) (req 0x109 lineReq) withBuf ∧ (readLines withBuf 3 7 (bound7 1) 15 [a0] 1).2.1 = stOk ∧
    Begins (cmdDistRead (req 0x10A [3, 0, 0, 0, 0, 0, 0, 0, 8, 0])) (req 0x10A [3, 0, 0, 0, 0, 0, 0, 0, 8, 0]) withBuf ∧ 0 + 8 ≤ (distBytes withBuf 3 0 8).1 ∧ withBuf.sessions = tel.sessions ∧ (getPart withBuf 3).dist = DistTable.reset ∧ (getPart (modPart withBuf 3 fun p => { p with dist := { DistTable.reset with numbering := [0] } }) 3).dist ≠ DistTable.reset ∧ inSlice withBuf 0 = false ∧ inSlice (modClu withBuf 0 fun u => { u with inSlice := true }) 0 = true := by
  refine ⟨?_, by decide +kernel, by decide +kernel, by decide +kernel, by decide +kernel, by decide +kernel, by decide +kernel, ?_, by decide +kernel, ?_,
    by decide +kernel, rfl, by decide +kernel, by decide +kernel, by decide +kernel, by decide +kernel⟩ <;> exact begins_req _ _ _ _ rfl (by decide +kernel)

theorem sub_digest (h d : Bytes) (hh : h.length = 8) (hd : d.length = 32) : sub_ (h ++ d) 8 32 = d := by
  have h1 : (h ++ d).drop 8 = d := by rw [List.drop_append_of_le_length (by omega), List.drop_of_length_le (by omega), List.nil_append]
  simp [sub_, h1, hd, List.take_of_length_le]

/-- A Base-bound map: MAP.STEP of one layer and one slot, MAP.CLEAR with channel 0 enrolled and releasing, addressing 1. -/
def smallMap : Bytes :=
  [1, 0, 0, 0, 16, 0, 0, 0] ++ leBytes 16 (1 + 2 ^ 16 + 2 ^ 48) ++ [2, 0, 0, 0, 64, 0, 0, 0] ++ leBytes 64 0x10081 ++
    [10, 0, 0, 0, 8, 0, 0, 0] ++ leBytes 8 1
def stagedMap : State := tel3 fun p => { p with staged := ((List.range 112).zip smallMap).filter fun x => x.2 ≠ 0 }
def commitMap : Bytes := [3, 0, 0, 0, 112, 0, 0, 0] ++ sha3_256 smallMap

theorem sha3_smallMap_length : (sha3_256 smallMap).length = 32 := by decide +kernel

theorem wit_PartitionCommands_commit :
    Begins (cmdMapCommit (req 0x103 commitMap)) (req 0x103 commitMap) stagedMap ∧ stagedBytes (getPart stagedMap 3).staged (at_ commitMap 4 4) = smallMap ∧
    sha3_256 smallMap = sub_ commitMap 8 32 ∧ hasPart stagedMap 3 = true ∧ (getPart stagedMap 3).sites.all (halfServes stagedMap) = true ∧
    (∃ l, mapRecords 113 smallMap = some l) ∧
    (((mapRecords 113 smallMap).map (buildMap stagedMap 3 [])).elim false fun r => match r with | .ok _ => true | .error _ => false) = true ∧
    partBusy stagedMap 3 = false ∧ (getJob stagedMap (jobOfPart stagedMap 3)).steps = [] ∧ measureHeld stagedMap 3 = none :=
  ⟨begins_req _ _ _ _ rfl (by decide +kernel), by decide +kernel, (sub_digest _ _ rfl sha3_smallMap_length).symm, by decide +kernel, by decide +kernel,
    ⟨_, rfl⟩, by decide +kernel, by decide +kernel, by decide +kernel, by decide +kernel⟩

/-- SUBMIT for partition 3: class 1, one prompt token, four output tokens, TEMP and TOP_P 1.0. -/
def submission : Bytes :=
  [3, 0, 1, 255, 0, 0, 0, 0] ++ leBytes 8 9 ++ leBytes 4 0x3F800000 ++ leBytes 4 0x3F800000 ++ leBytes 4 0 ++ leBytes 4 4 ++ leBytes 4 1 ++
    List.replicate 36 0 ++ leBytes 4 17
/-- Partition 3 with a map that keeps KV, and 1 W of allowance in each cluster's pool. -/
def serving3 : State := withPart tel fun p => { p with map := some { bareMap false with tokb := 8, kvlo := 0, kvhi := 16384 } }
def aRequest : Request :=
  { sess := 1, sub := subFields (req 0x201 submission), cls := 1, state := 2, status := 0, endedAt := 0, released := 0, computed := 0, digest := [], escIdx := 0, escPos := 0, escDigest := [], fed := 0, nin := 0, sample := false, slot := none, kvh := [], drops := 0, dropTokens := 0, dropsKept := 0, dropTokensKept := 0, dir := 0, ovh := 0, rates := [], endSent := false, charged := false }
def withRequest (x : Request) : State := { serving3 with requests := [(5, x)] }

theorem wit_RequestCommands :
    Begins (cmdSubmit (req 0x201 submission)) (req 0x201 submission) serving3 ∧ (subFields (req 0x201 submission)).prompt = [17] ∧
    stagedPrompt serving3 1 2 1 = none ∧ policyRefuses serving3 1 (subFields (req 0x201 submission)) = false ∧
    policyRefuses { serving3 with sessions := [(1, { sess1 with topclass := 2 })] } 1 (subFields (req 0x201 submission)) = true ∧
    liveTicket serving3 1 0 = none ∧ (¬ ∃ p, p ∈ partsOfJob serving3 3 ∧ (getPart serving3 p).lacking = true) ∧
    Begins (cmdPromptPut (req 0x202 [2, 0, 0, 0, 0, 0, 0, 0, 17, 0, 0, 0])) (req 0x202 [2, 0, 0, 0, 0, 0, 0, 0, 17, 0, 0, 0]) tel ∧
    Begins (cmdAbort (req 0x203 [5, 0, 0, 0, 0, 0, 0, 0])) (req 0x203 [5, 0, 0, 0, 0, 0, 0, 0]) (withRequest aRequest) ∧
    ownRequest (withRequest aRequest) 1 5 = some aRequest ∧ aRequest.state ≠ 4 ∧ aRequest.endSent = false ∧ { aRequest with state := 4 }.state = 4 ∧
    ownRequest tel 1 5 = none ∧
    Begins (cmdReqQuery (req 0x204 (5 :: List.replicate 11 0))) (req 0x204 (5 :: List.replicate 11 0)) (withRequest aRequest) ∧
    Begins (cmdReqQuery (req 0x204 (List.replicate 12 0))) (req 0x204 (List.replicate 12 0)) (withRequest aRequest) := by
  refine ⟨?_, by decide +kernel, by decide +kernel, by decide +kernel, by decide +kernel, by decide +kernel, by decide +kernel, ?_, ?_, by decide +kernel,
    by decide +kernel, by decide +kernel, by decide +kernel, by decide +kernel, ?_, ?_⟩ <;> exact begins_req _ _ _ _ rfl (by decide +kernel)

/-- What the Ledger decides where nothing is idle, and a refusal: each of the three kinds of its answer. -/
theorem wit_RequestCommands_decisions :
    (let f := subFields (req 0x201 submission)
     [(decideAdmission serving3 f 1 1 0).1, (decideAdmission (withPart tel fun p => { p with map := some { bareMap false with tokb := 8, kvlo := 0, kvhi := 16384 }, ledger := { p.ledger with waking := true, allow := 1000000, lcap := 16 } }) f 1 1 0).1,
      (decideAdmission (withPart tel id) f 1 1 0).1] = [stOk, stDeferred, stRefusedCapacity]) ∧ storesFull serving3 1 = false ∧
    (getJob serving3 3).lostAt = none := by
  and_intros <;> decide +kernel

/-- The prompt upload window of 07: handle 0x0A2 of 4,096 lines, lines 1,024 to 2,047, write, sessions mask 4, EXPIRY 85 s. -/
def uploadWindow : Nat := 0x3FF09 + 2 ^ 64 * 85000000000 + 2 ^ 128 * (0x0A2 + 2 ^ 32 * 0x400 + 2 ^ 64 * 4)
def openUpload : Bytes := [3, 17, 0, 0, 0, 0, 0, 0] ++ leBytes 32 (uploadWindow - 1)
def withA2 : State :=
  { withPart tel (fun p => { p with handles := [(0x0A2, { Handle.reset with state := 1, wr := true, linesM1 := 4095 })] }) with tally := 80000000000 }

theorem wit_WindowAndLedgerCommands :
    Begins (cmdWinOpen (req 0x301 openUpload)) (req 0x301 openUpload) withA2 ∧
    openAllowed withA2 3 (getWindow withA2 3 17) (openedWindow withA2 (getWindow withA2 3 17) (uploadWindow - 1)) = true ∧
    openAllowed { withA2 with tally := 85000000000 } 3 (getWindow withA2 3 17) (openedWindow withA2 (getWindow withA2 3 17) (uploadWindow - 1)) = false ∧
    Begins (cmdWinClose (req 0x302 [3, 17])) (req 0x302 [3, 17]) withA2 ∧ Begins (cmdWinQuery (req 0x303 [3, 17])) (req 0x303 [3, 17]) withA2 ∧
    Begins (cmdLedgerSet (req 0x401 ([3, 255, 0, 0] ++ List.replicate 10 255))) (req 0x401 ([3, 255, 0, 0] ++ List.replicate 10 255)) withA2 ∧
    Begins (cmdLedgerRead (req 0x402 [3])) (req 0x402 [3]) withA2 ∧ Begins (cmdForecast (req 0x403 (List.replicate 12 9))) (req 0x403 (List.replicate 12 9)) withA2 ∧
    hasPart withA2 3 = true ∧ hasPart tel 3 = false ∧ (getWindow withWindow 3 2).state ≠ 0 ∧ (getPart withWindow 3).sites ≠ [] := by
  refine ⟨?_, by decide +kernel, by decide +kernel, ?_, ?_, ?_, ?_, ?_, by decide +kernel, by decide +kernel, by decide +kernel, by decide +kernel⟩ <;>
    exact begins_req _ _ _ _ rfl (by decide +kernel)

/-- Step 2 of the upload window's example: the low word reads 0x000000040003FF09 with GEN 4. -/
theorem test_window_word :
    { Window.reset with state := 1, dir := 1, linesM1 := 0x3FF, gen := 4, expiry := 85000000000, hi := BitVec.ofNat 128 (0x0A2 + 2 ^ 32 * 0x400) }.word % 2 ^ 64 =
      0x000000040003FF09 := by decide +kernel

/-- A Shadow attached to panel 230, silent for 20 ms. -/
def shadow : State := { tel with tally := 20000000, twin := { tel.twin with role := .shadow, attached := true, partner := 230 } }
def jobTwo : Bytes := [8, 0, 0, 0, 0, 0, 0, 0] ++ leBytes 12 (3 + 2 ^ 48 * 2 + 2 ^ 64 * 5 + 2 ^ 80 * 5) ++ [0, 0, 1, 0]
def loaded3 : State := withPart tel id
def formed3 : State := { loaded3 with jobs := [(3, { Job.reset with formed := true, parts := [3], members := [0, 1] })] }

def noPair : PairExchange := PairExchange.mk [] [] []
theorem wit_TwinAndJobCommands :
    Begins (cmdTwinAttach (req 0x501 [1, 0, 230, 0]) true [] noPair) (req 0x501 [1, 0, 230, 0]) tel ∧ 230 ≠ tel.sys.panel ∧
    Begins (cmdTwinAttach (req 0x501 [2, 0, 0, 0]) true [] noPair) (req 0x501 [2, 0, 0, 0]) tel ∧ at_ [2, 0, 0, 0] 2 2 = tel.sys.panel ∧
    Begins (cmdTwinDetach (req 0x502 [])) (req 0x502 []) tel ∧ twinOn tel = false ∧ Begins (cmdTwinDetach (req 0x502 [])) (req 0x502 []) { shadow with tally := 0 } ∧
    twinOn shadow = true ∧ Begins (cmdTwinTakeover (req 0x503 [230, 0])) (req 0x503 [230, 0]) shadow ∧
    { tel.twin with pending := some TwinRole.shadow }.pending = some .shadow ∧ atBoundary tel = true ∧ tel.twin.unacked = [] ∧
    mapMeasures (remeasure (started false (req 0x501 [1, 0, 230, 0]) tel)) = [] ∧ { tel.twin with beaten := true }.lines = [] ∧
    (getPart (withPart tel fun p => { p with lastWrite := some 0 }) 3).lastWrite = some 0 ∧ (getPart (withPart shadow id) 3).lastWrite = none ∧
    measureHeld (started false (req 0x501 [1, 0, 230, 0]) tel) 16 = none := by
  refine ⟨?_, by decide +kernel, ?_, by decide +kernel, ?_, by decide +kernel, ?_, by decide +kernel, ?_, by decide +kernel, by decide +kernel,
    by decide +kernel, by decide +kernel, by decide +kernel, by decide +kernel, by decide +kernel, by decide +kernel⟩ <;> exact begins_req _ _ _ _ rfl (by decide +kernel)

theorem wit_TwinAndJobCommands_jobs :
    Begins (cmdJobForm (req 0x504 jobTwo)) (req 0x504 jobTwo) loaded3 ∧ [3].all (hasPart loaded3) = true ∧ bitsOf 16 (at_ jobTwo 0 2) = [3] ∧
    loaded3.sys.panel ∈ jobMembers (req 0x504 jobTwo) ∧ inFormedJob loaded3 3 = false ∧ aligned loaded3 = true ∧ jobHeldUp loaded3 3 [3] = false ∧
    aligned { loaded3 with sys := { loaded3.sys with troot := 9 } } = false ∧
    jobHeldUp (withRequest aRequest) 3 [3] = true ∧
    Begins (cmdJobDissolve (req 0x505 [3, 0])) (req 0x505 [3, 0]) formed3 ∧ (getJob formed3 3).formed = true ∧ activeReqs formed3 (fun x => x.sub.job = 3) = [] ∧
    (let s := { formed3 with jobs := [(3, { Job.reset with formed := true, parts := [3], members := [0, 1], shrunk := true, lost := [7], lostAt := some 0 })] }
     jobHeldUp s 3 [3] = false ∧ ∃ l ∈ (getJob s 3).lost, l ∉ jobMembers (req 0x504 jobTwo)) := by
  refine ⟨?_, by decide +kernel, by decide +kernel, by decide +kernel, by decide +kernel, by decide +kernel, by decide +kernel, by decide +kernel, by decide +kernel, ?_,
    by decide +kernel, by decide +kernel, by decide +kernel⟩ <;> exact begins_req _ _ _ _ rfl (by decide +kernel)

/-! #### Links and guests by command, images, domains -/

def diagLine (unit : Byte) : Bytes := [unit, 0, 0, 0, 192, 255, 255, 3, 64, 0, 0, 0, 0, 0, 0, 0]
def diagHub : Bytes := [0, 0, 0, 0, 0, 0, 0, 0, 8, 0, 0, 0, 0, 0, 0, 0]

theorem wit_LinkGuestCommands_links :
    Begins (cmdDiagRead (req 0x601 (diagLine 5)) a0) (req 0x601 (diagLine 5)) tel ∧ channelServes tel 0 = true ∧
    channelServes { tel with dies := [(0, { Die.reset with dark := true })] } 0 = false ∧ (demandRead tel 0 0xFFFFF a0).2.isSome = true ∧
    Begins (cmdDiagRead (req 0x601 diagHub) a0) (req 0x601 diagHub) tel ∧ hubUp tel 0 = true ∧
    Begins (cmdLinkRetrain (req 0x602 [0, 0, 1, 0, 255, 7])) (req 0x602 [0, 0, 1, 0, 255, 7]) tel ∧ laneThere tel (req 0x602 [0, 0, 1, 0, 255, 7]) = true ∧
    laneThere tel (req 0x602 [0, 9, 1, 0, 0, 0]) = (siteBeside 9 1).isSome ∧ (Link.reset.sound 2047) = true ∧
    Begins (cmdLinkRetrain (req 0x602 [2, 7, 0, 0, 0, 0])) (req 0x602 [2, 7, 0, 0, 0, 0]) tel ∧
    Begins (cmdDramRecal (req 0x603 [159, 63])) (req 0x603 [159, 63]) tel := by
  refine ⟨?_, by decide +kernel, by decide +kernel, by decide +kernel, ?_, by decide +kernel, ?_, by decide +kernel, by decide +kernel, by decide +kernel, ?_, ?_⟩ <;>
    exact begins_req _ _ _ _ rfl (by decide +kernel)

def aConfig : VaultConfig := { version := 1, limit := 8, window := 600, signers := [List.replicate 32 7], guests := [([1], [2])], hosts := [([9], 2, 0)], digest := [] }
/-- Guest site 0 with its link up and CAP exchanged, its measurement allowed. -/
def readyGuest : Guest := { Guest.reset with link := true, capSent := true, capGot := true, admitted := true, attested := true, meas := [1] }
def withGuest (g : Guest) : State := { tel with guests := [(0, g)], vault := { tel.vault with config := some aConfig } }
/-- Line 0 of window 17 of partition 3, reads and writes. -/
def aRule : BitVec 128 := 1 + 2 ^ 3 * 3 + 2 ^ 8 * 3 + 2 ^ 16 * 17
def rulePayload (v : BitVec 128) : Bytes := 0 :: 31 :: List.replicate 14 0 ++ leBytes 16 v.toNat
def ruled : State := { withA2 with tally := 0, parts := [(3, { getPart withA2 3 with windows := [(17, { Window.reset with state := 1, dir := 3 })] })] }

theorem wit_LinkGuestCommands_guests :
    Begins (cmdGuestMode (req 0x701 [0, 1]) 5) (req 0x701 [0, 1]) (withGuest readyGuest) ∧
    Begins (cmdGuestMode (req 0x701 [0, 2]) 5) (req 0x701 [0, 2]) (withGuest readyGuest) ∧
    Begins (cmdGuestMode (req 0x701 [0, 255]) 5) (req 0x701 [0, 255]) (withGuest readyGuest) ∧
    Begins (cmdGuestMode (req 0x701 [0, 0]) 5) (req 0x701 [0, 0]) (withGuest { readyGuest with mode := 1 }) ∧
    Begins (cmdGuestReturn (req 0x703 [0]) 5) (req 0x703 [0]) (withGuest { readyGuest with powerCut := true }) ∧
    Begins (cmdGuestReturn (req 0x703 [0]) 5) (req 0x703 [0]) (withGuest { readyGuest with fenced := true, mode := 2 }) ∧
    Begins (cmdGuestReturn (req 0x703 [0]) 5) (req 0x703 [0]) (withGuest { readyGuest with fenced := true, mode := 1 }) ∧
    Begins (cmdGuestReturn (req 0x703 [0]) 5) (req 0x703 [0]) (withGuest { readyGuest with link := false }) ∧
    Begins (cmdGuestRule (req 0x702 (rulePayload aRule))) (req 0x702 (rulePayload aRule)) ruled ∧ ruleValid aRule = true ∧
    ruleLines aRule ≤ targetLines ruled aRule ∧ (getGuest ruled 0).rules = [] ∧ targetLines tel aRule < ruleLines aRule ∧ rulesOverlap aRule aRule = true ∧
    Begins (cmdGuestRule (req 0x702 (rulePayload 0))) (req 0x702 (rulePayload 0)) tel := by
  refine ⟨?_, ?_, ?_, ?_, ?_, ?_, ?_, ?_, ?_, by decide +kernel, by decide +kernel, by decide +kernel, by decide +kernel, by decide +kernel, ?_⟩ <;>
    exact begins_req _ _ _ _ rfl (by decide +kernel)

/-- A loader image of one word: header with SVN 0 and the signer of the test CONFIG, code, signature of zeros. -/
def loaderHead : Bytes := [1, 0, 1, 0, 0, 0, 0, 0, 8, 0, 0, 0] ++ List.replicate 20 0 ++ List.replicate 32 7
def stagedLoader : State :=
  { withPart tel (fun p => { p with map := none, drained := true, imgStage := ((List.range 64).zip loaderHead).filter fun x => x.2 ≠ 0 }) with vault := { tel.vault with config := some aConfig } }
def activate (digest : Bytes) : Bytes := [1, 3, 0, 0, 188, 9, 0, 0] ++ digest
def loaderImage : Bytes := stagedImage stagedLoader 1 3 2492

theorem wit_ImageCommands_stage :
    Begins (cmdImgStage (req 0x801 ([1, 3, 0, 0, 255, 255, 127, 0] ++ [5]))) (req 0x801 ([1, 3, 0, 0, 255, 255, 127, 0] ++ [5])) loaded3 ∧
    0x7FFFFF + 1 ≤ stageRoom ∧ hasPart loaded3 3 = true ∧ hasPart tel 3 = false ∧
    Begins (cmdImgStage (req 0x801 ([0, 1, 0, 0, 0, 0, 128, 0] ++ [5]))) (req 0x801 ([0, 1, 0, 0, 0, 0, 128, 0] ++ [5])) tel ∧ stageRoom < 0x800000 + 1 := by
  refine ⟨?_, by decide, by decide +kernel, by decide +kernel, ?_, by decide⟩ <;> exact begins_req _ _ _ _ rfl (by decide +kernel)

theorem loaderImage_good :
    imageForm loaderImage 1 loaderImage.length = true ∧ signerOk stagedLoader 1 loaderImage = true ∧ imgSvn loaderImage = 0 ∧ imgAdvance loaderImage = false ∧
    raiseTooFar stagedLoader 1 3 loaderImage = false := by
  have h : imgSigner loaderImage = List.replicate 32 7 := by decide +kernel
  exact ⟨by decide +kernel, by simp [signerOk, h]; right; decide +kernel, by decide +kernel, by decide +kernel, by decide +kernel⟩

theorem sha3_loaderImage_length : (sha3_256 loaderImage).length = 32 := by decide +kernel

theorem wit_ImageCommands_activate :
    Begins (cmdImgActivate (req 0x802 (activate (sha3_256 loaderImage))) true) (req 0x802 (activate (sha3_256 loaderImage))) stagedLoader ∧
    imageCheck stagedLoader 1 3 loaderImage (sub_ (activate (sha3_256 loaderImage)) 8 32) true = none ∧
    imageCheck stagedLoader 1 3 loaderImage (sub_ (activate (sha3_256 loaderImage)) 8 32) false = some stAuthFail ∧ drainedNow stagedLoader 3 = true ∧
    (getPart stagedLoader 3).drained = true ∧ stagedLoader.vault.loaders = [] ∧ storeSize loaderImage ≤ stageRoom ∧ stageRoom < stageRoom + storeSize loaderImage := by
  have hd : sub_ (activate (sha3_256 loaderImage)) 8 32 = sha3_256 loaderImage := sub_digest _ _ rfl sha3_loaderImage_length
  obtain ⟨h1, h2, h3, _, h5⟩ := loaderImage_good
  refine ⟨begins_req _ _ _ _ rfl (by decide +kernel), ?_, ?_, by decide +kernel, by decide +kernel, by decide +kernel, by decide +kernel, by decide +kernel⟩
  · simp [imageCheck, hd, h1, h2, h3, h5]
    decide +kernel
  · simp [imageCheck, hd, h1, h2]

/-- Firmware: an activation that waits for its write, one that waits for its rejoin, each side of the limit, and a loader image. -/
theorem wit_ImageCommands_firmware :
    (let f := FwUpdate.mk 1 0 [3] true reply0
     let s := { tel with fwUpdate := some f, hub1 := { tel.hub1 with rejoinBy := some 400 } }
     s.fwUpdate = some f ∧ f.hub = 1 ∧ (getHub s 1).rejoinBy = some 400 ∧ s.tally ≤ 400 ∧ (400 : Word) < { s with tally := 401 }.tally ∧ { f with write := false }.write = false) ∧ tel.hub0.rejoinBy = none ∧ hubUp tel 0 = true ∧
    hubUp { tel with hub1 := { tel.hub1 with up := false } } 1 = false ∧ tel.fwUpdate = none ∧ tel.twin.takeover = false ∧ mayTakeOver tel = false ∧
    bankHolding tel [] = none ∧ { tel with loaderWrites := [LoaderWrite.mk 3 [4] reply0] }.loaderWrites.find? (fun w => w.part = 3) = some (LoaderWrite.mk 3 [4] reply0) := by
  and_intros <;> decide +kernel

def inDomain (dom n : Byte) : Bytes := [dom, 3, 0, 0, 1, 0, 0, 0, n, 0, 100, 0]
def outDomain (dom n : Byte) : Bytes := (inDomain dom n).take 9

theorem wit_DomainCommands :
    (∀ dom ∈ ([0, 1, 2, 3] : List Byte), beginsBut (cmdFence (req 0x901 (inDomain dom 3))) (req 0x901 (inDomain dom 3)) loaded3 sess1 = true ∧
      beginsBut (cmdUnfence (req 0x902 (outDomain dom 3))) (req 0x902 (outDomain dom 3)) loaded3 sess1 = true ∧
      beginsBut (cmdReset (req 0x903 (inDomain dom 3))) (req 0x903 (inDomain dom 3)) loaded3 sess1 = true) ∧
    domainCore loaded3 (req 0x901 (inDomain 0 3)) = some 1 ∧ domainCore tel (req 0x901 (inDomain 0 3)) = none ∧ hasPart loaded3 3 = true ∧ tel.parts = [] ∧
    partOfCore loaded3 1 = some 3 ∧ mayUnfence (getPart loaded3 3) = true ∧ mayUnfence (getPart (withPart tel fun p => { p with lacking := true }) 3) = false := by
  and_intros <;> decide +kernel

/-- What `beginsBut` leaves out is the tag, which `req` has. -/
theorem wit_DomainCommands_begins : Begins (cmdFence (req 0x901 (inDomain 3 0))) (req 0x901 (inDomain 3 0)) tel ∧ Begins (cmdUnfence (req 0x902 (outDomain 2 0))) (req 0x902 (outDomain 2 0)) loaded3 ∧
    Begins (cmdReset (req 0x903 (inDomain 1 3))) (req 0x903 (inDomain 1 3)) loaded3 := by
  refine ⟨?_, ?_, ?_⟩ <;> exact begins_req _ _ _ _ rfl (by decide +kernel)

theorem wit_DomainCommands_halves :
    (getHalf tel 1).inService = true ∧ (getHalf tel 1).leaving = false ∧ { tel.half1 with leaving := true }.leaving = true ∧
    Begins (cmdHalfSet (req 0x904 [1, 0])) (req 0x904 [1, 0]) tel ∧ Begins (cmdHalfSet (req 0x904 [1, 1])) (req 0x904 [1, 1]) tel ∧
    (let s := { tel with tally := 1000000000, half1 := { tel.half1 with inService := false, refOk := true, inSince := some 0 } }
     Begins (cmdHalfSet (req 0x904 [1, 1])) (req 0x904 [1, 1]) s ∧ (getHalf s 1).inService = false) ∧
    Begins (cmdReturn (req 0x905 [])) (req 0x905 []) tel ∧
    (let s := { tel with state := .safe, boot := { tel.boot with powerCycled := true } }
     Begins (cmdReturn (req 0x905 [])) (req 0x905 []) s ∧ s.state = .safe ∧ s.boot.powerCycled = true) := by
  refine ⟨by decide +kernel, by decide +kernel, rfl, ?_, ?_, ⟨?_, by decide +kernel⟩, ?_, ?_, by decide +kernel, by decide +kernel⟩ <;> exact begins_req _ _ _ _ rfl (by decide +kernel)

/-! #### Handshakes, streams, optics, ports, guests -/

/-- A handshake fragment that is the whole message. -/
def hs (cmd : BitVec 16) (payload : Bytes) : Msg := { m0 with cls := 5, cmd := cmd, nfrag := 1, payload := payload }
def configured : State := { tel with vault := { tel.vault with config := some aConfig } }
/-- KEEPALIVE 600 s at the form's two limits of length. -/
def helloOf (n : Nat) : Bytes := [88, 2, 0, 0, 0, 0, 0, 0] ++ List.replicate n 0

theorem wit_SessionsEstablished_hello :
    fragOk (hs 1 (helloOf 1216)) = true ∧ fragOk { hs 1 [] with nfrag := 5 } = false ∧ portAlive tel 0 = true ∧ tellerServes tel = true ∧ tel.state ≠ .safeNoId ∧
    joined [(0, helloOf 1216)] 1 = some (helloOf 1216) ∧ joined [(0, [])] 2 = none ∧ 1224 ≤ (helloOf 1216).length ∧ (helloOf 16376).length ≤ 16384 ∧
    chainAllowed configured ((helloOf 1216).drop 1224) = true ∧ chainAllowed configured ((helloOf 1226).drop 1224) = false ∧
    at_ (helloOf 1216) 0 2 = 600 ∧ at_ (helloOf 1216) 2 6 = 0 ∧ ¬ 1224 ≤ (helloOf 1215).length ∧ configured.vault.config ≠ none ∧ tel.vault.config = none ∧
    freeSession configured = some 0 ∧ freeSession { configured with sessions := (List.range 16).map fun n => (n, sess1) } = none := by
  and_intros <;> decide +kernel

/-- An accepted handshake of the test CONFIG's host on session number 4, and its FINISH with the right tag. -/
def accepted : Handshake := { Handshake.new tel m0 with accepted := true, sess := 4, subject := [9], ss := [5], h2 := [6] }
def finishing : State := { configured with handshakes := [(0, accepted)], tally := 2000000000 }
def finishKey : Bytes := kmac256 accepted.ss accepted.h2 (ascii "GP144-TELLER-3 HP") 32
def finish0 : Msg := { hs 3 (List.replicate 2420 0) with seq := 1 }
def signWith (k : Bytes) (m : Msg) : Msg := { m with mac := msgTag k m }
theorem signWith_tag (k : Bytes) (m : Msg) : msgTag k (signWith k m) = (signWith k m).mac := rfl
def finish1 : Msg := signWith finishKey finish0
theorem finish1_tag : msgTag finishKey finish1 = finish1.mac := by
  unfold finish1
  exact signWith_tag _ _

theorem wit_SessionsEstablished_finish :
    fragOk finish1 = true ∧ Tbl.find finishing.handshakes 0 = some accepted ∧ accepted.accepted = true ∧ msgTag finishKey finish1 = finish1.mac ∧ finish1.seq = 1 ∧
    joined (Tbl.put accepted.finFrags 0 finish1.payload) 1 = some finish1.payload ∧ finish1.payload.length = 2420 ∧ hostEntry finishing accepted.subject = some (2, 0) ∧
    hostEntry finishing [] = none ∧ finishing.sessions.length < 16 ∧ Tbl.has finishing.sessions accepted.sess = false ∧ Tbl.has finishing.sessions 1 = true ∧
    { finish1 with seq := 2 }.seq ≠ 1 ∧ accepted.first.toNat + 2000000000 ≤ now finishing ∧ now tel < accepted.first.toNat + 2000000000 :=
  ⟨by decide +kernel, by decide +kernel, by decide +kernel, finish1_tag, rfl, by decide +kernel, by decide +kernel, by decide +kernel, by decide +kernel, by decide +kernel,
    by decide +kernel, by decide +kernel, by decide, by decide +kernel, by decide +kernel⟩

theorem wit_SessionsEstablished_expiry :
    Tbl.find tel.sessions 1 = some sess1 ∧ sess1.lastMsg.toNat + sess1.keepalive * 1000000000 ≤ now { tel with tally := 600000000000 } ∧
    now { tel with tally := 599999999999 } < sess1.lastMsg.toNat + sess1.keepalive * 1000000000 := by decide +kernel

/-- Session 1 with datagrams 1 and 2 sent and event 1. -/
def streaming : Session := { sess1 with sseq := 3, retained := [(1, Retained.mk [] 0 1 0 true false), (2, Retained.mk [] 0 8 0 true false)], events := [(1, EventRec.mk 0x11 [] 0)], cum := 1 }
def stream1 : State := { tel with sessions := [(1, streaming)], tally := 2000000 }
def ackOf (cmd : BitVec 16) (cum : Nat) : Msg := sign { m0 with sess := 1, seq := 5, cls := 4, cmd := cmd, payload := leBytes 4 cum ++ List.replicate 36 0 }

theorem wit_StreamsAndEvents :
    Authentic (ackOf 0 2) stream1 ∧ (ackOf 0 2).payload.length = 40 ∧ at_ (ackOf 0 2).payload 4 4 = 0 ∧ (ackOf 0 2).rsv = 0 ∧
    sseqDist streaming.cum (at_ (ackOf 0 2).payload 0 4) < 2 ^ 31 ∧ 2 ^ 31 ≤ sseqDist streaming.cum (at_ (ackOf 0 (2 ^ 32 - 1)).payload 0 4 - 1) ∧
    (ackOf 1 0).cmd = 1 ∧ ackCovers 2 2 = true ∧ ackCovers 2 3 = false ∧
    (Tbl.find stream1.sessions 1 = some streaming ∧ Tbl.find streaming.retained 1 = some (Retained.mk [] 0 1 0 true false) ∧ streaming.byRdma = false ∧
      0 + streaming.rto * 100000 ≤ now stream1 ∧ now { stream1 with tally := 1999999 } < 0 + streaming.rto * 100000 ∧
      Tbl.find streaming.retained 2 = some (Retained.mk [] 0 8 0 true false) ∧ Tbl.find streaming.events 1 = some (EventRec.mk 0x11 [] 0)) ∧
    Tbl.wf streaming.retained = true ∧ ackCovers 0 (sseqDist 1 1) = true ∧ ackCovers 0 (sseqDist 1 2) = false :=
  ⟨⟨by decide +kernel, by decide +kernel, streaming, rfl, rfl, msgTag_sign _, by decide +kernel, by decide +kernel, by decide +kernel⟩, by decide +kernel, by decide +kernel,
    by decide +kernel, by decide +kernel, by decide +kernel, rfl, by decide +kernel, by decide +kernel, by decide +kernel, by decide +kernel, by decide +kernel, by decide +kernel⟩

theorem wit_StreamsAndEvents_tickets_and_boxes :
    (let t : Ticket := { sess := 1, sub := aRequest.sub, stage := 255, first := 0, last := 0, wait := 20, active := true, promoted := false, claims := [] }
     Tbl.find { tel with tickets := [(9, t)] }.tickets 9 = some t ∧ t.last.toNat + 10000000000 ≤ now { tel with tally := 10000000000 } ∧
     now { tel with tally := 9999999999 } < t.last.toNat + 10000000000 ∧ t.last.toNat + (t.wait + 10) * 1000000 ≤ now { tel with tally := 30000000 } ∧
     now { tel with tally := 29999999 } < t.last.toNat + (t.wait + 10) * 1000000) ∧
    (let h := HeldRequest.mk (.ping (req 1 [])) reply0 true
     let box (held : Nat) (run : List Nat) : State := { tel with sessions := [(1, { sess1 with boxes := [(0, { Mailbox.reset with held := [(held, h)], running := run })] })], tally := 100000000 }
     (∃ x ∈ (getBox (box 4 []) 1 0).held, x.1 ≠ (getBox (box 4 []) 1 0).next) ∧ (∀ x ∈ (getBox (box 0 []) 1 0).held, x.1 = (getBox (box 0 []) 1 0).next) ∧
     (getBox (box 4 []) 1 0).gapAt.toNat + 100000000 ≤ now (box 4 []) ∧
     now tel < (getBox (box 4 []) 1 0).gapAt.toNat + 100000000 ∧ Tbl.find (getBox (box 0 []) 1 0).held (getBox (box 0 []) 1 0).next = some h ∧
     (heldCmd h.cmd).isSome = true ∧ (getBox (box 0 [7]) 1 0).running ≠ [] ∧ (getBox (box 0 []) 1 0).running = []) := by
  and_intros <;> decide +kernel

def sealed (f : OptFrame) : OptFrame := { f with e2e := e2eOf f }
theorem sealed_good (f : OptFrame) : (sealed f).e2e = e2eOf (sealed f) := rfl
def fr (t : BitVec 4) (payload : Line) : OptFrame := sealed { f0 with otype := t, payload := payload }
def anXfer : OptXfer := { get := false, x := 0, y := 511, cnt := 3, dst := 1, dpart := 0, win := 0, gen := 0, first := 0, lines := 1, spmLine := 0, coreTag := 0, part := 3, left := [0], at_ := [(0, 0)], granted := true }
/-- Partition 3 with outbound window 2 to panel 1 and inbound window 17 on handle 7, read and write. -/
def windowed : State :=
  withPart tel fun p => { p with handles := [(7, bound7 1)], windows := [(2, { Window.reset with state := 1, outbound := true, dir := 3, hi := 1 }), (17, { Window.reset with state := 1, dir := 3, hi := BitVec.ofNat 128 (7 + 2 ^ 64) })] }
def crossing (x : OptXfer) : State := { windowed with optDies := [(0, { OptDie.reset with xfers := [(9, x)] })], tally := 200000 }
def answerTo (t : BitVec 4) (payload : Line) : OptFrame := { fr t payload with src := 1, dpart := 3 }

theorem wit_OpticalTransfers :
    oeServes windowed 0 = true ∧ partOfCore windowed (coreAt 0 511) = some 3 ∧ (getWindow windowed 3 (field (2 + 2 ^ 48 * 3) 0 8)).outbound = true ∧
    (getWindow windowed 3 2).target = false ∧ resendFull windowed 0 = false ∧ windowed.state = .serving ∧ panelFenced windowed = false ∧
    oeAt 127 476 = some 0 ∧ Tbl.find (getOe (crossing anXfer) 0).xfers 9 = some anXfer ∧ (0 : BitVec 10).toNat ∈ anXfer.left ∧
    Tbl.find (getOe (crossing anXfer) 0).transit 9 = none ∧
    Tbl.find (getOe { tel with optDies := [(0, { OptDie.reset with transit := [(4, f0)] })] } 0).transit 4 = some f0 ∧
    resendFull { windowed with assured := [(1, { Assured.reset with sent := List.replicate 104858 (SentFrame.mk f0 0 0 1) })] } 0 = true := by
  and_intros <;> decide +kernel

theorem wit_OpticalTransfers_windows :
    (let f := { fr 0 5 with spart := 1, dpart := 3, win := 17 }
     Delivered 0 f windowed ∧ (inboundRefusal (delivered f windowed) 3 17 (some f.gen) (.panel f.src.toNat f.spart.toNat) true 0 64).isSome = true ∧
     oeServes windowed 0 = true) ∧
    (let f := { fr 1 0 with dpart := 3, win := 17 }
     let s := withPart windowed fun p => { p with handles := [(7, bound7 1)], windows := [(17, { Window.reset with state := 1, dir := 3, hi := BitVec.ofNat 128 (7 + 2 ^ 112) })] }
     let u := delivered f s
     let cl := (windowLine u 3 17 f.line.toNat).1
     Delivered 1 f s ∧ inboundRefusal u 3 17 (some f.gen) (.panel f.src.toNat f.spart.toNat) false 0 64 = none ∧
     inboundRefusal u 3 17 (some f.gen) (.panel f.src.toNat f.spart.toNat) true 0 64 = none ∧ channelServes u cl = true ∧
     (getClu u cl).fenced = false ∧ (getClu u cl).inSlice = false ∧ Memory.wf s.mem = true ∧
     (getClu (modClu u cl fun x => { x with inSlice := true }) cl).inSlice = true ∧
     (demandRead u cl (windowLine u 3 17 0).2 a0).2.isSome = true) := by
  unfold Delivered; and_intros <;> decide +kernel

theorem wit_OpticalTransfers_answers :
    Delivered 3 (answerTo 3 0) (crossing anXfer) ∧ answered (delivered (answerTo 3 0) (crossing anXfer)) 0 false (answerTo 3 0) = some (0, 9, 0, anXfer) ∧
    (let x := { anXfer with get := true }
     answered (delivered (answerTo 3 0) (crossing x)) 0 false (answerTo 3 0) = none ∧
     answered (delivered (answerTo 3 0) (crossing x)) 0 true (answerTo 3 0) = some (0, 9, 0, x) ∧ Delivered 2 (answerTo 2 0) (crossing x) ∧
     answered (delivered (answerTo 2 0) (crossing x)) 0 true (answerTo 2 0) = some (0, 9, 0, x)) ∧ AnswersFor anXfer (answerTo 3 0) ∧
    ((0 : Line).setWidth 16 : Status) = stOk ∧ ((1 : Line).setWidth 16 : Status) ≠ stOk ∧ Tbl.find anXfer.at_ 0 = some 0 ∧
    (0 : Word).toNat + 200000 ≤ now (crossing anXfer) ∧ now windowed < (0 : Word).toNat + 200000 := by
  unfold Delivered AnswersFor; and_intros <;> decide +kernel

/-- A frame of a reserved type is counted, and one for this panel that is sound is not. -/
theorem wit_OpticalTransfers_frames :
    oeServes tel 0 = true ∧ 11 ≤ { f0 with otype := 11 }.otype.toNat ∧ ¬ 11 ≤ f0.otype.toNat ∧ panelConfigured tel f0.dst.toNat = true ∧
    frameCrc f0 + 1 ≠ frameCrc f0 ∧ torusDir 0 1 = some 0 ∧ panelConfigured { tel with sys := { tel.sys with panel := 1 } } 1 = true ∧
    16 ≤ ((Tbl.get [(0, { Link.reset with discards := List.replicate 16 0 })] 0 Link.reset).discards.filter fun d => decide (now tel < d.toNat + 1000000)).length := by
  and_intros <;> decide +kernel

def assuredPanel (a : Assured) : State := { tel with sys := { tel.sys with assured := true }, assured := [(0, a)], tally := 20000 }
def sentOnce (n : Nat) : SentFrame := SentFrame.mk (fr 0 0) 0 0 n

theorem wit_AssuredFramesAndTime :
    (fr 0 0).dst.toNat = tel.sys.panel ∧ { fr 0 0 with e2e := (fr 0 0).e2e + 1 }.e2e ≠ e2eOf (fr 0 0) ∧ (Assured.take Assured.reset 0).received 0 = true ∧
    (let a := { Assured.reset with since := 64 }
     Tbl.find (assuredPanel a).assured 0 = some a ∧ (assuredPanel a).state = .serving ∧ (assuredPanel a).sys.assured = true ∧ 64 ≤ a.since ∧
     oeServes (assuredPanel a) 3 = true ∧ dirOf 3 ≠ 6 ∧ dirOf 0 = 6) ∧
    (Assured.reset.since < 64 ∧ now tel < Assured.reset.lastAck.toNat + 1000 ∧ Assured.reset.lastAck.toNat + 1000 ≤ now (assuredPanel Assured.reset)) ∧
    ((fr 4 1).otype = 4 ∧ (fr 4 1).e2e = e2eOf (fr 4 1) ∧ acked (1 : Line) 0 = true ∧ missed (1 : Line) 1 = false) ∧
    (let a := { Assured.reset with sent := [sentOnce 7] }
     a.sent.find? (fun f => f.frame.seq.toNat = 0) = some (sentOnce 7) ∧ (sentOnce 7).sentAt.toNat + 20000 ≤ now (assuredPanel a) ∧ now tel < (sentOnce 7).sentAt.toNat + 20000 ∧
     (sentOnce 7).sends < 8 ∧ 8 ≤ (sentOnce 8).sends) ∧
    (let u := EscSent.mk 5 1 9 (fr 9 0) 0 0 8
     { tel.twin with unacked := [u] }.unacked.find? (fun u => u.seq = 5) = some u ∧ u.sentAt.toNat + 20000 ≤ now (assuredPanel Assured.reset) ∧ 8 ≤ u.sends ∧
     { u with sends := 7 }.sends < 8) := by
  and_intros <;> decide +kernel

theorem wit_AssuredFramesAndTime_time :
    (let f := { fr 8 (5 + 2 ^ 64 * 900 + 2 ^ 128) with src := 1 }
     f.otype = 8 ∧ dirOf 3 = 0 ∧ f.src.toNat = neighbour 0 0 ∧ f.payload.getLsbD 128 = true ∧
     torusDir { tel with sys := { tel.sys with troot := 1 } }.sys.panel 1 = some 0 ∧ torusDir tel.sys.panel tel.sys.troot ≠ some 0 ∧
     { tel.master with firstMap := true }.firstMap = true) ∧
    (3 < 48 ∧ 15 < 16 ∧ 15 ∉ (Tbl.get tel.optLinks 3 Link.reset).failed ∧ tel.state = .serving ∧ Tbl.find tel.timeSent (16 * 3 + 15) = none ∧
     Tbl.find { tel with timeSent := [(63, 0)] }.timeSent (16 * 3 + 15) = some 0 ∧ now tel < (0 : Word).toNat + 1024000) := by
  and_intros <;> decide +kernel

/-- Job 3 of panels 0 and 1 with partition 3, channel 0 joined over the panels; `lead` leads it. -/
def jobState (x : Job → Job) : State :=
  { withPart tel (fun p => { p with map := some { bareMap false with clear := [{ chEntry with join := true }] } }) with jobs := [(3, x { Job.reset with formed := true, parts := [3], members := [0, 1], xtmo := 5 })], tally := 10000000 }
def upFrame (t : BitVec 4) : OptFrame := { fr t 3 with src := 1 }

theorem wit_PanelsClearAndLose :
    (let s := jobState id
     Delivered 5 (upFrame 5) s ∧ clearFrameOf (delivered (upFrame 5) s) (upFrame 5) = some (3, 3, 0) ∧ leads s 3 = true ∧
     (getJob s 3).memberAt (upFrame 5).src.toNat = some 1 ∧ clearFrameOf tel (upFrame 5) = none) ∧
    (let s := jobState fun x => { x with lead := 1, upAt := [(0, 0)] }
     Delivered 6 (upFrame 6) s ∧ clearFrameOf (delivered (upFrame 6) s) (upFrame 6) = some (3, 3, 0) ∧
     (upFrame 6).src.toNat = (getJob s 3).panelOf (getJob s 3).lead ∧ Tbl.find (getJob s 3).upAt 0 ≠ none ∧
     leads s 3 = false ∧ ((getJob s 3).upAt.any fun u => decide (u.2.toNat + 2 * (getJob s 3).xtmo * 1000000 ≤ now s)) = true ∧
     ((getJob s 3).upAt.all fun u => !decide (u.2.toNat + 2 * (getJob s 3).xtmo * 1000000 ≤ now { s with tally := 9999999 })) = true) ∧
    (let s := jobState fun x => { x with upAt := [(0, 0)] }
     (getJob s 3).upAt.find? (fun u => decide (u.2.toNat + 1 * (getJob s 3).xtmo * 1000000 ≤ now s)) = some (0, 0)) := by
  unfold Delivered; and_intros <;> decide +kernel

theorem wit_PanelsClearAndLose_members :
    (let f := { fr 7 (3 + 2 ^ 16 + 2 ^ 48 + 2 ^ 64) with src := 1 }
     Delivered 7 f (jobState id) ∧ (framedMembers f).filter ((getJob (jobState id) 3).members.contains ·) = [1] ∧ field f.payload.toNat 48 16 ≠ 0 ∧
     (BitVec.ofNat 32 (field f.payload.toNat 16 32) : BitVec 32) = (getJob (jobState id) 3).epoch + 1 ∧
     (getJob (jobState id) 3).formed = true ∧ (getJob tel 3).formed = false) ∧
    (let f := { fr 7 (3 + 2 ^ 64 + 2 ^ 80) with src := 1 }
     let s := jobState fun x => { x with lost := [1], lostAt := some 0, rejoin := 5 }
     Delivered 7 f s ∧ field f.payload.toNat 48 16 = 0 ∧ field f.payload.toNat 80 10 = f.src.toNat ∧ leads s 3 = true ∧
     field f.payload.toNat 64 10 ∈ (getJob s 3).lost ∧ (getJob s 3).shrunk = false ∧ field f.payload.toNat 80 10 = field f.payload.toNat 64 10 ∧
     (getJob s 3).lostAt = some 0 ∧ (0 : Word).toNat + (getJob s 3).rejoin * 1000000000 ≤ now { s with tally := 5000000000 } ∧
     now s < (0 : Word).toNat + (getJob s 3).rejoin * 1000000000) ∧
    (let f := { fr 7 (3 + 2 ^ 16 + 2 ^ 64 * 0 + 2 ^ 80 * 0) with src := 1 }
     let s := jobState fun x => { x with lead := 1 }
     Delivered 7 f s ∧ field f.payload.toNat 80 10 = s.sys.panel ∧ (getJob s 3).memberAt f.src.toNat = some 1 ∧
     (getJob s 3).panelOf (field f.payload.toNat 64 10) = field f.payload.toNat 80 10) ∧
    (let f := { fr 7 (3 + 2 ^ 16 + 2 ^ 64 * 2 + 2 ^ 80 * 2) with src := 1 }
     let s := jobState fun x => { x with lead := 1, lost := [2] }
     Delivered 7 f s ∧ field f.payload.toNat 80 10 ≠ s.sys.panel ∧ field f.payload.toNat 80 10 ≠ f.src.toNat ∧
     f.src.toNat = (getJob s 3).panelOf (getJob s 3).lead ∧ field f.payload.toNat 64 10 ∈ (getJob s 3).lost) := by
  unfold Delivered; and_intros <;> decide +kernel

def escrowFrame : OptFrame := { fr 9 (1 + 2 ^ 16 * 2) with src := 230 }
def shadowSealed (f : OptFrame) : OptFrame := sealed { f with src := 230 }

theorem wit_TwinLink :
    TwinDelivered 9 (shadowSealed escrowFrame) shadow ∧ shadow.twin.role = .shadow ∧ shadow.twin.lines = [] ∧
    shadow.twin.nextRec = (shadowSealed escrowFrame).seq.toNat ∧ field (shadowSealed escrowFrame).payload.toNat 16 16 ≤ 48 ∧
    TwinDelivered 10 (shadowSealed { f0 with otype := 10 }) shadow ∧
    (shadowSealed { f0 with otype := 10 }).payload.getLsbD 0 = false ∧ (shadowSealed { f0 with otype := 10, payload := 1 }).payload.getLsbD 0 = true ∧
    (let f := shadowSealed { f0 with otype := 10, payload := 1 }
     let u := twinDelivered f shadow
     TwinDelivered 10 f shadow ∧ shadow.twin.takeover = false ∧
     mayTakeOver (noteTwin { u with twin := { u.twin with lastBeat := shadow.tally, beaten := true } } f none) = false) ∧
    (Tbl.get shadow.assured (twinKey shadow) Assured.reset).received 1 = false ∧
    { shadowSealed escrowFrame with e2e := (shadowSealed escrowFrame).e2e + 1 }.e2e ≠ e2eOf (shadowSealed escrowFrame) ∧
    (let f := shadowSealed { f0 with otype := 4, payload := 1 }
     f.otype = 4 ∧ f.dst.toNat = shadow.sys.panel ∧ f.e2e = e2eOf f ∧ dirOf 0 = 6 ∧ oeServes shadow 0 = true ∧ twinOn shadow = true ∧ shadow.waits = [] ∧
     shadow.twin.held = [] ∧ shadow.twin.unacked = [] ∧ (Tbl.get shadow.assured (twinKey shadow) Assured.reset).unreachable = false) ∧
    (shadow.twin.lastHeard.toNat + 20000000 ≤ now shadow ∧ now { shadow with tally := 19999999 } < shadow.twin.lastHeard.toNat + 20000000 ∧ shadow.twin.pending = none ∧
     shadow.twin.attached = true ∧ shadow.twin.silent = false ∧ mayTakeOver shadow = true ∧ shadow.state = .serving ∧ mayTakeOver tel = false ∧
     { tel.twin with role := TwinRole.primary }.role = .primary) := by
  unfold TwinDelivered; and_intros <;> decide +kernel

/-! #### Ports, guests, power, clocks, bring-up, sideband -/

def aQp : QueuePair := { port := 0, hostQpn := 0, hostGid := 0, expPsn := 5, sendPsn := 0, ackPsn := 0, error := false, rate := 1024, cutAt := 0, cnpAt := none, out := [], behind := none }
/-- Session 1 with a queue pair; its window 17 of partition 3 serves it. -/
def rdma1 : State :=
  { withPart tel (fun p => { p with handles := [(7, bound7 1)], windows := [(17, { Window.reset with state := 1, dir := 3, hi := BitVec.ofNat 128 (7 + 2 ^ 65) })] }) with sessions := [(1, { sess1 with qp := some aQp })] }
def rdmaOf (psn : BitVec 24) : RdmaReq :=
  { port := 0, sess := 1, psn := psn, va := BitVec.ofNat 64 (17 * 2 ^ 40), rkey := BitVec.ofNat 32 (3 * 2 ^ 24 + 17 * 2 ^ 16), len := 64, lines := [5], ce := false }

theorem wit_EthernetPorts_rdma :
    portAlive rdma1 0 = true ∧ (rdmaOf 5).ce = false ∧ rdmaGate rdma1 (rdmaOf 5) = .run ∧ rdmaKnown rdma1 (rdmaOf 5) false = true ∧ rdmaKnown rdma1 (rdmaOf 5) true = true ∧
    rdmaKnown rdma1 { rdmaOf 5 with imm := true } false = false ∧ rdmaWaits rdma1 1 = false ∧ inSlice rdma1 0 = false ∧ { aQp with behind := some [] }.behind = some [] ∧ rdmaGate rdma1 (rdmaOf 4) = .repeat_ ∧ rdmaGate rdma1 (rdmaOf 6) = .outOfSequence ∧
    rdmaCheck rdma1 (rdmaOf 5) true = none ∧ rdmaCheck rdma1 (rdmaOf 5) false = none ∧ (rdmaPut rdma1 (rdmaOf 5) 0 [5]).2 = stOk ∧
    (rdmaGet rdma1 (rdmaOf 5) [a0] 1).2.1 = stOk ∧ (rdmaCheck rdma1 { rdmaOf 5 with va := 0 } true).isSome = true ∧ (rdmaCheck rdma1 { rdmaOf 5 with va := 0 } false).isSome = true ∧
    (rdmaPut { rdma1 with dies := [(0, { Die.reset with dark := true })] } (rdmaOf 5) 0 [5]).2 = stFenced ∧ Tbl.find rdma1.sessions 2 = none ∧
    Tbl.find rdma1.sessions 1 = some { sess1 with qp := some aQp } ∧ aQp.error = false ∧ rdma1.state = .serving := by
  and_intros <;> decide +kernel

theorem wit_EthernetPorts_frames :
    (let s := { tel with master := { tel.master with ptpRanks := [(0, 9), (1, 9)], ptpLast := some (7, 7) } }
     ptpBest s.master = some 0 ∧ ptpBest s.master ≠ some 1 ∧ s.sys.ptpDomain = 0 ∧ s.master.ptpLast = some (7, 7)) ∧
    (let s := { tel with sys := { tel.sys with ip4 := [(0, 9)], ip6 := [(0, 9)] } }
     (9 : BitVec 32) ≠ 0 ∧ portIp4 s 0 = 9 ∧ portIp6 s 0 = 9 ∧ 48 + 8952 ≤ s.sys.mtu ∧ (8 : BitVec 32) ≠ portIp4 s 0 ∧ (9 : BitVec 128) ≠ mapped4 (portIp4 s 0)) ∧
    portAlive tel 1 = true ∧ hubUp tel 0 = true ∧ (getHub { tel with hub0 := { tel.hub0 with portUp := false } } 0).portUp = false := by
  and_intros <;> decide +kernel

def rdMsg : PlpMsg := { g0 with mtype := 1, tag := 5, arg := 0 }
/-- Guest site 0 Trusted, with a rule for line 0 of window 17 by session 1. -/
def guestServed : State := { rdma1 with guests := [(0, { readyGuest with mode := 2, rules := [(31, aRule ||| 2 ^ 12)] })], vault := { tel.vault with config := some aConfig } }

theorem wit_GuestSites_requests :
    (getGuest guestServed 0).link = true ∧ (getGuest guestServed 0).powerCut = false ∧ plpEmpty rdMsg = false ∧ plpViolation (getGuest guestServed 0) rdMsg = false ∧
    (getGuest guestServed 0).ready = true ∧ rdMsg.mtype = 1 ∧ plpViolation (getGuest guestServed 0) { rdMsg with mtype := 0 } = true ∧
    plpViolation (getGuest guestServed 0) { rdMsg with mtype := 2, data := true } = false ∧ plpViolation (getGuest guestServed 0) { rdMsg with mtype := 5, arg := 0x0000000200000001 } = false ∧
    (match (gateHandle guestServed 0 false rdMsg a0).2 with | .done st _ => decide (st = stOk) | .silent => false) = true ∧
    (match (gateHandle guestServed 0 true { rdMsg with mtype := 2, data := true, line := 9 } a0).2 with | .done st _ => decide (st = stOk) | .silent => false) = true ∧
    (match (gateHandle { guestServed with clusters := [((windowLine guestServed 3 17 0).1, { Cluster.reset with channelOut := true })] } 0 false rdMsg a0).2 with
      | .done _ _ => false | .silent => true) = true ∧
    (getGuest (withGuest { readyGuest with fenced := true }) 0).fenced = true ∧ (getGuest (withGuest readyGuest) 0).mode = 0 ∧ tel.denyLimit > 0 + 1 := by
  and_intros <;> decide +kernel

theorem leBytes_leNat (l : Bytes) : leBytes l.length (leNat l) = l := by
  induction l with
  | nil => rfl
  | cons b t ih =>
    have h1 : (b.toNat + 256 * leNat t) / 256 = leNat t := by have := b.isLt; omega
    simp only [List.length_cons, leNat, leBytes, h1, ih]
    congr 1
    apply BitVec.eq_of_toNat_eq
    rw [BitVec.toNat_ofNat]
    have := b.isLt
    omega

theorem leNat_lt (l : Bytes) : leNat l < 256 ^ l.length := by
  induction l with
  | nil => simp [leNat]
  | cons b t ih => have := b.isLt; simp only [leNat, List.length_cons, Nat.pow_succ]; omega

def attKey : Bytes := [2]
def attMeas : Bytes := List.replicate 32 7
/-- The tag that a guest of measurement `attMeas` at site 0 sends for nonce 5. -/
def attTag : Bytes := kmac256 attKey (leBytes 8 5 ++ attMeas ++ leBytes 1 0) (ascii "GP144-GUEST") 32
def attr0 : PlpMsg := { g0 with mtype := 7, data := true, arg := 5, line := BitVec.ofNat 512 (leNat (attMeas ++ attTag)) }
def attesting : State :=
  { tel with guests := [(0, { readyGuest with attq := some (5, 0) })], vault := { tel.vault with config := some { aConfig with guests := [(attMeas, attKey)] } } }

theorem attTag_length : attTag.length = 32 := by decide +kernel

set_option exponentiation.threshold 600 in
theorem attr0_line : leBytes 64 attr0.line.toNat = attMeas ++ attTag := by
  have hl : (attMeas ++ attTag).length = 64 := by rw [List.length_append, attTag_length]; rfl
  have hb := leNat_lt (attMeas ++ attTag)
  rw [hl] at hb
  have hn : attr0.line.toNat = leNat (attMeas ++ attTag) := by
    show (BitVec.ofNat 512 (leNat (attMeas ++ attTag))).toNat = _
    rw [BitVec.toNat_ofNat, Nat.mod_eq_of_lt (Nat.lt_of_lt_of_eq hb (by rw [show (256 : Nat) = 2 ^ 8 from rfl, ← Nat.pow_mul]))]
  have h := leBytes_leNat (attMeas ++ attTag)
  rw [hl] at h
  rw [hn, h]

theorem wit_GuestSites_attestation :
    let b := leBytes 64 attr0.line.toNat
    (getGuest attesting 0).link = true ∧ (getGuest attesting 0).powerCut = false ∧ attr0.mtype = 7 ∧ plpEmpty attr0 = false ∧ plpViolation (getGuest attesting 0) attr0 = false ∧
    (getGuest attesting 0).ready = true ∧ (getGuest attesting 0).attq = some (5, 0) ∧ allowedKey attesting (b.take 32) = some attKey ∧ attr0.arg = 5 ∧
    now attesting < (0 : Word).toNat + 10000000 ∧ b.drop 32 = kmac256 attKey (leBytes 8 5 ++ b.take 32 ++ leBytes 1 0) (ascii "GP144-GUEST") 32 := by
  have ht : (attMeas ++ attTag).take 32 = attMeas := List.take_left' rfl
  have hd : (attMeas ++ attTag).drop 32 = attTag := List.drop_left' rfl
  simp only [attr0_line, ht, hd]
  exact ⟨by decide +kernel, by decide +kernel, rfl, rfl, by decide +kernel, by decide +kernel, by decide +kernel, by decide +kernel, rfl, by decide +kernel, rfl⟩

theorem wit_GuestSites_timers_and_links :
    (let q := GuestReq.mk 5 false 0 0 none
     let s := withGuest { readyGuest with reqs := [q], attq := some (5, 0) }
     (getGuest s 0).reqs.find? (fun r => r.tag.toNat = 5) = some q ∧ q.at_.toNat + 50000 ≤ now { s with tally := 50000 } ∧ now { s with tally := 49999 } < q.at_.toNat + 50000 ∧
     (getGuest s 0).attq = some (5, 0) ∧ (0 : Word).toNat + 10000000 ≤ now { s with tally := 10000000 } ∧ now s < (0 : Word).toNat + 10000000) ∧
    (let g := { readyGuest with mode := 2 }
     g.ready = true ∧ g.mode = 2 ∧ g.fenced = false ∧ g.lastAttq.toNat + 60000000000 ≤ now { tel with tally := 60000000000 } ∧ now tel < g.lastAttq.toNat + 60000000000) ∧
    Guest.reset.powerCut = false ∧ Guest.reset.retrains < 3 ∧ (4 : BitVec 3) ≠ 0 ∧ (4 : BitVec 3).toNat ≤ 4 := by
  and_intros <;> decide +kernel

def staged (st : BitVec 3) (aux : Bool) (t : Word) : State := { tel with stages := [(0, { Stage.reset with state := st, auxOn := aux }), (1, { Stage.reset with auxOn := true })], tally := t }
def samp (v i : BitVec 16) : InputSample := InputSample.mk v i i

theorem wit_StagesAndInputs :
    ((getStage (staged 1 true 0) 0).state = 1 ∧ stageNow (staged 1 true 0) 0 ≠ 0 ∧ stageNow (staged 0 true 0) 0 = 0 ∧ partOfSite tel 0 = none ∧ partOfSite tel 1 = none ∧ [2 * 0, 2 * 0 + 1].filterMap (partOfSite loaded3) = 3 :: [] ∧
      [2 * 0, 2 * 0 + 1].filterMap (partOfSite { loaded3 with parts := loaded3.parts ++ [(4, { Partition.reset with sites := [1] })] }) = 3 :: [4] ∧
      jobOfPart loaded3 3 ≠ jobOfPart loaded3 4) ∧
    ((getStage (staged 1 true 0) 0).auxOn = true ∧ ((stagesOf 0).filter fun j => !(getStage (modStage (staged 1 true 0) 0 fun x => { x with auxOn := false, trips := satAdd x.trips 1 }) j).auxOn).length ≠ 4 ∧
      (let s := { tel with stages := (List.range 37).map fun j => (j, { Stage.reset with auxOn := true }) }
       ((stagesOf 0).filter fun j => !(getStage (modStage s 0 fun x => { x with auxOn := false, trips := satAdd x.trips 1 }) j).auxOn).length = 4) ∧
      (let s := { tel with boot := { tel.boot with phase := 13 }, stages := [(0, { Stage.reset with auxOn := true })], half1 := { tel.half1 with inService := false } }
       ((stagesOf 0).filter fun j => !(getStage (modStage s 0 fun x => { x with auxOn := false, trips := satAdd x.trips 1 }) j).auxOn).length = 40 ∧
       (getHalf s 1).inService = false ∧ spineFed s 0 = true ∧ spineFed s 1 = false ∧ spineFed { s with stages := [] } 0 = false) ∧
      tel.half0.power = true ∧ 8400 < (samp 8401 0).v.toNat ∧ ¬ 8400 < (samp 8400 0).v.toNat) ∧
    (6400 ≤ (samp 6400 2250).v.toNat ∧ (samp 8000 2250).v.toNat ≤ 8000 ∧ (samp 6400 2250).i.toNat ≤ 2250 ∧ ¬ 6400 ≤ (samp 6399 0).v.toNat ∧
      (let x := { tel.half0 with outSince := some (0 : Word), over10Since := some (0 : Word), overSince := some (0 : Word) }
       x.outSince = some 0 ∧ (0 : Word).toNat + 1000000 ≤ now { tel with tally := 1000000 } ∧ x.over10Since = some 0 ∧ (0 : Word).toNat + 10000000 ≤ now { tel with tally := 10000000 } ∧
       x.overSince = some 0) ∧ tel.half0.inService = true ∧ tel.half1.inService = true) := by
  and_intros <;> decide +kernel

/-- With no core and no cluster written there is no task to end. -/
theorem stopCores_empty (s : State) (l : List Nat) (hk : s.cores = []) (hc : s.clusters = []) : stopCores s l = s := by
  have h : ∀ l : List Nat, l.foldl (fun s cl => if Tbl.has s.clusters cl then forgetAcks s cl else s) s = s := by
    intro l; induction l with
    | nil => rfl
    | cons a r ih => rw [List.foldl_cons, hc]; exact ih
  simp [stopCores, hk, h]

def outOfRange : State := powerEvent { tel with half0 := tel.half0.sample 0 (samp 0 0), half1 := tel.half1.sample 0 (samp 6400 0) } 3 0 0
theorem wit_StagesAndInputs_out_of_range :
    outOfRange.half0.inService = true ∧ (takeHalfOut outOfRange 0).half1 = tel.half1.sample 0 (samp 6400 0) := by
  refine ⟨by decide +kernel, ?_⟩
  have hi : (getHalf outOfRange 0).inService = true := by decide +kernel
  unfold takeHalfOut
  rw [hi]
  simp only [Bool.not_true, Bool.false_eq_true, if_false]
  unfold emptyHalf
  dsimp only
  rw [stopCores_empty _ _ (by decide +kernel) (by decide +kernel)]
  decide +kernel

theorem wit_StagesAndInputs_ramps :
    (let s := { staged 1 true 2000000 with half0 := { tel.half0 with ramp := some (0, true) } }
     (getHalf s 0).ramp = some (0, true) ∧ (getStage s 0).state = 1 ∧ (0 : Word).toNat + 25000 * 0 ≤ now s ∧ (0 : Word).toNat + 2000000 ≤ now s ∧ s.pins.resetLow = false ∧
     now { s with tally := 1999999 } < (0 : Word).toNat + 2000000 ∧ (getHalf s 1).ramp = none ∧ (getStage s 40).auxOn = false ∧
     (getStage { s with stages := [(40, { Stage.reset with auxOn := true })] } 40).auxOn = true) ∧
    ((getHalf tel 0).heartbeat.toNat + 500000000 ≤ now { staged 1 true 500000000 with half0 := tel.half0 } ∧ (getHalf (staged 1 true 500000000) 0).ramp = none ∧
     (getStage (staged 1 true 500000000) 0).auxOn = true ∧ now tel < (getHalf tel 0).heartbeat.toNat + 500000000 ∧
     now tel < (getHalf tel 0).heartbeat.toNat + 100000000 ∧ (getHalf tel 0).heartbeat.toNat + 100000000 ≤ now { tel with tally := 100000000 }) ∧
    hubUp tel 0 = true ∧ hubUp State.reset 0 = false ∧ hubUp State.reset 1 = false ∧ 110 < (fieldTemp (linear11 111 1)).toInt ∧ (Stage.reset).temp.toInt ≤ 110 ∧ ¬ 110 < (fieldTemp (linear11 110 1)).toInt ∧
    (let x := { Stage.reset with readAt := some (0 : Word), slowAt := some (0 : Word) }
     x.readAt = some 0 ∧ x.slowAt = some 0 ∧ (0 : Word).toNat + 64000000 ≤ now { tel with tally := 64000000 } ∧ ¬ (0 : Word).toNat + 8000000 ≤ now tel ∧
     ¬ (0 : Word).toNat + 64000000 ≤ now { tel with tally := 8000000 }) ∧
    ((BitVec.ofNat 5 ((0x0805 : BitVec 16).toNat / 2 ^ 11)).toInt = 1 ∧ (BitVec.ofNat 5 ((0xF805 : BitVec 16).toNat / 2 ^ 11)).toInt < 0 ∧ (0x1F : BitVec 5).toInt < 0) := by
  and_intros <;> decide +kernel

def powered (u : Cluster) (d : Die) (t : Word) : State := { tel with clusters := [(0, u)], dies := [(0, d)], tally := t }

theorem wit_ClustersPowered :
    (phaseFailed tel 0 0 = false ∧ (getClu tel 0).pwrState ≠ 3 ∧ 3 ≤ (bitsOf 4 (phasesOk (vaultRedundancy tel 4 0 0 0 0 0) 0).toNat).length ∧ partOfSite tel 0 = none ∧
      (let s := vaultRedundancy tel 4 0 0 0 1 0
       phaseFailed s 0 1 = true ∧ phaseFailed s 0 0 = false ∧ (bitsOf 4 (phasesOk (vaultRedundancy s 4 0 0 0 0 0) 0).toNat).length < 3)) ∧
    (let u := { Cluster.reset with pwrState := 2, vset := 100, stretching := true, stretchNow := 256 }
     u.pwrState = 2 ∧ (89 : BitVec 8).toNat + 10 < u.vset.toNat ∧ u.vset.toNat ≤ (90 : BitVec 8).toNat + 10 ∧ u.vminSeen = false ∧ { u with vminSeen := true }.vminSeen = true ∧ (89 : BitVec 8).toNat ≤ (89 : BitVec 8).toNat ∧ u.stretchSent = 0 ∧
     u.stretching = true ∧ u.stretchNow ≤ (400 + 50 * tel.clock.step.toNat) * 10240 / 16000 ∧
     (400 + 50 * tel.clock.step.toNat) * 10240 / 16000 < u.stretchNow + 1 ∧ ¬ (400 + 50 * tel.clock.step.toNat) * 10240 / 16000 < u.stretchNow + 0) ∧
    (wakeable tel 0 = true ∧ (getClu tel 0).pwrState = 0 ∧ (getDie tel 0).wakes = [] ∧ dieWaking tel 0 = false ∧ tel.clock.hold = false ∧ tel.clock.stopped = false ∧
      dieWaking (powered { Cluster.reset with onStart := some 0 } Die.reset 0) 0 = true ∧ wakeable (powered Cluster.reset { Die.reset with dark := true } 0) 0 = false) ∧
    (let w := WakeReq.mk 0 0 true
     let s := powered Cluster.reset { Die.reset with wakes := [w] } 20000
     (getDie s 0).wakes = w :: [] ∧ wakeable s w.cl = true ∧ wakeable (powered { Cluster.reset with pwrState := 3 } { Die.reset with wakes := [w] } 20000) w.cl = false ∧ w.t0.toNat + 20000 ≤ now s ∧ now { s with tally := 19999 } < w.t0.toNat + 20000 ∧ w.waited = true ∧
     s.clock.hold = false ∧ s.clock.stopped = false ∧ dieWaking s 0 = false ∧ ((clustersOf [0]).filter fun c => decide ((getClu s c).pwrState = 2)) = [] ∧
     (let t := powered { Cluster.reset with pwrState := 2, stretchNow := 4000 } { Die.reset with wakes := [w] } 20000
      ((clustersOf [0]).filter fun c => decide ((getClu t c).pwrState = 2)) = [0] ∧ stretchBound t < (getClu t 0).stretchNow + wakeCycles t) ∧
     (let t := powered { Cluster.reset with pwrState := 2 } { Die.reset with wakes := [w] } 20000
      (getClu t 0).stretchNow + wakeCycles t ≤ stretchBound t)) ∧
    (let s := powered { Cluster.reset with onStart := some 0 } Die.reset 2000
     (getClu s 0).onStart = some 0 ∧ (0 : Word).toNat + 2000 ≤ now s ∧ now { s with tally := 1999 } < (0 : Word).toNat + 2000 ∧ (getDie s 0).wakes = []) ∧
    (partOfSite loaded3 0 = some 3 ∧ (getPart loaded3 3).ledger.pmode ≠ 3 ∧ panelFenced loaded3 = false ∧
      (getPart (withPart tel fun p => { p with ledger := { p.ledger with waking := true, pmode := 3 } }) 3).ledger.waking = true) := by
  and_intros <;> decide +kernel

theorem wit_ClocksAndLedger_clocks :
    ((getHalf tel 0).refOk = true ∧ (getHalf { tel with half0 := { tel.half0 with refOk := false } } 0).refOk = false) ∧
    ({ tel.clock with pending := true }.pending = true ∧ Nat.min (requestedStep tel) (lowestStep tel) ≠ tel.clock.step.toNat ∧ tel.clock.pending = false ∧
      ¬ (tel.clock.step.toNat < 24 ∧ now { tel with tally := 1024000 } < tel.clock.since.toNat + 1024000)) ∧
    (let s := { tel with clock := { tel.clock with pending := true, tChange := 20480 }, tally := 10480 }
     s.clock.tChange.toNat ≤ now s + 10000 ∧ now { s with tally := 10479 } + 10000 < s.clock.tChange.toNat ∧ now s < s.clock.tChange.toNat ∧
     s.clock.tChange.toNat ≤ now { s with tally := 20480 }) ∧
    (let s := { tel with clock := { tel.clock with stopped := true, tChange := 20480, joining := some 1 }, tally := 24480, epoch := { tel.epoch with kept := some (10480, 5) } }
     s.clock.stopped = true ∧ s.clock.tChange.toNat + 4000 ≤ now s ∧ now { s with tally := 24479 } < s.clock.tChange.toNat + 4000 ∧ s.epoch.kept = some (10480, 5) ∧ s.clock.tChange < 10480 + BitVec.ofNat 64 (lifeNs (5 : BitVec 5).toNat + 1000) ∧
     (getDie { s with dies := [(0, { Die.reset with wakes := [WakeReq.mk 0 0 false] })] } 0).wakes = WakeReq.mk 0 0 false :: [] ∧
     s.clock.joining ≠ none ∧ { s.boot with half := some (1, reply0) }.half ≠ none ∧ tel.clock.joining = none) ∧
    now { tel with tally := 10240 } / 10240 ≠ tel.clock.interval ∧ now { tel with tally := 10239 } / 10240 = tel.clock.interval ∧
    (let u := { Cluster.reset with stretching := true }
     let n := (10240 - u.stretchFrom.toNat) * stepMHz tel.clock.step.toNat / 2000
     let bound := stepMHz tel.clock.step.toNat * 10240 / 16000
     u.stretchNow ≤ bound ∧ bound < u.stretchNow + n ∧ ¬ bound < { u with stretchNow := 0 }.stretchNow + 0) ∧
    hubUp tel 0 = true ∧ (tel.clock.evalAt.toNat + 1024000 ≤ now { tel with tally := 1024000 } ∧ ¬ (tel.clock.evalAt.toNat + 1024000 ≤ now { tel with tally := 1023999 }) ∧ ¬ (lowestStep { tel with clock := { tel.clock with step := 24 } } < 24)) ∧ Tbl.has (powered Cluster.reset Die.reset 0).clusters 0 = true ∧
    Tbl.has (powered Cluster.reset Die.reset 0).dies 0 = true ∧ (getDie (powered Cluster.reset Die.reset 0) 0).island.osc = false := by
  and_intros <;> decide +kernel

def mon (temp : BitVec 8) : MonitorRead := MonitorRead.mk 10239 100 20 temp 0 0 0

theorem wit_ClocksAndLedger_margins_and_energy :
    (let s := { tel with clusters := [(10239, { Cluster.reset with pwrState := 2 })] }
     (getClu s (mon 0).cl).pwrState = 2 ∧ (mon 104).temp.toInt < 105 ∧ 105 ≤ (mon 105).temp.toInt ∧ (mon 114).temp.toInt < 115 ∧ 115 ≤ (mon 115).temp.toInt ∧
     partOfSite s (10239 / 64) = none ∧ (getClu tel 10239).pwrState ≠ 2) ∧
    (let e := PeriodEnergy.mk 1000000 800000 7001 [(0, 500000)] []
     let s := { withRequest aRequest with tally := 1024000 }
     now s / 1024000 ≠ s.clock.period ∧ now { s with tally := 1023999 } / 1024000 = s.clock.period ∧ e.dramTemp = [] ∧ (s.parts.all fun q => decide (q.2.ledger.next = none) && decide (q.2.ledger.pmode ≠ 3) && !q.2.ledger.waking) = true ∧
     periodReqs s ≠ [] ∧ periodReqs tel = [] ∧ { aRequest with state := 4 }.state = 4 ∧ { aRequest with charged := true }.charged = true ∧
     (getPart serving3 3).ledger.busy = false ∧ partBusy serving3 3 = false ∧
     (let r := chargeShares s e
      sumNat ((r.1.map (·.2)).flatten.map (·.2)) + e.guest ≤ e.inH0 + e.inH1)) := by
  and_intros <;> decide +kernel

/-- R370's conservation on numbers: inputs of 1,800,000 µJ with 7,001 µJ at the guests leave 1,792,999 µJ charged. -/
theorem test_energy_conserved :
    (let r := chargeShares { withRequest aRequest with tally := 1024000 } (PeriodEnergy.mk 1000000 800000 7001 [(0, 500000)] [])
     sumNat ((r.1.map (·.2)).flatten.map (·.2)) + sumNat (r.2.2.map (·.2))) = 1792999 := by decide +kernel

theorem Inv_withRequest : Machine.Inv { withRequest aRequest with tally := 1024000 } := by unfold Machine.Inv; decide +kernel

theorem wit_ClocksAndLedger_coolant :
    1500 ≤ (1500 : BitVec 16).toInt ∧ (4500 : BitVec 16).toInt ≤ 4500 ∧ (5800 : BitVec 16).toInt ≤ 5800 ∧ (5500 : BitVec 16).toInt - (4500 : BitVec 16).toInt ≤ 1000 ∧
    5800 < (5801 : BitVec 16).toInt ∧ 5000 ≤ (5000 : BitVec 16).toInt ∧ 1500 < (4001 : BitVec 16).toInt - (2500 : BitVec 16).toInt ∧
    (let l := { tel.ledger with hotIn := some (0 : Word), rise15 := some (0 : Word), flowAt := some (0 : Word) }
     l.hotIn = some 0 ∧ l.rise15 = some 0 ∧ l.flowAt = some 0 ∧ (0 : Word).toNat + 1000000000 ≤ now { tel with tally := 1000000000 } ∧ now tel < (0 : Word).toNat + 1000000000) ∧
    (flowWanted tel < tel.ledger.flow.toNat + 10 ∧ tel.ledger.flow.toNat < flowWanted tel + 10) ∧ flowWanted tel + 10 ≤ (210 : BitVec 16).toNat ∧ tel.half0.inService = true := by
  and_intros <;> decide +kernel

def aRec (t : BitVec 16) : VaultRec := { type := t, signed := false, seq := 9, key := 4, body := [1], half := 0, on0 := false, on1 := false }
def aWrite (t : BitVec 16) (copy : Bool) : VaultWrite := { record := aRec t, copy := copy, acts := [] }
def phased (n : Nat) (f : State → State) : State :=
  f { State.reset with boot := { State.reset.boot with phase := n }, half0 := { Half.reset with power := true } }

theorem wit_BringUpAndPins_records_and_phases :
    (let v := { Vault.reset with recs := [], writing := [aWrite 0x13 false] }
     v.writing = aWrite 0x13 false :: [] ∧ (aWrite 0x13 false).copy = false ∧ (aWrite 0x13 true).copy = true ∧ (aRec 0x13).type ≠ 3 ∧ (aRec 3).type = 3 ∧
     (∀ g, g < 3 → Tbl.get (holdWrite { v with writing := [] } (aWrite 0x13 false) true).used g 0 * 4 < regionHalf g * 3)) ∧
    ((getHalf tel 0).power = true ∧ (getHalf State.reset 0).power = false ∧ State.reset.boot.phase = 0 ∧ (phased 1 id).boot.phase = 1 ∧ 2 ≤ (phased 2 id).boot.phase) ∧
    (∀ n, 1 ≤ n → n ≤ 12 → (phased n id).state = .bringUp ∧ (phased n id).boot.phase = n ∧ (phased n id).pins.resetLow = false ∧ (getHalf (phased n id) 0).power = true) ∧
    ((2 * phaseEnd 3 - phaseEnd 2) * 1000000 < ({ phased 3 id with tally := 40000000000 }.tally - (phased 3 id).boot.started).toNat ∧
      ((phased 3 id).tally - (phased 3 id).boot.started).toNat ≤ (2 * phaseEnd 3 - phaseEnd 2) * 1000000) ∧
    ((phased 5 id).boot.rstBoot = false ∧ (phased 5 id).pins.thermTrip = false ∧ ((phased 5 id).hub0.selfTest && true) = false ∧ pairFailed (phased 6 id) 0 = false ∧
      (getStage (phased 6 id) 0).state ≠ 3 ∧ (phased 11 id).boot.spineFailed = false ∧ (phased 12 id).vault.latch = false ∧
      { (phased 12 id).vault with latch := true }.latch = true) ∧
    (booting tel = false ∧ tel.boot.half = none ∧
      bankChanges tel = false ∧ bankChanges { tel with epoch := { tel.epoch with writesAt := some 0 } } = true ∧
      (∀ n ∈ [6, 7, 8, 10, 11, 12], ({ tel with boot := { tel.boot with half := some (1, reply0), halfPhase := n } }).boot.halfPhase = n)) := by
  refine ⟨by decide +kernel, by decide +kernel, fun n _ _ => ⟨rfl, rfl, rfl, rfl⟩, by decide +kernel, by decide +kernel, by decide +kernel,
    by decide +kernel, by decide +kernel, by decide +kernel, fun n _ => rfl⟩

/-- A held request that state changes by and that the survivor's journal does not hold. -/
theorem wit_BringUpAndPins_unjournaled :
    let q := HeldRequest.mk (.close (req 2 [])) { reply0 with rseq := 5 } false
    let b := { Mailbox.reset with held := [(5, q)] }
    let s := { tel with sessions := [(1, { sess1 with boxes := [(0, b)] })] }
    hubUp s 0 = true ∧ hubUp s 1 = true ∧ b.held = [(q.reply.rseq, q)] ∧ q.ro = false ∧ q.reply.entry ∉ (getHub s 1).journal ∧ s.boot.hubsLost = false ∧
    { s.boot with hubsLost := true }.hubsLost = true ∧
    (∀ e ∈ tel.sessions, e.2.seqOut.toNat < 2 ^ 62 ∧ e.2.retained = [] ∧ ∀ b ∈ e.2.boxes, b.2.held = []) := by
  and_intros <;> decide +kernel

theorem wit_BringUpAndPins_pins_and_hubs :
    (tel.pins.thermTrip = false ∧ tel.pins.resetLow = false ∧ tel.pins.twinPresent = false ∧ { tel.pins with twinPresent := true }.twinPresent = true ∧
      shadow.twin.attached = true ∧ now { shadow with tally := 0 } < shadow.twin.lastBeat.toNat + 20000000 ∧ shadow.twin.lastBeat.toNat + 20000000 ≤ now shadow) ∧
    (let s := { tel with pins := { tel.pins with resetLow := true }, half0 := { tel.half0 with ramp := some (0, false) }, tally := 2000000 }
     s.pins.resetLow = true ∧ (getHalf s 0).ramp = some (0, false) ∧ (0 : Word).toNat + 2000000 ≤ now s ∧ (getHalf s 1).ramp = none) ∧
    hubUp tel 0 = true ∧ hubUp tel 1 = true ∧ (∀ g ∈ sitesOfHub 0, (getGuest tel g).reqs = [] ∧ (getGuest tel g).want = none) ∧
    (let s := { tel with hub0 := { tel.hub0 with up := false } }
     hubUp s 0 = false ∧ (getHub s 0).selfTest = true ∧ hubUp s 1 = true ∧ s.fwUpdate = none) := by
  and_intros <;> decide +kernel

/-- A CONFIG record of no hosts: version 2, LIMIT 1, WINDOW 60. -/
def configRec : Bytes :=
  [2, 0, 1, 0] ++ leBytes 4 4368 ++ List.replicate 24 0 ++ (leBytes 4 2 ++ [1, 0, 0, 0] ++ leBytes 4 60 ++ [0, 0, 0, 0] ++ List.replicate 4352 0) ++ List.replicate 2420 0
def ownerRec : Bytes := [1, 0, 1, 0] ++ leBytes 4 0 ++ List.replicate 24 0 ++ List.replicate 2420 0
def submitted (b : Bytes) : State := { configured with boot := { tel.boot with phase := 13 }, hub0 := { tel.hub0 with recBusy := true, recSub := b, recLen := BitVec.ofNat 16 b.length } }

theorem wit_SidebandTarget :
    (sbAnswers (submitted []) 0 = true ∧ sbAnswers tel 0 = false ∧ tel.hub0.dynAddr = none ∧ { tel.hub0 with dynAddr := some (9 : BitVec 7) }.dynAddr = some 9 ∧
      tel.hub0.alert = false ∧ { tel.hub0 with alert := true }.alert = true ∧ Tbl.wf tel.hub0.recBuf = true ∧ tel.hub0.recBusy = false ∧
      (getHub (submitted []) 0).recBusy = true ∧ 0x7FF8 % 8 = 0 ∧ 0x7FF8 < 0x8000) ∧
    (let s := submitted configRec
     at_ (getHub s 0).recSub 0 2 = 2 ∧ (getHub s 0).recLen.toNat ≤ 16384 ∧ (getHub s 0).recLen.toNat = 32 + at_ (getHub s 0).recSub 4 4 + 2420 ∧
     recAllowed s (getHub s 0).recSub true = true ∧ configForm (recBody (getHub s 0).recSub) = true ∧ recAllowed s (getHub s 0).recSub false = false) ∧
    (let s := submitted ownerRec
     at_ (getHub s 0).recSub 0 2 = 1 ∧ (getHub s 0).recLen.toNat = 32 + at_ (getHub s 0).recSub 4 4 + 2420 ∧ recAllowed s (getHub s 0).recSub true = true) ∧
    (let s := submitted (leBytes 8 2)
     ¬ (getHub s 0).recLen.toNat = 32 + at_ (getHub s 0).recSub 4 4 + 2420) ∧
    configForm (List.replicate 4368 0) = false := by
  and_intros <;> decide +kernel

theorem wit_EveryStepKeepsInvariant : Machine.Inv State.reset ∧ step State.reset = .next State.reset := ⟨by unfold Machine.Inv; decide +kernel, rfl⟩

theorem wit_ResetAndMemory : Memory.wf State.reset.mem = true ∧ Memory.wf [(5, (1 : Byte))] = true := by decide +kernel

/-- 1,450 MHz, step 21, gives 928 stretched cycles an interval (R357). -/
theorem test_stretch_bound : stretchBound { State.reset with clock := { ClockPlan.reset with step := 21 } } = 928 := by decide +kernel

/-- SHA3-256 of no bytes, FIPS 202's own example value. -/
theorem test_sha3_256 : (sha3_256 []).take 4 = [0xa7, 0xff, 0xc6, 0xf8] := by decide +kernel

end Sys2Proof.Tests
end

section
/-! PROOFS. Tables and memory in rising order. -/

namespace Sys2Proof.Machine

/-- A table's keys rise strictly just when each is below all behind it. -/
theorem Tbl.wf_iff {α : Type} (t : Tbl α) : Tbl.wf t = true ↔ t.Pairwise fun p q => p.1 < q.1 := by
  induction t with
  | nil => simp [Tbl.wf]
  | cons p t ih =>
    cases t with
    | nil => simp [Tbl.wf]
    | cons q t =>
      simp only [Tbl.wf, Bool.and_eq_true, decide_eq_true_eq, ih, List.pairwise_cons (a := p), List.forall_mem_cons]
      refine ⟨fun ⟨hlt, ht⟩ => ⟨⟨hlt, fun x hx => ?_⟩, ht⟩, fun ⟨⟨hlt, _⟩, ht⟩ => ⟨hlt, ht⟩⟩
      exact hlt.trans (List.rel_of_pairwise_cons ht hx)

theorem Tbl.mem_put {α : Type} {t : Tbl α} {k : Nat} {v : α} {p : Nat × α} (h : p ∈ Tbl.put t k v) : p = (k, v) ∨ p ∈ t := by
  induction t with
  | nil => simpa [Tbl.put] using h
  | cons q t ih =>
    simp only [Tbl.put] at h
    split at h
    · simpa using h
    · split at h
      · rcases List.mem_cons.mp h with rfl | h
        · exact .inl rfl
        · exact .inr (List.mem_cons_of_mem _ h)
      · rcases List.mem_cons.mp h with rfl | h
        · exact .inr (List.mem_cons_self ..)
        · exact (ih h).imp_right (List.mem_cons_of_mem _)

theorem Tbl.put_wf {α : Type} {t : Tbl α} {k : Nat} {v : α} (h : Tbl.wf t = true) : Tbl.wf (Tbl.put t k v) = true := by
  induction t with
  | nil => rfl
  | cons q t ih =>
    obtain ⟨hq, ht⟩ := List.pairwise_cons.mp ((Tbl.wf_iff _).mp h)
    simp only [Tbl.put]
    split
    case isTrue hlt =>
      refine (Tbl.wf_iff _).mpr (List.pairwise_cons.mpr ⟨fun p hp => ?_, (Tbl.wf_iff _).mp h⟩)
      rcases List.mem_cons.mp hp with rfl | hp
      · exact hlt
      · exact hlt.trans (hq p hp)
    case isFalse hge =>
      split
      case isTrue heq => subst heq; exact (Tbl.wf_iff _).mpr (List.pairwise_cons.mpr ⟨hq, ht⟩)
      case isFalse hne =>
        have hput := (Tbl.wf_iff _).mp (ih ((Tbl.wf_iff _).mpr ht))
        refine (Tbl.wf_iff _).mpr (List.pairwise_cons.mpr ⟨fun p hp => ?_, hput⟩)
        rcases Tbl.mem_put hp with rfl | hp
        · show q.1 < k; omega
        · exact hq p hp

theorem Memory.foldl_wf {α : Type} {m : List Host.Cell} {l : List α} {f : List Host.Cell → α → List Host.Cell} (h : Memory.wf m = true)
    (hf : ∀ {m a}, Memory.wf m = true → Memory.wf (f m a) = true) : Memory.wf (l.foldl f m) = true := by
  induction l generalizing m with
  | nil => exact h
  | cons a l ih => exact ih (hf h)

theorem Tbl.drop_eq_filter {α : Type} (t : Tbl α) (k : Nat) : Tbl.drop t k = t.filter fun p => p.1 ≠ k := by
  induction t with
  | nil => rfl
  | cons q t ih => by_cases h : q.1 = k <;> simp [Tbl.drop, h, ih]

theorem Tbl.filter_wf {α : Type} {t : Tbl α} {f : Nat × α → Bool} (h : Tbl.wf t = true) : Tbl.wf (α := α) (t.filter f) = true :=
  (Tbl.wf_iff _).mpr (((Tbl.wf_iff t).mp h).filter f)

theorem Tbl.drop_wf {α : Type} {t : Tbl α} {k : Nat} (h : Tbl.wf t = true) : Tbl.wf (Tbl.drop t k) = true := by
  rw [Tbl.drop_eq_filter]; exact Tbl.filter_wf h

theorem Tbl.map_wf {α β : Type} {t : Tbl α} {f : Nat → α → β} (h : Tbl.wf t = true) : Tbl.wf (Tbl.map t f) = true :=
  (Tbl.wf_iff _).mpr (List.pairwise_map.mpr ((Tbl.wf_iff t).mp h))

end Sys2Proof.Machine
end

section
/-! PROOFS. The invariant: what it says, and what keeps it whatever the command. -/

namespace Sys2Proof.Machine

theorem Inv.mem {s : State} (hs : Inv s) : Memory.wf s.mem = true := hs.1
theorem Inv.parts {s : State} (hs : Inv s) : Tbl.wf s.parts = true := hs.2.1
theorem Inv.requests {s : State} (hs : Inv s) : Tbl.wf s.requests = true := hs.2.2.1
theorem Inv.sessions {s : State} (hs : Inv s) : Tbl.wf s.sessions = true := hs.2.2.2

/-- Memory, partitions, requests and sessions are all that the invariant speaks of. -/
theorem Inv.intro {mem parts requests sessions : _}
    {pending emitted freeCtr tally master cores clusters dies badCores links optLinks bank0 bank1 meshHalf epoch jobs hub0 hub1 lead state
    boot resets safeCause sys handshakes nextEst tickets nextTicket nextReq waits replacing optDies assured timeSent timeMeas twin guests
    stages half0 half1 clock ledger vault fwUpdate loaderWrites fenceWaits panelFence panelReset hubStage guestCut denyLimit pins : _}
    (hm : Memory.wf mem = true) (hp : Tbl.wf parts = true) (hr : Tbl.wf requests = true) (hn : Tbl.wf sessions = true) :
    Inv ⟨pending, emitted, freeCtr, tally, master, mem, cores, clusters, dies, badCores, links, optLinks, bank0, bank1, meshHalf, epoch,
      parts, jobs, hub0, hub1, lead, state, boot, resets, safeCause, sys, sessions, handshakes, nextEst, tickets, nextTicket, requests,
      nextReq, waits, replacing, optDies, assured, timeSent, timeMeas, twin, guests, stages, half0, half1, clock, ledger, vault, fwUpdate,
      loaderWrites, fenceWaits, panelFence, panelReset, hubStage, guestCut, denyLimit, pins⟩ :=
  ⟨hm, hp, hr, hn⟩

/-- A state that differs in other fields alone. -/
theorem Inv.frame {s : State}
    {pending emitted freeCtr tally master cores clusters dies badCores links optLinks bank0 bank1 meshHalf epoch jobs hub0 hub1 lead state
    boot resets safeCause sys handshakes nextEst tickets nextTicket nextReq waits replacing optDies assured timeSent timeMeas twin guests
    stages half0 half1 clock ledger vault fwUpdate loaderWrites fenceWaits panelFence panelReset hubStage guestCut denyLimit pins : _}
    (hs : Inv s) :
    Inv ⟨pending, emitted, freeCtr, tally, master, s.mem, cores, clusters, dies, badCores, links, optLinks, bank0, bank1, meshHalf, epoch,
      s.parts, jobs, hub0, hub1, lead, state, boot, resets, safeCause, sys, s.sessions, handshakes, nextEst, tickets, nextTicket,
      s.requests, nextReq, waits, replacing, optDies, assured, timeSent, timeMeas, twin, guests, stages, half0, half1, clock, ledger,
      vault, fwUpdate, loaderWrites, fenceWaits, panelFence, panelReset, hubStage, guestCut, denyLimit, pins⟩ := hs

theorem Inv.withMem {s : State} {mem : _}
    {pending emitted freeCtr tally master cores clusters dies badCores links optLinks bank0 bank1 meshHalf epoch jobs hub0 hub1 lead state
    boot resets safeCause sys handshakes nextEst tickets nextTicket nextReq waits replacing optDies assured timeSent timeMeas twin guests
    stages half0 half1 clock ledger vault fwUpdate loaderWrites fenceWaits panelFence panelReset hubStage guestCut denyLimit pins : _}
    (hs : Inv s) (h : Memory.wf mem = true) :
    Inv ⟨pending, emitted, freeCtr, tally, master, mem, cores, clusters, dies, badCores, links, optLinks, bank0, bank1, meshHalf, epoch,
      s.parts, jobs, hub0, hub1, lead, state, boot, resets, safeCause, sys, s.sessions, handshakes, nextEst, tickets, nextTicket,
      s.requests, nextReq, waits, replacing, optDies, assured, timeSent, timeMeas, twin, guests, stages, half0, half1, clock, ledger,
      vault, fwUpdate, loaderWrites, fenceWaits, panelFence, panelReset, hubStage, guestCut, denyLimit, pins⟩ :=
  ⟨h, hs.parts, hs.requests, hs.sessions⟩

theorem Inv.withParts {s : State} {parts : _}
    {pending emitted freeCtr tally master cores clusters dies badCores links optLinks bank0 bank1 meshHalf epoch jobs hub0 hub1 lead state
    boot resets safeCause sys handshakes nextEst tickets nextTicket nextReq waits replacing optDies assured timeSent timeMeas twin guests
    stages half0 half1 clock ledger vault fwUpdate loaderWrites fenceWaits panelFence panelReset hubStage guestCut denyLimit pins : _}
    (hs : Inv s) (h : Tbl.wf parts = true) :
    Inv ⟨pending, emitted, freeCtr, tally, master, s.mem, cores, clusters, dies, badCores, links, optLinks, bank0, bank1, meshHalf, epoch,
      parts, jobs, hub0, hub1, lead, state, boot, resets, safeCause, sys, s.sessions, handshakes, nextEst, tickets, nextTicket,
      s.requests, nextReq, waits, replacing, optDies, assured, timeSent, timeMeas, twin, guests, stages, half0, half1, clock, ledger,
      vault, fwUpdate, loaderWrites, fenceWaits, panelFence, panelReset, hubStage, guestCut, denyLimit, pins⟩ :=
  ⟨hs.mem, h, hs.requests, hs.sessions⟩

theorem Inv.withRequests {s : State} {requests : _}
    {pending emitted freeCtr tally master cores clusters dies badCores links optLinks bank0 bank1 meshHalf epoch jobs hub0 hub1 lead state
    boot resets safeCause sys handshakes nextEst tickets nextTicket nextReq waits replacing optDies assured timeSent timeMeas twin guests
    stages half0 half1 clock ledger vault fwUpdate loaderWrites fenceWaits panelFence panelReset hubStage guestCut denyLimit pins : _}
    (hs : Inv s) (h : Tbl.wf requests = true) :
    Inv ⟨pending, emitted, freeCtr, tally, master, s.mem, cores, clusters, dies, badCores, links, optLinks, bank0, bank1, meshHalf, epoch,
      s.parts, jobs, hub0, hub1, lead, state, boot, resets, safeCause, sys, s.sessions, handshakes, nextEst, tickets, nextTicket,
      requests, nextReq, waits, replacing, optDies, assured, timeSent, timeMeas, twin, guests, stages, half0, half1, clock, ledger, vault,
      fwUpdate, loaderWrites, fenceWaits, panelFence, panelReset, hubStage, guestCut, denyLimit, pins⟩ :=
  ⟨hs.mem, hs.parts, h, hs.sessions⟩

theorem Inv.withSessions {s : State} {sessions : _}
    {pending emitted freeCtr tally master cores clusters dies badCores links optLinks bank0 bank1 meshHalf epoch jobs hub0 hub1 lead state
    boot resets safeCause sys handshakes nextEst tickets nextTicket nextReq waits replacing optDies assured timeSent timeMeas twin guests
    stages half0 half1 clock ledger vault fwUpdate loaderWrites fenceWaits panelFence panelReset hubStage guestCut denyLimit pins : _}
    (hs : Inv s) (h : Tbl.wf sessions = true) :
    Inv ⟨pending, emitted, freeCtr, tally, master, s.mem, cores, clusters, dies, badCores, links, optLinks, bank0, bank1, meshHalf, epoch,
      s.parts, jobs, hub0, hub1, lead, state, boot, resets, safeCause, sys, sessions, handshakes, nextEst, tickets, nextTicket,
      s.requests, nextReq, waits, replacing, optDies, assured, timeSent, timeMeas, twin, guests, stages, half0, half1, clock, ledger,
      vault, fwUpdate, loaderWrites, fenceWaits, panelFence, panelReset, hubStage, guestCut, denyLimit, pins⟩ :=
  ⟨hs.mem, hs.parts, hs.requests, h⟩

theorem Inv.ite {c : Prop} [Decidable c] {s t : State} (hs : Inv s) (ht : Inv t) : Inv (if c then s else t) := by
  split
  · exact hs
  · exact ht

/-- Of a state that may not be there, and one in its place. -/
theorem Inv.getD {s : State} {o : Option State} (hs : Inv s) (ho : ∀ {t}, o = some t → Inv t) : Inv (o.getD s) := by
  cases o with
  | none => exact hs
  | some t => exact ho rfl

theorem Inv.foldl {α : Type} {s : State} {l : List α} {f : State → α → State} (hs : Inv s) (hf : ∀ {t a}, Inv t → Inv (f t a)) :
    Inv (l.foldl f s) := by
  induction l generalizing s with
  | nil => exact hs
  | cons a l ih => exact ih (hf hs)

theorem Inv.ite_fst {α : Type} {c : Prop} [Decidable c] {p q : State × α} (hp : Inv p.1) (hq : Inv q.1) :
    Inv (if c then p else q).1 := by
  split
  · exact hp
  · exact hq

theorem Inv.foldl_fst {α β : Type} {p : State × β} {l : List α} {f : State × β → α → State × β} (hp : Inv p.1)
    (hf : ∀ {q a}, Inv q.1 → Inv (f q a).1) : Inv (l.foldl f p).1 := by
  induction l generalizing p with
  | nil => exact hp
  | cons a l ih => exact ih (hf hp)

/-- The state of a pair, where the pair has been taken apart. -/
theorem Inv.of_eq {α : Type} {p : State × α} {t : State} {a : α} (hp : Inv p.1) (e : p = (t, a)) : Inv t := by
  subst e; exact hp

/-- The invariant holds of the next state, if the command answers one. -/
def Keeps (o : Out) : Prop := ∀ t, o = .next t → Inv t

theorem Keeps.next {t : State} (ht : Inv t) : Keeps (.next t) := fun _ e => Host.Outcome.next.inj e ▸ ht

/-- The invariant holds of the state that the outcome of an instruction carries. -/
def Res.Keeps : Res → Prop
  | .hold => True
  | .fault t _ => Inv t
  | .retire t _ => Inv t
  | .wait t _ _ => Inv t
  | .finish => True

/-- Neither a refusal of the command nor its run breaks the invariant. -/
def Cmd.Keeps (c : Cmd) : Prop := ∀ {s r}, Inv s → Inv (c.refuse s r) ∧ Inv (c.run s r)

theorem Cmd.keeps_mk {code priv : Nat} {ro safe form : Bool} {check : State → Option Status} {refuse run : State → Reply → State}
    (hrefuse : ∀ {s r}, Inv s → Inv (refuse s r)) (hrun : ∀ {s r}, Inv s → Inv (run s r)) :
    Cmd.Keeps ⟨code, priv, ro, safe, form, check, refuse, run⟩ :=
  fun hs => ⟨hrefuse hs, hrun hs⟩

/-- A command whose refusal does nothing besides its answer. -/
theorem Cmd.keeps_run {code priv : Nat} {ro safe form : Bool} {check : State → Option Status} {run : State → Reply → State}
    (hrun : ∀ {s r}, Inv s → Inv (run s r)) : Cmd.Keeps ⟨code, priv, ro, safe, form, check, fun s _ => s, run⟩ :=
  Cmd.keeps_mk id hrun

/-- The panel after reset lists nothing. -/
theorem Inv.reset : Inv State.reset := ⟨rfl, rfl, rfl, rfl⟩

end Sys2Proof.Machine
end

section
/-! PROOFS. Each function that builds a state keeps the invariant, in the order of the model. A function that sets none of the four listed
fields keeps it by `Inv.frame`; one made of such functions keeps it as they do. -/

namespace Sys2Proof.Machine

/-! ### Ops -/

protected theorem Inv.setCore {s : State} {k : Nat} {c : Core} (hs : Inv s) : Inv (setCore s k c) := hs.frame

protected theorem Inv.modCore {s : State} {k : Nat} {f : Core → Core} (hs : Inv s) : Inv (modCore s k f) := hs.setCore

protected theorem Inv.setCtx {s : State} {k n : Nat} {x : Ctx} (hs : Inv s) : Inv (setCtx s k n x) := hs.modCore

protected theorem Inv.modCtx {s : State} {k n : Nat} {f : Ctx → Ctx} (hs : Inv s) : Inv (modCtx s k n f) := hs.setCtx

protected theorem Inv.setClu {s : State} {cl : Nat} {c : Cluster} (hs : Inv s) : Inv (setClu s cl c) := hs.frame

protected theorem Inv.modClu {s : State} {cl : Nat} {f : Cluster → Cluster} (hs : Inv s) : Inv (modClu s cl f) := hs.setClu

protected theorem Inv.setDie {s : State} {site : Nat} {d : Die} (hs : Inv s) : Inv (setDie s site d) := hs.frame

protected theorem Inv.modDie {s : State} {site : Nat} {f : Die → Die} (hs : Inv s) : Inv (modDie s site f) := hs.setDie

protected theorem Inv.setPart {s : State} {p : Nat} {q : Partition} (hs : Inv s) : Inv (setPart s p q) :=
  hs.withParts (Tbl.put_wf hs.parts)

protected theorem Inv.modPart {s : State} {p : Nat} {f : Partition → Partition} (hs : Inv s) : Inv (modPart s p f) := hs.setPart

protected theorem Inv.setJob {s : State} {j : Nat} {x : Job} (hs : Inv s) : Inv (setJob s j x) := hs.frame

protected theorem Inv.modJob {s : State} {j : Nat} {f : Job → Job} (hs : Inv s) : Inv (modJob s j f) := hs.setJob

protected theorem Inv.setHub {s : State} {h : Nat} {x : Hub} (hs : Inv s) : Inv (setHub s h x) := .ite hs.frame hs.frame

protected theorem Inv.modHub {s : State} {h : Nat} {f : Hub → Hub} (hs : Inv s) : Inv (modHub s h f) := hs.setHub

protected theorem Inv.bumpFree {s : State} (hs : Inv s) : Inv (bumpFree s) := hs.frame

protected theorem Inv.emit {s : State} {e : Emit} (hs : Inv s) : Inv (emit s e) := hs.frame

protected theorem Inv.journal {s : State} {e : Journaled} (hs : Inv s) : Inv (journal s e) := hs.frame

protected theorem Inv.emits {s : State} {es : List Emit} (hs : Inv s) : Inv (emits s es) := hs.frame

protected theorem Inv.sendCtrl {s : State} {ctype sx sy dx dy body : Nat} (hs : Inv s) : Inv (sendCtrl s ctype sx sy dx dy body) :=
  hs.emit

protected theorem Inv.coreToHub {s : State} {k ctype body : Nat} (hs : Inv s) : Inv (coreToHub s k ctype body) := hs.sendCtrl

protected theorem Inv.hubToCore {s : State} {k ctype body : Nat} (hs : Inv s) : Inv (hubToCore s k ctype body) := hs.sendCtrl

protected theorem Inv.sendCountOnly {s : State} {cl x y cnt lines : Nat} {st : Status} (hs : Inv s) :
    Inv (sendCountOnly s cl x y cnt lines st) :=
  hs.sendCtrl

protected theorem Inv.setHalf {s : State} {h : Nat} {x : Half} (hs : Inv s) : Inv (setHalf s h x) := .ite hs.frame hs.frame

protected theorem Inv.modHalf {s : State} {h : Nat} {f : Half → Half} (hs : Inv s) : Inv (modHalf s h f) := hs.setHalf

protected theorem Inv.abortAnswer {s : State} {k n : Nat} {task : BitVec 16} {st : Status} {a : AbortReq} (hs : Inv s) :
    Inv (abortAnswer s k n task st a) :=
  hs.sendCtrl

protected theorem Inv.sendWatchdog {s : State} {k ctx eng : Nat} {engine : Bool} {st : Nat} {task : BitVec 16} {at_ : Word} (hs : Inv s) :
    Inv (sendWatchdog s k ctx eng engine st task at_) :=
  hs.sendCtrl

protected theorem Inv.tellFiring {s : State} {k n : Nat} {x : Ctx} (hs : Inv s) : Inv (tellFiring s k n x) := by
  unfold tellFiring
  split
  · exact .ite hs hs.sendWatchdog
  · exact hs

protected theorem Inv.resetCtx {s : State} {k n : Nat} (hs : Inv s) : Inv (resetCtx s k n) := hs.modCtx.modCore

protected theorem Inv.ackFence {s : State} {cl : Nat} {p : CtrlPacket} (hs : Inv s) : Inv (ackFence s cl p) :=
  (Inv.ite (hs.foldl fun h => h.resetCtx) hs).sendCtrl

protected theorem Inv.ackFences {s : State} {cl : Nat} (hs : Inv s) : Inv (ackFences s cl) :=
  .ite hs (hs.modClu.foldl fun h => h.ackFence)

protected theorem Inv.noteTaskEnd {s : State} {k n : Nat} {task : BitVec 16} (hs : Inv s) : Inv (noteTaskEnd s k n task) := by
  unfold noteTaskEnd
  split
  · exact hs.modPart
  · exact hs

protected theorem Inv.endTaskWith {s : State} {keep : Bool} {k n : Nat} {st : Status} {fs : List FaultRec} (hs : Inv s) :
    Inv (endTaskWith keep s k n st fs) := by
  unfold endTaskWith
  extract_lets +onlyGivenNames c x hold x' x'₁ c₂ c₃ c₄ c₅ s₆ ans s₇ s₈ s₉ s₁₀
  have h₆ : Inv s₆ := hs.setCore
  have h₇ : Inv s₇ := h₆.foldl fun h => h.abortAnswer
  have h₈ : Inv s₈ := .ite h₇ h₇.tellFiring
  have h₉ : Inv s₉ := .ite h₈ h₈.coreToHub
  have h₁₀ : Inv s₁₀ := h₉.noteTaskEnd
  exact .ite h₁₀.ackFences h₁₀

protected theorem Inv.endTask {s : State} {k n : Nat} {st : Status} {fs : List FaultRec} (hs : Inv s) : Inv (endTask s k n st fs) :=
  hs.endTaskWith

protected theorem Inv.retirePoint {s t : State} {k n : Nat} {fs : List FaultRec} (hs : Inv s) (ht : Inv t) :
    Inv (retirePoint s k n fs t) := by
  unfold retirePoint
  extract_lets x
  split
  · exact hs.endTaskWith
  · exact .ite hs.endTask (.ite hs.endTask ht)

protected theorem Inv.goOn {s : State} {k n : Nat} {pc : Word} (hs : Inv s) : Inv (goOn s k n pc) := hs.modCtx

protected theorem Inv.noteRead {s : State} {k : Nat} {r : SpmRead} (hs : Inv s) : Inv (noteRead s k r) :=
  .ite (Inv.ite hs hs.modCore).modClu (Inv.ite hs hs.modCore)

protected theorem Inv.bankWord {s : State} {k w mask v : Nat} (hs : Inv s) : Inv (bankWord s k w mask v) := by
  unfold bankWord
  extract_lets put e
  have hput {t : State} (h : Inv t) : Inv (put t) := by
    refine .intro (Memory.foldl_wf h.mem fun hm => ?_) h.parts h.requests h.sessions
    split
    · exact Mem.write_wf _ _ _ hm
    · exact hm
  clear_value put e
  split
  · exact hs
  · split
    · exact (hput hs).modCore
    · split
      · exact hput hs
      · exact hs.modClu
      · exact (hput hs).modCore.modClu

protected theorem Inv.bankLine {s : State} {k line mask v : Nat} (hs : Inv s) : Inv (bankLine s k line mask v) :=
  hs.foldl fun h => h.bankWord

protected theorem Inv.spmWriteLine {s : State} {k line mask v : Nat} (hs : Inv s) : Inv (spmWriteLine s k line mask v) :=
  hs.bankLine.modCore

protected theorem Inv.spmWrite {s : State} {k a n v : Nat} (hs : Inv s) : Inv (spmWrite s k a n v) :=
  .ite hs.spmWriteLine hs.spmWriteLine.spmWriteLine

protected theorem Inv.spmArrive {s : State} {k line : Nat} {v : Line} (hs : Inv s) : Inv (spmArrive s k line v) := hs.spmWriteLine

protected theorem Inv.tillWriteBack {s : State} {k : Nat} {e : TillEntry} (hs : Inv s) : Inv (tillWriteBack s k e) :=
  .ite hs (Inv.ite hs.bankLine hs.bankLine)

protected theorem Inv.tillAlloc {s : State} {k line : Nat} (hs : Inv s) : Inv (tillAlloc s k line).1 := by
  unfold tillAlloc
  extract_lets +onlyGivenNames c
  split
  · exact hs
  · extract_lets +onlyGivenNames i old s₁
    have h₁ : Inv s₁ := .ite hs.tillWriteBack hs
    exact h₁.modCore

protected theorem Inv.tillLoad {s : State} {k a n : Nat} (hs : Inv s) : Inv (tillLoad s k a n).1 := by
  unfold tillLoad
  extract_lets +onlyGivenNames line
  split
  rename_i s₁ _ _ e₁
  have h₁ : Inv s₁ := hs.tillAlloc.of_eq e₁
  extract_lets +onlyGivenNames s₂ c e want
  have h₂ : Inv s₂ := h₁.modCore
  split
  · exact h₂
  · extract_lets +onlyGivenNames fill bad hit ce r t₃
    have ht₃ : Inv t₃ := h₂.noteRead
    split
    · exact ht₃
    · exact .ite ht₃.modCore ht₃

protected theorem Inv.tillStore {s : State} {k a n v : Nat} (hs : Inv s) : Inv (tillStore s k a n v) := by
  unfold tillStore
  split
  rename_i s₁ _ _ e₁
  have h₁ : Inv s₁ := hs.tillAlloc.of_eq e₁
  exact h₁.modCore

protected theorem Inv.discardLine {s : State} {k n : Nat} (hs : Inv s) : Inv (discardLine s k n) := hs.modClu

protected theorem Inv.countOnlyAt {s : State} {k cnt lines : Nat} {st : Status} {spm : Bool} (hs : Inv s) :
    Inv (countOnlyAt s k cnt lines st spm) :=
  .ite hs hs.setCore

/-! ### Operands -/

protected theorem Inv.settle {s : State} {k n : Nat} {r : Res} (hs : Inv s) (hr : r.Keeps) : Inv (settle s k n r) := by
  cases r with
  | hold => exact hs
  | fault t fs => exact Inv.retirePoint hr hr
  | retire t pc => exact hs.retirePoint (Inv.goOn hr)
  | wait t w st => exact .ite (hs.retirePoint hs) (Inv.modCtx hr)
  | finish => exact hs.retirePoint hs.endTask

protected theorem Inv.issue {f : Enc} {i : Issue} {s : State} {body : State → Ctx → Res} (hs : Inv s)
    (hb : ∀ {t x}, Inv t → (body t x).Keeps) : Inv (issue f i s body) := by
  unfold issue
  extract_lets k n s₁ x
  have h₁ : Inv s₁ := hs.modCore
  split
  · split
    · exact h₁.settle h₁
    · split
      · exact h₁.settle h₁
      · exact h₁.settle (hb h₁)
  · exact hs

protected theorem Inv.resume {i : Issue} {s : State} {body : State → Ctx → Res} (hs : Inv s)
    (hb : ∀ {t x}, Inv t → (body t x).Keeps) :
    Inv (resume i s body) := .ite hs (hs.settle (hb hs))

protected theorem Inv.illegal {s : State} {x : Ctx} (hs : Inv s) : Res.Keeps (illegal s x) := hs

protected theorem Inv.retireCtx {s : State} {i : Issue} {x : Ctx} (hs : Inv s) : Res.Keeps (retireCtx s i x) := hs.setCtx

/-! ### Transfer -/

protected theorem Inv.expectRead {s : State} {k line lines cnt : Nat} (hs : Inv s) : Inv (expectRead s k line lines cnt) := hs.modCore

protected theorem Inv.expectWrite {s : State} {k line lines cnt ep tx ty : Nat} (hs : Inv s) :
    Inv (expectWrite s k line lines cnt ep tx ty) :=
  hs.modCore

protected theorem Inv.queueReads {s : State} {cl line lines x y spLine cnt : Nat} {via : optParam (Option WinUse) none} (hs : Inv s) :
    Inv (queueReads s cl line lines x y spLine cnt via) :=
  hs.modClu

protected theorem Inv.grantWrite {s : State} {cl x y cnt line lines : Nat} {via : optParam (Option WinUse) none} (hs : Inv s) :
    Inv (grantWrite s cl x y cnt line lines via) :=
  hs.setClu.sendCtrl

protected theorem Inv.requestRead {s : State} {k cl chLine lines spLine cnt : Nat} (hs : Inv s) :
    Inv (requestRead s k cl chLine lines spLine cnt) :=
  .ite hs.expectRead.queueReads hs.expectRead.sendCtrl

protected theorem Inv.requestWrite {s : State} {k cl chLine lines spLine cnt : Nat} (hs : Inv s) :
    Inv (requestWrite s k cl chLine lines spLine cnt) :=
  .ite hs.expectWrite.grantWrite hs.expectWrite.sendCtrl

protected theorem Inv.refuseLines {s : State} {k cnt lines : Nat} {st : Status} (hs : Inv s) : Inv (refuseLines s k cnt lines st) :=
  hs.sendCountOnly

protected theorem Inv.sendSpmLine {s : State} {src k srcLine spLine cnt : Nat} (hs : Inv s) :
    Inv (sendSpmLine s src k srcLine spLine cnt) := by
  unfold sendSpmLine
  extract_lets +onlyGivenNames r s₁
  have h₁ : Inv s₁ := hs.noteRead
  split
  · exact h₁.modCore.countOnlyAt
  · exact h₁.emit

protected theorem Inv.handleRead {s : State} {k p h : Nat} {d : Handle} {off lines spLine cnt : Nat} (hs : Inv s) :
    Inv (handleRead s k p h d off lines spLine cnt) := by
  unfold handleRead
  split
  · split
    · exact hs.expectRead.refuseLines
    · exact hs.expectRead.foldl fun h => h.sendSpmLine
  · exact hs.requestRead

protected theorem Inv.handleWrite {s : State} {k p h : Nat} {d : Handle} {off lines spLine cnt : Nat} (hs : Inv s) :
    Inv (handleWrite s k p h d off lines spLine cnt) := by
  unfold handleWrite
  split
  · split
    · exact hs.expectWrite.refuseLines
    · exact hs.expectWrite.setCore.sendCtrl
  · exact hs.requestWrite

protected theorem Inv.bodyHandle {s : State} {wr : Bool} {i : Issue} {x : Ctx} (hs : Inv s) : Res.Keeps (bodyHandle wr i s x) := by
  unfold bodyHandle
  extract_lets +onlyGivenNames k h off sp n
  split
  · extract_lets +onlyGivenNames p d
    split
    · split
      · exact hs
      · exact hs.handleWrite
    · split
      · exact hs
      · exact hs.handleRead
  · exact hs

protected theorem Inv.bodyHldr {s : State} {i : Issue} {x : Ctx} (hs : Inv s) : Res.Keeps (bodyHldr i s x) := by
  unfold bodyHldr
  extract_lets +onlyGivenNames k h off sp bm len n8 form r u₁ rows top spm
  have hu₁ : Inv u₁ := hs.noteRead
  split
  · split
    · exact hs
    · extract_lets +onlyGivenNames p d
      refine hu₁.foldl fun h₂ => ?_
      split
      exact h₂.handleRead
  · exact .ite hu₁ hs

protected theorem Inv.bodyBase {s : State} {wr : Bool} {i : Issue} {x : Ctx} (hs : Inv s) : Res.Keeps (bodyBase wr i s x) := by
  unfold bodyBase
  extract_lets +onlyGivenNames k off sp n
  split
  · extract_lets +onlyGivenNames ch
    split
    · exact hs.requestWrite
    · split
      · exact hs
      · exact hs.requestRead
  · exact hs

protected theorem Inv.sourceLines {s : State} {k line n : Nat} (hs : Inv s) : Inv (sourceLines s k line n).1 := by
  induction n with
  | zero => exact hs
  | succ n ih =>
    have h := ih.noteRead (k := k) (r := spmRead (sourceLines s k line n).1 k (64 * (line + n)) 64)
    rw [sourceLines]
    dsimp only
    split
    · exact h
    · exact h

protected theorem Inv.rdmaSend {s : State} {sess : Nat} {imm : Option (BitVec 32)} {va : Word} {rkey : BitVec 32} {payload : Bytes}
    {x y cnt lines : Nat} (hs : Inv s) : Inv (rdmaSend s sess imm va rkey payload x y cnt lines) := by
  unfold rdmaSend
  split
  · split
    · extract_lets +onlyGivenNames packets w q s₁
      have h₁ : Inv s₁ := hs.withSessions (Tbl.put_wf hs.sessions)
      exact .ite h₁.emit h₁
    · exact hs
  · exact hs

protected theorem Inv.ownPanel {note : Nat → Nat → Nat → State} {k p off n spLine cnt : Nat} {d : Window} {put : Bool}
    (hn : ∀ {a b c}, Inv (note a b c)) : Inv (ownPanel note k p d off n spLine cnt put) := by
  unfold ownPanel
  extract_lets +onlyGivenNames s far win
  have hs : Inv s := hn
  split
  · exact hs.refuseLines
  · split
    exact .ite (Inv.grantWrite hn) hs.queueReads

protected theorem Inv.bodyWindow {put : Bool} {i : Issue} {s : State} {x : Ctx} (hs : Inv s) : Res.Keeps (bodyWindow put i s x) := by
  unfold bodyWindow
  extract_lets +onlyGivenNames k w off sp n
  split
  · extract_lets +onlyGivenNames p note
    have hnote {ep tx ty : Nat} : Inv (note s ep tx ty) := .ite hs.expectWrite hs.expectRead
    clear_value note
    split
    · exact hs
    · split
      · exact Inv.refuseLines hnote
      · extract_lets +onlyGivenNames d
        split
        · split
          rename_i u l bad e
          have hu : Inv u := (Inv.sourceLines hnote).of_eq e
          exact (Inv.ite hu hu.countOnlyAt).foldl fun h => h.rdmaSend
        · split
          · exact Inv.ownPanel hnote
          · exact Inv.sendCtrl hnote
  · exact hs

/-! ### Fabric -/

protected theorem Inv.sendWith {s : State} {i : Issue} {x : Ctx} {mk : Line → List DataPacket} (hs : Inv s) :
    Res.Keeps (sendWith i s x mk) := by
  unfold sendWith
  extract_lets +onlyGivenNames k r t₁
  have ht₁ : Inv t₁ := hs.noteRead
  split
  · exact ht₁
  · exact ht₁.modCore

protected theorem Inv.bodySend {s : State} {i : Issue} {x : Ctx} (hs : Inv s) : Res.Keeps (bodySend i s x) := by
  unfold bodySend
  extract_lets +onlyGivenNames k dst
  split
  · extract_lets +onlyGivenNames d
    split
    · exact hs
    · exact hs.sendWith
  · exact hs

protected theorem Inv.bodyMsend {i : Issue} {s : State} {x : Ctx} (hs : Inv s) : Res.Keeps (bodyMsend i s x) := by
  unfold bodyMsend
  extract_lets +onlyGivenNames k a
  split
  · extract_lets +onlyGivenNames r t
    have ht : Inv t := hs.noteRead
    clear_value r t
    split
    · exact ht
    · extract_lets +onlyGivenNames d
      split
      · exact ht.illegal
      · split
        · exact hs
        · exact ht.sendWith
  · exact hs

protected theorem Inv.bodyCsend {s : State} {i : Issue} {x : Ctx} (hs : Inv s) : Res.Keeps (bodyCsend i s x) := by
  unfold bodyCsend
  extract_lets +onlyGivenNames k c ok
  split
  · split
    · exact hs
    · exact hs.sendWith
  · exact hs

protected theorem Inv.execCabort {s : State} {i : Issue} (hs : Inv s) : Keeps (execCabort i s) := by
  unfold execCabort
  refine Keeps.next (hs.issue fun h₁ => ?_)
  extract_lets +onlyGivenNames k
  split
  · exact h₁.illegal
  · exact h₁.sendCtrl

protected theorem Inv.execArm {s : State} {i : Issue} (hs : Inv s) : Keeps (execArm i s) := by
  unfold execArm
  refine Keeps.next (hs.issue fun h₁ => ?_)
  extract_lets +onlyGivenNames k c v
  split
  · exact h₁.illegal
  · exact h₁.setCore

protected theorem Inv.execWaitc {s : State} {i : Issue} (hs : Inv s) : Keeps (execWaitc i s) := by
  unfold execWaitc
  refine Keeps.next (hs.issue fun h₁ => ?_)
  split
  · exact h₁.illegal
  · exact h₁

protected theorem Inv.execWaitcComplete {s : State} {core ctx : Nat} (hs : Inv s) : Keeps (execWaitcComplete core ctx s) := by
  unfold execWaitcComplete
  refine Keeps.next ?_
  split
  · exact hs
  · exact .ite hs (hs.settle hs.setCore)

protected theorem Inv.endWait {s t : State} {k n : Nat} (ht : Inv t) : Inv (endWait s t k n) := by
  unfold endWait
  split
  · exact ht.bumpFree.retirePoint ht
  · exact ht.retirePoint ht

protected theorem Inv.execWaitcUeFault {s : State} {core ctx : Nat} (hs : Inv s) : Keeps (execWaitcUeFault core ctx s) := by
  unfold execWaitcUeFault
  refine Keeps.next ?_
  split
  · exact hs
  · exact .ite hs (hs.settle hs.bumpFree)

protected theorem Inv.execArrivalDeadlineExpiry {s : State} {core ctx : Nat} (hs : Inv s) :
    Keeps (execArrivalDeadlineExpiry core ctx s) := by
  unfold execArrivalDeadlineExpiry
  refine Keeps.next ?_
  split
  · exact hs
  · exact .ite hs (hs.settle hs.bumpFree)

protected theorem Inv.markForeign {s : State} {k cnt : Nat} (hs : Inv s) : Inv (markForeign s k cnt) := .ite hs.modCtx hs

protected theorem Inv.arriveLine {s : State} {k cnt line : Nat} {v : Line} {last : Option (BitVec 16)} {own : Bool} (hs : Inv s) :
    Inv (arriveLine s k cnt line v last own) := by
  unfold arriveLine
  extract_lets +onlyGivenNames s1₁
  have h1₁ : Inv s1₁ := hs.modCore
  split
  · exact hs
  · split
    · exact h1₁.discardLine
    · exact (Inv.ite h1₁.spmArrive h1₁.spmArrive.markForeign).modCore

protected theorem Inv.execLineArrival {s : State} {core : Nat} {p : DataPacket} (hs : Inv s) : Keeps (execLineArrival core p s) := by
  unfold execLineArrival
  refine Keeps.next ?_
  split
  · exact hs.arriveLine
  · exact .ite hs hs.arriveLine
  · exact hs

protected theorem Inv.execNote {s : State} {core : Nat} {p : DataPacket} (hs : Inv s) : Keeps (execNote core p s) := by
  unfold execNote
  refine Keeps.next ?_
  split
  · exact .ite hs.modCore hs
  · exact hs

protected theorem Inv.forgetSeq {s : State} {ep : BitVec 2} {x y : Nat} {tag : BitVec 16} {seq : Nat} (hs : Inv s) :
    Inv (forgetSeq s ep x y tag seq) := by
  unfold forgetSeq
  split
  · exact hs.modClu
  · split
    · exact hs.modCore
    · split
      · exact hs
      · extract_lets +onlyGivenNames o
        split
        · exact hs
        · exact .ite hs hs.frame

protected theorem Inv.sendGranted {s : State} {k x y first n : Nat} {ep : BitVec 2} {tag : BitVec 16} {w : CoreXfer} (hs : Inv s) :
    Inv (sendGranted s k ep x y tag w first n) := by
  induction n with
  | zero => exact hs
  | succ n ih =>
    have h := ih.noteRead (k := k) (r := spmRead (sendGranted s k ep x y tag w first n) k (64 * (w.line + (first + n))) 64)
    rw [sendGranted]
    split
    · exact h.modCore.countOnlyAt.forgetSeq
    · exact h.emit

protected theorem Inv.takeGrant {s : State} {k : Nat} {ep : CoreXfer → Bool} {p : CtrlPacket} (hs : Inv s) :
    Inv (takeGrant s k ep p) := by
  unfold takeGrant
  extract_lets +onlyGivenNames tag x y mine c pick
  clear_value pick
  split
  · exact hs
  · exact hs.modCore.sendGranted

protected theorem Inv.taggedAtCore {s : State} {k : Nat} {tag : BitVec 16} {seq : Nat} {v : Line} (hs : Inv s) :
    Inv (taggedAtCore s k tag seq v) := by
  unfold taggedAtCore
  split
  · exact hs
  · split
    · exact hs
    · extract_lets +onlyGivenNames s₁
      have h₁ : Inv s₁ := hs.forgetSeq
      exact .ite h₁.arriveLine (Inv.ite h₁.sendCtrl h₁.spmArrive.sendCtrl)

protected theorem Inv.taggedAtChannel {s : State} {cl : Nat} {tag : BitVec 16} {seq : Nat} {v : Line} (hs : Inv s) :
    Inv (taggedAtChannel s cl tag seq v) := by
  unfold taggedAtChannel
  split
  · exact hs
  · exact .ite hs hs.forgetSeq.modClu

protected theorem Inv.execTaggedLineTimeout {s : State} {cl tag : Nat} (hs : Inv s) : Keeps (execTaggedLineTimeout cl tag s) := by
  unfold execTaggedLineTimeout
  refine Keeps.next ?_
  split
  · exact hs
  · exact .ite hs hs.modClu.sendCountOnly

/-! ### Router -/

protected theorem Inv.noteDiscard {s : State} {k side n : Nat} (hs : Inv s) : Inv (noteDiscard s k side n) := by
  unfold noteDiscard
  split
  · exact hs
  · exact .ite hs (Inv.ite hs.frame.frame hs.frame)

protected theorem Inv.sendFlit {s : State} {k clock o : Nat} {p : DataPacket} (hs : Inv s) : Inv (sendFlit s k clock o p) := by
  unfold sendFlit
  split
  split
  · exact hs
  · split
    exact hs.emit

protected theorem Inv.handOver {s : State} {k out ep : Nat} {p : DataPacket} (hs : Inv s) : Inv (handOver s k out ep p) :=
  (Inv.ite hs.modClu hs).emit

protected theorem Inv.dropMisc {s : State} {k : Nat} (hs : Inv s) : Inv (dropMisc s k) := hs.modClu

protected theorem Inv.dropHops {s : State} {k : Nat} (hs : Inv s) : Inv (dropHops s k) := hs.modClu

protected theorem Inv.dropUnreach {s : State} {k : Nat} (hs : Inv s) : Inv (dropUnreach s k) := hs.modClu

protected theorem Inv.countDeflect {s : State} {k : Nat} (hs : Inv s) : Inv (countDeflect s k) := hs.modClu

protected theorem Inv.noteDrop {s : State} {k : Nat} {a : Drop} (hs : Inv s) : Inv (noteDrop s k a) := by
  unfold noteDrop
  split
  · exact hs.dropHops
  · exact hs.dropUnreach
  · exact hs.dropMisc
  · exact hs

protected theorem Inv.doHop {s t : State} {k clock : Nat} {p : DataPacket} {a : Hop} (hs : Inv s) (ht : doHop s k clock p a = some t) :
    Inv t := by
  cases a with
  | drop d => exact Option.some.inj ht ▸ hs.noteDrop
  | take o ep => exact Option.some.inj ht ▸ hs.handOver
  | split own l late =>
    refine Option.some.inj ht ▸ Inv.foldl (.ite (Inv.dropHops ?_) ?_) fun h => h.sendFlit
    all_goals
      split
      · exact hs.handOver
      · exact hs
  | whole o deflected => exact Option.some.inj ht ▸ (Inv.ite hs.countDeflect hs).sendFlit
  | held => cases ht

protected theorem Inv.circuitCopy {s t : State} {k inp clock : Nat} {p : DataPacket} (hs : Inv s)
    (ht : circuitCopy s k inp clock p = some t) : Inv t := by
  unfold circuitCopy at ht
  extract_lets outs late s₁ at ht
  split at ht
  case isTrue => cases ht
  case isFalse =>
    have h₁ : Inv s₁ := .ite hs.dropHops hs
    exact Option.some.inj ht ▸ h₁.foldl fun h => .ite (.ite h h.sendFlit) h.handOver

protected theorem Inv.execDataPacketAtRouter {router inp : Nat} {k : RouterClock} {p : DataPacket} {crc : BitVec 32} {s : State}
    (hs : Inv s) : Keeps (execDataPacketAtRouter router inp k p crc s) := by
  refine Keeps.next (.ite hs (.ite (.ite hs.noteDiscard.modClu (.ite (.ite hs.dropMisc ?_) ?_)) (.ite ?_ ?_)))
  · exact hs.dropMisc.getD fun h => hs.circuitCopy h
  · exact hs.getD fun h => hs.doHop h
  · exact hs.getD fun h => hs.circuitCopy h
  · exact hs.getD fun h => hs.doHop h

protected theorem Inv.execRouterInjectionAccept {s : State} {core : Nat} {k : RouterClock} (hs : Inv s) :
    Keeps (execRouterInjectionAccept core k s) := by
  refine Keeps.next (.ite hs ?_)
  split
  · exact hs
  · extract_lets p s₁ sent
    have h₁ : Inv s₁ := hs.modCore
    have hsent {t : State} (ht : sent = some t) : Inv t := by
      unfold sent at ht
      split at ht
      · exact Inv.circuitCopy h₁ ht
      · exact Inv.doHop h₁ ht
    clear_value sent
    split
    · exact hs
    · have ht := hsent rfl
      split
      · exact .ite (hs.settle ht) ht.modCtx
      · exact ht

protected theorem Inv.doCtrlHop {s : State} {k plane : Nat} {past : Bool} {p : CtrlPacket} {a : CtrlHop} (hs : Inv s) :
    Inv (doCtrlHop s k plane past p a) := by
  unfold doCtrlHop
  split
  · exact hs.noteDrop
  · exact hs.emit
  · exact hs
  · split
    · exact hs
    · split
      exact (Inv.ite hs.countDeflect hs).emit

/-! ### Posting -/

protected theorem Inv.modSess {s : State} {n : Nat} {f : Session → Session} (hs : Inv s) : Inv (modSess s n f) := by
  unfold modSess
  split
  · exact hs.withSessions (Tbl.put_wf hs.sessions)
  · exact hs

protected theorem Inv.launchFrame {s : State} {u : EscSent} (hs : Inv s) : Inv (launchFrame s u) := .ite hs hs.frame.emit

protected theorem Inv.escrowLine {s : State} {kind key : Nat} {v : Line} (hs : Inv s) : Inv (escrowLine s kind key v) :=
  hs.frame.launchFrame

protected theorem Inv.escrowSend {s : State} {kind key req : Nat} {body : Bytes} (hs : Inv s) : Inv (escrowSend s kind key req body) :=
  .ite (hs.foldl fun h => h.escrowLine) hs

protected theorem Inv.changeHandle {s : State} {p h : Nat} {d : Handle} (hs : Inv s) : Inv (changeHandle s p h d) := hs.setPart.emit

protected theorem Inv.closeEverywhere {s : State} {p w : Nat} (hs : Inv s) : Inv (closeEverywhere s p w) := hs.setPart

protected theorem Inv.startInval {s : State} {p h : Nat} (hs : Inv s) : Inv (startInval s p h) := hs.modPart

protected theorem Inv.invalidateHandle {s : State} {p h : Nat} (hs : Inv s) : Inv (invalidateHandle s p h) := by
  unfold invalidateHandle
  extract_lets +onlyGivenNames d s₁ onIt s₂
  have h₁ : Inv s₁ := hs.changeHandle
  have h₂ : Inv s₂ := h₁.foldl fun h => h.closeEverywhere
  exact .ite h₂ h₂.startInval

protected theorem Inv.closeRequest {s : State} {req : Nat} {st : Status} (hs : Inv s) : Inv (closeRequest s req st) := by
  unfold closeRequest
  split
  · exact hs
  · extract_lets +onlyGivenNames s₁ s₂
    have h₁ : Inv s₁ := hs.withRequests (Tbl.put_wf hs.requests)
    have h₂ : Inv s₂ := h₁.foldl fun h => h.invalidateHandle
    exact h₂.escrowSend

protected theorem Inv.failLines {s : State} {l : List QpWrite} {st : Status} (hs : Inv s) : Inv (failLines s l st) :=
  hs.foldl fun h => Inv.ite h h.sendCtrl

protected theorem Inv.dropSession {s : State} {n : Nat} (hs : Inv s) : Inv (dropSession s n) := by
  unfold dropSession
  extract_lets +onlyGivenNames s₁ out s₂ ps gs rs
  have h₁ : Inv s₁ := hs.foldl fun h => h.closeRequest
  have h₂ : Inv s₂ := h₁.failLines
  exact .intro h₂.mem (Tbl.map_wf h₂.parts) (Tbl.map_wf h₂.requests) (Tbl.drop_wf h₂.sessions)

protected theorem Inv.sendMsg {s : State} {n port : Nat} {m : Msg} (hs : Inv s) : Inv (sendMsg s n port m) := by
  unfold sendMsg
  split
  · exact hs
  · split
    · exact hs.dropSession
    · exact .ite hs (hs.withSessions (Tbl.put_wf hs.sessions)).emit

protected theorem Inv.sendCompletion {s : State} {r : Reply} {st : Status} {p : Bytes} {interim resend : Bool} (hs : Inv s) :
    Inv (sendCompletion s r st p interim resend) :=
  hs.sendMsg

protected theorem Inv.complete {s : State} {r : Reply} {st : Status} {p : Bytes} (hs : Inv s) : Inv (complete s r st p) := by
  unfold complete
  split
  · exact hs
  · exact .ite hs (hs.withSessions (Tbl.put_wf hs.sessions)).sendCompletion

protected theorem Inv.completeAfter {s : State} {r : Reply} {st : Status} {p : Bytes} {changes : List (Nat × Nat)} {seqs : List Nat}
    (hs : Inv s) : Inv (completeAfter s r st p changes seqs) :=
  .ite hs.complete hs.frame

protected theorem Inv.sendReady {s : State} (hs : Inv s) : Inv (sendReady s) := hs.frame.foldl fun h => h.complete

protected theorem Inv.sendEvent {s : State} {n eseq : Nat} (hs : Inv s) : Inv (sendEvent s n eseq) := by
  unfold sendEvent
  split
  · exact hs
  · split
    · exact hs
    · exact (hs.withSessions (Tbl.put_wf hs.sessions)).sendMsg

protected theorem Inv.eventTo {s : State} {n code : Nat} {body : Bytes} (hs : Inv s) : Inv (eventTo s n code body) := by
  unfold eventTo
  split
  · exact hs
  · split
    · exact hs.withSessions (Tbl.put_wf hs.sessions)
    · exact (hs.withSessions (Tbl.put_wf hs.sessions)).sendEvent

protected theorem Inv.postEvent {s : State} {code : Nat} {body : Bytes} (hs : Inv s) : Inv (postEvent s code body) :=
  hs.foldl fun h => Inv.ite h.eventTo h

protected theorem Inv.faultEvent {s : State} {domain part : Nat} {st : Status} {rung : Nat} {extra : Bytes} (hs : Inv s) :
    Inv (faultEvent s domain part st rung extra) :=
  hs.postEvent

protected theorem Inv.powerEvent {s : State} {cause half value : Nat} (hs : Inv s) : Inv (powerEvent s cause half value) := hs.postEvent

protected theorem Inv.twinEvent {s : State} {cause : Nat} (hs : Inv s) : Inv (twinEvent s cause) := hs.postEvent

protected theorem Inv.hubEvent {s : State} {hub cause : Nat} (hs : Inv s) : Inv (hubEvent s hub cause) := hs.postEvent

protected theorem Inv.guestEvent {s : State} {site cause : Nat} {gclass : BitVec 16} (hs : Inv s) :
    Inv (guestEvent s site cause gclass) :=
  hs.postEvent

protected theorem Inv.dramEvent {s : State} {site cluster line handle cause : Nat} (hs : Inv s) :
    Inv (dramEvent s site cluster line handle cause) :=
  hs.postEvent

protected theorem Inv.jobEvent {s : State} {job : Nat} {st : Status} {epoch : BitVec 32} {lost : List Nat} (hs : Inv s) :
    Inv (jobEvent s job st epoch lost) :=
  hs.postEvent

protected theorem Inv.postReceipt {s : State} {r : Request} {req : Nat} (hs : Inv s) : Inv (postReceipt s r req) := hs.eventTo

protected theorem Inv.requestDone {s : State} {req : Nat} (hs : Inv s) : Inv (requestDone s req) := by
  unfold requestDone
  split
  · exact hs
  · split
    · exact hs
    · extract_lets +onlyGivenNames s₁
      have h₁ : Inv s₁ := hs.withRequests (Tbl.put_wf hs.requests)
      exact .ite h₁.postReceipt h₁

protected theorem Inv.transmit {s : State} {n sseq : Nat} (hs : Inv s) : Inv (transmit s n sseq) := by
  unfold transmit
  split
  · exact hs
  · split
    · exact hs
    · split
      · exact hs
      · extract_lets +onlyGivenNames p rd need at0 d' t' s₁ s₂ w s₃
        have h₁ : Inv s₁ := .ite hs.modHub hs
        have h₂ : Inv s₂ := h₁.withSessions (Tbl.put_wf h₁.sessions)
        extract_lets +onlyGivenNames s₄
        have h₄ : Inv s₄ := .ite h₂.rdmaSend h₂.sendMsg
        exact .ite (h₄.foldl fun h => h.requestDone) h₄

protected theorem Inv.sendEach {s : State} {n : Nat} {l : List Nat} (hs : Inv s) : Inv (sendEach n l s) := by
  induction l generalizing s with
  | nil => exact hs
  | cons q l ih =>
    rw [sendEach]
    split
    · exact ih hs
    · exact .ite (ih hs.transmit) hs

protected theorem Inv.sendWaiting {s : State} {n : Nat} (hs : Inv s) : Inv (sendWaiting s n) := by
  unfold sendWaiting
  split
  · exact hs
  · exact .ite hs hs.sendEach

protected theorem Inv.pushDatagram {s : State} {n : Nat} {blocks : List Bytes} (hs : Inv s) : Inv (pushDatagram s n blocks) := by
  unfold pushDatagram
  split
  · exact hs
  · exact (hs.withSessions (Tbl.put_wf hs.sessions)).sendWaiting

protected theorem Inv.pushBlocks {s : State} {n : Nat} {blocks : List Bytes} (hs : Inv s) : Inv (pushBlocks s n blocks) :=
  hs.foldl fun h => h.pushDatagram

protected theorem Inv.pushOne {s : State} {req : Nat} {block : Bytes} (hs : Inv s) : Inv (pushOne s req block) := by
  unfold pushOne
  split
  · exact hs
  · split
    · exact hs.frame
    · exact hs.pushBlocks

protected theorem Inv.endRequest {s : State} {req : Nat} {st : Status} (hs : Inv s) : Inv (endRequest s req st) := by
  unfold endRequest
  split
  · exact hs
  · exact .ite hs hs.closeRequest.pushOne

protected theorem Inv.endSession {s : State} {n : Nat} (hs : Inv s) : Inv (endSession s n) := (hs.foldl fun h => h.endRequest).dropSession

protected theorem Inv.resendAll {s : State} {n : Nat} (hs : Inv s) : Inv (resendAll s n) := by
  unfold resendAll
  split
  · exact hs
  · exact (hs.foldl fun h => h.transmit).sendWaiting

/-! ### Ledger -/

protected theorem Inv.bindKv {s : State} {p n : Nat} (hs : Inv s) : Inv (bindKv s p n).1 := by
  unfold bindKv
  extract_lets +onlyGivenNames q g
  split
  · exact hs.changeHandle
  · exact hs

protected theorem Inv.admitReq {s : State} {sess : Nat} {sub : SubFields} {cls : Nat} (hs : Inv s) : Inv (admitReq s sess sub cls).1 := by
  unfold admitReq
  extract_lets +onlyGivenNames req ps rates
  split
  rename_i s₁ _ e₁
  have h₁ : Inv s₁ := by
    refine Inv.of_eq ?_ e₁
    refine hs.foldl_fst fun h₂ => ?_
    split
    · rename_i s₃ _ e₃
      exact h₂.bindKv.of_eq e₃
    · rename_i s₄ e₄
      exact h₂.bindKv.of_eq e₄
  extract_lets +onlyGivenNames s₅ s₆
  have h₅ : Inv s₅ := h₁.foldl fun h => h.modPart
  have h₆ : Inv s₆ := h₅.withRequests (Tbl.put_wf h₅.requests)
  exact h₆.escrowSend

/-! ### Report -/

protected theorem Inv.renewReport {s : State} {n : Nat} (hs : Inv s) : Inv (renewReport s n) := by
  unfold renewReport
  split
  · exact hs
  · exact hs.withSessions (Tbl.put_wf hs.sessions)

protected theorem Inv.withReports {s t : State} (ht : Inv t) : Inv (withReports s t) :=
  .ite ht (.ite ht (ht.foldl fun h => h.renewReport))

theorem Keeps.report {s t : State} (ht : Inv t) : Keeps (report s t) := .next ht.withReports

/-! ### Recovery -/

protected theorem Inv.vaultPut {s : State} {type key : Nat} {body : Bytes} {signed : Bool} (hs : Inv s) :
    Inv (vaultPut s type key body signed) :=
  hs.frame

protected theorem Inv.afterWrites {s : State} {a : VaultAct} (hs : Inv s) : Inv (afterWrites s a) := hs.frame

protected theorem Inv.vaultRedundancy {s : State} {kind site cluster side index data : Nat} (hs : Inv s) :
    Inv (vaultRedundancy s kind site cluster side index data) :=
  hs.vaultPut

protected theorem Inv.loadBytes {s : State} {k a : Nat} {b : Bytes} (hs : Inv s) : Inv (loadBytes s k a b) := hs.foldl fun h => h.spmWrite

protected theorem Inv.loadData {s : State} {k : Nat} {img : Bytes} (hs : Inv s) : Inv (loadData s k img) := hs.loadBytes

protected theorem Inv.writeUnits {s : State} {p k : Nat} (hs : Inv s) : Inv (writeUnits s p k) := hs.loadBytes

protected theorem Inv.launchCtx {s : State} {p k n start : Nat} {img : Bytes} (hs : Inv s) : Inv (launchCtx s p k n start img) :=
  (((((Inv.ite hs.noteTaskEnd hs).setPart).modCore).loadData).modCore).setCtx

protected theorem Inv.launchCore {s : State} {p k : Nat} (hs : Inv s) : Inv (launchCore s p k) := by
  unfold launchCore
  extract_lets +onlyGivenNames s₁
  have h₁ : Inv s₁ := hs.writeUnits.modCore
  refine h₁.foldl fun h₂ => ?_
  split
  · exact .ite h₂ h₂.launchCtx
  · exact h₂

protected theorem Inv.launchPart {s : State} {p : Nat} (hs : Inv s) : Inv (launchPart s p) := hs.foldl fun h => h.launchCore

protected theorem Inv.relaunchPart {s : State} {p : Nat} (hs : Inv s) : Inv (relaunchPart s p) := .ite hs hs.launchPart

protected theorem Inv.writeBank {s : State} {ps : List Nat} (hs : Inv s) : Inv (writeBank s ps) :=
  ((Inv.ite hs.frame hs.frame).frame).emit

protected theorem Inv.startEpoch {s : State} {ps : List Nat} (hs : Inv s) : Inv (startEpoch s ps) := .ite hs.frame hs.writeBank

protected theorem Inv.tryAnnounce {s : State} (hs : Inv s) : Inv (tryAnnounce s) := .ite hs.frame.emit hs

protected theorem Inv.setNumbering {s : State} {p : Nat} (hs : Inv s) : Inv (setNumbering s p) := hs.modPart

protected theorem Inv.buildDist {s : State} {p : Nat} (hs : Inv s) : Inv (buildDist s p) := hs.modPart

protected theorem Inv.renumber {s : State} {p : Nat} (hs : Inv s) : Inv (renumber s p) := hs.setNumbering.startEpoch.buildDist

protected theorem Inv.renumberAfter {s : State} {p : Nat} {full : Bool} (hs : Inv s) : Inv (renumberAfter s p full) :=
  .ite hs.modPart (Inv.ite hs.renumber hs.setNumbering)

protected theorem Inv.renumberNow {s : State} {p : Nat} (hs : Inv s) : Inv (renumberNow s p) := by
  unfold renumberNow
  split
  · exact hs
  · exact .ite hs.modPart.renumber hs.modPart.setNumbering

protected theorem Inv.relocated {s : State} {p : Nat} {units : Option (Tbl (List Nat))} (hs : Inv s) : Inv (relocated s p units).1 := by
  unfold relocated
  split
  · exact hs.modPart
  · exact hs

protected theorem Inv.relocateCore {s : State} {p k : Nat} (hs : Inv s) : Inv (relocateCore s p k).1 := by
  unfold relocateCore
  extract_lets +onlyGivenNames q others
  exact hs.relocated

protected theorem Inv.relocateCluster {s : State} {p cl : Nat} (hs : Inv s) : Inv (relocateCluster s p cl).1 := by
  unfold relocateCluster
  extract_lets +onlyGivenNames q mine us units cls coresOf pick
  exact hs.relocated

protected theorem Inv.parkCluster {s : State} {cl : Nat} (hs : Inv s) : Inv (parkCluster s cl) := hs.modClu

protected theorem Inv.startRamp {s : State} {h : Nat} {t : Word} {aux : Bool} (hs : Inv s) : Inv (startRamp s h t aux) := hs.modHalf

protected theorem Inv.mfrRampdown {s : State} {h arg : Nat} (hs : Inv s) : Inv (mfrRampdown s h arg) := hs.emit

protected theorem Inv.requestWake {s : State} {cl : Nat} (hs : Inv s) : Inv (requestWake s cl) := .ite hs hs.modDie

protected theorem Inv.nextWake {s : State} {site : Nat} (hs : Inv s) : Inv (nextWake s site) := hs.modDie

protected theorem Inv.modGuest {s : State} {g : Nat} {f : Guest → Guest} (hs : Inv s) : Inv (modGuest s g f) := hs.frame

protected theorem Inv.sendPlp {s : State} {site mtype : Nat} {tag : BitVec 12} {st : Status} {arg : Word} {v : Option Line} (hs : Inv s) :
    Inv (sendPlp s site mtype tag st arg v) :=
  hs.emit

protected theorem Inv.undefineLine {s : State} {place : Option (Bool × Nat × Nat)} (hs : Inv s) : Inv (undefineLine s place) := by
  unfold undefineLine
  split
  · exact hs
  · exact hs.spmArrive.bumpFree
  · exact (hs.withMem (Mem.writeN_wf _ _ _ _ hs.mem)).bumpFree

protected theorem Inv.answerGuest {s : State} {site : Nat} {r : GuestReq} {st : Status} {v : Option Line} (hs : Inv s) :
    Inv (answerGuest s site r st v) :=
  (Inv.ite hs.undefineLine hs).sendPlp

protected theorem Inv.sendNotice {s : State} {site bits : Nat} (hs : Inv s) : Inv (sendNotice s site bits) := .ite hs.sendPlp hs

protected theorem Inv.fenceSite {s : State} {site cause : Nat} (hs : Inv s) : Inv (fenceSite s site cause) := by
  unfold fenceSite
  extract_lets +onlyGivenNames g
  split
  · exact hs
  · exact (hs.foldl fun h => h.answerGuest).modGuest.sendNotice.guestEvent

protected theorem Inv.dropWant {s : State} {site : Nat} (hs : Inv s) : Inv (dropWant s site) := by
  unfold dropWant
  extract_lets +onlyGivenNames g
  split
  · exact hs.modGuest.complete
  · exact hs

protected theorem Inv.fenceClosed {s : State} {site cause : Nat} (hs : Inv s) : Inv (fenceClosed s site cause) :=
  hs.dropWant.modGuest.fenceSite

protected theorem Inv.closeSites {s : State} {sites : List Nat} (hs : Inv s) : Inv (closeSites s sites) := hs.foldl fun h => h.fenceClosed

protected theorem Inv.raiseAlert {s : State} (hs : Inv s) : Inv (raiseAlert s) :=
  hs.foldl fun h => Inv.ite h (Inv.ite h.setHub.emit.emit h.setHub.emit)

protected theorem Inv.fenceCtx {s : State} {k n : Nat} (hs : Inv s) : Inv (fenceCtx s k n) :=
  .ite hs.modCtx (Inv.ite hs.modCtx hs.modCtx.endWait)

protected theorem Inv.stopCtx {s : State} {k n : Nat} (hs : Inv s) : Inv (stopCtx s k n) :=
  .ite hs.modCtx (hs.modCtx.retirePoint hs.modCtx)

protected theorem Inv.unfenceCtx {s : State} {k n : Nat} (hs : Inv s) : Inv (unfenceCtx s k n) := .ite hs hs.modCtx

protected theorem Inv.resetEngine {s : State} {k e : Nat} (hs : Inv s) : Inv (resetEngine s k e) := hs.modCore

protected theorem Inv.wipeCore {s : State} {k : Nat} (hs : Inv s) : Inv (wipeCore s k) := by
  unfold wipeCore
  extract_lets c lo s₁
  have h₁ : Inv s₁ := hs.foldl fun h => h.noteTaskEnd
  exact Inv.setCore (.intro (Memory.filter_wf _ _ h₁.mem) h₁.parts h₁.requests h₁.sessions)

protected theorem Inv.resetCore {s : State} {k : Nat} (hs : Inv s) : Inv (resetCore s k) :=
  ((hs.foldl fun h => Inv.ite h h.sendCtrl).wipeCore).ackFences

protected theorem Inv.recalDone {s : State} {cl : Nat} (hs : Inv s) : Inv (recalDone s cl) := hs.modClu.foldl fun h => h.complete

protected theorem Inv.resetCluster {s : State} {cl : Nat} (hs : Inv s) : Inv (resetCluster s cl) := hs.modClu.recalDone

protected theorem Inv.parkOff {s : State} {cl : Nat} (hs : Inv s) : Inv (parkOff s cl) := (hs.foldl fun h => h.resetCore).parkCluster

protected theorem Inv.enterSafe {s : State} {cause : Nat} (hs : Inv s) : Inv (enterSafe s cause) := by
  unfold enterSafe
  split
  · exact hs
  · extract_lets +onlyGivenNames s₁ s₂ s₃ s₄ s₅
    have h₁ : Inv s₁ := hs.frame.raiseAlert
    have h₃ : Inv s₃ := h₁.frame.vaultPut
    have h₄ : Inv s₄ := h₃.foldl fun h => h.endRequest
    have h₅ : Inv s₅ := h₄.closeSites
    exact (h₅.withParts (Tbl.map_wf h₅.parts)).foldl fun h => h.parkOff

protected theorem Inv.requestPowerCycle {s : State} (hs : Inv s) : Inv (requestPowerCycle s) := .ite hs hs.frame.emit.raiseAlert

protected theorem Inv.countReset {s : State} (hs : Inv s) : Inv (countReset s) := .ite hs.frame.enterSafe.requestPowerCycle hs.frame

protected theorem Inv.resetChans {s : State} {p : Nat} (hs : Inv s) : Inv (resetChans s p) := hs.frame.modPart.foldl fun h => h.modClu

protected theorem Inv.resetJobChans {s : State} {j : Nat} (hs : Inv s) : Inv (resetJobChans s j) :=
  (hs.foldl fun h => h.resetChans).modJob

protected theorem Inv.resetFenced {s : State} {j : Nat} (hs : Inv s) : Inv (resetFenced s j) :=
  .ite (hs.resetJobChans.modJob.foldl fun h => h.renumberNow) hs

protected theorem Inv.dropSteps {s : State} {j : Nat} (hs : Inv s) : Inv (dropSteps s j) :=
  (hs.modJob.foldl fun h => h.modPart).tryAnnounce

protected theorem Inv.quitSteps {s : State} {j : Nat} (hs : Inv s) : Inv (quitSteps s j) := hs.dropSteps.resetJobChans.modJob

protected theorem Inv.recompute {s : State} {req : Nat} (hs : Inv s) : Inv (recompute s req) := by
  unfold recompute
  split
  · exact hs
  · split
    · exact hs
    · extract_lets +onlyGivenNames s₁
      have h₁ : Inv s₁ := by
        unfold s₁
        split
        · exact hs.modJob
        · exact hs
      exact h₁.withRequests (Tbl.put_wf h₁.requests)

protected theorem Inv.sendFence {s : State} {cl scope mask eng pos : Nat} {un : Bool} (hs : Inv s) :
    Inv (sendFence s cl scope mask eng pos un) :=
  hs.sendCtrl

protected theorem Inv.awaitAck {s : State} {j cl body : Nat} (hs : Inv s) : Inv (awaitAck s j cl body) := hs.modJob

protected theorem Inv.fenceFor {s : State} {j cl scope mask eng pos : Nat} (hs : Inv s) : Inv (fenceFor s j cl scope mask eng pos) :=
  hs.sendFence.awaitAck

protected theorem Inv.forgetAcks {s : State} {cl : Nat} (hs : Inv s) : Inv (forgetAcks s cl) := hs.modClu.frame

protected theorem Inv.recomputeJob {s : State} {j : Nat} (hs : Inv s) : Inv (recomputeJob s j) := hs.foldl fun h => h.recompute

protected theorem Inv.fencePart {s : State} {p : Nat} (hs : Inv s) : Inv (fencePart s p) := hs.modPart

protected theorem Inv.unfencePart {s : State} {p : Nat} (hs : Inv s) : Inv (unfencePart s p) := hs.modPart

protected theorem Inv.fenceWaitsEnd {s : State} {cls : List Nat} (hs : Inv s) : Inv (fenceWaitsEnd s cls) :=
  hs.frame.foldl fun h => h.complete

protected theorem Inv.fenceEnded {s : State} {p : Nat} (hs : Inv s) : Inv (fenceEnded s p) := by
  unfold fenceEnded
  split
  · exact hs
  · extract_lets +onlyGivenNames s₁ s₂
    have h₁ : Inv s₁ := hs.modPart
    have h₂ : Inv s₂ := by
      unfold s₂
      split
      · exact h₁.complete
      · exact h₁
    split
    · exact h₂
    · exact .ite h₂ h₂.frame.complete

protected theorem Inv.noteRung {s : State} {r : Nat} (hs : Inv s) : Inv (noteRung s r) := hs.frame

protected theorem Inv.noSpare {s : State} {p : Nat} (hs : Inv s) : Inv (noSpare s p) :=
  ((hs.fencePart.foldl fun h => h.endRequest).quitSteps).modPart

protected theorem Inv.loseCore {s : State} {k : Nat} (hs : Inv s) : Inv (loseCore s k) := by
  unfold loseCore
  split
  · exact hs.modCore
  · extract_lets +onlyGivenNames s₁
    have h₁ : Inv s₁ := hs.foldl fun h => h.stopCtx
    split
    rename_i s₂ _ e₂
    have h₂ : Inv s₂ := h₁.relocateCore.of_eq e₂
    extract_lets +onlyGivenNames s₃ s₄
    have h₃ : Inv s₃ := h₂.modCore
    have h₄ : Inv s₄ := h₃.renumberAfter.faultEvent
    exact .ite h₄ h₄.noSpare

protected theorem Inv.replaceDie {s : State} {p site : Nat} (hs : Inv s) : Inv (replaceDie s p site) := by
  unfold replaceDie
  split
  · exact hs.modDie.noSpare
  · extract_lets +onlyGivenNames s₁ s₂ s₃ s₄ move units s₅
    have h₁ : Inv s₁ := hs.modDie
    have h₂ : Inv s₂ := h₁.vaultRedundancy
    have h₃ : Inv s₃ := h₂.modDie
    have h₄ : Inv s₄ := h₃.foldl fun h => h.requestWake
    have h₅ : Inv s₅ := h₄.modPart
    exact h₅.frame

protected theorem Inv.losePartDies {s : State} {p : Nat} {sites : List Nat} {domain : Nat} (hs : Inv s) :
    Inv (losePartDies s p sites domain) := by
  unfold losePartDies
  extract_lets +onlyGivenNames q s₁
  have h₁ : Inv s₁ := .ite hs hs.faultEvent
  exact (h₁.foldl fun h => h.replaceDie).renumberAfter.recomputeJob

protected theorem Inv.stopCores {s : State} {cls : List Nat} (hs : Inv s) : Inv (stopCores s cls) := by
  unfold stopCores
  extract_lets +onlyGivenNames s₁
  have h₁ : Inv s₁ := hs.foldl fun h => h.foldl fun h' => h'.stopCtx
  exact h₁.foldl fun h => Inv.ite h.forgetAcks h

protected theorem Inv.loseDies {s : State} {sites : List Nat} {domain : Nat} (hs : Inv s) : Inv (loseDies s sites domain) := by
  unfold loseDies
  extract_lets +onlyGivenNames s₁ s₂ ps s₃
  have h₁ : Inv s₁ := hs.stopCores
  have h₂ : Inv s₂ := (h₁.foldl fun h => h.modDie).startEpoch
  have h₃ : Inv s₃ := h₂.foldl fun h => h.modDie
  exact h₃.foldl fun h => h.losePartDies

protected theorem Inv.loseCluster {s : State} {cl : Nat} {channelOut : Bool} (hs : Inv s) : Inv (loseCluster s cl channelOut) := by
  unfold loseCluster
  extract_lets +onlyGivenNames waking s₁ s₂ s₃
  have h₁ : Inv s₁ := hs.stopCores.modClu
  have h₂ : Inv s₂ := h₁.modDie
  have h₃ : Inv s₃ := .ite h₂.nextWake h₂
  split
  · exact h₃
  · split
    · exact h₃.loseDies
    · split
      rename_i s₄ _ e₄
      have h₄ : Inv s₄ := h₃.relocateCluster.of_eq e₄
      extract_lets +onlyGivenNames s₅
      have h₅ : Inv s₅ := h₄.renumberAfter.faultEvent
      exact .ite h₅.recomputeJob h₅.noSpare

protected theorem Inv.realign {s : State} {cl : Nat} (hs : Inv s) : Inv (realign s cl) :=
  (hs.sendFence.frame.foldl fun h => h.foldl fun h' => h'.unfenceCtx).modClu

protected theorem Inv.leaveService {s : State} {p : Nat} (hs : Inv s) : Inv (leaveService s p) := by
  unfold leaveService
  split
  · exact hs
  · extract_lets +onlyGivenNames cls s₁ back s₂ s₃ gone s₄
    have h₁ : Inv s₁ := hs.frame
    have h₂ : Inv s₂ := h₁.foldl fun h => h.realign
    have h₃ : Inv s₃ := .ite h₂ h₂.renumber
    have h₄ : Inv s₄ := by
      unfold s₄
      refine h₃.foldl fun h₅ => ?_
      split
      · exact h₅.loseCluster
      · exact h₅
    exact .ite h₄ h₄.relaunchPart

protected theorem Inv.leaveIfIdle {s : State} {cl : Nat} (hs : Inv s) : Inv (leaveIfIdle s cl) := by
  unfold leaveIfIdle
  split
  · exact hs.leaveService
  · exact hs

/-! ### Channel -/

protected theorem Inv.putBad {s : State} {cl i : Nat} {b : Option BadLine} (hs : Inv s) : Inv (putBad s cl i b) :=
  hs.modClu.vaultRedundancy

protected theorem Inv.exhaust {s : State} {cl line : Nat} (hs : Inv s) : Inv (exhaust s cl line) := hs.modClu.dramEvent

protected theorem Inv.promote {s : State} {cl line : Nat} (hs : Inv s) : Inv (promote s cl line) := by
  unfold promote
  extract_lets +onlyGivenNames u bank row mine
  split
  · exact hs
  · split
    · exact hs
    · extract_lets +onlyGivenNames done pend
      split
      · exact hs
      · exact ((hs.foldl fun h => h.putBad).foldl fun h => h.putBad).putBad.modClu

protected theorem Inv.remap {s : State} {cl line cause : Nat} {pend : Bool} (hs : Inv s) : Inv (remap s cl line cause pend) := by
  unfold remap
  extract_lets +onlyGivenNames u
  split
  · exact hs
  · extract_lets +onlyGivenNames entry
    clear_value entry
    split
    · exact hs.putBad.promote
    · exact hs.exhaust.leaveIfIdle

protected theorem Inv.noteErr {s : State} {cl line n : Nat} (hs : Inv s) : Inv (noteErr s cl line n) := hs.modClu

protected theorem Inv.readDecoded {s : State} {cl line : Nat} {r : ArrayRead} (hs : Inv s) : Inv (readDecoded s cl line r).1 := by
  unfold readDecoded
  extract_lets +onlyGivenNames n d s₁
  have h₁ : Inv s₁ := (Inv.ite hs.bumpFree hs).noteErr
  exact h₁.modClu

protected theorem Inv.rewriteLine {s : State} {cl line : Nat} {v : Line} (hs : Inv s) : Inv (rewriteLine s cl line v) :=
  (hs.withMem (Mem.writeN_wf _ _ _ _ hs.mem)).noteErr

protected theorem Inv.demandUe {s : State} {cl line : Nat} (hs : Inv s) : Inv (demandUe s cl line) :=
  .ite hs.modClu (Inv.ite hs.modClu.remap.dramEvent hs.modClu.remap)

protected theorem Inv.demandRead {s : State} {cl line : Nat} {r : ArrayRead} (hs : Inv s) : Inv (demandRead s cl line r).1 := by
  unfold demandRead
  split
  · rename_i s₁ _ _ e₁
    have h₁ : Inv s₁ := hs.readDecoded.of_eq e₁
    exact .ite_fst (Inv.ite_fst h₁.rewriteLine.remap.modClu h₁.rewriteLine.remap) h₁
  · rename_i s₂ e₂
    have h₂ : Inv s₂ := hs.readDecoded.of_eq e₂
    exact h₂.demandUe

protected theorem Inv.commitLine {s : State} {cl line : Nat} {v : Line} (hs : Inv s) : Inv (commitLine s cl line v) := by
  unfold commitLine
  extract_lets +onlyGivenNames s₁ u
  have h₁ : Inv s₁ := hs.withMem (Mem.writeN_wf _ _ _ _ hs.mem)
  split
  · exact h₁
  · extract_lets +onlyGivenNames s₂
    have h₂ : Inv s₂ := h₁.noteErr
    split
    · exact h₂
    · exact .ite h₂.putBad h₂.putBad

protected theorem Inv.holdAt {s : State} {cl : Nat} {w : OuterRequest} (hs : Inv s) : Inv (holdAt s cl w) := hs.modClu

protected theorem Inv.putBytes {s : State} {cl off : Nat} {b : Bytes} (hs : Inv s) : Inv (putBytes s cl off b) :=
  hs.foldl fun h => h.commitLine

protected theorem Inv.hubWrite {s : State} {cl off : Nat} {b : Bytes} (hs : Inv s) : Inv (hubWrite s cl off b) :=
  .ite hs.holdAt hs.putBytes

protected theorem Inv.hubRead {s : State} {cl line : Nat} (hs : Inv s) : Inv (hubRead s cl line).1 := hs.bumpFree.demandRead

protected theorem Inv.hubReads {s : State} {cl : Nat} {ls : List Nat} (hs : Inv s) : Inv (hubReads s cl ls).1 := by
  unfold hubReads
  refine hs.foldl_fst fun h₁ => ?_
  split
  · rename_i s₂ _ e₂
    exact h₁.hubRead.of_eq e₂
  · rename_i s₃ e₃
    exact h₁.hubRead.of_eq e₃

/-! ### Clearing -/

protected theorem Inv.arrive {s : State} {p k n ch : Nat} (hs : Inv s) : Inv (arrive s p k n ch) := hs.modPart.modCtx

protected theorem Inv.bodyCarr {s : State} {k n ch : Nat} {x : Ctx} (hs : Inv s) : Res.Keeps (bodyCarr k n ch s x) := by
  unfold bodyCarr
  split
  · exact hs.illegal
  · split
    · exact hs.illegal
    · split
      · split
        · exact hs.arrive
        · exact hs
      · exact hs.arrive

protected theorem Inv.execCarrAfterClear {s : State} {core ctx : Nat} (hs : Inv s) : Keeps (execCarrAfterClear core ctx s) := by
  refine Keeps.next ?_
  split
  · split
    · rename_i t pc e
      have ht : (Res.retire t pc).Keeps := e ▸ hs.bodyCarr
      exact hs.settle ht
    · exact hs
  · exact hs

protected theorem Inv.execCwait {s : State} {i : Issue} (hs : Inv s) : Keeps (execCwait i s) := by
  unfold execCwait
  refine Keeps.next (hs.issue fun h₁ => ?_)
  split
  · exact h₁.illegal
  · split
    · exact h₁
    · exact h₁

protected theorem Inv.execCwaitRetire {s : State} {core ctx : Nat} (hs : Inv s) : Keeps (execCwaitRetire core ctx s) := by
  unfold execCwaitRetire
  refine Keeps.next ?_
  split
  · extract_lets +onlyGivenNames x
    split
    · exact .ite (hs.settle hs) hs
    · exact hs
  · exact hs

protected theorem Inv.execCtest {s : State} {i : Issue} (hs : Inv s) : Keeps (execCtest i s) := by
  unfold execCtest
  refine Keeps.next (hs.issue fun h₁ => ?_)
  split
  · exact h₁.illegal
  · exact h₁.retireCtx

protected theorem Inv.startRun {s : State} {p idx n : Nat} {e : StreamEntry} (hs : Inv s) : Inv (startRun s p idx n e) := hs.modClu

protected theorem Inv.triggerStreams {s : State} {p ch : Nat} (hs : Inv s) : Inv (triggerStreams s p ch).1 := by
  unfold triggerStreams
  split
  · exact hs
  · extract_lets +onlyGivenNames n s₁
    have h₁ : Inv s₁ := hs.modPart
    refine Inv.foldl_fst h₁ fun h => .ite_fst h ?_
    exact .ite_fst h.startRun (.ite_fst h h.modClu)

protected theorem Inv.endRun {s : State} {p idx : Nat} {e : StreamEntry} (hs : Inv s) : Inv (endRun s p idx e) := by
  unfold endRun
  extract_lets +onlyGivenNames cl
  split
  · exact hs
  · split
    · exact hs.startRun
    · exact hs.modClu

protected theorem Inv.readBuf {s : State} {p h off n : Nat} (hs : Inv s) : Inv (readBuf s p h off n).1 := by
  unfold readBuf
  extract_lets +onlyGivenNames q d
  split
  · split
    · exact hs.noteRead
    · exact hs
  · extract_lets +onlyGivenNames a
    split
    rename_i s₁ _ e₁
    exact hs.hubReads.of_eq e₁

protected theorem Inv.writeBuf {s : State} {p h off : Nat} {b : Bytes} (hs : Inv s) : Inv (writeBuf s p h off b) := by
  unfold writeBuf
  extract_lets +onlyGivenNames q d
  split
  · exact hs
  · split
    · split
      · exact hs.loadBytes
      · exact hs
    · exact hs.hubWrite

protected theorem Inv.clearSlots {s : State} {p : Nat} (hs : Inv s) : Inv (clearSlots s p) := by
  unfold clearSlots
  split
  · exact .ite hs (hs.foldl fun h => h.writeBuf)
  · exact hs

protected theorem Inv.writeSlot {s : State} {j req : Nat} (hs : Inv s) : Inv (writeSlot s j req) := by
  unfold writeSlot
  split
  · exact hs
  · split
    · exact hs
    · extract_lets +onlyGivenNames ps live fresh r s₁
      have h₁ : Inv s₁ := hs.withRequests (Tbl.put_wf hs.requests)
      refine h₁.foldl fun h₂ => ?_
      split
      · exact h₂
      · extract_lets +onlyGivenNames s₃ s₄
        have h₃ : Inv s₃ := h₂.writeBuf
        have h₄ : Inv s₄ := .ite h₃.modPart h₃
        exact .ite h₄.writeBuf h₄

protected theorem Inv.assignSlots {s : State} {j : Nat} {b : Bool} (hs : Inv s) : Inv (assignSlots s j b) := by
  unfold assignSlots
  extract_lets +onlyGivenNames split
  refine hs.foldl fun h₁ => ?_
  extract_lets +onlyGivenNames used
  split
  · exact h₁
  · split
    · exact h₁.withRequests (Tbl.put_wf h₁.requests)
    · exact h₁

protected theorem Inv.clearVacated {s : State} {j : Nat} {b : Bool} (hs : Inv s) : Inv (clearVacated s j b) := by
  unfold clearVacated
  extract_lets +onlyGivenNames split mine s₁
  have h₁ : Inv s₁ := hs.modJob
  refine h₁.foldl fun h₂ => ?_
  split
  · exact h₂.foldl fun h => h.writeBuf
  · exact h₂

protected theorem Inv.writeGroup {s : State} {j : Nat} {b : Bool} (hs : Inv s) : Inv (writeGroup s j b) := by
  unfold writeGroup
  extract_lets +onlyGivenNames split free s₁ s₂
  have h₁ : Inv s₁ := (hs.foldl fun h => h.writeSlot).clearVacated
  have h₂ : Inv s₂ := h₁.assignSlots
  exact h₂.foldl fun h => h.writeSlot

protected theorem Inv.restorePred {s : State} {j : Nat} (hs : Inv s) : Inv (restorePred s j) := .ite hs (hs.foldl fun h => h.modPart)

protected theorem Inv.beginStep {s : State} {j : Nat} (hs : Inv s) : Inv (beginStep s j) :=
  .ite hs (hs.restorePred.modJob.frame.foldl fun h => h.modPart)

protected theorem Inv.kickJob {s : State} {j : Nat} (hs : Inv s) : Inv (kickJob s j) :=
  .ite (hs.foldl fun h => h.modPart).writeGroup.writeGroup.beginStep hs

/-! ### Resets -/

protected theorem Inv.rewriteRange {s : State} {p h : Nat} (hs : Inv s) : Inv (rewriteRange s p h) :=
  .ite hs (Inv.ite hs.holdAt (hs.foldl fun h => h.commitLine))

protected theorem Inv.readMaps {s : State} {p : Nat} (hs : Inv s) : Inv (readMaps s p) := by
  unfold readMaps
  extract_lets +onlyGivenNames q
  refine hs.foldl fun h₁ => ?_
  split
  rename_i s₂ _ e₂
  have h₂ : Inv s₂ := h₁.hubReads.of_eq e₂
  exact .ite h₂.rewriteRange h₂

protected theorem Inv.finishReset {s : State} {p : Nat} (hs : Inv s) : Inv (finishReset s p) := by
  unfold finishReset
  extract_lets +onlyGivenNames r s₁ s₂ s₃
  have h₁ : Inv s₁ := hs.unfencePart.renumber
  have h₂ : Inv s₂ := .ite h₁.relaunchPart.readMaps h₁
  have h₃ : Inv s₃ := h₂.modPart.recomputeJob
  clear_value r
  split
  · exact h₃.complete
  · exact h₃

protected theorem Inv.awaitReset {s : State} {p : Nat} {r : Reply} (hs : Inv s) : Inv (awaitReset s p r) := by
  unfold awaitReset
  split
  · exact hs.modPart
  · exact hs.complete

protected theorem Inv.resetPartition {s : State} {p : Nat} (hs : Inv s) : Inv (resetPartition s p) := by
  unfold resetPartition
  extract_lets +onlyGivenNames q j s₁ s₂ s₃ ks live s₄ s₅ s₆ s₇ s₈ s₉
  have h₁ : Inv s₁ := hs.fencePart.fenceEnded.fenceWaitsEnd
  have h₂ : Inv s₂ := h₁.modPart
  have h₃ : Inv s₃ := h₂.foldl fun h => Inv.ite h.modClu h
  have h₄ : Inv s₄ := h₃.foldl fun h => h.resetCore
  have h₅ : Inv s₅ := h₄.foldl fun h => Inv.ite h.resetCluster h
  have h₆ : Inv s₆ := h₅.frame
  have h₇ : Inv s₇ := h₆.quitSteps
  have h₈ : Inv s₈ := h₇.loseDies
  have h₉ : Inv s₉ := .ite h₈ (Inv.ite h₈.modPart h₈.finishReset)
  split
  · exact h₉.awaitReset
  · exact h₉

protected theorem Inv.resetPanel {s : State} (hs : Inv s) : Inv (resetPanel s) := by
  unfold resetPanel
  extract_lets +onlyGivenNames s₁ cl hub s₂ cores late s₃
  have h₁ : Inv s₁ := hs.foldl fun h => h.resetPartition
  have h₂ : Inv s₂ := h₁.closeSites
  have h₃ : Inv s₃ := h₂.foldl fun h => h.requestWake
  exact h₃.withParts (Tbl.map_wf h₃.parts)

protected theorem Inv.loseGroup {s : State} {j : Nat} {b : Bool} (hs : Inv s) : Inv (loseGroup s j b) := hs.foldl fun h => h.modPart

protected theorem Inv.replayLimit {s : State} {j : Nat} {b : Bool} (hs : Inv s) : Inv (replayLimit s j b).1 := by
  unfold replayLimit
  extract_lets +onlyGivenNames x n last n₁ s₂
  have h₂ : Inv s₂ := hs.modJob
  exact .ite (h₂.foldl fun h => h.endRequest) h₂

protected theorem Inv.hubAbort {s : State} {j : Nat} {x : Nat × Nat} (hs : Inv s) : Inv (hubAbort s j x) := hs.hubToCore.modJob

protected theorem Inv.dropReleases {s : State} {j : Nat} (hs : Inv s) : Inv (dropReleases s j) := hs.frame

protected theorem Inv.abandonGroups {s : State} {j : Nat} (hs : Inv s) : Inv (abandonGroups s j).1 := by
  unfold abandonGroups
  split
  · extract_lets +onlyGivenNames x split cls s₁ s₂ aOpen bOpen s₃ s₄ s₅ s₆ s₇
    have h₁ : Inv s₁ := hs.foldl fun h => h.hubAbort
    have h₂ : Inv s₂ := h₁.foldl fun h => h.fenceFor
    have h₃ : Inv s₃ := .ite h₂.loseGroup h₂
    have h₄ : Inv s₄ := .ite h₃.loseGroup h₃
    have h₅ : Inv s₅ := h₄.dropReleases
    have h₆ : Inv s₆ := h₅.modJob
    have h₇ : Inv s₇ := h₆.resetFenced
    split
    rename_i s₈ _ e₈
    have h₈ : Inv s₈ := (Inv.ite_fst h₇.replayLimit h₇).of_eq e₈
    split
    rename_i s₉ _ e₉
    exact (Inv.ite_fst h₈.replayLimit h₈).of_eq e₉
  · exact hs

protected theorem Inv.countOnce {s : State} {j : Nat} (hs : Inv s) : Inv (countOnce s j) := .ite hs hs.modJob.countReset

protected theorem Inv.resetJob {s : State} {j : Nat} (hs : Inv s) : Inv (resetJob s j) :=
  (hs.noteRung.countOnce.faultEvent.foldl fun h => h.resetPartition).kickJob

protected theorem Inv.abandonStep {s : State} {j : Nat} (hs : Inv s) : Inv (abandonStep s j) := by
  unfold abandonStep
  split
  · rename_i s₁ e₁
    have h₁ : Inv s₁ := hs.abandonGroups.of_eq e₁
    exact h₁.resetJob
  · rename_i s₂ e₂
    exact hs.abandonGroups.of_eq e₂

protected theorem Inv.reportStep {s : State} {j rung : Nat} {watchdog : Bool} (hs : Inv s) : Inv (reportStep s j rung watchdog) := by
  unfold reportStep
  split
  · exact hs
  · split
    · rename_i s₁ e₁
      have h₁ : Inv s₁ := hs.abandonGroups.of_eq e₁
      exact h₁.resetJob
    · rename_i s₂ e₂
      have h₂ : Inv s₂ := hs.abandonGroups.of_eq e₂
      exact .ite h₂.modJob.noteRung.countOnce h₂.modJob.noteRung

protected theorem Inv.rungPartition {s : State} {j : Nat} (hs : Inv s) : Inv (rungPartition s j) := hs.abandonGroups.resetJob

protected theorem Inv.rungPanel {s : State} (hs : Inv s) : Inv (rungPanel s) := by
  unfold rungPanel
  extract_lets +onlyGivenNames s₁ s₂
  have h₁ : Inv s₁ := hs.noteRung.countReset
  have h₂ : Inv s₂ := h₁.faultEvent
  split
  · exact h₂
  · exact (h₂.foldl fun h => h.abandonGroups).resetPanel.foldl fun h => h.kickJob

protected theorem Inv.resetNow {s : State} {p : Nat} (hs : Inv s) : Inv (resetNow s p) := by
  unfold resetNow
  split
  · exact hs
  · extract_lets +onlyGivenNames j s₁ s₂
    have h₁ : Inv s₁ := hs.modPart
    have h₂ : Inv s₂ := h₁.reportStep.faultEvent
    exact .ite h₂.complete h₂.resetPartition.awaitReset.kickJob

protected theorem Inv.panelResetNow {s : State} (hs : Inv s) : Inv (panelResetNow s) := by
  unfold panelResetNow
  split
  · exact hs
  · split
    · exact hs
    · extract_lets +onlyGivenNames s₁
      have h₁ : Inv s₁ := hs.frame.rungPanel
      split
      · exact h₁.complete
      · split
        · exact h₁.awaitReset
        · exact h₁.complete

protected theorem Inv.fenceDone {s : State} {p : Nat} (hs : Inv s) : Inv (fenceDone s p) := hs.fenceEnded.resetNow.panelResetNow

/-! ### Steps -/

protected theorem Inv.readRecords {s : State} {ps : List Nat} {parity : Nat} {slots : List Nat} (hs : Inv s) :
    Inv (readRecords s ps parity slots).1 := by
  unfold readRecords
  refine hs.foldl_fst fun h₁ => ?_
  split
  · exact h₁
  · refine h₁.foldl_fst fun h₂ => ?_
    split
    · rename_i s₃ _ e₃
      exact h₂.readBuf.of_eq e₃
    · rename_i s₄ e₄
      exact h₂.readBuf.of_eq e₄

protected theorem Inv.holdBlock {s : State} {req sess : Nat} {own : Option Nat} {b : Bytes} (hs : Inv s) :
    Inv (holdBlock s req sess own b).1 := by
  unfold holdBlock
  split
  · exact hs.frame
  · exact hs

protected theorem Inv.applyOutcome {s : State} {req : Nat} {o : Outcome} (hs : Inv s) : Inv (applyOutcome s req o).1 := by
  unfold applyOutcome
  extract_lets +onlyGivenNames s₁ own s₂
  have h₁ : Inv s₁ := hs.withRequests (Tbl.put_wf hs.requests)
  have h₂ : Inv s₂ := by
    unfold s₂
    split
    · exact h₁.escrowSend
    · exact h₁
  split
  · split
    · extract_lets +onlyGivenNames s₃
      have h₃ : Inv s₃ := h₂.closeRequest
      split
      · exact h₃.holdBlock
      · exact h₃
    · exact h₂.endRequest
  · split
    · exact h₂.holdBlock
    · exact h₂

protected theorem Inv.checkStores {s : State} {os : List (Nat × Outcome)} (hs : Inv s) : Inv (checkStores s os) :=
  hs.foldl fun h => Inv.ite (h.modSess.foldl fun h' => h'.endRequest) h

protected theorem Inv.release {s : State} {j : Nat} {t : Step} {b : Bool} (hs : Inv s) : Inv (release s j t b).1 := by
  unfold release
  extract_lets +onlyGivenNames ps fed
  split
  · rename_i s₁ e₁
    exact hs.readRecords.of_eq e₁
  · rename_i s₂ _ e₂
    have h₂ : Inv s₂ := hs.readRecords.of_eq e₂
    extract_lets +onlyGivenNames recs
    split
    · exact h₂
    · extract_lets +onlyGivenNames os s₃ s₄ s₅
      have h₃ : Inv s₃ := h₂.bumpFree
      have h₄ : Inv s₄ := h₃.foldl fun h => h.foldl fun h' => h'.modPart
      have h₅ : Inv s₅ := h₄.checkStores
      split
      rename_i s₆ _ e₆
      have h₆ : Inv s₆ := by
        refine Inv.of_eq ?_ e₆
        refine h₅.foldl_fst fun h₇ => ?_
        split
        · split
          · exact h₇
          · split
            · rename_i s₈ _ e₈
              exact h₇.applyOutcome.of_eq e₈
            · rename_i s₉ e₉
              exact h₇.applyOutcome.of_eq e₉
        · exact h₇
      extract_lets +onlyGivenNames s₁₀ s₁₁
      have h₁₀ : Inv s₁₀ := h₆.foldl fun h => h.pushBlocks
      have h₁₁ : Inv s₁₁ := h₁₀.escrowSend
      exact h₁₁.modJob

protected theorem Inv.endSerial {s : State} {j : Nat} (hs : Inv s) : Inv (endSerial s j) := .ite hs hs.frame.modJob

protected theorem Inv.retireSteps {s : State} {j : Nat} (hs : Inv s) : Inv (retireSteps s j) :=
  .ite hs (hs.modJob.endSerial.foldl fun h => h.modPart).tryAnnounce

protected theorem Inv.afterRelease {s : State} {j : Nat} {m : PartMap} {b : Bool} (hs : Inv s) : Inv (afterRelease s j m b) := by
  unfold afterRelease
  extract_lets +onlyGivenNames s₁ s₂
  have h₁ : Inv s₁ := hs.retireSteps
  have h₂ : Inv s₂ := h₁.writeGroup
  exact .ite h₂.kickJob (Inv.ite h₂.beginStep h₂)

protected theorem Inv.withholdAll {s : State} {j : Nat} (hs : Inv s) : Inv (withholdAll s j) := hs.reportStep.recomputeJob

protected theorem Inv.releaseStep {s : State} {j num : Nat} {b : Bool} (hs : Inv s) : Inv (releaseStep s j num b).1 := by
  unfold releaseStep
  split
  · split
    · exact hs.holdAt
    · split
      · rename_i e
        exact hs.release.of_eq e
      · rename_i e
        exact (hs.release.of_eq e).withholdAll
      · rename_i e
        have h := hs.release.of_eq e
        dsimp only
        exact h.afterRelease
  · exact hs

protected theorem Inv.stepCleared {s : State} {j ch : Nat} {m : PartMap} {e : ClearEntry} (hs : Inv s) :
    Inv (stepCleared s j ch m e).1 := by
  unfold stepCleared
  extract_lets +onlyGivenNames mine
  split
  · exact hs
  · exact .ite_fst hs.modJob hs.releaseStep

protected theorem Inv.clearGen {s : State} {p ch : Nat} (hs : Inv s) : Inv (clearGen s p ch) := by
  unfold clearGen
  extract_lets +onlyGivenNames ps j s₁ s₂
  have h₂ : Inv s₂ := hs.foldl fun h => h.modPart
  extract_lets +onlyGivenNames s₃
  have h₃ : Inv s₃ := .ite h₂.modJob h₂
  split
  rename_i s₄ _ e₄
  have h₄ : Inv s₄ := by
    refine Inv.of_eq ?_ e₄
    refine h₃.foldl_fst fun h₅ => ?_
    split
    rename_i s₆ _ e₆
    exact h₅.triggerStreams.of_eq e₆
  split
  rename_i s₇ _ e₇
  have h₇ : Inv s₇ := by
    refine Inv.of_eq ?_ e₇
    split
    · split
      · exact h₄.stepCleared
      · exact h₄
    · exact h₄
  exact .ite h₇.reportStep h₇

protected theorem Inv.boundary {s : State} {j : Nat} (hs : Inv s) : Inv (boundary s j) := by
  unfold boundary
  extract_lets +onlyGivenNames s₁
  have h₁ : Inv s₁ := .ite hs (hs.foldl fun h => h.fenceDone)
  exact .ite (h₁.foldl fun h => h.leaveService).kickJob h₁

protected theorem Inv.heldRelease {s : State} {j num : Nat} {b : Bool} (hs : Inv s) : Inv (heldRelease s j num b) := by
  unfold heldRelease
  split
  rename_i s₁ _ e₁
  have h₁ : Inv s₁ := hs.releaseStep.of_eq e₁
  exact (Inv.ite h₁.reportStep h₁).boundary

protected theorem Inv.sendFrame {s : State} {oe : Nat} {f : OptFrame} (hs : Inv s) : Inv (sendFrame s oe f) :=
  .ite hs (Inv.ite hs.frame.emit hs.emit)

protected theorem Inv.leadDecides {s : State} {p ch : Nat} (hs : Inv s) : Inv (leadDecides s p ch) :=
  .ite (hs.foldl fun h => h.sendFrame).modJob.clearGen.boundary hs

protected theorem Inv.execClearingGenerationClear {s : State} {part ch : Nat} (hs : Inv s) :
    Keeps (execClearingGenerationClear part ch s) := by
  unfold execClearingGenerationClear
  refine Keeps.report ?_
  extract_lets +onlyGivenNames ps
  split
  · exact hs
  · split
    · exact .ite hs (Inv.ite hs.modJob.leadDecides hs.modJob.sendFrame)
    · exact hs.clearGen.boundary

protected theorem Inv.execClearingNoticeArrival {s : State} {core ch : Nat} (hs : Inv s) :
    Keeps (execClearingNoticeArrival core ch s) := by
  unfold execClearingNoticeArrival
  refine Keeps.next ?_
  split
  · exact hs
  · exact .ite hs.modCore hs

protected theorem Inv.execClearingWatchdogExpiry {s : State} {part ch : Nat} (hs : Inv s) :
    Keeps (execClearingWatchdogExpiry part ch s) := by
  unfold execClearingWatchdogExpiry
  refine Keeps.report ?_
  extract_lets +onlyGivenNames c
  split
  · split
    · exact hs
    · extract_lets +onlyGivenNames ps
      split
      · exact hs
      · extract_lets +onlyGivenNames silent s₁ s₂
        have h₁ : Inv s₁ := hs.foldl fun h => h.modPart
        have h₂ : Inv s₂ := h₁.foldl fun h => h.modClu.sendCtrl
        exact .ite h₂.fencePart.faultEvent h₂.reportStep
  · exact hs

/-! ### Dram -/

protected theorem Inv.deliverLine {s : State} {cl : Nat} {x y : BitVec 10} {spLine cnt : Nat} {v : Line} (hs : Inv s) :
    Inv (deliverLine s cl x y spLine cnt v) :=
  hs.emit

protected theorem Inv.answerRead {s : State} {cl : Nat} {x y : BitVec 10} {spLine cnt line : Nat} {v : Option Line} (hs : Inv s) :
    Inv (answerRead s cl x y spLine cnt line v) := by
  unfold answerRead
  split
  · exact hs.deliverLine
  · exact hs.modCore.sendCountOnly

protected theorem Inv.noteUeHandle {s : State} {p h : Nat} (hs : Inv s) : Inv (noteUeHandle s p h) := hs.modJob

protected theorem Inv.answerStream {s : State} {cl key : Nat} {last isLast : Bool} {spLine : Nat} {v : Option Line} (hs : Inv s) :
    Inv (answerStream s cl key last isLast spLine v) := by
  unfold answerStream
  extract_lets +onlyGivenNames p
  split
  · exact hs
  · extract_lets +onlyGivenNames s₁
    have h₁ : Inv s₁ := by
      unfold s₁
      split
      · exact hs.emit
      · exact hs.noteUeHandle.withholdAll
    exact .ite h₁.endRun h₁

protected theorem Inv.serveRead {s : State} {cl : Nat} {job : ReadJob} {rest : List ReadJob} {r : ArrayRead} (hs : Inv s) :
    Inv (serveRead s cl job rest r) := by
  unfold serveRead
  split
  · split
    · exact hs.sendCountOnly
    · split
      rename_i s₁ _ e₁
      have h₁ : Inv s₁ := hs.demandRead.of_eq e₁
      exact h₁.answerRead
  · split
    rename_i s₂ _ e₂
    have h₂ : Inv s₂ := hs.demandRead.of_eq e₂
    exact h₂.answerStream

protected theorem Inv.readNext {s : State} {cl : Nat} {r : ArrayRead} (hs : Inv s) : Inv (readNext cl r s) := by
  unfold readNext
  extract_lets +onlyGivenNames u
  split
  · exact hs
  · split
    · exact hs
    · exact hs.modClu.serveRead

protected theorem Inv.commitNext {s : State} {cl : Nat} (hs : Inv s) : Inv (commitNext cl s) := by
  unfold commitNext
  extract_lets +onlyGivenNames u
  split
  · exact hs
  · split
    · exact hs
    · extract_lets +onlyGivenNames s₁
      have h₁ : Inv s₁ := hs.modClu
      split
      · exact h₁.sendCountOnly
      · exact h₁.commitLine.sendCtrl

protected theorem Inv.scrubUe {s : State} {cl line : Nat} (hs : Inv s) : Inv (scrubUe s cl line) :=
  (Inv.ite hs.modClu hs.modClu.remap).dramEvent

protected theorem Inv.execPatrolScrubVisit {s : State} {cl : Nat} {r : ArrayRead} (hs : Inv s) : Keeps (execPatrolScrubVisit cl r s) := by
  unfold execPatrolScrubVisit
  refine Keeps.report ?_
  extract_lets +onlyGivenNames u
  split
  · exact hs
  · extract_lets +onlyGivenNames line
    split
    · rename_i s₁ _ _ e₁
      have h₁ : Inv s₁ := hs.modClu.readDecoded.of_eq e₁
      split
      · exact h₁.modClu
      · extract_lets +onlyGivenNames again s₂ s₃
        have h₂ : Inv s₂ := h₁.rewriteLine.modClu
        have h₃ : Inv s₃ := .ite h₂.remap (Inv.ite h₂.remap h₂)
        exact .ite h₃.scrubUe h₃
    · rename_i s₄ e₄
      have h₄ : Inv s₄ := hs.modClu.readDecoded.of_eq e₄
      exact h₄.scrubUe

protected theorem Inv.endSlice {s : State} {cl : Nat} (hs : Inv s) : Inv (endSlice s cl) := .ite hs (Inv.ite hs.modClu hs.recalDone)

protected theorem Inv.noteUeLines {s : State} {j : Nat} {lines : List (Nat × Nat)} (hs : Inv s) : Inv (noteUeLines s j lines) := by
  unfold noteUeLines
  refine hs.foldl fun h₁ => ?_
  split
  · exact .ite (Inv.ite h₁.noteUeHandle.modJob h₁.noteUeHandle) h₁
  · exact h₁

protected theorem Inv.copyWeights {s : State} {r : Replacement} (hs : Inv s) : Inv (copyWeights s r) := by
  unfold copyWeights
  extract_lets +onlyGivenNames q idx mine
  exact hs.foldl fun h => h.foldl fun h' => Inv.ite h'.commitLine.bumpFree h'.commitLine

/-! ### Control -/

protected theorem Inv.execAbortPacket {s : State} {core : Nat} {p : CtrlPacket} (hs : Inv s) : Keeps (execAbortPacket core p s) := by
  unfold execAbortPacket
  refine Keeps.next ?_
  split
  · exact hs
  · extract_lets +onlyGivenNames task a
    split
    · exact hs.abortAnswer
    · exact .ite hs.modCtx hs.modCtx.endWait

protected theorem Inv.execContextWatchdogExpiry {s : State} {core ctx : Nat} (hs : Inv s) :
    Keeps (execContextWatchdogExpiry core ctx s) := by
  unfold execContextWatchdogExpiry
  refine Keeps.next ?_
  extract_lets +onlyGivenNames x
  split
  · exact hs
  · extract_lets +onlyGivenNames f s₁ s₂ t₃
    have h₁ : Inv s₁ := hs.modClu
    have h₂ : Inv s₂ := .ite h₁.sendWatchdog h₁
    have ht₃ : Inv t₃ := h₂.modCtx
    exact .ite ht₃ (ht₃.retirePoint ht₃)

protected theorem Inv.execEngineWatchdogExpiry {s : State} {core eng : Nat} (hs : Inv s) :
    Keeps (execEngineWatchdogExpiry core eng s) := by
  unfold execEngineWatchdogExpiry
  refine Keeps.next ?_
  extract_lets +onlyGivenNames c g
  split
  · exact hs
  · exact .ite hs (hs.setCore.modClu.sendWatchdog.foldl fun h => Inv.ite h.endTask h)

protected theorem Inv.execWatchdog {s : State} {p : CtrlPacket} (hs : Inv s) : Keeps (execWatchdog p s) := by
  unfold execWatchdog
  refine Keeps.report ?_
  split
  · exact hs
  · extract_lets +onlyGivenNames b core ctx eng
    split
    · exact hs
    · extract_lets +onlyGivenNames j bb
      split
      · extract_lets +onlyGivenNames s₁ s₂ s₃ guilty s₄
        have h₁ : Inv s₁ := hs.reportStep
        have h₂ : Inv s₂ := h₁.faultEvent
        have h₃ : Inv s₃ := h₂.fenceFor
        have h₄ : Inv s₄ := h₃.resetEngine
        exact .ite h₄.loseCore (Inv.ite h₄ h₄.modCore.modJob)
      · extract_lets +onlyGivenNames again s₅ s₆ s₇ s₈
        have h₅ : Inv s₅ := hs.reportStep
        have h₆ : Inv s₆ := h₅.faultEvent
        have h₇ : Inv s₇ := h₆.fenceFor
        have h₈ : Inv s₈ := h₇.modCore
        exact .ite h₈.loseCore h₈

protected theorem Inv.applyFence {s : State} {cl b : Nat} (hs : Inv s) : Inv (applyFence s cl b) := by
  unfold applyFence
  extract_lets +onlyGivenNames k un s₁
  have h₁ : Inv s₁ := hs.foldl fun h => Inv.ite h.unfenceCtx h.fenceCtx
  split
  · exact h₁
  · exact .ite h₁.modCore h₁
  · exact h₁.modCore
  · exact h₁.modClu

protected theorem Inv.execFencePacket {s : State} {cl : Nat} {p : CtrlPacket} (hs : Inv s) : Keeps (execFencePacket cl p s) := by
  unfold execFencePacket
  refine Keeps.next ?_
  exact .ite hs (Inv.ite hs.applyFence.ackFence hs.applyFence.modClu.ackFences)

protected theorem Inv.execFenceAck {s : State} {p : CtrlPacket} (hs : Inv s) : Keeps (execFenceAck p s) := by
  unfold execFenceAck
  refine Keeps.next ?_
  split
  · exact hs
  · extract_lets +onlyGivenNames cl b s₁ s₂
    have h₁ : Inv s₁ := hs.frame
    have h₂ : Inv s₂ := h₁.foldl fun h => h.resetFenced
    split
    · exact h₂.frame.complete
    · exact h₂

protected theorem Inv.refuseOuter {s : State} {w : OuterRequest} (hs : Inv s) : Inv (refuseOuter s w) := by
  unfold refuseOuter
  split
  · exact hs.complete
  · split
    · exact hs.modGuest.answerGuest
    · exact hs
  · exact hs

protected theorem Inv.refuseWork {s : State} {p : Nat} (hs : Inv s) : Inv (refuseWork s p) := by
  unfold refuseWork
  extract_lets +onlyGivenNames s₁ rs
  have h₁ : Inv s₁ := hs.foldl fun h => (h.modClu.foldl fun h' => h'.complete).foldl fun h' => h'.refuseOuter
  exact h₁.modPart.foldl fun h => h.complete

protected theorem Inv.fenceOver {s : State} {p : Nat} (hs : Inv s) : Inv (fenceOver s p) := by
  unfold fenceOver
  split
  · exact hs
  · exact .ite hs hs.abandonStep.refuseWork.fenceDone

protected theorem Inv.execFenceTimeout {s : State} {d : Domain} (hs : Inv s) : Keeps (execFenceTimeout d s) := by
  unfold execFenceTimeout
  refine Keeps.report ?_
  split
  · exact hs
  · exact hs
  · exact hs.fenceOver
  · exact hs.foldl fun h => h.fenceOver

protected theorem Inv.execTaskEnd {s : State} {p : CtrlPacket} (hs : Inv s) : Keeps (execTaskEnd p s) := by
  unfold execTaskEnd
  refine Keeps.report ?_
  split
  · exact hs
  · extract_lets +onlyGivenNames b core x
    split
    · exact hs
    · extract_lets +onlyGivenNames j
      split
      · exact hs.faultEvent
      · split
        · exact hs
        · extract_lets +onlyGivenNames ue s₁
          have h₁ : Inv s₁ := hs.reportStep.modCore
          exact .ite (h₁.noteUeLines.foldl fun h => h.recompute) h₁

protected theorem Inv.unfenceJob {s : State} {j : Nat} (hs : Inv s) : Inv (unfenceJob s j) := by
  unfold unfenceJob
  extract_lets +onlyGivenNames ks s₁
  have h₁ : Inv s₁ := hs.foldl fun h => Inv.ite (h.foldl fun h' => h'.unfenceCtx) h
  exact h₁.foldl fun h => Inv.ite h.modClu h

protected theorem Inv.restoreHandles {s : State} {j : Nat} (hs : Inv s) : Inv (restoreHandles s j) :=
  .ite (hs.foldl fun h => h.rewriteRange) hs

protected theorem Inv.execStepReplay {s : State} {job : Nat} (hs : Inv s) : Keeps (execStepReplay job s) := by
  unfold execStepReplay
  refine Keeps.next ?_
  extract_lets +onlyGivenNames x ps
  split
  · exact hs
  · extract_lets +onlyGivenNames s₁ keep s₂ s₃ s₄
    have h₁ : Inv s₁ := hs.unfenceJob.restoreHandles
    have h₂ : Inv s₂ := .ite h₁.dropSteps h₁
    have h₃ : Inv s₃ := h₂.modJob
    have h₄ : Inv s₄ := .ite h₃.endSerial h₃
    exact (h₄.foldl fun h => h.relaunchPart).kickJob

protected theorem Inv.execProbeAns {s : State} {p : CtrlPacket} (hs : Inv s) : Keeps (execProbeAns p s) := by
  unfold execProbeAns
  refine Keeps.report ?_
  split
  · exact hs
  · extract_lets +onlyGivenNames cl
    split
    · exact hs
    · extract_lets +onlyGivenNames s₁
      have h₁ : Inv s₁ := hs.modClu
      split
      · exact h₁
      · extract_lets +onlyGivenNames j mine hung s₂ s₃
        have h₂ : Inv s₂ := h₁.reportStep
        have h₃ : Inv s₃ := h₂.foldl fun h => Inv.ite h h.fenceFor
        exact h₃.foldl fun h => h.loseCore

protected theorem Inv.execProbeTimeout {s : State} {cl : Nat} {wholeDie : Bool} (hs : Inv s) :
    Keeps (execProbeTimeout cl wholeDie s) := by
  unfold execProbeTimeout
  refine Keeps.report ?_
  split
  · exact hs
  · split
    · exact hs
    · extract_lets +onlyGivenNames s₁ rung s₂
      have h₁ : Inv s₁ := hs.modClu
      have h₂ : Inv s₂ := by
        unfold s₂
        split
        · exact h₁.reportStep
        · exact h₁
      exact .ite h₂.loseCluster (Inv.ite h₂.loseDies h₂.loseDies)

protected theorem Inv.execResetNotServingTimeout {s : State} {d : Domain} (hs : Inv s) : Keeps (execResetNotServingTimeout d s) := by
  unfold execResetNotServingTimeout
  refine Keeps.report ?_
  split
  · split
    · split
      · exact hs
      · refine Inv.rungPanel ?_
        split
        · exact hs.complete
        · exact hs
    · exact hs
  · split
    · split
      · exact hs
      · extract_lets +onlyGivenNames waiting s₁ s₂
        have h₁ : Inv s₁ := hs.withParts (Tbl.map_wf hs.parts)
        have h₂ : Inv s₂ := h₁.foldl fun h => h.complete
        exact h₂.frame.noteRung.enterSafe.requestPowerCycle
    · exact hs
  · exact hs
  · exact hs

protected theorem Inv.spareReady {s : State} {p : Nat} (hs : Inv s) : Inv (spareReady s p) := by
  unfold spareReady
  split
  · exact hs
  · exact .ite hs.frame.finishReset.kickJob hs.frame.buildDist.relaunchPart.kickJob

protected theorem Inv.execSpareWarmupDone {s : State} {site : Nat} (hs : Inv s) : Keeps (execSpareWarmupDone site s) := by
  unfold execSpareWarmupDone
  refine Keeps.next ?_
  split
  · exact hs
  · split
    · exact hs
    · extract_lets +onlyGivenNames s₁ s₂ s₃ s₄
      have h₁ : Inv s₁ := hs.frame
      have h₂ : Inv s₂ := h₁.foldl fun h => h.modClu
      have h₃ : Inv s₃ := h₂.setNumbering
      have h₄ : Inv s₄ := .ite h₃ h₃.startEpoch
      exact h₄.spareReady

protected theorem Inv.execWeightCopyComplete {s : State} {site : Nat} (hs : Inv s) : Keeps (execWeightCopyComplete site s) := by
  unfold execWeightCopyComplete
  refine Keeps.next ?_
  split
  · exact hs
  · exact (Inv.ite hs.copyWeights hs).frame.spareReady

protected theorem Inv.changeDone {s : State} {p n : Nat} (hs : Inv s) : Inv (changeDone s p n) := hs.frame.sendReady

protected theorem Inv.applyWindow {s : State} {cl p w : Nat} (hs : Inv s) : Inv (applyWindow s cl p w) := by
  unfold applyWindow
  extract_lets +onlyGivenNames q
  split
  · exact hs
  · exact .ite hs.setPart hs.setPart.changeDone

protected theorem Inv.applyHandle {s : State} {cl p h : Nat} (hs : Inv s) : Inv (applyHandle s cl p h) := by
  unfold applyHandle
  extract_lets +onlyGivenNames q
  split
  · exact hs
  · exact .ite hs.setPart (Inv.ite hs.setPart.startInval hs.setPart).changeDone

protected theorem Inv.execHandleDescriptorUpdate {s : State} {cl part handle : Nat} (hs : Inv s) :
    Keeps (execHandleDescriptorUpdate cl part handle s) := by
  unfold execHandleDescriptorUpdate
  refine Keeps.next ?_
  extract_lets +onlyGivenNames q
  split
  · exact (Inv.ite (hs.foldl fun h => h.applyWindow) hs).applyHandle
  · exact .ite hs hs.applyWindow

protected theorem Inv.execHandleFreeTimer {s : State} {part handle : Nat} (hs : Inv s) : Keeps (execHandleFreeTimer part handle s) := by
  unfold execHandleFreeTimer
  refine Keeps.next ?_
  extract_lets +onlyGivenNames q
  split
  · exact hs
  · exact .ite hs.setPart.changeHandle hs

protected theorem Inv.reloadData {s : State} {k n : Nat} (hs : Inv s) : Inv (reloadData s k n) := by
  unfold reloadData
  split
  · exact hs
  · extract_lets +onlyGivenNames s₁
    have h₁ : Inv s₁ := hs.writeUnits
    split
    · exact h₁.loadData
    · exact h₁

protected theorem Inv.execCompatibleRelaunchWindowEnd {s : State} {core ctx : Nat} (hs : Inv s) :
    Keeps (execCompatibleRelaunchWindowEnd core ctx s) := by
  unfold execCompatibleRelaunchWindowEnd
  refine Keeps.next ?_
  extract_lets +onlyGivenNames x
  split
  · exact hs
  · split
    · exact hs
    · split
      · exact hs
      · exact .ite hs.tellFiring.modCtx.coreToHub hs.reloadData.modClu.modCore.setCtx

protected theorem Inv.rampLeaving {s : State} {h : Nat} (hs : Inv s) : Inv (rampLeaving s h) := .ite hs.mfrRampdown.startRamp hs

protected theorem Inv.execEpochSwitch {s : State} (hs : Inv s) : Keeps (execEpochSwitch s) := by
  unfold execEpochSwitch
  refine Keeps.next ?_
  split
  · exact hs
  · split
    · exact hs
    · extract_lets +onlyGivenNames s₁ s₂ s₃
      have h₂ : Inv s₂ := hs.frame
      have h₃ : Inv s₃ := h₂.foldl fun h => h.spareReady
      exact (Inv.ite h₃ (h₃.foldl fun h => h.rampLeaving)).foldl fun h => h.kickJob

protected theorem Inv.execEpochRetire {s : State} (hs : Inv s) : Keeps (execEpochRetire s) := by
  unfold execEpochRetire
  refine Keeps.next ?_
  split
  · exact hs
  · split
    · exact hs
    · extract_lets +onlyGivenNames next s₁
      extract_lets +onlyGivenNames s₂
      have h₂ : Inv s₂ := hs.frame
      clear_value next
      split
      · exact h₂.writeBank
      · exact h₂

protected theorem Inv.execEpochWriteAckTimeout {s : State} (hs : Inv s) : Keeps (execEpochWriteAckTimeout s) := by
  unfold execEpochWriteAckTimeout
  refine Keeps.report ?_
  split
  · exact hs
  · exact .ite hs hs.rungPanel

/-! ### Gate -/

protected theorem Inv.gateChannel {s : State} {cl line : Nat} {write : Bool} {v : Line} {r : ArrayRead} {w : OuterRequest} (hs : Inv s) :
    Inv (gateChannel s cl line write v r w).1 := by
  unfold gateChannel
  split
  · exact hs
  · split
    · exact hs
    · split
      · exact hs.holdAt
      · split
        · exact hs.commitLine
        · split
          · rename_i s₁ _ e₁
            exact hs.demandRead.of_eq e₁
          · rename_i s₂ e₂
            exact hs.demandRead.of_eq e₂

protected theorem Inv.gateCore {s : State} {p : Nat} {d : Handle} {off : Nat} {bell : Option Nat} {write : Bool} {v : Line} (hs : Inv s) :
    Inv (gateCore s p d off bell write v).1 := by
  unfold gateCore
  split
  · exact hs
  · extract_lets +onlyGivenNames line
    split
    · dsimp only
      split
      · exact hs.arriveLine
      · exact hs.spmArrive
    · exact hs.noteRead

protected theorem Inv.gateTarget {s : State} {site : Nat} {write : Bool} {m : PlpMsg} {r : ArrayRead} {rule : BitVec 128} (hs : Inv s) :
    Inv (gateTarget s site write m r rule).1 := by
  unfold gateTarget
  extract_lets +onlyGivenNames v held off p tgt
  split
  · split
    · exact hs
    · split
      exact hs.gateChannel
  · extract_lets +onlyGivenNames d
    split
    · exact hs
    · split
      · exact hs
      · split
        · exact .ite_fst hs.gateCore hs
        · exact .ite_fst hs.gateCore hs.gateChannel

protected theorem Inv.gateHandle {s : State} {site : Nat} {write : Bool} {m : PlpMsg} {r : ArrayRead} (hs : Inv s) :
    Inv (gateHandle s site write m r).1 := by
  unfold gateHandle
  extract_lets +onlyGivenNames g
  split
  · exact hs
  · split
    · exact hs
    · split
      · exact hs
      · exact .ite_fst hs hs.gateTarget

protected theorem Inv.gateComplete {s : State} {site : Nat} {r : GuestReq} {st : Status} {v : Option Line} (hs : Inv s) :
    Inv (gateComplete s site r st v) := by
  unfold gateComplete
  extract_lets +onlyGivenNames s₁ s₂
  have h₁ : Inv s₁ := hs.modGuest
  have h₂ : Inv s₂ := h₁.answerGuest
  exact .ite h₂ (Inv.ite h₂.modGuest.fenceSite h₂.modGuest)

protected theorem Inv.plpIn {s : State} {site t : Nat} {p : PlpMsg} {f : State → State} (hs : Inv s) (hf : ∀ {t}, Inv t → Inv (f t)) :
    Inv (plpIn s site t p f) := .ite hs (.ite hs.modGuest.fenceSite (.ite hs (hf hs)))

protected theorem Inv.guestServe {s : State} {site : Nat} {write : Bool} {p : PlpMsg} {r : ArrayRead} {rule : Option (BitVec 128)}
    (hs : Inv s) : Inv (guestServe s site write p r rule) := by
  have hgate : Inv (match rule with | some x => gateTarget s site write p r x | none => gateHandle s site write p r).1 := by
    split
    · exact hs.gateTarget
    · exact hs.gateHandle
  unfold guestServe
  split
  · exact hs
  · split
    · rename_i e
      exact (hgate.of_eq e).gateComplete
    · rename_i e
      exact hgate.of_eq e

protected theorem Inv.guestRequest {s : State} {site : Nat} {write : Bool} {p : PlpMsg} {r : ArrayRead} (hs : Inv s) :
    Inv (guestRequest s site write p r) :=
  hs.modGuest.guestServe

protected theorem Inv.execGateRequestTimeout {s : State} {site tag : Nat} (hs : Inv s) : Keeps (execGateRequestTimeout site tag s) := by
  unfold execGateRequestTimeout
  refine Keeps.next ?_
  split
  · exact hs
  · exact .ite hs hs.gateComplete

protected theorem Inv.sendAttq {s : State} {site : Nat} {nonce : BitVec 64} (hs : Inv s) : Inv (sendAttq s site nonce) :=
  hs.modGuest.sendPlp

protected theorem Inv.guestReady {s : State} {site : Nat} (hs : Inv s) : Inv (guestReady s site) := by
  unfold guestReady
  split
  · exact hs
  · extract_lets +onlyGivenNames s₁
    have h₁ : Inv s₁ := hs.modGuest
    split
    · exact h₁.modGuest.sendNotice.complete
    · exact .ite h₁.complete h₁.modGuest.complete

protected theorem Inv.execCap {s : State} {site : Nat} {p : PlpMsg} {nonce : BitVec 64} (hs : Inv s) :
    Keeps (execCap site p nonce s) := by
  unfold execCap
  refine Keeps.next (hs.plpIn fun h₁ => ?_)
  extract_lets +onlyGivenNames same s₂
  have h₂ : Inv s₂ := h₁.modGuest
  split
  · exact h₂.dropWant
  · split
    · exact h₂
    · extract_lets +onlyGivenNames s₃
      have h₃ : Inv s₃ := h₂.sendAttq
      split
      · exact .ite h₃ h₃.guestReady
      · exact h₃

protected theorem Inv.execAttr {s : State} {site : Nat} {p : PlpMsg} (hs : Inv s) : Keeps (execAttr site p s) := by
  unfold execAttr
  refine Keeps.report ?_
  exact hs.plpIn fun h => Inv.ite h.modGuest.guestReady h.modGuest.fenceClosed

protected theorem Inv.execAttrTimeout {s : State} {site : Nat} (hs : Inv s) : Keeps (execAttrTimeout site s) := by
  unfold execAttrTimeout
  refine Keeps.next ?_
  split
  · exact hs
  · exact .ite hs hs.modGuest.fenceClosed

/-! ### Power -/

protected theorem Inv.modStage {s : State} {n : Nat} {f : Stage → Stage} (hs : Inv s) : Inv (modStage s n f) := hs.frame

protected theorem Inv.darkDie {s : State} {d : Nat} {state : BitVec 2} (hs : Inv s) : Inv (darkDie s d state) := by
  unfold darkDie
  extract_lets +onlyGivenNames s₁ s₂ s₃
  have h₂ : Inv s₂ := hs.modDie.foldl fun h => h.modClu
  have h₃ : Inv s₃ := h₂.foldl fun h => h.wipeCore
  exact .intro (Memory.filter_wf _ _ h₃.mem) h₃.parts h₃.requests h₃.sessions

protected theorem Inv.emptyHalf {s : State} {h : Nat} (hs : Inv s) : Inv (emptyHalf s h) := by
  unfold emptyHalf
  extract_lets +onlyGivenNames s₁ s₂
  have h₁ : Inv s₁ := hs.foldl fun h => h.abandonStep.noSpare
  have h₂ : Inv s₂ := h₁.foldl fun h => h.modDie
  exact h₂.stopCores.startEpoch

protected theorem Inv.takeHalfOut {s : State} {h : Nat} (hs : Inv s) : Inv (takeHalfOut s h) :=
  .ite hs hs.modHalf.emptyHalf.mfrRampdown.startRamp

protected theorem Inv.rampPanel {s : State} {cause : Nat} {aux : Bool} (hs : Inv s) : Inv (rampPanel s cause aux) := by
  unfold rampPanel
  extract_lets +onlyGivenNames s₁ s₂ s₃
  have h₁ : Inv s₁ := hs.enterSafe
  have h₂ : Inv s₂ := h₁.modHalf.modHalf
  have h₃ : Inv s₃ := h₂.stopCores.mfrRampdown.mfrRampdown
  exact h₃.startRamp.startRamp

protected theorem Inv.powerOff {s : State} (_hs : Inv s) : Inv (powerOff s) := Inv.reset.frame

protected theorem Inv.auxPlaneDown {s : State} {h : Nat} (hs : Inv s) : Inv (auxPlaneDown s h) :=
  .ite hs.frame.takeHalfOut hs.frame.takeHalfOut.powerOff

protected theorem Inv.tripStage {s : State} {stage : Nat} {hot : Bool} (hs : Inv s) : Inv (tripStage s stage hot) := by
  unfold tripStage
  extract_lets +onlyGivenNames x
  split
  · exact hs
  · extract_lets +onlyGivenNames s₁ s₂ sites ps s₃ s₄ s₅
    have h₁ : Inv s₁ := .ite hs.vaultRedundancy hs
    have h₂ : Inv s₂ := h₁.modStage
    have h₃ : Inv s₃ := h₂.foldl fun h => h.darkDie
    have h₄ : Inv s₄ := by
      unfold s₄
      split
      · exact h₃.reportStep.faultEvent
      · exact h₃.faultEvent
    have h₅ : Inv s₅ := by
      unfold s₅
      clear_value ps
      split
      · split
        · exact h₄
        · exact h₄.reportStep
      · exact h₄
    exact h₅.loseDies

protected theorem Inv.execAuxOutputTrip {s : State} {stage : Nat} (hs : Inv s) : Keeps (execAuxOutputTrip stage s) := by
  unfold execAuxOutputTrip
  refine Keeps.report ?_
  split
  · exact hs
  · extract_lets +onlyGivenNames h s₁ n s₂
    have h₁ : Inv s₁ := hs.modStage
    have h₂ : Inv s₂ := .ite h₁.frame.powerEvent h₁
    exact .ite h₂.auxPlaneDown h₂

protected theorem Inv.stagesOff {s : State} {h : Nat} (hs : Inv s) : Inv (stagesOff s h) := by
  unfold stagesOff
  extract_lets +onlyGivenNames s₁ s₂ s₃
  have h₁ : Inv s₁ := .ite hs.powerEvent.takeHalfOut hs
  have h₂ : Inv s₂ := h₁.modHalf
  have h₃ : Inv s₃ := h₂.foldl fun h => h.modStage
  exact (h₃.foldl fun h => h.darkDie).auxPlaneDown

protected theorem Inv.execInputSample {s : State} {h0 h1 : InputSample} (hs : Inv s) : Keeps (execInputSample h0 h1 s) := by
  unfold execInputSample
  refine Keeps.report ?_
  extract_lets +onlyGivenNames s₁ high out
  have h₁ : Inv s₁ := hs.frame
  split
  · exact h₁.foldl fun h => h.stagesOff
  · split
    · exact h₁.rampPanel
    · exact h₁.foldl fun h => Inv.ite h (Inv.ite h.powerEvent.takeHalfOut (Inv.ite h.takeHalfOut h))

protected theorem Inv.execRampDownStageStart {s : State} {stage : Nat} (hs : Inv s) : Keeps (execRampDownStageStart stage s) := by
  unfold execRampDownStageStart
  refine Keeps.report ?_
  split
  · exact hs
  · exact .ite hs (hs.modStage.foldl fun h => h.darkDie)

protected theorem Inv.holdReset {s : State} (hs : Inv s) : Inv (holdReset s) := hs.frame.emit

protected theorem Inv.execAuxOutputOpen {s : State} {half : Nat} (hs : Inv s) : Keeps (execAuxOutputOpen half s) := by
  unfold execAuxOutputOpen
  refine Keeps.report ?_
  extract_lets +onlyGivenNames h
  split
  · exact hs
  · split
    · exact hs
    · extract_lets +onlyGivenNames s₁ s₂ s₃
      have h₁ : Inv s₁ := hs.foldl fun h => h.modStage
      have h₂ : Inv s₂ := h₁.modHalf
      have h₃ : Inv s₃ := .ite h₂.holdReset h₂
      exact .ite h₃.auxPlaneDown h₃

protected theorem Inv.execHeartbeatWrite {s : State} {half : Nat} (hs : Inv s) : Keeps (execHeartbeatWrite half s) := by
  unfold execHeartbeatWrite
  refine Keeps.next ?_
  extract_lets +onlyGivenNames h
  split
  · exact hs
  · exact .ite hs hs.modHalf.emit

protected theorem Inv.toStage {s : State} {n cmd value : Nat} (hs : Inv s) : Inv (toStage s n cmd value) := hs.emit

protected theorem Inv.toStages {s : State} {n : Nat} {l : List (Nat × Nat)} (hs : Inv s) : Inv (toStages s n l) :=
  hs.foldl fun h => h.toStage

protected theorem Inv.readSlow {s : State} {r : StageRead} (hs : Inv s) : Inv (readSlow s r) := .ite hs.modStage.powerEvent hs.modStage

protected theorem Inv.readFast {s : State} {r : StageRead} (hs : Inv s) : Inv (readFast s r) := hs.modStage

protected theorem Inv.execTelemetryPoll {s : State} {r : StageRead} (hs : Inv s) : Keeps (execTelemetryPoll r s) := by
  unfold execTelemetryPoll
  refine Keeps.next ?_
  extract_lets +onlyGivenNames x
  split
  · exact hs
  · exact .ite hs.toStages.readFast.toStages.readSlow hs.toStages.readFast

protected theorem Inv.execPhaseFailure {s : State} {cl phase : Nat} (hs : Inv s) : Keeps (execPhaseFailure cl phase s) := by
  unfold execPhaseFailure
  refine Keeps.report ?_
  split
  · exact hs
  · extract_lets +onlyGivenNames s₁ ok s₂ p
    have h₁ : Inv s₁ := hs.vaultRedundancy
    have h₂ : Inv s₂ := h₁.modClu
    split
    · exact h₂.modClu.faultEvent
    · extract_lets +onlyGivenNames s₃
      have h₃ : Inv s₃ := by
        unfold s₃
        clear_value p
        split
        · exact h₂.reportStep
        · exact h₂
      exact h₃.loseCluster

protected theorem Inv.addStretch {s : State} {cl n : Nat} (hs : Inv s) : Inv (addStretch s cl n) := hs.modClu

protected theorem Inv.turnOn {s : State} {site : Nat} {w : WakeReq} (hs : Inv s) : Inv (turnOn s site w) := hs.modDie.modClu

protected theorem Inv.serveWake {s : State} {site : Nat} (hs : Inv s) : Inv (serveWake s site) := by
  unfold serveWake
  extract_lets +onlyGivenNames s₁ d
  have h₁ : Inv s₁ := .ite hs hs.modDie.nextWake
  split
  · exact .ite h₁ h₁.turnOn
  · exact h₁

protected theorem Inv.execWakeHeadroomTimeout {s : State} {site : Nat} (hs : Inv s) : Keeps (execWakeHeadroomTimeout site s) := by
  unfold execWakeHeadroomTimeout
  refine Keeps.next ?_
  split
  · exact hs
  · split
    · exact hs.serveWake
    · split
      · exact hs
      · extract_lets +onlyGivenNames s₁ on n
        have h₁ : Inv s₁ := .ite hs hs.modDie.modClu
        exact .ite h₁ (h₁.foldl fun h => h.addStretch).turnOn

protected theorem Inv.wakeDone {s : State} {p : Nat} (hs : Inv s) : Inv (wakeDone s p) :=
  .ite (Inv.ite hs.modPart.launchPart hs.modPart).kickJob hs

protected theorem Inv.execClusterOn {s : State} {cl : Nat} (hs : Inv s) : Keeps (execClusterOn cl s) := by
  unfold execClusterOn
  refine Keeps.next ?_
  split
  · exact hs
  · split
    · exact hs
    · extract_lets +onlyGivenNames ok s₁ s₂
      have h₁ : Inv s₁ := hs.modClu
      have h₂ : Inv s₂ := h₁.nextWake.serveWake
      split
      · exact h₂.wakeDone
      · exact h₂

/-! ### Links -/

protected theorem Inv.setLink {s : State} {l : LinkRef} {x : Link} (hs : Inv s) : Inv (setLink s l x) := by
  unfold setLink
  split
  · exact hs.frame
  · exact hs.frame

protected theorem Inv.laneDue {s : State} {l : LinkRef} {n : Nat} (hs : Inv s) : Inv (laneDue s l n) := .ite hs.setLink hs

protected theorem Inv.linkOut {s : State} {site side pair : Nat} (hs : Inv s) : Inv (linkOut s site side pair) := by
  unfold linkOut
  extract_lets +onlyGivenNames x s₁ s₂ lost s₃ s₄
  have h₁ : Inv s₁ := hs.frame
  have h₂ : Inv s₂ := h₁.startEpoch
  have h₃ : Inv s₃ := by
    unfold s₃
    refine h₂.foldl fun h₅ => ?_
    split
    · exact h₅.reportStep
    · exact h₅
  have h₄ : Inv s₄ := .ite h₃ h₃.loseDies
  exact .ite h₄.takeHalfOut h₄

protected theorem Inv.answerLane {s : State} {l : LinkRef} {lane : Nat} (hs : Inv s) : Inv (answerLane s l lane) :=
  hs.setLink.foldl fun h => h.complete

protected theorem Inv.execLaneRetrainDone {s : State} {l : LinkRef} {lane : Nat} {ok : Bool} (hs : Inv s) :
    Keeps (execLaneRetrainDone l lane ok s) := by
  unfold execLaneRetrainDone
  refine Keeps.report ?_
  extract_lets +onlyGivenNames x on
  split
  · exact hs
  · extract_lets +onlyGivenNames y s₁
    have h₁ : Inv s₁ := by
      unfold s₁
      split
      · exact hs.setLink
      · split
        · exact hs.setLink.vaultRedundancy
        · exact .ite hs.setLink.vaultRedundancy hs.setLink.linkOut
    exact h₁.answerLane

protected theorem Inv.coreCross {s : State} {k : Nat} (hs : Inv s) : Inv (coreCross s k) := by
  unfold coreCross
  extract_lets +onlyGivenNames cl u
  split
  · exact hs
  · split
    · refine Inv.loseCore ?_
      split
      · exact hs.reportStep
      · exact hs
    · extract_lets +onlyGivenNames s₁
      have h₁ : Inv s₁ := hs.modCore.modClu
      split
      · exact h₁.rungPanel
      · extract_lets +onlyGivenNames s₂ s₃ s₄
        have h₂ : Inv s₂ := h₁.sendFence
        have h₃ : Inv s₃ := h₂.foldl fun h => h.foldl fun h' => h'.fenceCtx
        have h₄ : Inv s₄ := h₃.modClu
        split
        · exact h₄.realign
        · exact h₄.reportStep.renumberAfter.boundary

protected theorem Inv.execCrossFault {s : State} {x : Crossing} (hs : Inv s) : Keeps (execCrossFault x s) := by
  unfold execCrossFault
  refine Keeps.report ?_
  split
  · exact hs.laneDue
  · exact hs.coreCross

/-! ### Clocks -/

protected theorem Inv.evalMargin {s : State} {m : MonitorRead} (hs : Inv s) : Inv (evalMargin s m) := by
  unfold evalMargin
  split
  · exact hs.frame
  · split
    · exact hs
    · extract_lets +onlyGivenNames s₁
      have h₁ : Inv s₁ := hs.modClu
      split
      · extract_lets +onlyGivenNames d s₂
        have h₂ : Inv s₂ := by
          unfold s₂
          split
          · exact h₁.reportStep
          · exact h₁
        exact h₂.parkOff.loseDies
      · exact .ite h₁.leaveIfIdle h₁

protected theorem Inv.evalStep {s : State} (hs : Inv s) : Inv (evalStep s) := .ite hs (Inv.ite hs.frame hs.frame.frame.journal.emit)

protected theorem Inv.releaseWakes {s : State} (hs : Inv s) : Inv (releaseWakes s) := hs.frame

protected theorem Inv.execClockRestart {s : State} (hs : Inv s) : Keeps (execClockRestart s) := by
  unfold execClockRestart
  refine Keeps.next ?_
  extract_lets +onlyGivenNames c
  split
  · exact hs
  · extract_lets +onlyGivenNames s₁ join pause s₂
    have h₁ : Inv s₁ := hs.releaseWakes
    extract_lets +onlyGivenNames s₃
    have h₃ : Inv s₃ := h₁.frame
    clear_value join
    split
    · exact h₃.frame
    · exact h₃

protected theorem Inv.execTallyIntervalBoundary {s : State} {m : List MonitorRead} (hs : Inv s) :
    Keeps (execTallyIntervalBoundary m s) := by
  unfold execTallyIntervalBoundary
  refine Keeps.report ?_
  split
  · exact hs
  · extract_lets +onlyGivenNames driven s₁ s₂
    have h₂ : Inv s₂ := hs.frame
    extract_lets +onlyGivenNames s₃
    have h₃ : Inv s₃ := h₂.foldl fun h => h.evalMargin
    exact .ite h₃.evalStep h₃

/-! ### Cooling -/

protected theorem Inv.applySetting {s : State} {p : Nat} (hs : Inv s) : Inv (applySetting s p) := by
  unfold applySetting
  extract_lets +onlyGivenNames q
  split
  · exact hs
  · split
    · exact hs
    · extract_lets +onlyGivenNames old l l₁ l₂ s₃
      extract_lets +onlyGivenNames s₄
      have h₄ : Inv s₄ := hs.setPart
      split
      · exact h₄.foldl fun h => h.parkOff
      · exact .ite (h₄.foldl fun h => h.requestWake).wakeDone h₄

protected theorem Inv.stepPanelCaps {s : State} (hs : Inv s) : Inv (stepPanelCaps s) := by
  unfold stepPanelCaps
  extract_lets +onlyGivenNames l avg rise
  split
  extract_lets +onlyGivenNames half before
  split
  extract_lets +onlyGivenNames s₁ after s₂ s₃ s₄
  have h₁ : Inv s₁ := hs.frame
  have h₂ : Inv s₂ := .ite h₁.powerEvent h₁
  have h₃ : Inv s₃ := .ite h₂.powerEvent h₂
  have h₄ : Inv s₄ := .ite h₃.powerEvent h₃
  exact .ite h₄.powerEvent h₄

protected theorem Inv.stepThermal {s : State} {cl : Nat} (hs : Inv s) : Inv (stepThermal s cl) := by
  unfold stepThermal
  extract_lets +onlyGivenNames u t d
  split
  split
  extract_lets +onlyGivenNames s₁ s₂
  have h₁ : Inv s₁ := hs.setClu
  have h₂ : Inv s₂ := .ite h₁.powerEvent h₁
  exact .ite h₂.powerEvent h₂

protected theorem Inv.stepStages {s : State} (hs : Inv s) : Inv (stepStages s) := hs.frame

protected theorem Inv.heatRuns {s : State} {d : Nat} (hs : Inv s) : Inv (heatRuns s d) :=
  hs.foldl fun h => h.foldl fun h' => h'.spmWriteLine.bumpFree

protected theorem Inv.holdWarm {s : State} {e : PeriodEnergy} {pre : Bool} {d : Nat} (hs : Inv s) : Inv (holdWarm s e pre d) := by
  unfold holdWarm
  extract_lets +onlyGivenNames s₁ s₂ cap
  have h₁ : Inv s₁ := hs.foldl fun h => h.requestWake
  have h₂ : Inv s₂ := .ite h₁.heatRuns h₁
  exact h₂.modDie

protected theorem Inv.coolFreely {s : State} {d : Nat} (hs : Inv s) : Inv (coolFreely s d) := by
  unfold coolFreely
  extract_lets s₁
  have h₁ : Inv s₁ := by
    refine hs.foldl fun h => ?_
    exact .ite h.parkOff h
  exact h₁.modDie

protected theorem Inv.keepWarm {s : State} {e : PeriodEnergy} (hs : Inv s) : Inv (keepWarm s e) := by
  unfold keepWarm
  split
  exact hs.frame.foldl fun h => Inv.ite h.holdWarm h.coolFreely

protected theorem Inv.closePeriod {s : State} {p : Nat} {f : PartPeriod} (hs : Inv s) : Inv (closePeriod s p f) := hs.modPart

protected theorem Inv.noteThermal {s : State} (hs : Inv s) : Inv (noteThermal s) := hs.frame

protected theorem Inv.closeReceipts {s : State} (hs : Inv s) : Inv (closeReceipts s) := by
  unfold closeReceipts
  extract_lets +onlyGivenNames due s₁
  have h₁ : Inv s₁ := hs.withRequests (Tbl.map_wf hs.requests)
  exact h₁.foldl fun h => Inv.ite h.postReceipt h

protected theorem Inv.execLedgerPeriodBoundary {e : PeriodEnergy} {s : State} (hs : Inv s) : Keeps (execLedgerPeriodBoundary e s) := by
  refine Keeps.report (.ite hs ?_)
  extract_lets +onlyGivenNames plan s₁ s₂ ein idle
  have h₁ : Inv s₁ := hs.frame
  have h₂ : Inv s₂ := h₁.foldl fun h => h.modPart
  clear_value s₂
  split
  extract_lets +onlyGivenNames figs charge s₃ s₄ serving led s₅ s₆ s₇ s₈ s₉ s₁₀ s₁₁
  have hcharge {t : State} {r d v : Nat} (h : Inv t) : Inv (charge t r d v) := by
    unfold charge
    split
    · exact .ite h (.intro h.mem h.parts (Tbl.put_wf h.requests) h.sessions)
    · exact h
  have h₃ : Inv s₃ := .ite h₂ ((h₂.foldl fun h => hcharge h).foldl fun h => hcharge h)
  have h₄ : Inv s₄ := h₃.closeReceipts
  have h₅ : Inv s₅ := h₄.frame
  have h₇ : Inv s₇ := (h₅.foldl fun h => h.closePeriod).foldl fun h => h.modClu.leaveIfIdle
  have h₈ : Inv s₈ := by
    refine h₇.foldl fun h => ?_
    split
    · exact h.modDie
    · exact h
  have h₉ : Inv s₉ := h₈.foldl fun h => h.applySetting.wakeDone
  have h₁₁ : Inv s₁₁ := h₉.stepPanelCaps.stepStages.foldl fun h => h.stepThermal
  exact h₁₁.frame.keepWarm.noteThermal

protected theorem Inv.execCoolantSample {s : State} {tin tout : BitVec 16} (hs : Inv s) : Keeps (execCoolantSample tin tout s) := by
  unfold execCoolantSample
  refine Keeps.report ?_
  extract_lets +onlyGivenNames i o keep l l₁ low high inlet rise was lim s₂ s₃
  have h₂ : Inv s₂ := hs.frame
  have h₃ : Inv s₃ := .ite h₂.powerEvent h₂
  exact .ite h₃.rampPanel h₃

/-! ### Optical -/

protected theorem Inv.modOe {s : State} {oe : Nat} {f : OptDie → OptDie} (hs : Inv s) : Inv (modOe s oe f) := hs.frame

protected theorem Inv.assuredIn {s : State} {key : Nat} {f : OptFrame} {g : State → State} (hs : Inv s)
    (hg : ∀ {t}, Inv t → Inv (g t)) : Inv (assuredIn s key f g) := .ite hs (hg hs.frame)

protected theorem Inv.acceptFrame {s : State} {t : Nat} {f : OptFrame} {g : State → State} (hs : Inv s)
    (hg : ∀ {t}, Inv t → Inv (g t)) : Inv (acceptFrame s t f g) := .ite hs (.ite (hs.assuredIn hg) (hg hs))

protected theorem Inv.acceptTwin {s : State} {t : Nat} {f : OptFrame} {g : State → State} (hs : Inv s)
    (hg : ∀ {t}, Inv t → Inv (g t)) : Inv (acceptTwin s t f g) := .ite hs (hs.frame.assuredIn hg)

protected theorem Inv.sendDone {s : State} {oe : Nat} {f : OptFrame} {st : Status} (hs : Inv s) : Inv (sendDone s oe f st) := hs.sendFrame

protected theorem Inv.farLine {s : State} {oe : Nat} {f : OptFrame} {first lines : Nat} {write : Bool} {r : ArrayRead} (hs : Inv s) :
    Inv (farLine s oe f first lines write r) := by
  unfold farLine
  extract_lets +onlyGivenNames p w refusal
  split
  · exact hs.sendDone
  · split
    split
    · rename_i s₁ _ e₁
      have h₁ : Inv s₁ := hs.gateChannel.of_eq e₁
      exact h₁.sendDone
    · rename_i s₂ _ _ e₂
      have h₂ : Inv s₂ := hs.gateChannel.of_eq e₂
      exact h₂.sendFrame
    · rename_i s₃ e₃
      exact hs.gateChannel.of_eq e₃

protected theorem Inv.grantPut {s : State} {oe tag : Nat} {x : OptXfer} (hs : Inv s) : Inv (grantPut s oe tag x) := by
  unfold grantPut
  split
  exact hs.modOe.sendCtrl

protected theorem Inv.addXfer {s : State} {oe : Nat} {x : OptXfer} (hs : Inv s) : Inv (addXfer s oe x) := hs.modOe

protected theorem Inv.execXputReq {s : State} {oe : Nat} {p : CtrlPacket} (hs : Inv s) : Keeps (execXputReq oe p s) := by
  unfold execXputReq
  refine Keeps.next ?_
  split
  · exact hs
  · split
    · exact hs
    · exact .ite hs.addXfer hs.addXfer.grantPut

protected theorem Inv.execXgetReq {s : State} {oe : Nat} {p : CtrlPacket} (hs : Inv s) : Keeps (execXgetReq oe p s) := by
  unfold execXgetReq
  refine Keeps.next ?_
  split
  · exact hs
  · split
    · exact hs
    · exact hs.setCore.addXfer.foldl fun h => h.sendFrame

protected theorem Inv.taggedAtOptical {s : State} {oe tag seq : Nat} {v : Line} (hs : Inv s) : Inv (taggedAtOptical s oe tag seq v) := by
  unfold taggedAtOptical
  split
  · exact .ite hs.modOe hs.modOe.emit
  · split
    · exact hs
    · exact .ite hs hs.modOe.sendFrame

protected theorem Inv.execTaggedLineArrival {s : State} {p : DataPacket} (hs : Inv s) : Keeps (execTaggedLineArrival p s) := by
  unfold execTaggedLineArrival
  refine Keeps.next ?_
  split
  · extract_lets +onlyGivenNames k
    split
    · exact hs.taggedAtChannel
    · split
      · exact hs.taggedAtOptical
      · exact hs
    · exact hs.taggedAtCore
    · exact hs
  · exact hs

protected theorem Inv.settleLine {s : State} {oe tag seq : Nat} {st : Status} (hs : Inv s) : Inv (settleLine s oe tag seq st) := by
  unfold settleLine
  split
  · exact hs
  · split
    · exact hs
    · extract_lets +onlyGivenNames y s₁
      have h₁ : Inv s₁ := hs.modOe
      split
      exact .ite (Inv.ite h₁ h₁.sendCtrl) (Inv.ite h₁.forgetSeq h₁).sendCtrl

protected theorem Inv.execGetLine {s : State} {oe : Nat} {f : OptFrame} (hs : Inv s) : Keeps (execGetLine oe f s) := by
  unfold execGetLine
  refine Keeps.next ?_
  split
  · exact hs
  · refine hs.acceptFrame fun h₁ => ?_
    split
    · exact h₁
    · split
      exact h₁.settleLine.emit

protected theorem Inv.execDone {s : State} {oe : Nat} {f : OptFrame} (hs : Inv s) : Keeps (execDone oe f s) := by
  unfold execDone
  refine Keeps.next ?_
  split
  · exact hs
  · refine hs.acceptFrame fun h₁ => ?_
    extract_lets +onlyGivenNames st
    split
    · exact h₁.settleLine
    · split
      · exact .ite h₁ h₁.settleLine
      · exact h₁

protected theorem Inv.execOpticalLineTimeout {s : State} {oe tag seq : Nat} (hs : Inv s) :
    Keeps (execOpticalLineTimeout oe tag seq s) := by
  unfold execOpticalLineTimeout
  refine Keeps.next ?_
  split
  · exact hs
  · exact .ite hs hs.settleLine

protected theorem Inv.countDropped {s : State} {oe : Nat} (hs : Inv s) : Inv (countDropped s oe) := hs.modOe

protected theorem Inv.noteOptical {s : State} {oe : Nat} (hs : Inv s) : Inv (noteOptical s oe) := hs.frame.countDropped

protected theorem Inv.execOpticalFrameTransit {s : State} {oe : Nat} {f : OptFrame} (hs : Inv s) :
    Keeps (execOpticalFrameTransit oe f s) := by
  unfold execOpticalFrameTransit
  refine Keeps.next ?_
  split
  · exact hs
  · split
    · exact hs.countDropped
    · split
      · exact hs
      · extract_lets +onlyGivenNames x k
        split
        exact hs.modOe.emit

protected theorem Inv.memberLost {s : State} {j : Nat} {epoch : BitVec 32} {lost : List Nat} (hs : Inv s) :
    Inv (memberLost s j epoch lost) := by
  unfold memberLost
  extract_lets +onlyGivenNames ps s₁ s₂ gone open_ s₃ s₄
  have h₁ : Inv s₁ := hs.reportStep
  have h₂ : Inv s₂ := h₁.withParts (Tbl.map_wf h₁.parts)
  have h₃ : Inv s₃ := h₂.foldl fun h => h.settleLine
  have h₄ : Inv s₄ := h₃.modJob
  exact h₄.jobEvent

protected theorem Inv.declareLost {s : State} {j : Nat} {lost : List Nat} (hs : Inv s) : Inv (declareLost s j lost) :=
  .ite hs (hs.foldl fun h => h.foldl fun h' => h'.sendFrame).memberLost

protected theorem Inv.askBack {s : State} {j m : Nat} (hs : Inv s) : Inv (askBack s j m) := hs.foldl fun h => h.sendFrame

protected theorem Inv.memberBack {s : State} {j : Nat} {epoch : BitVec 32} {m p lead : Nat} (hs : Inv s) :
    Inv (memberBack s j epoch m p lead) := by
  unfold memberBack
  extract_lets +onlyGivenNames x s₁
  have h₁ : Inv s₁ := hs.modJob
  split
  · exact h₁
  · exact (h₁.modJob.foldl fun h => Inv.ite h h.unfencePart).recomputeJob.kickJob

protected theorem Inv.leadTakesBack {s : State} {j m p : Nat} (hs : Inv s) : Inv (leadTakesBack s j m p) :=
  ((hs.foldl fun h => h.sendFrame).sendFrame).memberBack

protected theorem Inv.execJob {s : State} {f : OptFrame} (hs : Inv s) : Keeps (execJob f s) := by
  unfold execJob
  refine Keeps.report (hs.acceptFrame fun h₁ => ?_)
  extract_lets +onlyGivenNames v j e x from_
  split
  · exact h₁
  · split
    · extract_lets +onlyGivenNames m p
      split
      · exact .ite h₁.leadTakesBack h₁
      · split
        · split
          · exact .ite h₁.memberBack h₁
          · exact h₁
        · exact .ite h₁.memberBack h₁
    · exact .ite h₁.memberLost h₁

protected theorem Inv.execCrossPanelClearTimeout {s : State} {job : Nat} (hs : Inv s) : Keeps (execCrossPanelClearTimeout job s) := by
  unfold execCrossPanelClearTimeout
  refine Keeps.report ?_
  extract_lets +onlyGivenNames x
  split
  · exact hs
  · split
    · exact hs
    · exact hs.declareLost

protected theorem Inv.execRejoinTimeout {s : State} {job : Nat} (hs : Inv s) : Keeps (execRejoinTimeout job s) := by
  unfold execRejoinTimeout
  refine Keeps.next ?_
  split
  · exact hs
  · exact .ite hs hs.modJob

protected theorem Inv.execClearUp {s : State} {f : OptFrame} (hs : Inv s) : Keeps (execClearUp f s) := by
  unfold execClearUp
  refine Keeps.report (hs.acceptFrame fun h₁ => ?_)
  split
  · exact h₁
  · split
    · exact .ite h₁.modJob.leadDecides h₁
    · exact h₁

protected theorem Inv.execClearNotice {s : State} {f : OptFrame} (hs : Inv s) : Keeps (execClearNotice f s) := by
  unfold execClearNotice
  refine Keeps.report (hs.acceptFrame fun h₁ => ?_)
  split
  · exact h₁
  · exact .ite h₁ h₁.modJob.clearGen.boundary

protected theorem Inv.execAssuredAckDue {s : State} {oe src : Nat} (hs : Inv s) : Keeps (execAssuredAckDue oe src s) := by
  unfold execAssuredAckDue
  refine Keeps.next ?_
  split
  · exact hs
  · exact .ite hs hs.frame.emit

protected theorem Inv.grantWaiting {s : State} (hs : Inv s) : Inv (grantWaiting s) := by
  unfold grantWaiting
  refine hs.foldl fun h₁ => ?_
  split
  · exact .ite h₁ h₁.grantPut
  · exact h₁

protected theorem Inv.unreachable {s : State} {dst : Nat} {f : SentFrame} (hs : Inv s) : Inv (unreachable s dst f) := by
  unfold unreachable
  extract_lets +onlyGivenNames a s₁ s₂ s₃
  have h₁ : Inv s₁ := hs.frame
  extract_lets +onlyGivenNames s₄ s₅
  have h₄ : Inv s₄ := by
    unfold s₄
    split
    · split
      · exact h₁.settleLine
      · exact h₁
    · exact h₁
  have h₅ : Inv s₅ := h₄.foldl fun h => Inv.ite h.declareLost h
  exact h₅.grantWaiting

protected theorem Inv.resendOne {s : State} {dst : Nat} {q : BitVec 20} (hs : Inv s) : Inv (resendOne s dst q) := by
  unfold resendOne
  extract_lets +onlyGivenNames a
  split
  · exact hs
  · exact .ite hs (Inv.ite hs.unreachable hs.frame.emit)

protected theorem Inv.resendEscrow {s : State} {q : Nat} (hs : Inv s) : Inv (resendEscrow s q) := by
  unfold resendEscrow
  split
  · exact hs
  · exact .ite hs.frame hs.launchFrame

protected theorem Inv.sendUnsent {s : State} (hs : Inv s) : Inv (sendUnsent s) := hs.foldl fun h => h.launchFrame

protected theorem Inv.releaseHeld {s : State} {free : Nat → Bool} (hs : Inv s) : Inv (releaseHeld s free) := by
  unfold releaseHeld
  extract_lets +onlyGivenNames go s₁
  extract_lets +onlyGivenNames s₂
  have h₂ : Inv s₂ := hs.frame
  refine h₂.foldl fun h₃ => ?_
  split
  · exact h₃.pushBlocks
  · exact h₃

protected theorem Inv.execAck {s : State} {oe : Nat} {f : OptFrame} (hs : Inv s) : Keeps (execAck oe f s) := by
  unfold execAck
  refine Keeps.report ?_
  split
  · exact hs
  · split
    · split
      · exact hs
      · exact (hs.frame.releaseHeld.sendReady.foldl fun h => h.resendEscrow).sendUnsent
    · exact ((Inv.ite hs.frame hs).foldl fun h => h.resendOne).grantWaiting

protected theorem Inv.execAssuredResendTimeout {s : State} {dst seq : Nat} (hs : Inv s) : Keeps (execAssuredResendTimeout dst seq s) := by
  unfold execAssuredResendTimeout
  refine Keeps.report ?_
  split
  · split
    · exact .ite hs hs.resendEscrow
    · exact hs
  · split
    · exact .ite hs hs.resendOne
    · exact hs

protected theorem Inv.steerTo {s : State} {off src : Int} (hs : Inv s) : Inv (steerTo s off src) := .ite hs.frame hs.frame

protected theorem Inv.noteTwin {s : State} {f : OptFrame} {v : Option Line} (hs : Inv s) : Inv (noteTwin s f v) := hs.frame

protected theorem Inv.releaseAll {s : State} (hs : Inv s) : Inv (releaseAll s) := hs.frame.releaseHeld.sendReady

protected theorem Inv.becomeSolo {s : State} (hs : Inv s) : Inv (becomeSolo s) := hs.frame.releaseAll

protected theorem Inv.detachHere {s : State} (hs : Inv s) : Inv (detachHere s) := by
  unfold detachHere
  extract_lets +onlyGivenNames waiting s₁
  have h₁ : Inv s₁ := hs.becomeSolo.twinEvent
  clear_value waiting
  split
  · exact h₁.complete
  · exact h₁

protected theorem Inv.execBeat {s : State} {f : OptFrame} (hs : Inv s) : Keeps (execBeat f s) := by
  unfold execBeat
  refine Keeps.report ?_
  exact hs.acceptTwin fun h => Inv.ite h.frame.noteTwin.detachHere h.frame.noteTwin

protected theorem Inv.execTwinLinkSilence {s : State} (hs : Inv s) : Keeps (execTwinLinkSilence s) := by
  unfold execTwinLinkSilence
  refine Keeps.report ?_
  split
  · exact hs
  · split
    · extract_lets +onlyGivenNames r s₁
      have h₁ : Inv s₁ := hs.becomeSolo.twinEvent
      clear_value r
      split
      · exact h₁.complete
      · exact h₁
    · split
      · extract_lets +onlyGivenNames r s₂
        have h₂ : Inv s₂ := hs.becomeSolo.twinEvent
        clear_value r
        split
        · exact h₂.complete
        · exact h₂
      · exact .ite hs hs.frame.twinEvent

protected theorem Inv.resumeSession {s : State} {partner : Nat} {body : Bytes} (hs : Inv s) : Inv (resumeSession s partner body) := by
  unfold resumeSession
  split
  · exact hs
  · extract_lets +onlyGivenNames n s₁ t
    have h₁ : Inv s₁ := .ite hs.endSession hs
    exact (h₁.withSessions (Tbl.put_wf h₁.sessions)).bumpFree.eventTo

protected theorem Inv.resumeRequest {s : State} {recs : List EscrowRec} {r : EscrowRec} (hs : Inv s) : Inv (resumeRequest s recs r) := by
  unfold resumeRequest
  split
  split
  · exact hs
  · extract_lets +onlyGivenNames req ps
    split
    rename_i s₁ _ e₁
    have h₁ : Inv s₁ := by
      refine Inv.of_eq ?_ e₁
      refine hs.foldl_fst fun h₂ => ?_
      split
      · rename_i s₃ _ e₃
        exact h₂.bindKv.of_eq e₃
      · rename_i s₄ e₄
        exact h₂.bindKv.of_eq e₄
    extract_lets +onlyGivenNames rates x x₅ s₆
    extract_lets +onlyGivenNames s₇
    have h₇ : Inv s₇ := h₁.foldl fun h => h.modPart
    exact h₇.withRequests (Tbl.put_wf h₇.requests)

protected theorem Inv.execShadowTakeover {s : State} (hs : Inv s) : Keeps (execShadowTakeover s) := by
  unfold execShadowTakeover
  refine Keeps.report ?_
  split
  · exact hs
  · extract_lets +onlyGivenNames recs partner stand s₁ s₂ s₃ s₄ s₅ s₆ s₇ warm s₈ s₉
    have h₁ : Inv s₁ := hs.foldl fun h => h.modJob
    have h₂ : Inv s₂ := h₁.foldl fun h => h.endRequest
    have h₃ : Inv s₃ := h₂.withParts (Tbl.map_wf h₂.parts)
    have h₄ : Inv s₄ := h₃.foldl fun h => h.resumeSession
    have h₅ : Inv s₅ := h₄.twinEvent
    have h₆ : Inv s₆ := h₅.foldl fun h => h.resumeRequest
    have hwarm : Inv warm := h₆.frame.twinEvent
    have h₉ : Inv s₉ := hwarm.foldl fun h => (h.modPart.foldl fun h' => h'.requestWake).wakeDone
    exact (h₉.foldl fun h => h.askBack).foldl fun h => h.kickJob

/-! ### Teller -/

protected theorem Inv.dropMac {s : State} {port : Nat} (hs : Inv s) : Inv (dropMac s port) := hs.modHub

protected theorem Inv.dropReplay {s : State} {port : Nat} (hs : Inv s) : Inv (dropReplay s port) := hs.modHub

protected theorem Inv.authIn {s : State} {m : Msg} {f : State → State} (hs : Inv s) (hf : ∀ {t}, Inv t → Inv (f t)) :
    Inv (authIn s m f) := by
  refine .ite hs ?_
  split
  · exact hs.dropMac
  · refine .ite hs.dropMac (.ite hs.dropReplay (.ite hs.endSession (hf ?_)))
    exact .intro hs.mem hs.parts hs.requests (Tbl.put_wf hs.sessions)

protected theorem Inv.execTellerMessageDrop {m : Msg} {s : State} (hs : Inv s) : Keeps (execTellerMessageDrop m s) := by
  have hin : Inv (authIn s m id) := hs.authIn fun h => h
  refine Keeps.next (.ite hs ?_)
  split
  · exact .ite hs hin
  · exact hin

protected theorem Inv.cmdRun {s : State} {m : Msg} {c : Cmd} {r : Reply} (hs : Inv s) (hc : c.Keeps) : Inv (cmdRun s m c r) := by
  obtain ⟨hrefuse, hrun⟩ := hc (r := r) hs
  refine .ite hs.complete (.ite hrefuse.complete (.ite hrefuse.complete (.ite hrefuse.complete ?_)))
  split
  · exact hrefuse.complete
  · exact hrun

protected theorem Inv.modBox {s : State} {n b : Nat} {f : Mailbox → Mailbox} (hs : Inv s) : Inv (modBox s n b f) := hs.modSess

protected theorem Inv.boxRun {s : State} {m : Msg} {c : Cmd} (hs : Inv s) (hc : c.Keeps) : Inv (boxRun s m c) :=
  (Inv.ite hs.modBox hs.modBox.journal).cmdRun hc

protected theorem Inv.boxHold {s : State} {m : Msg} {i : Instr} {c : Cmd} (hs : Inv s) : Inv (boxHold s m i c) :=
  .ite hs.modBox hs.modBox.modHub

protected theorem Inv.noteRing {s : State} {port : Nat} (hs : Inv s) : Inv (noteRing s port) := hs.modHub

protected theorem Inv.boxIn {s : State} {m : Msg} {i : Instr} {c : Cmd} (hs : Inv s) (hc : c.Keeps) : Inv (boxIn s m i c) := by
  unfold boxIn
  extract_lets q b r
  split
  · exact hs.noteRing.sendCompletion
  · split
    · exact hs.sendCompletion
    · split
      · exact hs.sendCompletion
      · exact .ite hs.noteRing.sendCompletion (.ite hs.boxHold (hs.boxRun hc))

protected theorem Inv.teller {s : State} {m : Msg} {i : Instr} {c : Cmd} (hs : Inv s) (hc : c.Keeps) : Inv (teller s m i c) :=
  .ite hs (hs.authIn fun h => h.boxIn hc)

protected theorem Inv.reject {s : State} {m : Msg} {st : Status} (hs : Inv s) : Inv (reject s m st) := hs.modHub.frame.emit

protected theorem Inv.accept {s : State} {m : Msg} {h : Handshake} {hello ss ct nonce sigma : Bytes} (hs : Inv s) :
    Inv (accept s m h hello ss ct nonce sigma) := by
  unfold accept
  split
  · exact hs.reject
  · exact hs.frame.emits

protected theorem Inv.execHello {s : State} {m : Msg} {chainOk : Bool} {ss ct nonce sigma : Bytes} (hs : Inv s) :
    Keeps (execHello m chainOk ss ct nonce sigma s) := by
  unfold execHello
  refine Keeps.next ?_
  split
  · exact hs
  · split
    · exact hs.reject
    · extract_lets +onlyGivenNames h
      split
      · exact hs
      · extract_lets +onlyGivenNames h₁
        split
        · exact hs.frame
        · exact .ite hs.reject (Inv.ite hs.reject hs.accept)

protected theorem Inv.establish {s : State} {m : Msg} {h : Handshake} {priv top : Nat} (hs : Inv s) : Inv (establish s m h priv top) := by
  unfold establish
  extract_lets +onlyGivenNames key t t₁ s₂ s₃ s₄
  have h₃ : Inv s₃ := hs.withSessions (Tbl.put_wf hs.sessions)
  have h₄ : Inv s₄ := h₃.journal.renewReport
  exact h₄.escrowSend.sendMsg

protected theorem Inv.execFinish {s : State} {m : Msg} {sigOk : Bool} (hs : Inv s) : Keeps (execFinish m sigOk s) := by
  unfold execFinish
  refine Keeps.next ?_
  split
  · exact hs
  · split
    · exact hs
    · split
      · exact hs
      · split
        · exact hs.reject
        · split
          · exact hs.dropMac
          · extract_lets +onlyGivenNames h
            split
            · exact hs.frame
            · split
              · exact hs.reject
              · split
                · exact hs.reject
                · exact .ite hs.reject (Inv.ite hs.reject hs.establish)

protected theorem Inv.execHandshakeTimeout {s : State} {id : BitVec 32} (hs : Inv s) : Keeps (execHandshakeTimeout id s) := by
  unfold execHandshakeTimeout
  refine Keeps.next ?_
  split
  · exact hs
  · exact .ite hs hs.frame.modHub

protected theorem Inv.execSessionKeepaliveExpiry {s : State} {sess : Nat} (hs : Inv s) : Keeps (execSessionKeepaliveExpiry sess s) := by
  unfold execSessionKeepaliveExpiry
  refine Keeps.next ?_
  split
  · exact hs
  · exact .ite hs hs.endSession.modHub

protected theorem Inv.streamAcked {s : State} {n cum map : Nat} (hs : Inv s) : Inv (streamAcked s n cum map) := by
  unfold streamAcked
  split
  · exact hs
  · extract_lets +onlyGivenNames t t₁ s₂ again
    have h₂ : Inv s₂ := hs.withSessions (Tbl.put_wf hs.sessions)
    exact (h₂.foldl fun h => h.transmit).sendWaiting

protected theorem Inv.execStreamAck {s : State} {m : Msg} (hs : Inv s) : Keeps (execStreamAck m s) := by
  unfold execStreamAck
  refine Keeps.next ?_
  split
  · exact hs
  · refine hs.authIn fun h₁ => ?_
    split
    · exact h₁
    · exact .ite h₁ h₁.streamAcked

protected theorem Inv.execStreamResendTimeout {s : State} {sess sseq : Nat} (hs : Inv s) :
    Keeps (execStreamResendTimeout sess sseq s) := by
  unfold execStreamResendTimeout
  refine Keeps.next ?_
  split
  · exact hs
  · split
    · exact hs
    · exact .ite hs (Inv.ite hs.modSess hs).transmit

protected theorem Inv.execEventResendTimeout {s : State} {sess eseq : Nat} (hs : Inv s) : Keeps (execEventResendTimeout sess eseq s) := by
  unfold execEventResendTimeout
  refine Keeps.next ?_
  split
  · exact hs
  · exact .ite hs hs.sendEvent

protected theorem Inv.execTicketExpiry {s : State} {ticket : Nat} (hs : Inv s) : Keeps (execTicketExpiry ticket s) := by
  unfold execTicketExpiry
  refine Keeps.next ?_
  split
  · exact hs
  · exact .ite hs hs.frame

protected theorem Inv.execTicketClaimEnd {s : State} {ticket : Nat} (hs : Inv s) : Keeps (execTicketClaimEnd ticket s) := by
  unfold execTicketClaimEnd
  refine Keeps.next ?_
  split
  · exact hs
  · exact .ite hs hs.frame

theorem cmdPing_keeps {m : Msg} : Cmd.Keeps (cmdPing m) := Cmd.keeps_run fun h => h.complete

theorem cmdClose_keeps {m : Msg} : Cmd.Keeps (cmdClose m) := Cmd.keeps_run fun h => h.complete.endSession

theorem cmdVersion_keeps {m : Msg} : Cmd.Keeps (cmdVersion m) := Cmd.keeps_run fun h => h.complete

theorem cmdSubscribe_keeps {m : Msg} : Cmd.Keeps (cmdSubscribe m) := Cmd.keeps_run fun h => h.modSess.complete

theorem cmdStatus_keeps {m : Msg} : Cmd.Keeps (cmdStatus m) := Cmd.keeps_run fun h => h.complete

protected theorem Inv.ptpLeave {s : State} (hs : Inv s) : Inv (ptpLeave s) := hs.frame

protected theorem Inv.sysConfigDone {s : State} {c : SysConfig} {r : Reply} (hs : Inv s) : Inv (sysConfigDone s c r) :=
  ((Inv.ite hs hs.ptpLeave).complete).frame

theorem cmdSysConfig_keeps {m : Msg} : Cmd.Keeps (cmdSysConfig m) := Cmd.keeps_run fun h => h.vaultPut.afterWrites

theorem cmdStreamSet_keeps {m : Msg} : Cmd.Keeps (cmdStreamSet m) := by
  unfold cmdStreamSet
  refine Cmd.keeps_run fun h₁ => ?_
  split
  · exact h₁
  · exact .ite h₁.complete h₁.modSess.complete

theorem cmdQpCreate_keeps {m : Msg} {psn : BitVec 24} : Cmd.Keeps (cmdQpCreate m psn) := by
  unfold cmdQpCreate
  refine Cmd.keeps_run fun h₁ => ?_
  split
  · exact h₁
  · exact .ite h₁.complete h₁.modSess.bumpFree.complete

theorem cmdQpDestroy_keeps {m : Msg} : Cmd.Keeps (cmdQpDestroy m) := by
  unfold cmdQpDestroy
  refine Cmd.keeps_run fun h₁ => ?_
  exact (Inv.ite h₁.modSess.failLines.resendAll h₁.modSess.failLines).complete

/-! ### Maps -/

theorem cmdPartSet_keeps {m : Msg} : Cmd.Keeps (cmdPartSet m) := by
  unfold cmdPartSet
  extract_lets +onlyGivenNames p
  refine Cmd.keeps_run fun h₁ => ?_
  extract_lets +onlyGivenNames q sites
  split
  · exact h₁.complete
  · extract_lets +onlyGivenNames s₂
    have h₂ : Inv s₂ := h₁.fenceDone
    split
    · exact (h₂.withParts (Tbl.drop_wf h₂.parts)).complete
    · extract_lets +onlyGivenNames s₃ s₄ s₅
      have h₄ : Inv s₄ := h₂.setPart.setNumbering
      have h₅ : Inv s₅ := h₄.foldl fun h => h.requestWake
      exact h₅.modPart.wakeDone.complete

theorem cmdMapStage_keeps {m : Msg} : Cmd.Keeps (cmdMapStage m) := Cmd.keeps_run fun h => Inv.ite h.complete h.modPart.complete

protected theorem Inv.digestLines {s : State} {cl : Nat} {ls : List Nat} (hs : Inv s) : Inv (digestLines s cl ls).1 := by
  unfold digestLines
  refine hs.foldl_fst fun h₁ => ?_
  split
  · rename_i s₂ _ e₂
    exact h₁.hubRead.of_eq e₂
  · rename_i s₃ e₃
    have h₃ : Inv s₃ := h₁.hubRead.of_eq e₃
    exact h₃.bumpFree

protected theorem Inv.measureMap {s : State} {p : Nat} (hs : Inv s) : Inv (measureMap s p).1 := by
  unfold measureMap
  extract_lets +onlyGivenNames q
  split
  · exact hs
  · extract_lets +onlyGivenNames chans
    split
    rename_i s₁ _ e₁
    have h₁ : Inv s₁ := by
      refine Inv.of_eq ?_ e₁
      refine hs.foldl_fst fun h₂ => ?_
      split
      rename_i s₃ _ e₃
      exact h₂.digestLines.of_eq e₃
    exact h₁

protected theorem Inv.measure {s : State} {p : Nat} (hs : Inv s) : Inv (measure s p) := by
  unfold measure
  split
  rename_i s₁ _ e₁
  have h₁ : Inv s₁ := hs.measureMap.of_eq e₁
  exact h₁.modPart

protected theorem Inv.remeasure {s : State} (hs : Inv s) : Inv (remeasure s) := hs.foldl fun h => h.measure

protected theorem Inv.clearLoad {s : State} {p : Nat} (hs : Inv s) : Inv (clearLoad s p) := (hs.foldl fun h => Inv.ite h h.modClu).modPart

protected theorem Inv.loadMap {s : State} {p : Nat} {m : PartMap} (hs : Inv s) : Inv (loadMap s p m) := by
  unfold loadMap
  extract_lets +onlyGivenNames j s₁ s₂ s₃ s₄ s₅ s₆ s₇ s₈ x last s₉ s₁₀ s₁₁
  have h₁ : Inv s₁ := hs.clearLoad
  have h₂ : Inv s₂ := h₁.modPart
  have h₃ : Inv s₃ := h₂.renumber
  have h₄ : Inv s₄ := h₃.modPart
  have h₅ : Inv s₅ := h₄.remeasure
  have h₆ : Inv s₆ := h₅.clearSlots
  have h₇ : Inv s₇ := .ite h₆.unfencePart h₆
  have hx : Inv x := h₇.frame
  have h₁₀ : Inv s₁₀ := hx.modJob
  have h₁₁ : Inv s₁₁ := .ite h₁₀.unfenceJob h₁₀
  extract_lets +onlyGivenNames s₁₂
  have h₁₂ : Inv s₁₂ := .ite h₁₁ h₁₁.launchPart
  exact .ite h₁₂.recomputeJob.kickJob h₁₂

protected theorem Inv.mapCommitRun {s : State} {m : Msg} {r : Reply} (hs : Inv s) : Inv (mapCommitRun m s r) := by
  unfold mapCommitRun
  extract_lets +onlyGivenNames p n b digest j
  split
  · exact hs.complete
  · split
    · exact hs.complete
    · split
      · exact hs.complete
      · exact hs.complete
      · split
        · exact hs.complete
        · split
          · exact hs.holdAt
          · exact hs.loadMap.complete

theorem cmdMapCommit_keeps {m : Msg} : Cmd.Keeps (cmdMapCommit m) := Cmd.keeps_run fun h => h.mapCommitRun

theorem cmdMapUnload_keeps {m : Msg} : Cmd.Keeps (cmdMapUnload m) := by
  unfold cmdMapUnload
  extract_lets +onlyGivenNames p
  refine Cmd.keeps_run fun h₁ => ?_
  exact .ite h₁.complete (Inv.ite h₁.complete h₁.modPart.complete)

protected theorem Inv.endDrain {s : State} {p : Nat} {st : Status} (hs : Inv s) : Inv (endDrain s p st) :=
  hs.modPart.foldl fun h => h.complete

theorem cmdPartDrain_keeps {m : Msg} : Cmd.Keeps (cmdPartDrain m) := by
  unfold cmdPartDrain
  extract_lets +onlyGivenNames p
  refine Cmd.keeps_run fun h₁ => ?_
  split
  · exact h₁.complete
  · exact .ite h₁.modPart.endDrain.complete (Inv.ite h₁.modPart.endDrain h₁.modPart)

theorem cmdHandleBind_keeps {m : Msg} : Cmd.Keeps (cmdHandleBind m) := by
  unfold cmdHandleBind
  extract_lets +onlyGivenNames p h
  refine Cmd.keeps_run fun h₁ => ?_
  split
  · exact h₁.complete
  · extract_lets +onlyGivenNames q old
    split
    · exact h₁.complete
    · exact .ite h₁.complete (Inv.ite h₁.complete h₁.changeHandle.completeAfter)

theorem cmdHandleInval_keeps {m : Msg} : Cmd.Keeps (cmdHandleInval m) := by
  unfold cmdHandleInval
  extract_lets +onlyGivenNames p h
  refine Cmd.keeps_run fun h₁ => ?_
  split
  · exact h₁.complete
  · split
    · exact h₁.invalidateHandle.completeAfter
    · exact h₁.complete
    · exact h₁.complete

protected theorem Inv.writeLines {s : State} {p h off n : Nat} {d : Handle} {b : Bytes} (hs : Inv s) :
    Inv (writeLines s p h d off b n).1 := by
  induction n with
  | zero => exact hs
  | succ n ih =>
    rw [writeLines]
    split
    rename_i s₁ ok e
    have h₁ : Inv s₁ := ih.of_eq e
    refine .ite_fst h₁ (.ite_fst ?_ (.ite_fst h₁ h₁.commitLine))
    split
    · exact h₁
    · exact h₁.spmArrive

protected theorem Inv.dataWriteRun {s : State} {m : Msg} {r : Reply} (hs : Inv s) : Inv (dataWriteRun m s r) := by
  unfold dataWriteRun
  extract_lets +onlyGivenNames p h b
  split
  · exact hs.complete
  · split
    · exact hs.holdAt
    · split
      rename_i s₁ _ e₁
      have h₁ : Inv s₁ := hs.writeLines.of_eq e₁
      exact (Inv.ite h₁.modPart h₁).complete

theorem cmdDataWrite_keeps {m : Msg} : Cmd.Keeps (cmdDataWrite m) := Cmd.keeps_run fun h => h.dataWriteRun

protected theorem Inv.readLines {s : State} {p h off n : Nat} {d : Handle} {rs : List ArrayRead} (hs : Inv s) :
    Inv (readLines s p h d off rs n).1 := by
  induction n with
  | zero => exact hs
  | succ n ih =>
    rw [readLines]
    split
    rename_i s₁ st b e
    have h₁ : Inv s₁ := ih.of_eq e
    refine .ite_fst h₁ (.ite_fst ?_ (.ite_fst h₁ ?_))
    · split
      · exact h₁
      · split
        · exact h₁
        · exact h₁
    · split
      · rename_i e
        exact h₁.demandRead.of_eq e
      · rename_i e
        exact h₁.demandRead.of_eq e

protected theorem Inv.dataReadRun {s : State} {m : Msg} {rs : List ArrayRead} {r : Reply} (hs : Inv s) : Inv (dataReadRun m rs s r) := by
  unfold dataReadRun
  extract_lets +onlyGivenNames p h
  split
  · exact hs.complete
  · split
    · exact hs.holdAt
    · split
      rename_i s₁ _ _ e₁
      have h₁ : Inv s₁ := hs.readLines.of_eq e₁
      exact h₁.complete

theorem cmdDataRead_keeps {m : Msg} {rs : List ArrayRead} : Cmd.Keeps (cmdDataRead m rs) := Cmd.keeps_run fun h => h.dataReadRun

theorem cmdDistRead_keeps {m : Msg} : Cmd.Keeps (cmdDistRead m) := by
  unfold cmdDistRead
  extract_lets +onlyGivenNames p off len
  refine Cmd.keeps_run fun h₁ => ?_
  split
  exact .ite h₁.complete h₁.complete

/-! ### Requests -/

protected theorem Inv.freeStage {s : State} {sess stage : Nat} (hs : Inv s) : Inv (freeStage s sess stage) := hs.modSess

protected theorem Inv.finalAnswer {s : State} {m : Msg} {sess : Nat} (hs : Inv s) : Inv (finalAnswer s m sess) := by
  unfold finalAnswer
  extract_lets +onlyGivenNames s₁
  have h₁ : Inv s₁ := .ite hs hs.freeStage
  split
  · exact .ite h₁.frame h₁
  · exact h₁

protected theorem Inv.defer {s : State} {r : Reply} {m : Msg} {old : Option Ticket} {sub : SubFields} {promoted : Bool}
    {wait cls age : Nat} (hs : Inv s) : Inv (defer s r m old sub promoted wait cls age) :=
  hs.frame.complete

protected theorem Inv.submitDecide {s : State} {r : Reply} {m : Msg} {old : Option Ticket} {sub : SubFields} (hs : Inv s) :
    Inv (submitDecide s r m old sub) := by
  unfold submitDecide
  extract_lets +onlyGivenNames age up cls tick
  split
  extract_lets +onlyGivenNames held
  split
  · exact hs.finalAnswer.complete
  · split
    · extract_lets +onlyGivenNames s₁
      have h₁ : Inv s₁ := hs.finalAnswer
      split
      rename_i s₂ _ e₂
      have h₂ : Inv s₂ := h₁.admitReq.of_eq e₂
      exact h₂.kickJob.completeAfter
    · exact .ite hs.bumpFree.defer (Inv.ite hs.defer hs.finalAnswer.complete)

theorem cmdSubmit_keeps {m : Msg} : Cmd.Keeps (cmdSubmit m) := by
  unfold cmdSubmit
  extract_lets +onlyGivenNames f
  refine Cmd.keeps_mk ?_ ?_
  · intro _ _ h₁
    exact h₁.finalAnswer
  · intro _ _ h₂
    split
    · exact h₂.finalAnswer.complete
    · extract_lets +onlyGivenNames old
      split
      · exact h₂.freeStage.complete
      · exact .ite h₂.finalAnswer.complete h₂.submitDecide

theorem cmdPromptPut_keeps {m : Msg} : Cmd.Keeps (cmdPromptPut m) := Cmd.keeps_run fun h => h.modSess.complete

theorem cmdAbort_keeps {m : Msg} : Cmd.Keeps (cmdAbort m) := by
  unfold cmdAbort
  refine Cmd.keeps_run fun h₁ => ?_
  split
  · exact h₁.complete
  · exact .ite h₁.complete h₁.endRequest.completeAfter

theorem cmdReqQuery_keeps {m : Msg} : Cmd.Keeps (cmdReqQuery m) := by
  unfold cmdReqQuery
  refine Cmd.keeps_run fun h₁ => ?_
  split
  · exact h₁.complete
  · split
    · exact h₁.complete
    · exact h₁.complete

/-! ### Windows -/

theorem cmdWinOpen_keeps {m : Msg} : Cmd.Keeps (cmdWinOpen m) := Cmd.keeps_run fun h => Inv.ite h.complete h.modPart.bumpFree.complete

theorem cmdWinClose_keeps {m : Msg} : Cmd.Keeps (cmdWinClose m) := by
  unfold cmdWinClose
  extract_lets +onlyGivenNames p n
  refine Cmd.keeps_run fun h₁ => ?_
  exact .ite h₁.complete (Inv.ite h₁.complete h₁.closeEverywhere.completeAfter)

theorem cmdWinQuery_keeps {m : Msg} : Cmd.Keeps (cmdWinQuery m) := Cmd.keeps_run fun h => Inv.ite h.complete h.complete

theorem cmdLedgerSet_keeps {m : Msg} : Cmd.Keeps (cmdLedgerSet m) := Cmd.keeps_run fun h => Inv.ite h.complete h.modPart.complete

theorem cmdLedgerRead_keeps {m : Msg} : Cmd.Keeps (cmdLedgerRead m) := Cmd.keeps_run fun h => Inv.ite h.complete h.complete

theorem cmdForecast_keeps {m : Msg} : Cmd.Keeps (cmdForecast m) := Cmd.keeps_run fun h => h.frame.complete

protected theorem Inv.copyEscrow {s : State} (hs : Inv s) : Inv (copyEscrow s) := by
  unfold copyEscrow
  extract_lets +onlyGivenNames s₁
  have h₁ : Inv s₁ := hs.foldl fun h => h.escrowSend
  exact h₁.foldl fun h => Inv.ite h.escrowSend h.escrowSend.escrowSend

protected theorem Inv.beginAttach {s : State} {r : Reply} {role : TwinRole} {partner : Nat} {pairKey : Bytes} (hs : Inv s) :
    Inv (beginAttach s r role partner pairKey) :=
  .ite hs.frame.copyEscrow.frame hs.frame

protected theorem Inv.twinAttachRun {s : State} {m : Msg} {chainOk : Bool} {theirs : List (Nat × Bytes)} {pair : PairExchange}
    {r : Reply} (hs : Inv s) : Inv (twinAttachRun m chainOk theirs pair s r) := by
  unfold twinAttachRun
  split
  · exact hs.holdAt
  · extract_lets +onlyGivenNames s₁
    have h₁ : Inv s₁ := hs.remeasure
    exact .ite h₁.complete (Inv.ite h₁.complete (Inv.ite h₁.complete h₁.beginAttach))

theorem cmdTwinAttach_keeps {m : Msg} {chainOk : Bool} {theirs : List (Nat × Bytes)} {pair : PairExchange} :
    Cmd.Keeps (cmdTwinAttach m chainOk theirs pair) :=
  Cmd.keeps_run fun h => h.twinAttachRun

protected theorem Inv.execTwinAttached {s : State} (hs : Inv s) : Keeps (execTwinAttached s) := by
  unfold execTwinAttached
  refine Keeps.report ?_
  split
  · exact hs
  · split
    · exact hs
    · extract_lets +onlyGivenNames r s₁
      extract_lets +onlyGivenNames s₂
      have h₂ : Inv s₂ := hs.frame.twinEvent
      clear_value r
      split
      · exact h₂.complete
      · exact h₂

theorem cmdTwinDetach_keeps {m : Msg} : Cmd.Keeps (cmdTwinDetach m) := by
  unfold cmdTwinDetach
  refine Cmd.keeps_run fun h₁ => ?_
  split
  · exact h₁.complete
  · extract_lets +onlyGivenNames s₂
    have h₂ : Inv s₂ := by
      unfold s₂
      split
      · exact h₁.emit
      · exact h₁
    exact h₂.detachHere.complete

theorem cmdTwinTakeover_keeps {m : Msg} : Cmd.Keeps (cmdTwinTakeover m) := Cmd.keeps_run fun h => h.frame.complete

protected theorem Inv.remeasureRun {s : State} {part : Nat} {theirs : Bytes} (hs : Inv s) : Inv (remeasureRun s part theirs) := by
  unfold remeasureRun
  split
  · exact hs.holdAt
  · exact .ite hs.remeasure.modPart.becomeSolo.twinEvent hs.remeasure.modPart

protected theorem Inv.execMeasurementRecompute {s : State} {part : Nat} {theirs : Bytes} (hs : Inv s) :
    Keeps (execMeasurementRecompute part theirs s) := by
  unfold execMeasurementRecompute
  refine Keeps.report ?_
  split
  · exact .ite hs.remeasureRun hs
  · exact .ite hs hs.remeasureRun

theorem cmdJobForm_keeps {m : Msg} : Cmd.Keeps (cmdJobForm m) := by
  unfold cmdJobForm
  extract_lets +onlyGivenNames ps v j
  refine Cmd.keeps_run fun h₁ => ?_
  extract_lets +onlyGivenNames x mem mine standby
  split
  · exact h₁.complete
  · split
    · exact h₁.complete
    · split
      · exact h₁.complete
      · extract_lets +onlyGivenNames epoch still again s₂ s₃
        have h₃ : Inv s₃ := h₁.setJob
        extract_lets +onlyGivenNames s₄
        have h₄ : Inv s₄ := .ite h₃.askBack h₃
        exact (Inv.ite h₄.recomputeJob.kickJob h₄).complete

theorem cmdJobDissolve_keeps {m : Msg} : Cmd.Keeps (cmdJobDissolve m) := by
  unfold cmdJobDissolve
  extract_lets +onlyGivenNames j
  refine Cmd.keeps_run fun h₁ => ?_
  exact .ite h₁.complete (Inv.ite h₁.complete h₁.frame.complete)

/-! ### Domains -/

protected theorem Inv.fenceCore {s : State} {k scope mask eng : Nat} {un : Bool} {r : Reply} (hs : Inv s) :
    Inv (fenceCore s k scope mask eng un r) := by
  unfold fenceCore
  extract_lets +onlyGivenNames cl body s₁ s₂
  have h₁ : Inv s₁ := hs.sendFence
  have h₂ : Inv s₂ := h₁.frame
  split
  · exact h₂.awaitAck
  · exact h₂

protected theorem Inv.hostFenceCtx {s : State} {k n : Nat} {r : Reply} (hs : Inv s) : Inv (hostFenceCtx s k n r) := hs.modCore.fenceCore

protected theorem Inv.hostFenceEngine {s : State} {k e : Nat} {r : Reply} (hs : Inv s) : Inv (hostFenceEngine s k e r) :=
  hs.modCore.fenceCore

protected theorem Inv.hostFencePart {s : State} {p ms : Nat} {r : Option Reply} (hs : Inv s) : Inv (hostFencePart s p ms r) :=
  hs.fencePart.modPart

protected theorem Inv.endIdleFence {s : State} {p : Nat} (hs : Inv s) : Inv (endIdleFence s p) := .ite hs.fenceDone hs

protected theorem Inv.fenceRun {s : State} {m : Msg} {r : Reply} (hs : Inv s) : Inv (fenceRun m s r) := by
  unfold fenceRun
  extract_lets +onlyGivenNames p
  split
  · split
    · exact hs.hostFenceCtx
    · exact hs.complete
  · split
    · exact hs.hostFenceEngine
    · exact hs.complete
  · exact .ite hs.hostFencePart.endIdleFence hs.complete
  · split
    · exact hs.complete
    · exact (hs.frame.foldl fun h => h.hostFencePart).foldl fun h => h.endIdleFence

theorem cmdFence_keeps {m : Msg} : Cmd.Keeps (cmdFence m) := Cmd.keeps_run fun h => h.fenceRun

protected theorem Inv.unfenceService {s : State} {p : Nat} (hs : Inv s) : Inv (unfenceService s p) := by
  unfold unfenceService
  extract_lets +onlyGivenNames j s₁ new s₂ x
  have h₁ : Inv s₁ := hs.fenceEnded.unfencePart
  have h₂ : Inv s₂ := .ite h₁ h₁.renumber
  split
  · exact h₂.kickJob
  · extract_lets +onlyGivenNames s₃
    have h₃ : Inv s₃ := .ite h₂ (h₂.quitSteps.unfenceJob.foldl fun h => h.relaunchPart)
    exact h₃.recomputeJob.kickJob

protected theorem Inv.unfenceRun {s : State} {m : Msg} {r : Reply} (hs : Inv s) : Inv (unfenceRun m s r) := by
  unfold unfenceRun
  extract_lets +onlyGivenNames p u
  split
  · split
    · exact hs.modCore.fenceCore
    · exact hs.complete
  · split
    · exact hs.modCore.fenceCore
    · exact hs.complete
  · exact .ite hs.complete (Inv.ite hs.complete hs.unfenceService.complete)
  · exact (hs.foldl fun h => h.unfenceService).complete

theorem cmdUnfence_keeps {m : Msg} : Cmd.Keeps (cmdUnfence m) := Cmd.keeps_run fun h => h.unfenceRun

protected theorem Inv.resetEngineRun {s : State} {k e : Nat} {r : Reply} (hs : Inv s) : Inv (resetEngineRun s k e r) := by
  unfold resetEngineRun
  split
  · exact hs.complete
  · exact (Inv.ite hs hs.reportStep).modCore.resetEngine.fenceCore.modJob

protected theorem Inv.resetPartRun {s : State} {p ms : Nat} {r : Reply} (hs : Inv s) : Inv (resetPartRun s p ms r) :=
  hs.hostFencePart.modPart.endIdleFence

protected theorem Inv.resetPanelRun {s : State} {ms : Nat} {r : Reply} (hs : Inv s) : Inv (resetPanelRun s ms r) := by
  unfold resetPanelRun
  extract_lets +onlyGivenNames ps s₁
  have h₁ : Inv s₁ := hs.frame.foldl fun h => h.hostFencePart
  exact .ite h₁.panelResetNow (h₁.foldl fun h => h.endIdleFence)

protected theorem Inv.resetRun {s : State} {m : Msg} {r : Reply} (hs : Inv s) : Inv (resetRun m s r) := by
  unfold resetRun
  extract_lets +onlyGivenNames p
  split
  · split
    · exact hs.hostFenceCtx
    · exact hs.complete
  · split
    · exact hs.resetEngineRun
    · exact hs.complete
  · exact .ite hs.resetPartRun hs.complete
  · exact hs.resetPanelRun

theorem cmdReset_keeps {m : Msg} : Cmd.Keeps (cmdReset m) := Cmd.keeps_run fun h => h.resetRun

protected theorem Inv.returnRun {s : State} {r : Reply} (hs : Inv s) : Inv (returnRun s r) :=
  .ite hs.complete hs.frame.vaultPut.frame.raiseAlert.afterWrites

theorem cmdReturn_keeps {m : Msg} : Cmd.Keeps (cmdReturn m) := Cmd.keeps_run fun h => h.returnRun

/-! ### Diag -/

protected theorem Inv.diagRun {s : State} {m : Msg} {r : ArrayRead} {q : Reply} (hs : Inv s) : Inv (diagRun m r s q) := by
  unfold diagRun
  extract_lets +onlyGivenNames unit site off
  split
  · extract_lets +onlyGivenNames cl
    split
    · exact hs.complete
    · split
      · exact hs.holdAt
      · split
        · rename_i s₁ _ e₁
          have h₁ : Inv s₁ := hs.demandRead.of_eq e₁
          exact h₁.complete
        · rename_i s₂ e₂
          have h₂ : Inv s₂ := hs.demandRead.of_eq e₂
          exact h₂.complete
  · split
    · exact hs.complete
    · split
      exact hs.complete

theorem cmdDiagRead_keeps {m : Msg} {r : ArrayRead} : Cmd.Keeps (cmdDiagRead m r) := Cmd.keeps_run fun h => h.diagRun

/-! ### Ports -/

protected theorem Inv.movePort {s : State} {from_ : Nat} (hs : Inv s) : Inv (movePort s from_) :=
  .ite hs (hs.foldl fun h => h.modSess.resendAll)

protected theorem Inv.qpFail {s : State} {n : Nat} (hs : Inv s) : Inv (qpFail s n) := by
  unfold qpFail
  split
  · exact hs
  · exact .ite hs (Inv.ite hs.modSess.failLines.resendAll hs.modSess.failLines)

protected theorem Inv.ptpPortLost {s : State} {port : Nat} (hs : Inv s) : Inv (ptpPortLost s port) := hs.frame

protected theorem Inv.fenceUnjournaled {s : State} {survivor : Nat} (hs : Inv s) : Inv (fenceUnjournaled s survivor) :=
  hs.foldl fun h => h.complete

protected theorem Inv.keepModes {s : State} {sites : List Nat} (hs : Inv s) : Inv (keepModes s sites) := hs.foldl fun h => h.modGuest

protected theorem Inv.restoreModes {s : State} {sites : List Nat} (hs : Inv s) : Inv (restoreModes s sites) :=
  hs.foldl fun h => h.modGuest

protected theorem Inv.hubDown {s : State} {h : Nat} (hs : Inv s) : Inv (hubDown s h) := by
  unfold hubDown
  split
  · exact hs
  · extract_lets +onlyGivenNames s₁ leads s₂ s₃ s₄ s₅ s₆
    have h₁ : Inv s₁ := hs.modHub.ptpPortLost
    have h₂ : Inv s₂ := .ite h₁.frame h₁
    have h₄ : Inv s₄ := .ite h₂.fenceUnjournaled h₂.frame
    have h₅ : Inv s₅ := .ite h₄ h₄.noteRung.enterSafe
    have h₆ : Inv s₆ := h₅.keepModes.closeSites
    exact .ite h₆.movePort.hubEvent.hubEvent h₆.movePort.hubEvent

protected theorem Inv.hubBack {s : State} {h : Nat} (hs : Inv s) : Inv (hubBack s h) := .ite hs hs.modHub.restoreModes.hubEvent

protected theorem Inv.execPortLinkUp {s : State} {port : Nat} (hs : Inv s) : Keeps (execPortLinkUp port s) := by
  unfold execPortLinkUp
  refine Keeps.next ?_
  split
  · exact hs
  · exact (Inv.ite hs.modHub hs.modHub.movePort).foldl fun h => h.sendWaiting

protected theorem Inv.noteUnknown {s : State} {port : Nat} (hs : Inv s) : Inv (noteUnknown s port) := hs.modHub

protected theorem Inv.modQp {s : State} {n : Nat} {f : QueuePair → QueuePair} (hs : Inv s) : Inv (modQp s n f) := hs.modSess

protected theorem Inv.noteCe {s : State} {n : Nat} {ce : Bool} (hs : Inv s) : Inv (noteCe s n ce) := by
  unfold noteCe
  split
  · exact hs
  · exact .ite hs.modQp.emit hs

protected theorem Inv.portEmit {s : State} {port : Nat} {e : Emit} (hs : Inv s) : Inv (portEmit s port e) := .ite hs.emit hs

protected theorem Inv.rdmaRefuse {s : State} {q : RdmaReq} {st : Status} (hs : Inv s) : Inv (rdmaRefuse s q st) :=
  hs.portEmit.modHub.eventTo.qpFail

protected theorem Inv.rdmaInvalid {s : State} {q : RdmaReq} (hs : Inv s) : Inv (rdmaInvalid s q) := hs.emit

protected theorem Inv.rdmaIn {s : State} {q : RdmaReq} {again f : State → State} (hs : Inv s) (ha : ∀ {t}, Inv t → Inv (again t))
    (hf : ∀ {t}, Inv t → Inv (f t)) : Inv (rdmaIn s q again f) := by
  unfold rdmaIn
  split
  · exact hs
  · extract_lets +onlyGivenNames inError
    split
    · exact .ite hs hs.noteUnknown
    · exact hs.rdmaRefuse
    · exact ha hs.noteCe
    · exact hf hs.noteCe
    · exact hs.noteCe.emit.modHub

protected theorem Inv.rdmaPut {s : State} {q : RdmaReq} {i : Nat} {l : List Line} (hs : Inv s) : Inv (rdmaPut s q i l).1 := by
  induction l generalizing s i with
  | nil => exact hs
  | cons v r ih =>
    rw [rdmaPut]
    split
    split
    · exact hs
    · split
      exact .ite_fst hs (ih hs.commitLine)

protected theorem Inv.rdmaGet {s : State} {q : RdmaReq} {rs : List ArrayRead} {n : Nat} (hs : Inv s) : Inv (rdmaGet s q rs n).1 := by
  induction n with
  | zero => exact hs
  | succ n ih =>
    rw [rdmaGet]
    split
    rename_i s₁ st l e
    have h₁ : Inv s₁ := ih.of_eq e
    refine .ite_fst h₁ ?_
    split
    split
    · exact h₁
    · split
      refine .ite_fst h₁ ?_
      split
      · rename_i e
        exact h₁.demandRead.of_eq e
      · rename_i e
        exact h₁.demandRead.of_eq e

protected theorem Inv.rdmaServe {s : State} {w : RdmaWork} (hs : Inv s) : Inv (rdmaServe s w).1 := by
  unfold rdmaServe
  extract_lets +onlyGivenNames q
  split
  split
  · exact hs
  · split
    · exact hs
    · split
      · exact hs.rdmaRefuse
      · extract_lets +onlyGivenNames cl
        split
        · exact hs.holdAt
        · split
          · split
            rename_i s₁ _ e₁
            have h₁ : Inv s₁ := hs.rdmaPut.of_eq e₁
            exact .ite_fst h₁.rdmaRefuse h₁.portEmit
          · split
            rename_i s₂ _ _ e₂
            have h₂ : Inv s₂ := hs.rdmaGet.of_eq e₂
            exact .ite_fst h₂.rdmaRefuse h₂.portEmit

protected theorem Inv.rdmaGo {s : State} {n : Nat} {l : List RdmaWork} (hs : Inv s) : Inv (rdmaGo s n l) := by
  induction l generalizing s with
  | nil => exact hs.modQp
  | cons w l ih =>
    rw [rdmaGo]
    split
    · rename_i e
      exact (hs.rdmaServe.of_eq e).modQp
    · rename_i e
      exact ih (hs.rdmaServe.of_eq e)

protected theorem Inv.rdmaAccept {s : State} {w : RdmaWork} (hs : Inv s) : Inv (rdmaAccept s w) := by
  unfold rdmaAccept
  split
  · exact hs.modQp
  · exact hs.rdmaGo

protected theorem Inv.rdmaTake {s : State} {q : RdmaReq} {read : Option (List ArrayRead)} (hs : Inv s) : Inv (rdmaTake s q read) :=
  .ite hs.modQp.rdmaAccept hs.rdmaInvalid

protected theorem Inv.execRdmaRead {s : State} {q : RdmaReq} {r : List ArrayRead} (hs : Inv s) : Keeps (execRdmaRead q r s) := by
  unfold execRdmaRead
  refine Keeps.report ?_
  exact hs.rdmaIn (fun h => Inv.ite h.rdmaAccept h.rdmaInvalid) fun h => h.rdmaTake

protected theorem Inv.roceAcked {s : State} {n : Nat} {psn : BitVec 24} (hs : Inv s) : Inv (roceAcked s n psn) := by
  unfold roceAcked
  split
  · exact hs
  · exact hs.modQp.failLines

protected theorem Inv.roceAgain {s : State} {n : Nat} (hs : Inv s) : Inv (roceAgain s n) := by
  unfold roceAgain
  split
  · exact hs
  · exact .ite hs hs.emits

protected theorem Inv.execRoceResponse {s : State} {sess : Nat} {a : RoceAnswer} {ce : Bool} (hs : Inv s) :
    Keeps (execRoceResponse sess a ce s) := by
  unfold execRoceResponse
  refine Keeps.next ?_
  split
  · exact hs
  · split
    · exact hs
    · extract_lets +onlyGivenNames s₁
      have h₁ : Inv s₁ := hs.noteCe
      split
      · exact h₁.roceAcked
      · exact h₁.roceAcked.roceAgain
      · exact h₁.roceAcked.qpFail

protected theorem Inv.execRoceAckTimeout {s : State} {sess : Nat} (hs : Inv s) : Keeps (execRoceAckTimeout sess s) := by
  unfold execRoceAckTimeout
  refine Keeps.next ?_
  split
  · exact hs
  · exact .ite hs hs.roceAgain

protected theorem Inv.followPtp {s : State} (hs : Inv s) : Inv (followPtp s) := .ite hs.steerTo hs

protected theorem Inv.delayReq {s : State} {port : Nat} {net : PtpNet} (hs : Inv s) : Inv (delayReq s port net) := hs.emit

protected theorem Inv.execPtpDelayResp {s : State} {port domain : Nat} {sent received : BitVec 64} (hs : Inv s) :
    Keeps (execPtpDelayResp port domain sent received s) := by
  unfold execPtpDelayResp
  refine Keeps.report ?_
  split
  · exact hs
  · split
    · exact hs
    · exact hs.frame.followPtp

protected theorem Inv.answerOwn {s : State} {port : Nat} {own : Bool} {kind : Nat} {b : Bytes} {h : NetHead} (hs : Inv s) :
    Inv (answerOwn s port own kind b h) :=
  .ite hs (Inv.ite hs.emit hs.noteUnknown)

protected theorem Inv.execUnknownFrame {s : State} {f : StrayFrame} (hs : Inv s) : Keeps (execUnknownFrame f s) := by
  unfold execUnknownFrame
  extract_lets +onlyGivenNames port
  refine Keeps.next ?_
  split
  · exact .ite hs.noteUnknown hs
  · exact .ite hs.modHub hs
  · exact hs.rdmaIn (fun h => h.noteUnknown) fun h => h.rdmaInvalid

/-! ### Admin -/

protected theorem Inv.retrainLane {s : State} {m : Msg} {r : Reply} (hs : Inv s) : Inv (retrainLane s m r) := hs.laneDue.setLink

theorem cmdLinkRetrain_keeps {m : Msg} : Cmd.Keeps (cmdLinkRetrain m) := by
  unfold cmdLinkRetrain
  refine Cmd.keeps_run fun h₁ => ?_
  exact .ite h₁.modGuest.complete (Inv.ite h₁.retrainLane h₁.complete)

theorem cmdDramRecal_keeps {m : Msg} : Cmd.Keeps (cmdDramRecal m) := Cmd.keeps_run fun h => h.modClu

theorem cmdGuestMode_keeps {m : Msg} {nonce : BitVec 64} : Cmd.Keeps (cmdGuestMode m nonce) := by
  unfold cmdGuestMode
  extract_lets +onlyGivenNames site want
  refine Cmd.keeps_run fun h₁ => ?_
  exact .ite h₁.complete (Inv.ite h₁.modGuest.sendAttq h₁.modGuest.complete)

theorem cmdGuestRule_keeps {m : Msg} : Cmd.Keeps (cmdGuestRule m) := by
  unfold cmdGuestRule
  extract_lets +onlyGivenNames site i v p
  refine Cmd.keeps_run fun h₁ => ?_
  exact .ite h₁.modGuest.complete (Inv.ite h₁.complete h₁.modGuest.complete)

theorem cmdGuestReturn_keeps {m : Msg} {nonce : BitVec 64} : Cmd.Keeps (cmdGuestReturn m nonce) := by
  unfold cmdGuestReturn
  extract_lets +onlyGivenNames site
  refine Cmd.keeps_run fun h₁ => ?_
  extract_lets +onlyGivenNames g
  split
  · exact h₁.modGuest
  · split
    · exact h₁.complete
    · split
      · exact h₁.sendAttq.complete
      · exact .ite h₁.modGuest.sendAttq h₁.modGuest.sendAttq.sendNotice.complete

theorem cmdImgStage_keeps {m : Msg} : Cmd.Keeps (cmdImgStage m) := by
  unfold cmdImgStage
  extract_lets +onlyGivenNames t n
  refine Cmd.keeps_run fun h₁ => ?_
  split
  · exact h₁.complete
  · exact .ite h₁.frame.complete (Inv.ite h₁.complete h₁.modPart.complete)

protected theorem Inv.raiseCounter {s : State} {i v : Nat} (hs : Inv s) : Inv (raiseCounter s i v) := .ite hs hs.frame.vaultPut

protected theorem Inv.putBankSel {s : State} {b0 b1 : Nat} (hs : Inv s) : Inv (putBankSel s b0 b1) := hs.vaultPut

protected theorem Inv.restartHub {s : State} {f : FwUpdate} (hs : Inv s) : Inv (restartHub s f) :=
  (Inv.ite hs.frame.putBankSel hs.frame.putBankSel).afterWrites

protected theorem Inv.restartNow {s : State} {f : FwUpdate} (hs : Inv s) : Inv (restartNow s f) := hs.modHub.hubDown

protected theorem Inv.activateFirmware {s : State} {k : Nat} {b digest : Bytes} {r : Reply} (hs : Inv s) :
    Inv (activateFirmware s k b digest r) := by
  unfold activateFirmware
  split
  · exact hs.complete
  · split
    · exact hs.restartHub
    · exact hs.frame

protected theorem Inv.noteImage {s : State} {p : Nat} {b : Bytes} (hs : Inv s) : Inv (noteImage s p b) := hs.modPart

protected theorem Inv.loaderActive {s : State} {w : LoaderWrite} (hs : Inv s) : Inv (loaderActive s w) := by
  unfold loaderActive
  extract_lets +onlyGivenNames s₁
  have h₁ : Inv s₁ := .ite hs.noteImage hs
  exact .ite h₁.raiseCounter.afterWrites h₁.complete

protected theorem Inv.activateLoader {s : State} {p : Nat} {b : Bytes} {r : Reply} (hs : Inv s) : Inv (activateLoader s p b r) := by
  unfold activateLoader
  split
  · exact hs.complete
  · exact .ite hs.complete (Inv.ite hs.loaderActive (Inv.ite hs.complete hs.frame))

theorem cmdImgActivate_keeps {m : Msg} {sigOk : Bool} : Cmd.Keeps (cmdImgActivate m sigOk) := by
  unfold cmdImgActivate
  extract_lets +onlyGivenNames kind t
  refine Cmd.keeps_run fun h₁ => ?_
  extract_lets +onlyGivenNames b
  split
  · exact h₁.complete
  · exact .ite h₁.activateFirmware h₁.activateLoader

protected theorem Inv.compactLoaders {s : State} (hs : Inv s) : Inv (compactLoaders s) := .ite hs hs.frame

protected theorem Inv.putIndex {s : State} {o : Nat} {b : Bytes} (hs : Inv s) : Inv (putIndex s o b) := hs.vaultPut

protected theorem Inv.packLoaders {s : State} (hs : Inv s) : Inv (packLoaders s) := hs.frame.foldl fun h => h.putIndex

protected theorem Inv.storeImage {s : State} {b : Bytes} (hs : Inv s) : Inv (storeImage s b) := hs.frame.putIndex

protected theorem Inv.execImageWriteComplete {s : State} {target : Nat} (hs : Inv s) : Keeps (execImageWriteComplete target s) := by
  unfold execImageWriteComplete
  refine Keeps.report ?_
  split
  · split
    · exact .ite hs hs.frame.restartHub
    · exact hs
  · split
    · exact hs
    · exact hs.frame.storeImage.afterWrites.compactLoaders

protected theorem Inv.raiseFirmware {s : State} (hs : Inv s) : Inv (raiseFirmware s) := .ite hs.raiseCounter hs

protected theorem Inv.execHubRejoin {s : State} {hub : Nat} {fwver : BitVec 32} (hs : Inv s) : Keeps (execHubRejoin hub fwver s) := by
  unfold execHubRejoin
  refine Keeps.report ?_
  split
  · exact hs
  · exact .ite hs hs.frame.modHub.frame.hubBack.raiseFirmware.complete

protected theorem Inv.execHubRejoinTimeout {s : State} {hub : Nat} (hs : Inv s) : Keeps (execHubRejoinTimeout hub s) := by
  unfold execHubRejoinTimeout
  refine Keeps.report ?_
  split
  · exact hs
  · exact .ite hs hs.frame.modHub.putBankSel.afterWrites.hubBack

/-! ### BringUp -/

protected theorem Inv.runAct {s : State} {a : VaultAct} (hs : Inv s) : Inv (runAct s a) := by
  unfold runAct
  split
  · exact hs.complete
  · exact hs.sysConfigDone
  · exact hs.restartNow
  · exact hs.loaderActive
  · exact hs.packLoaders

protected theorem Inv.recordWritten {s : State} (hs : Inv s) : Inv (recordWritten s) := by
  unfold recordWritten
  split
  · exact hs
  · exact hs.frame.foldl fun h => h.runAct

protected theorem Inv.auxUp {s : State} {h : Nat} (hs : Inv s) : Inv (auxUp s h) := hs.foldl fun h => h.modStage

protected theorem Inv.startTally {s : State} (hs : Inv s) : Inv (startTally s) := hs.frame

protected theorem Inv.bootHub {s : State} {h : Nat} {r : PhaseResult} (hs : Inv s) : Inv (bootHub s h r) := hs.frame.modHub

protected theorem Inv.loseIdentity {s : State} (hs : Inv s) : Inv (loseIdentity s) := hs.frame.raiseAlert

protected theorem Inv.applyRedundancy {s : State} {r : VaultRec} (hs : Inv s) : Inv (applyRedundancy s r) := by
  unfold applyRedundancy
  extract_lets +onlyGivenNames b site i
  split
  · exact hs.modDie
  · exact hs.modClu
  · exact hs.setLink
  · exact hs.modDie
  · exact hs.setLink
  · exact hs

protected theorem Inv.loadVault {s : State} {r : PhaseResult} (hs : Inv s) : Inv (loadVault s r) := by
  unfold loadVault
  extract_lets +onlyGivenNames v v₁ ok latch cause s₂ s₃ s₄ s₅ s₆
  have h₂ : Inv s₂ := hs.frame
  have h₄ : Inv s₄ := by
    unfold s₄
    split
    · exact h₂.frame
    · exact h₂
  have h₅ : Inv s₅ := h₄.foldl fun h => h.applyRedundancy
  have h₆ : Inv s₆ := h₅.foldl fun h => Inv.ite h.vaultPut h
  extract_lets +onlyGivenNames s₇
  have h₇ : Inv s₇ := h₆.frame.compactLoaders
  exact .ite h₇ h₇.frame.vaultPut.raiseAlert

protected theorem Inv.chooseLead {s : State} {r : PhaseResult} (hs : Inv s) : Inv (chooseLead s r) := by
  unfold chooseLead
  extract_lets +onlyGivenNames set s₁ s₂
  have h₁ : Inv s₁ := hs.frame
  have h₂ : Inv s₂ := h₁.frame
  exact .ite h₂.loseIdentity (Inv.ite h₂.enterSafe h₂)

protected theorem Inv.mainUp {s : State} {h : Nat} {tripped : List Nat} (hs : Inv s) : Inv (mainUp s h tripped) := by
  unfold mainUp
  extract_lets +onlyGivenNames s₁
  have h₁ : Inv s₁ := hs.foldl fun h => Inv.ite (h.foldl fun h' => h'.darkDie) (h.toStages.modStage.foldl fun h' => h'.modDie)
  exact h₁.foldl fun h => h.tripStage

protected theorem Inv.alignIslands {s : State} {h : Nat} (hs : Inv s) : Inv (alignIslands s h) := hs.foldl fun h => h.modDie

protected theorem Inv.trainDram {s : State} {h : Nat} (hs : Inv s) : Inv (trainDram s h) := hs.foldl fun h => h.modClu

protected theorem Inv.testHalf {s : State} {h : Nat} {r : PhaseResult} (hs : Inv s) : Inv (testHalf s h r) := by
  unfold testHalf
  extract_lets +onlyGivenNames mine s₁ s₂ s₃ bad s₄
  have h₁ : Inv s₁ := hs.foldl fun h => h.modDie.vaultRedundancy
  have h₂ : Inv s₂ := h₁.foldl fun h => h.modClu
  have h₃ : Inv s₃ := h₂.foldl fun h => h.modClu
  exact .intro (Memory.filter_wf _ _ h₃.mem) h₃.parts h₃.requests h₃.sessions

protected theorem Inv.dropHalf {s : State} {h : Nat} (hs : Inv s) : Inv (dropHalf s h) := hs.modHalf.mfrRampdown.startRamp

protected theorem Inv.splitHalves {s : State} (hs : Inv s) : Inv (splitHalves s) := .ite hs.dropHalf hs

protected theorem Inv.endBringUp {s : State} (hs : Inv s) : Inv (endBringUp s) := hs.frame.frame.raiseAlert

protected theorem Inv.phaseEffect {s : State} {n : Nat} {r : PhaseResult} (hs : Inv s) : Inv (phaseEffect s n r) := by
  unfold phaseEffect
  extract_lets +onlyGivenNames hs₁
  split
  · exact hs.foldl fun h => h.auxUp.modHalf
  · exact hs.startTally
  · extract_lets +onlyGivenNames s₂ s₃ s₄
    have h₃ : Inv s₃ := hs.frame.bootHub.bootHub
    exact .ite h₃.frame.emit h₃.frame.emit.loseIdentity
  · exact hs.loadVault
  · exact hs.chooseLead
  · exact hs.foldl fun h => h.mainUp.modHalf
  · exact hs.foldl fun h => h.alignIslands
  · exact hs.frame
  · exact hs.frame
  · exact hs.foldl fun h => h.trainDram
  · exact (hs.foldl fun h => h.testHalf).splitHalves
  · exact hs.endBringUp

protected theorem Inv.endPhase {s : State} {r : PhaseResult} (hs : Inv s) : Inv (endPhase s r) := hs.phaseEffect.frame

protected theorem Inv.halfFails {s : State} {h : Nat} {r : Reply} (hs : Inv s) : Inv (halfFails s h r) := hs.dropHalf.frame.complete

protected theorem Inv.announceJoin {s : State} {h : Nat} (hs : Inv s) : Inv (announceJoin s h) := hs.frame.journal

protected theorem Inv.halfEnter {s : State} {h : Nat} (hs : Inv s) : Inv (halfEnter s h) :=
  ((hs.foldl fun h => h.modDie).frame).startEpoch

protected theorem Inv.halfJoins {s : State} {h : Nat} {r : Reply} (hs : Inv s) : Inv (halfJoins s h r) :=
  ((((hs.foldl fun h => h.modDie).modHalf).frame).frame).complete

protected theorem Inv.endHalfPhase {s : State} {h : Nat} {q : Reply} {r : PhaseResult} (hs : Inv s) : Inv (endHalfPhase s h q r) := by
  unfold endHalfPhase
  extract_lets +onlyGivenNames next
  have hnext {t : State} {n : Nat} (ht : Inv t) : Inv (next t n) := ht.frame
  split
  · exact hnext hs.mainUp
  · exact hnext hs.alignIslands
  · exact .ite (hnext hs.announceJoin) hs.halfFails
  · exact hnext hs.trainDram
  · exact hs.testHalf.halfEnter
  · exact .ite hs hs.halfJoins
  · exact hs

protected theorem Inv.execBusbarInputRise {s : State} {half : Nat} (hs : Inv s) : Keeps (execBusbarInputRise half s) := by
  unfold execBusbarInputRise
  refine Keeps.next ?_
  extract_lets +onlyGivenNames h
  split
  · exact hs
  · exact .ite hs.modHalf.frame (Inv.ite hs.modHalf hs.modHalf.auxUp.modHalf)

protected theorem Inv.execBringUpPhaseComplete {s : State} {r : PhaseResult} (hs : Inv s) : Keeps (execBringUpPhaseComplete r s) := by
  unfold execBringUpPhaseComplete
  refine Keeps.report ?_
  split
  · exact hs.endPhase
  · split
    · exact hs.endHalfPhase
    · exact hs

theorem cmdHalfSet_keeps {m : Msg} : Cmd.Keeps (cmdHalfSet m) := by
  unfold cmdHalfSet
  extract_lets +onlyGivenNames h
  refine Cmd.keeps_run fun h₁ => ?_
  split
  · exact (Inv.ite h₁.modHalf.emptyHalf h₁).complete
  · exact .ite h₁.complete h₁.frame

protected theorem Inv.execResetPinAssert {s : State} (hs : Inv s) : Keeps (execResetPinAssert s) := by
  unfold execResetPinAssert
  refine Keeps.report ?_
  split
  · exact hs
  · extract_lets +onlyGivenNames s₁ s₂ s₃
    have h₂ : Inv s₂ := hs.frame.bumpFree
    have h₃ : Inv s₃ := h₂.mfrRampdown.mfrRampdown
    exact h₃.modHalf.modHalf.startRamp.startRamp

/-! ### Scratchpad -/

protected theorem Inv.bodyLd {i : Issue} {s : State} {x : Ctx} (hs : Inv s) : Res.Keeps (bodyLd i s x) := by
  unfold bodyLd
  extract_lets n a
  split
  · exact hs.illegal
  · split
    · split
      rename_i t r e
      have ht : Inv t := hs.tillLoad.of_eq e
      split
      · exact ht
      · exact ht.retireCtx
    · exact hs

protected theorem Inv.bodySt {s : State} {i : Issue} {x : Ctx} (hs : Inv s) : Res.Keeps (bodySt i s x) := by
  unfold bodySt
  extract_lets +onlyGivenNames n a
  split
  · exact hs.illegal
  · split
    · split
      · exact hs
      · exact hs.tillStore
    · exact hs

protected theorem Inv.bodyVld {s : State} {i : Issue} {x : Ctx} (hs : Inv s) : Res.Keeps (bodyVld i s x) := by
  unfold bodyVld
  extract_lets +onlyGivenNames a m
  split
  · extract_lets +onlyGivenNames r t₁
    have ht₁ : Inv t₁ := hs.noteRead
    split
    · exact ht₁
    · exact ht₁.retireCtx
  · exact hs

protected theorem Inv.bodyVst {s : State} {i : Issue} {x : Ctx} (hs : Inv s) : Res.Keeps (bodyVst i s x) := by
  unfold bodyVst
  extract_lets +onlyGivenNames a
  split
  · split
    · exact hs
    · exact hs.spmWriteLine
  · exact hs

/-! ### Vector -/

protected theorem Inv.lanes {s : State} {i : Issue} {f : Nat → Lane} {x : Ctx} (hs : Inv s) : Res.Keeps (lanes i f s x) := hs.retireCtx

protected theorem Inv.lanes2 {s : State} {i : Issue} {f : Lane → Lane → Lane} {x : Ctx} (hs : Inv s) : Res.Keeps (lanes2 i f s x) :=
  hs.lanes

protected theorem Inv.lanes1 {s : State} {i : Issue} {f : Lane → Lane} {x : Ctx} (hs : Inv s) : Res.Keeps (lanes1 i f s x) := hs.lanes

protected theorem Inv.execVcmp {s : State} {i : Issue} (hs : Inv s) : Keeps (execVcmp i s) := by
  unfold execVcmp
  refine Keeps.next (hs.issue fun h₁ => ?_)
  split
  · exact h₁.illegal
  · exact h₁.retireCtx

protected theorem Inv.execVlog {s : State} {i : Issue} (hs : Inv s) : Keeps (execVlog i s) := by
  unfold execVlog
  refine Keeps.next (hs.issue fun h₁ => ?_)
  split
  · exact h₁.illegal
  · exact h₁.lanes2

protected theorem Inv.execVred {s : State} {i : Issue} (hs : Inv s) : Keeps (execVred i s) := by
  unfold execVred
  refine Keeps.next (hs.issue fun h₁ => ?_)
  split
  · exact h₁.illegal
  · exact h₁.retireCtx

protected theorem Inv.execVfn {s : State} {i : Issue} (hs : Inv s) : Keeps (execVfn i s) := by
  unfold execVfn
  refine Keeps.next (hs.issue fun h₁ => ?_)
  split
  · exact h₁.illegal
  · exact h₁.lanes1

protected theorem Inv.execViop {s : State} {i : Issue} (hs : Inv s) : Keeps (execViop i s) := by
  unfold execViop
  refine Keeps.next (hs.issue fun h₁ => ?_)
  split
  · exact h₁.illegal
  · exact h₁.lanes2

protected theorem Inv.execVcvt {s : State} {i : Issue} (hs : Inv s) : Keeps (execVcvt i s) := by
  unfold execVcvt
  refine Keeps.next (hs.issue fun h₁ => ?_)
  extract_lets +onlyGivenNames rnd
  split
  · exact h₁.illegal
  · exact h₁.retireCtx

protected theorem Inv.bodyQblk {s : State} {i : Issue} {x : Ctx} (hs : Inv s) : Res.Keeps (bodyQblk i s x) := by
  unfold bodyQblk
  extract_lets +onlyGivenNames f t a e n bad
  split
  · exact hs.illegal
  · split
    · split
      · exact hs
      · exact hs.spmWrite.spmWrite
    · exact hs

protected theorem Inv.execDqblk {s : State} {i : Issue} (hs : Inv s) : Keeps (execDqblk i s) := by
  unfold execDqblk
  refine Keeps.next (hs.issue fun h₁ => ?_)
  extract_lets +onlyGivenNames f t a e n
  split
  · exact h₁.illegal
  · split
    · extract_lets +onlyGivenNames r q bad u₂
      have hu₂ : Inv u₂ := h₁.noteRead
      clear_value bad
      split
      · exact h₁.noteRead
      · exact h₁.noteRead.retireCtx
    · exact h₁

protected theorem Inv.execMlog {s : State} {i : Issue} (hs : Inv s) : Keeps (execMlog i s) := by
  unfold execMlog
  refine Keeps.next (hs.issue fun h₁ => ?_)
  extract_lets +onlyGivenNames fn am dm
  split
  · exact h₁.illegal
  · exact h₁.retireCtx

/-! ### Engine -/

protected theorem Inv.bodyEngine {s : State} {sparse : Bool} {i : Issue} {x : Ctx} (hs : Inv s) :
    Res.Keeps (bodyEngine sparse i s x) := by
  unfold bodyEngine
  extract_lets +onlyGivenNames c o
  split
  · extract_lets +onlyGivenNames g
    split
    · exact hs
    · exact hs.setCore
  · exact hs

protected theorem Inv.bodyDrain {s : State} {i : Issue} {x : Ctx} (hs : Inv s) : Res.Keeps (bodyDrain i s x) := by
  unfold bodyDrain
  extract_lets +onlyGivenNames e as_ f a n c
  split
  · exact hs.illegal
  · split
    · split
      · exact trivial
      · split
        · exact hs
        · exact .ite hs.spmWrite.modCore hs.spmWrite
    · exact hs

protected theorem Inv.execAzero {s : State} {i : Issue} (hs : Inv s) : Keeps (execAzero i s) := by
  unfold execAzero
  refine Keeps.next (hs.issue fun h₁ => ?_)
  extract_lets +onlyGivenNames e a
  split
  · exact h₁.illegal
  · split
    · exact trivial
    · exact h₁.modCore

protected theorem Inv.reportFault {s : State} {k : Nat} {o : EngOp} {f : FaultRec} (hs : Inv s) : Inv (reportFault s k o f) :=
  .ite hs (Inv.ite hs.setCtx (hs.setCtx.retirePoint hs.setCtx))

protected theorem Inv.execEngineBlockClose {s : State} {core eng : Nat} {upsets : List (Nat × Bool)} (hs : Inv s) :
    Keeps (execEngineBlockClose core eng upsets s) := by
  unfold execEngineBlockClose
  refine Keeps.next ?_
  split
  · exact hs
  · extract_lets +onlyGivenNames s₁ c g
    have h₁ : Inv s₁ := hs.modCore
    split
    · exact h₁
    · split
      · exact h₁
      · split
        extract_lets +onlyGivenNames rs bad t₂
        have ht₂ : Inv t₂ := h₁.noteRead
        clear_value bad
        split
        · exact h₁.noteRead.modCore.reportFault
        · exact h₁.noteRead.modCore

protected theorem Inv.execTileCheckerTakeOp {s : State} {core : Nat} (hs : Inv s) : Keeps (execTileCheckerTakeOp core s) := by
  unfold execTileCheckerTakeOp
  refine Keeps.next ?_
  extract_lets +onlyGivenNames c
  split
  · exact hs
  · split
    · exact hs
    · exact hs.setCore

protected theorem Inv.execTileCheckComplete {s : State} {core : Nat} (hs : Inv s) : Keeps (execTileCheckComplete core s) := by
  unfold execTileCheckComplete
  refine Keeps.next ?_
  extract_lets +onlyGivenNames c
  split
  · exact hs
  · exact .ite hs (Inv.ite hs.noteRead.modCore hs.noteRead.modCore.modClu)

protected theorem Inv.execTileCheckFailureReport {s : State} {core : Nat} (hs : Inv s) : Keeps (execTileCheckFailureReport core s) := by
  unfold execTileCheckFailureReport
  refine Keeps.next ?_
  extract_lets +onlyGivenNames c
  split
  · exact hs
  · extract_lets +onlyGivenNames r
    split
    · exact hs
    · extract_lets +onlyGivenNames s₁ s₂ s₃ s₄
      have h₁ : Inv s₁ := hs.noteRead
      have h₂ : Inv s₂ := h₁.modCore
      have h₃ : Inv s₃ := .ite h₂.modCore h₂
      have h₄ : Inv s₄ := h₃.modClu
      exact .ite h₄ h₄.reportFault

protected theorem Inv.execEngineQueueRoom {s : State} {core ctx : Nat} (hs : Inv s) : Keeps (execEngineQueueRoom core ctx s) := by
  unfold execEngineQueueRoom
  refine Keeps.next ?_
  extract_lets +onlyGivenNames x
  split
  · exact hs
  · split
    · exact hs.resume fun h => h.bodyEngine
    · exact hs

protected theorem Inv.rangeBody {s : State} {opc : BitVec 8} {i : Issue} {x : Ctx} (hs : Inv s) : Res.Keeps (rangeBody opc i s x) := by
  unfold rangeBody
  split
  · exact hs.bodySt
  · exact hs.bodyVst
  · exact hs.bodyHandle
  · exact hs.bodyHandle
  · exact hs.bodyHldr
  · exact hs.bodyBase
  · exact hs.bodyWindow
  · exact hs.bodySend
  · exact hs.bodyMsend
  · exact hs.bodyCsend
  · exact hs.bodyDrain
  · exact hs.bodyQblk
  · exact trivial

protected theorem Inv.execOperandRangeRelease {s : State} {core ctx : Nat} (hs : Inv s) : Keeps (execOperandRangeRelease core ctx s) := by
  unfold execOperandRangeRelease
  refine Keeps.next ?_
  extract_lets +onlyGivenNames x
  split
  · exact hs
  · split
    · exact hs.resume fun h => h.rangeBody
    · exact hs

/-! ### Sideband -/

protected theorem Inv.sideband {s : State} {h : Nat} {f : State → State} (hs : Inv s) (hf : ∀ {t}, Inv t → Inv (f t)) :
    Inv (sideband s h f) := .ite (hf hs) hs

protected theorem Inv.execSbRegisterWrite {s : State} {hub offset : Nat} {data : BitVec 64} (hs : Inv s) :
    Keeps (execSbRegisterWrite hub offset data s) := by
  unfold execSbRegisterWrite
  refine Keeps.next ?_
  exact hs.sideband fun h => Inv.ite h (Inv.ite h.modHub (Inv.ite h.modHub h))

protected theorem Inv.drainWrites {s : State} {n : Nat} (hs : Inv s) : Inv (drainWrites n s) := by
  induction n generalizing s with
  | zero => exact hs
  | succ n ih => exact .ite hs (ih hs.recordWritten)

protected theorem Inv.writeRecord {s : State} {b : Bytes} (hs : Inv s) : Inv (writeRecord s b) := hs.drainWrites.frame.recordWritten

protected theorem Inv.takeConfig {s : State} {b : Bytes} (hs : Inv s) : Inv (takeConfig s b) := by
  unfold takeConfig
  extract_lets +onlyGivenNames c old₁ s₂ s₃ s₄
  have hold₁ : Inv old₁ := hs
  have h₃ : Inv s₃ := hs.frame.raiseCounter
  exact (h₃.frame.foldl fun h => h.endSession).foldl fun h => h.sendAttq.bumpFree

protected theorem Inv.takeOwner {s : State} {b : Bytes} (hs : Inv s) : Inv (takeOwner s b) :=
  hs.frame.raiseCounter.frame.foldl fun h => h.endSession

protected theorem Inv.execRecordSubmissionDone {s : State} {hub : Nat} {sigOk : Bool} (hs : Inv s) :
    Keeps (execRecordSubmissionDone hub sigOk s) := by
  unfold execRecordSubmissionDone
  refine Keeps.report ?_
  extract_lets +onlyGivenNames x fin
  have hfin {s : State} (h : Inv s) {st : Status} : Inv (fin s st) := h.modHub
  split
  · exact hs
  · split
    · exact hfin hs
    · split
      · exact hfin hs
      · split
        · exact hfin hs
        · exact hfin (Inv.ite hs.writeRecord.takeOwner hs.writeRecord.takeConfig)

/-! ### Release -/

/-- The command that a look-up finds is the one named. -/
theorem Cmd.Keeps.of_some {m m' : Msg} {c c' : Cmd} (hc : c.Keeps) (h : some (m, c) = some (m', c')) : c'.Keeps := by
  obtain ⟨_, rfl⟩ := Prod.mk.inj (Option.some.inj h)
  exact hc

theorem heldCmd_keeps {i : Instr} {m : Msg} {c : Cmd} (h : heldCmd i = some (m, c)) : c.Keeps := by
  unfold heldCmd at h
  split at h
  · exact cmdWinOpen_keeps.of_some h
  · exact cmdWinClose_keeps.of_some h
  · exact cmdWinQuery_keeps.of_some h
  · exact cmdLedgerSet_keeps.of_some h
  · exact cmdLedgerRead_keeps.of_some h
  · exact cmdForecast_keeps.of_some h
  · exact cmdTwinAttach_keeps.of_some h
  · exact cmdTwinDetach_keeps.of_some h
  · exact cmdTwinTakeover_keeps.of_some h
  · exact cmdJobForm_keeps.of_some h
  · exact cmdJobDissolve_keeps.of_some h
  · exact cmdSubmit_keeps.of_some h
  · exact cmdPromptPut_keeps.of_some h
  · exact cmdAbort_keeps.of_some h
  · exact cmdReqQuery_keeps.of_some h
  · exact cmdDiagRead_keeps.of_some h
  · exact cmdFence_keeps.of_some h
  · exact cmdUnfence_keeps.of_some h
  · exact cmdReset_keeps.of_some h
  · exact cmdReturn_keeps.of_some h
  · exact cmdPing_keeps.of_some h
  · exact cmdClose_keeps.of_some h
  · exact cmdVersion_keeps.of_some h
  · exact cmdSubscribe_keeps.of_some h
  · exact cmdStatus_keeps.of_some h
  · exact cmdSysConfig_keeps.of_some h
  · exact cmdStreamSet_keeps.of_some h
  · exact cmdQpCreate_keeps.of_some h
  · exact cmdQpDestroy_keeps.of_some h
  · exact cmdHalfSet_keeps.of_some h
  · exact cmdPartSet_keeps.of_some h
  · exact cmdMapStage_keeps.of_some h
  · exact cmdMapCommit_keeps.of_some h
  · exact cmdMapUnload_keeps.of_some h
  · exact cmdPartDrain_keeps.of_some h
  · exact cmdHandleBind_keeps.of_some h
  · exact cmdHandleInval_keeps.of_some h
  · exact cmdDataWrite_keeps.of_some h
  · exact cmdDataRead_keeps.of_some h
  · exact cmdDistRead_keeps.of_some h
  · exact cmdLinkRetrain_keeps.of_some h
  · exact cmdDramRecal_keeps.of_some h
  · exact cmdGuestMode_keeps.of_some h
  · exact cmdGuestRule_keeps.of_some h
  · exact cmdGuestReturn_keeps.of_some h
  · exact cmdImgStage_keeps.of_some h
  · exact cmdImgActivate_keeps.of_some h
  · cases h

protected theorem Inv.execMailboxHeldRequestRelease {sess mbox : Nat} {s : State} (hs : Inv s) :
    Keeps (execMailboxHeldRequestRelease sess mbox s) := by
  unfold execMailboxHeldRequestRelease
  extract_lets +onlyGivenNames b
  refine Keeps.report ?_
  split
  · exact hs
  · rename_i m c e
    obtain ⟨h, _, hc⟩ := Option.bind_eq_some_iff.mp e
    exact .ite hs (hs.boxRun (heldCmd_keeps hc))

/-! ### Scalar -/

protected theorem Inv.alu {s : State} {i : Issue} {f : Word → Word → Word} {x : Ctx} (hs : Inv s) : Res.Keeps (alu i f s x) :=
  hs.retireCtx

protected theorem Inv.jumpTo {s : State} {i : Issue} {x' : Ctx} {t : Word} {x : Ctx} (hs : Inv s) : Res.Keeps (jumpTo i x' t s x) := by
  unfold jumpTo
  split
  · exact hs.setCtx
  · exact hs.illegal

protected theorem Inv.branch {s : State} {i : Issue} {c : Word → Word → Bool} {x : Ctx} (hs : Inv s) : Res.Keeps (branch i c s x) := by
  unfold branch
  split
  · exact hs.jumpTo
  · exact hs.retireCtx

protected theorem Inv.execCrr {s : State} {i : Issue} (hs : Inv s) : Keeps (execCrr i s) := by
  unfold execCrr
  refine Keeps.next (hs.issue fun h₁ => ?_)
  extract_lets +onlyGivenNames off
  split
  · exact h₁.illegal
  · exact h₁.retireCtx

protected theorem Inv.execCrw {s : State} {i : Issue} (hs : Inv s) : Keeps (execCrw i s) := by
  unfold execCrw
  refine Keeps.next (hs.issue fun h₁ => ?_)
  extract_lets +onlyGivenNames off
  split
  · exact h₁.illegal
  · exact h₁.retireCtx

/-! ### Serve -/

protected theorem Inv.serveHeld {s : State} {cl : Nat} {w : OuterRequest} (hs : Inv s) : Inv (serveHeld s cl w) := by
  cases w with
  | dataWrite m r => exact hs.dataWriteRun
  | dataRead m rs r => exact hs.dataReadRun
  | diagRead m a r => exact hs.diagRun
  | guest site write p a rule => exact hs.guestServe
  | far oe f first lines write a => exact hs.farLine
  | hub off b => exact hs.putBytes
  | rewrite p h => exact hs.rewriteRange
  | release j num b => exact hs.heldRelease
  | mapCommit m r => exact hs.mapCommitRun
  | twinAttach m ok theirs key r => exact hs.twinAttachRun
  | measure p theirs => exact hs.remeasureRun
  | rdma x =>
    rw [serveHeld]
    split
    · exact hs.rdmaGo
    · exact hs

protected theorem Inv.drainHeld {s : State} {cl n : Nat} (hs : Inv s) : Inv (drainHeld cl n s) := by
  induction n generalizing s with
  | zero => exact hs
  | succ n ih =>
    unfold drainHeld
    extract_lets +onlyGivenNames u
    split
    · exact hs
    · exact .ite hs (ih hs.modClu.serveHeld)

protected theorem Inv.drain {s : State} {cl : Nat} (hs : Inv s) : Inv (drain s cl) := hs.drainHeld

/-! ### Idle -/

protected theorem Inv.faultUnlisted {s : State} (hs : Inv s) : Inv (faultUnlisted s) := hs.foldl fun h => Inv.ite (h.settle h) h

protected theorem Inv.tick {s : State} (hs : Inv s) : Inv (tick s) := .ite hs hs.frame.faultUnlisted.withReports

/-- Every command keeps the invariant: one case for each of its rows. -/
protected theorem Inv.exec {s : State} (hs : Inv s) (c : Instr) : Keeps (exec c s) := by
  cases c with
  | nop => exact .next (hs.issue fun h => h.retireCtx)
  | end_ => exact .next (hs.issue fun h => trivial)
  | b => exact .next (hs.issue fun h => h.jumpTo)
  | beq => exact .next (hs.issue fun h => h.branch)
  | bne => exact .next (hs.issue fun h => h.branch)
  | blt => exact .next (hs.issue fun h => h.branch)
  | bge => exact .next (hs.issue fun h => h.branch)
  | bltu => exact .next (hs.issue fun h => h.branch)
  | jal => exact .next (hs.issue fun h => h.jumpTo)
  | jr => exact .next (hs.issue fun h => h.jumpTo)
  | crr => exact hs.execCrr
  | crw => exact hs.execCrw
  | add => exact .next (hs.issue fun h => h.alu)
  | sub => exact .next (hs.issue fun h => h.alu)
  | and => exact .next (hs.issue fun h => h.alu)
  | or => exact .next (hs.issue fun h => h.alu)
  | xor => exact .next (hs.issue fun h => h.alu)
  | shl => exact .next (hs.issue fun h => h.alu)
  | shr => exact .next (hs.issue fun h => h.alu)
  | sar => exact .next (hs.issue fun h => h.alu)
  | mul => exact .next (hs.issue fun h => h.alu)
  | slt => exact .next (hs.issue fun h => h.alu)
  | sltu => exact .next (hs.issue fun h => h.alu)
  | addi => exact .next (hs.issue fun h => h.retireCtx)
  | min => exact .next (hs.issue fun h => h.alu)
  | max => exact .next (hs.issue fun h => h.alu)
  | lih => exact .next (hs.issue fun h => h.retireCtx)
  | ld => exact .next (hs.issue fun h => h.bodyLd)
  | st => exact .next (hs.issue fun h => h.bodySt)
  | vld => exact .next (hs.issue fun h => h.bodyVld)
  | vst => exact .next (hs.issue fun h => h.bodyVst)
  | hld => exact .next (hs.issue fun h => h.bodyHandle)
  | hst => exact .next (hs.issue fun h => h.bodyHandle)
  | hldr => exact .next (hs.issue fun h => h.bodyHldr)
  | bld => exact .next (hs.issue fun h => h.bodyBase)
  | bst => exact .next (hs.issue fun h => h.bodyBase)
  | wput => exact .next (hs.issue fun h => h.bodyWindow)
  | wget => exact .next (hs.issue fun h => h.bodyWindow)
  | send => exact .next (hs.issue fun h => h.bodySend)
  | msend => exact .next (hs.issue fun h => h.bodyMsend)
  | csend => exact .next (hs.issue fun h => h.bodyCsend)
  | arm => exact hs.execArm
  | waitc => exact hs.execWaitc
  | waitcComplete => exact hs.execWaitcComplete
  | waitcUeFault => exact hs.execWaitcUeFault
  | arrivalDeadlineExpiry => exact hs.execArrivalDeadlineExpiry
  | cabort => exact hs.execCabort
  | carr => exact .next (hs.issue fun h => h.bodyCarr)
  | carrAfterClear => exact hs.execCarrAfterClear
  | cwait => exact hs.execCwait
  | cwaitRetire => exact hs.execCwaitRetire
  | ctest => exact hs.execCtest
  | etile => exact .next (hs.issue fun h => h.bodyEngine)
  | esparse => exact .next (hs.issue fun h => h.bodyEngine)
  | drain => exact .next (hs.issue fun h => h.bodyDrain)
  | azero => exact hs.execAzero
  | vfma => exact .next (hs.issue fun h => h.lanes)
  | vadd => exact .next (hs.issue fun h => h.lanes2)
  | vsub => exact .next (hs.issue fun h => h.lanes2)
  | vmul => exact .next (hs.issue fun h => h.lanes2)
  | vmin => exact .next (hs.issue fun h => h.lanes2)
  | vmax => exact .next (hs.issue fun h => h.lanes2)
  | vcmp => exact hs.execVcmp
  | vlog => exact hs.execVlog
  | vsel => exact .next (hs.issue fun h => h.lanes)
  | vbcast => exact .next (hs.issue fun h => h.lanes)
  | vext => exact .next (hs.issue fun h => h.retireCtx)
  | vred => exact hs.execVred
  | vfn => exact hs.execVfn
  | vdiv => exact .next (hs.issue fun h => h.lanes2)
  | vsqrt => exact .next (hs.issue fun h => h.lanes1)
  | viop => exact hs.execViop
  | vcvt => exact hs.execVcvt
  | qblk => exact .next (hs.issue fun h => h.bodyQblk)
  | dqblk => exact hs.execDqblk
  | mlog => exact hs.execMlog
  | srand => exact .next (hs.issue fun h => h.retireCtx)
  | vargmax => exact .next (hs.issue fun h => h.retireCtx)
  | engineQueueRoom => exact hs.execEngineQueueRoom
  | operandRangeRelease => exact hs.execOperandRangeRelease
  | routerInjectionAccept => exact hs.execRouterInjectionAccept
  | engineBlockClose => exact hs.execEngineBlockClose
  | tileCheckerTakeOp => exact hs.execTileCheckerTakeOp
  | tileCheckComplete => exact hs.execTileCheckComplete
  | tileCheckFailureReport => exact hs.execTileCheckFailureReport
  | spmCeRewrite => exact .next (Inv.ite hs.modCore.modClu hs)
  | lineArrival => exact hs.execLineArrival
  | note => exact hs.execNote
  | dataPacketAtRouter => exact hs.execDataPacketAtRouter
  | controlPacketAtRouter => exact .next (Inv.ite hs (Inv.ite hs.noteDiscard.modClu hs.doCtrlHop))
  | taggedLineArrival => exact hs.execTaggedLineArrival
  | readReq => exact .next (Inv.ite hs.queueReads hs)
  | writeReq => exact .next (Inv.ite hs.grantWrite hs)
  | writeGrant => exact .next (Inv.ite hs.takeGrant hs)
  | commit => exact .next (Inv.ite hs hs.modCore.countOnlyAt)
  | countOnly => exact .next (Inv.ite hs hs.modCore.countOnlyAt)
  | taggedLineTimeout => exact hs.execTaggedLineTimeout
  | xputReq => exact hs.execXputReq
  | xgetReq => exact hs.execXgetReq
  | xgrant => exact .next (Inv.ite hs.takeGrant hs)
  | abortPacket => exact hs.execAbortPacket
  | abortAns => exact .next (Inv.ite hs (Inv.ite hs.frame (Inv.ite hs.modClu hs.modClu)))
  | watchdog => exact hs.execWatchdog
  | fencePacket => exact hs.execFencePacket
  | fenceAck => exact hs.execFenceAck
  | taskEnd => exact hs.execTaskEnd
  | stepReplay => exact hs.execStepReplay
  | probe => exact .next (Inv.ite hs hs.sendCtrl)
  | probeAns => exact hs.execProbeAns
  | probeTimeout => exact hs.execProbeTimeout
  | bankWrite => exact .next (Inv.ite hs hs.frame.tryAnnounce)
  | handleDescriptorUpdate => exact hs.execHandleDescriptorUpdate
  | epochSwitch => exact hs.execEpochSwitch
  | epochRetire => exact hs.execEpochRetire
  | epochWriteAckTimeout => exact hs.execEpochWriteAckTimeout
  | laneRetrainStart => exact .next (Inv.ite hs hs.setLink)
  | laneRetrainDone => exact hs.execLaneRetrainDone
  | eyeMarginSample => exact .next (hs.foldl fun h => h.laneDue)
  | crossFault => exact hs.execCrossFault
  | dramReadComplete => exact .report hs.readNext.drain
  | dramWriteCommit => exact .report hs.commitNext.drain
  | patrolScrubVisit => exact hs.execPatrolScrubVisit
  | refresh => exact .next hs.modClu
  | recalibrationTrigger => exact .report (Inv.ite hs.modClu.modClu hs.modClu).leaveIfIdle
  | recalSliceStart => exact .next (Inv.ite hs hs.modClu)
  | recalSliceEnd => exact .report hs.endSlice.drain
  | clearingGenerationClear => exact hs.execClearingGenerationClear
  | clearingNoticeArrival => exact hs.execClearingNoticeArrival
  | clearingWatchdogExpiry => exact hs.execClearingWatchdogExpiry
  | contextWatchdogExpiry => exact hs.execContextWatchdogExpiry
  | engineWatchdogExpiry => exact hs.execEngineWatchdogExpiry
  | fenceAckTimeout => exact .report (Inv.ite hs.rungPartition hs)
  | fenceTimeout => exact hs.execFenceTimeout
  | resetNotServingTimeout => exact hs.execResetNotServingTimeout
  | spareWarmupDone => exact hs.execSpareWarmupDone
  | weightCopyComplete => exact hs.execWeightCopyComplete
  | handleFreeTimer => exact hs.execHandleFreeTimer
  | windowExpiry => exact .next (Inv.ite hs hs.modPart)
  | putLine => exact .report (Inv.ite (hs.acceptFrame fun h => h.farLine) hs)
  | getRequest => exact .report (Inv.ite (hs.acceptFrame fun h => h.farLine) hs)
  | getLine => exact hs.execGetLine
  | done => exact hs.execDone
  | opticalLineTimeout => exact hs.execOpticalLineTimeout
  | ack => exact hs.execAck
  | assuredAckDue => exact hs.execAssuredAckDue
  | assuredResendTimeout => exact hs.execAssuredResendTimeout
  | clearUp => exact hs.execClearUp
  | clearNotice => exact hs.execClearNotice
  | crossPanelClearTimeout => exact hs.execCrossPanelClearTimeout
  | leadLossTimeout => exact .report (Inv.ite hs hs.declareLost)
  | job => exact hs.execJob
  | rejoinTimeout => exact hs.execRejoinTimeout
  | time => exact .report (Inv.ite hs (Inv.ite hs.frame hs.frame.steerTo))
  | timeFrameDue => exact .next (Inv.ite hs hs.frame.emit)
  | escrow => exact .report (Inv.ite hs (hs.acceptTwin fun h => h.noteTwin))
  | beat => exact hs.execBeat
  | twinLinkSilence => exact hs.execTwinLinkSilence
  | shadowTakeover => exact hs.execShadowTakeover
  | hello => exact hs.execHello
  | finish => exact hs.execFinish
  | handshakeTimeout => exact hs.execHandshakeTimeout
  | sessionKeepaliveExpiry => exact hs.execSessionKeepaliveExpiry
  | mailboxHeldRequestRelease => exact hs.execMailboxHeldRequestRelease
  | mailboxGap => exact .next (Inv.ite hs hs.modBox.eventTo)
  | streamAck => exact hs.execStreamAck
  | streamResendTimeout => exact hs.execStreamResendTimeout
  | eventAck => exact .next (Inv.ite hs (hs.authIn fun h => Inv.ite h h.modSess))
  | eventResendTimeout => exact hs.execEventResendTimeout
  | ticketExpiry => exact hs.execTicketExpiry
  | ping => exact .next (hs.teller cmdPing_keeps)
  | close => exact .next (hs.teller cmdClose_keeps)
  | version => exact .next (hs.teller cmdVersion_keeps)
  | subscribe => exact .next (hs.teller cmdSubscribe_keeps)
  | status => exact .next (hs.teller cmdStatus_keeps)
  | sysConfig => exact .next (hs.teller cmdSysConfig_keeps)
  | streamSet => exact .next (hs.teller cmdStreamSet_keeps)
  | qpCreate => exact .next (hs.teller cmdQpCreate_keeps)
  | qpDestroy => exact .next (hs.teller cmdQpDestroy_keeps)
  | partSet => exact .report (hs.teller cmdPartSet_keeps)
  | mapStage => exact .next (hs.teller cmdMapStage_keeps)
  | mapCommit => exact .report (hs.teller cmdMapCommit_keeps)
  | mapUnload => exact .report (hs.teller cmdMapUnload_keeps)
  | partDrain => exact .next (hs.teller cmdPartDrain_keeps)
  | partDrainComplete => exact .next (Inv.ite hs.endDrain hs)
  | handleBind => exact .next (hs.teller cmdHandleBind_keeps)
  | handleInval => exact .next (hs.teller cmdHandleInval_keeps)
  | dataWrite => exact .next (hs.teller cmdDataWrite_keeps)
  | dataRead => exact .report (hs.teller cmdDataRead_keeps)
  | distRead => exact .next (hs.teller cmdDistRead_keeps)
  | submit => exact .next (hs.teller cmdSubmit_keeps)
  | promptPut => exact .next (hs.teller cmdPromptPut_keeps)
  | abort => exact .next (hs.teller cmdAbort_keeps)
  | reqQuery => exact .next (hs.teller cmdReqQuery_keeps)
  | winOpen => exact .next (hs.teller cmdWinOpen_keeps)
  | winClose => exact .next (hs.teller cmdWinClose_keeps)
  | winQuery => exact .next (hs.teller cmdWinQuery_keeps)
  | ledgerSet => exact .next (hs.teller cmdLedgerSet_keeps)
  | ledgerRead => exact .next (hs.teller cmdLedgerRead_keeps)
  | forecast => exact .next (hs.teller cmdForecast_keeps)
  | twinAttach => exact .report (hs.teller cmdTwinAttach_keeps)
  | twinAttached => exact hs.execTwinAttached
  | twinDetach => exact .report (hs.teller cmdTwinDetach_keeps)
  | twinTakeover => exact .report (hs.teller cmdTwinTakeover_keeps)
  | jobForm => exact .next (hs.teller cmdJobForm_keeps)
  | jobDissolve => exact .next (hs.teller cmdJobDissolve_keeps)
  | diagRead => exact .report (hs.teller cmdDiagRead_keeps)
  | linkRetrain => exact .next (hs.teller cmdLinkRetrain_keeps)
  | dramRecal => exact .next (hs.teller cmdDramRecal_keeps)
  | guestMode => exact .next (hs.teller cmdGuestMode_keeps)
  | guestRule => exact .next (hs.teller cmdGuestRule_keeps)
  | guestReturn => exact .next (hs.teller cmdGuestReturn_keeps)
  | imgStage => exact .next (hs.teller cmdImgStage_keeps)
  | imgActivate => exact .report (hs.teller cmdImgActivate_keeps)
  | hubRejoin => exact hs.execHubRejoin
  | hubRejoinTimeout => exact hs.execHubRejoinTimeout
  | fence => exact .next (hs.teller cmdFence_keeps)
  | unfence => exact .next (hs.teller cmdUnfence_keeps)
  | reset => exact .report (hs.teller cmdReset_keeps)
  | halfSet => exact .report (hs.teller cmdHalfSet_keeps)
  | return_ => exact .report (hs.teller cmdReturn_keeps)
  | tellerMessageDrop => exact hs.execTellerMessageDrop
  | rdmaWrite => exact .next (hs.rdmaIn (fun h => Inv.ite h h.emit) fun h => h.rdmaTake)
  | rdmaRead => exact hs.execRdmaRead
  | cnp => exact .next hs.modQp
  | roceResponse => exact hs.execRoceResponse
  | ptpSync => exact .report (Inv.ite hs hs.frame.followPtp.delayReq)
  | ptpDelayResp => exact hs.execPtpDelayResp
  | ptpAnnounce => exact .next (Inv.ite hs hs.frame)
  | arpRequest => exact .next hs.answerOwn
  | neighborSolicitation => exact .next hs.answerOwn
  | icmpEcho => exact .next (Inv.ite hs.answerOwn hs)
  | unknownFrame => exact hs.execUnknownFrame
  | portLinkDown => exact .next (Inv.ite hs hs.modHub.ptpPortLost.movePort)
  | hubLoss => exact .report (Inv.ite hs.hubDown hs)
  | cap => exact hs.execCap
  | rd => exact .report (hs.plpIn fun h => h.guestRequest)
  | wr => exact .report (hs.plpIn fun h => h.guestRequest)
  | attr => exact hs.execAttr
  | gateRequestTimeout => exact hs.execGateRequestTimeout
  | guestHoldbackTimeout => exact .next hs.fenceSite
  | attrTimeout => exact hs.execAttrTimeout
  | attqPeriodic => exact .next (Inv.ite hs hs.sendAttq)
  | guestLinkDown => exact .next hs.modGuest.dropWant.fenceSite.modGuest
  | guestOvercurrent => exact .next hs.dropWant.fenceSite.modGuest
  | stageMainTrip => exact .report hs.tripStage
  | auxOutputTrip => exact hs.execAuxOutputTrip
  | inputSample => exact hs.execInputSample
  | rampDownStageStart => exact hs.execRampDownStageStart
  | inputBelowLockout => exact .report hs.stagesOff
  | stageHeartbeatLoss => exact .report (Inv.ite hs hs.modHalf.startRamp)
  | heartbeatWrite => exact hs.execHeartbeatWrite
  | telemetryPoll => exact hs.execTelemetryPoll
  | smbalert => exact .next (Inv.ite hs hs.toStages.modStage)
  | phaseFailure => exact hs.execPhaseFailure
  | droopStretchRequest => exact .next (Inv.ite hs hs.setClu)
  | stretchEnd => exact .next (Inv.ite hs hs.modClu.addStretch)
  | wakeRequest => exact .next hs.requestWake.modDie.serveWake
  | wakeHeadroomTimeout => exact hs.execWakeHeadroomTimeout
  | clusterOn => exact hs.execClusterOn
  | clusterPark => exact .next (Inv.ite hs.parkOff hs)
  | referenceLoss => exact .report (Inv.ite hs (hs.modHalf.foldl fun h => h.modDie).takeHalfOut)
  | tallyIntervalBoundary => exact hs.execTallyIntervalBoundary
  | clockStepEvaluation => exact .next (Inv.ite hs.evalStep hs)
  | wakeHoldStart => exact .next (Inv.ite hs.frame hs)
  | clockStop => exact .next (Inv.ite hs.frame hs)
  | clockRestart => exact hs.execClockRestart
  | ledgerPeriodBoundary => exact hs.execLedgerPeriodBoundary
  | coolantSample => exact hs.execCoolantSample
  | coolantFlowUpdate => exact .next (Inv.ite hs hs.frame.raiseAlert)
  | measurementRecompute => exact hs.execMeasurementRecompute
  | vaultRecordWritten => exact .report hs.recordWritten
  | busbarInputRise => exact hs.execBusbarInputRise
  | bringUpPhaseComplete => exact hs.execBringUpPhaseComplete
  | bringUpPhaseTimeout => exact .report (Inv.ite hs.endPhase hs)
  | thermTrip => exact .report (Inv.ite hs (Inv.ite hs.frame hs.frame.frame.bumpFree.rampPanel))
  | resetPinAssert => exact hs.execResetPinAssert
  | resetPinRelease => exact .next (Inv.ite hs (Inv.ite hs.frame Inv.reset.frame))
  | twinPresentLow => exact .report (Inv.ite hs (Inv.ite hs.frame.twinEvent hs.frame))
  | setdasa => exact .next (hs.sideband fun h => h.modHub)
  | rstdaa => exact .next (hs.sideband fun h => h.modHub)
  | enec => exact .next (hs.sideband fun h => h.modHub)
  | disec => exact .next (hs.sideband fun h => h.modHub)
  | getpid => exact .next (hs.sideband fun h => h.emit)
  | getbcr => exact .next (hs.sideband fun h => h.emit)
  | getdcr => exact .next (hs.sideband fun h => h.emit)
  | getstatus => exact .next (hs.sideband fun h => h.emit.bumpFree)
  | alertClear => exact .next (hs.sideband fun h => Inv.ite h.modHub.emit h)
  | flowrptWrite => exact .next (hs.sideband fun h => h.frame)
  | go => exact .next (hs.sideband fun h => Inv.ite h (Inv.ite h.modHub h.modHub))
  | recordSubmissionDone => exact hs.execRecordSubmissionDone
  | doneClear => exact .next (hs.sideband fun h => h.modHub)
  | sbRegisterWrite => exact hs.execSbRegisterWrite
  | portLinkUp => exact hs.execPortLinkUp
  | guestLinkUp => exact .next (Inv.ite hs hs.modGuest.sendPlp)
  | opticalFrameDiscard => exact .next (Inv.ite hs (Inv.ite hs.noteOptical (Inv.ite hs.countDropped hs)))
  | opticalFrameTransit => exact hs.execOpticalFrameTransit
  | referenceReturn => exact .next (hs.modHalf.foldl fun h => h.modDie)
  | auxOutputOpen => exact hs.execAuxOutputOpen
  | imageWriteComplete => exact hs.execImageWriteComplete
  | ticketClaimEnd => exact hs.execTicketClaimEnd
  | twinPresentHigh => exact .report hs.frame
  | thermTripRelease => exact .next hs.frame
  | roceAckTimeout => exact hs.execRoceAckTimeout
  | compatibleRelaunchWindowEnd => exact hs.execCompatibleRelaunchWindowEnd
  | hubReturn => exact .report (Inv.ite hs hs.hubBack)

end Sys2Proof.Machine
end

section
/-! PROOFS. The statements about every command and about reset. -/

namespace Sys2Proof.Machine

/-- A step is a tick, where nothing is pending, or else the command at the front of the queue. -/
protected theorem Inv.step {s t : State} (hs : Inv s) (e : step s = .next t) : Inv t := by
  cases hp : s.pending with
  | nil =>
    simp only [step, hp] at e
    exact Host.Outcome.next.inj e ▸ hs.tick
  | cons c rest =>
    simp only [step, hp] at e
    exact Inv.exec (s := { s with pending := rest }) hs.frame c t e

/-- No arm of `exec` faults or refuses: each builds its next state. -/
theorem exec_answers (c : Instr) (s : State) : ∃ t, exec c s = .next t := by
  cases c <;> exact ⟨_, rfl⟩

theorem step_answers (s : State) : StepOk s := by
  cases hp : s.pending with
  | nil => exact ⟨tick s, by simp only [step, hp]⟩
  | cons c rest =>
    obtain ⟨t, e⟩ := exec_answers c { s with pending := rest }
    exact ⟨t, by simp only [step, hp, e]⟩

end Sys2Proof.Machine

open Sys2Proof Sys2Proof.Machine

/-- Settles O59: the invariant is carried through every function that builds a state, up to `exec` and `tick`. -/
theorem everyStepKeepsInvariant : Obligations.EveryStepKeepsInvariant := fun _ _ hs e => hs.step e

/-- Settles O2, by the arms of `exec`. -/
theorem everyCommandAnswers : Obligations.EveryCommandAnswers := ⟨exec_answers, step_answers⟩

/-- Settles O60: the fields of `State.reset` are as listed, and memory obeys the laws of byte memory. -/
theorem resetAndMemory : Obligations.ResetAndMemory := by
  refine ⟨Inv.reset, rfl, rfl, rfl, rfl, rfl, rfl, rfl, rfl, rfl, rfl, rfl, fun m a b h => ⟨Mem.write_wf m a b h, ?_, fun c hc => ?_⟩⟩
  · rw [Mem.read_write m a a b h, if_pos rfl]
  · rw [Mem.read_write m a c b h, if_neg hc.symm]

end

section
/-! PROOFS. What the replay of a step and the readiness of a spare leave alone. -/

namespace Sys2Proof.Machine

/-! ### Updates of cores and clusters only -/

/-- `t` is `s` but for its cores and clusters. -/
def OnlyUnits (s t : State) : Prop := ∃ cores clusters, t = { s with cores := cores, clusters := clusters }

theorem OnlyUnits.refl (s : State) : OnlyUnits s s := ⟨_, _, rfl⟩

theorem OnlyUnits.trans {s t u : State} (h : OnlyUnits s t) (h' : OnlyUnits t u) : OnlyUnits s u := by
  obtain ⟨_, _, rfl⟩ := h
  obtain ⟨cores, clusters, rfl⟩ := h'
  exact ⟨cores, clusters, rfl⟩

theorem OnlyUnits.ite {c : Prop} [Decidable c] {s t u : State} (h : OnlyUnits s t) (h' : OnlyUnits s u) : OnlyUnits s (if c then t else u) := by
  split
  · exact h
  · exact h'

theorem OnlyUnits.foldl {α : Type} {f : State → α → State} (hf : ∀ s a, OnlyUnits s (f s a)) (l : List α) (s : State) :
    OnlyUnits s (l.foldl f s) := by
  induction l generalizing s with
  | nil => exact .refl s
  | cons a l ih => exact (hf s a).trans (ih _)

theorem unfenceCtx_onlyUnits (s : State) (k n : Nat) : OnlyUnits s (unfenceCtx s k n) := .ite (.refl s) ⟨_, _, rfl⟩

theorem unfenceJob_onlyUnits (s : State) (j : Nat) : OnlyUnits s (unfenceJob s j) := by
  refine (OnlyUnits.foldl (fun s k => ?_) _ s).trans (OnlyUnits.foldl (fun s cl => .ite ⟨_, _, rfl⟩ (.refl s)) _ _)
  exact .ite (.foldl (fun s n => unfenceCtx_onlyUnits s k n) _ s) (.refl s)

/-! ### Updates that leave the work alone -/

/-- Jobs, partitions, requests, spares and the twin link are as before. -/
structure SameWork (s t : State) : Prop where
  jobs : t.jobs = s.jobs
  parts : t.parts = s.parts
  requests : t.requests = s.requests
  replacing : t.replacing = s.replacing
  twin : t.twin = s.twin

theorem SameWork.refl (s : State) : SameWork s s := ⟨rfl, rfl, rfl, rfl, rfl⟩

theorem SameWork.trans {s t u : State} (h : SameWork s t) (h' : SameWork t u) : SameWork s u :=
  ⟨h'.jobs.trans h.jobs, h'.parts.trans h.parts, h'.requests.trans h.requests, h'.replacing.trans h.replacing, h'.twin.trans h.twin⟩

theorem SameWork.ite {c : Prop} [Decidable c] {s t u : State} (h : SameWork s t) (h' : SameWork s u) : SameWork s (if c then t else u) := by
  split
  · exact h
  · exact h'

theorem SameWork.foldl {α : Type} {f : State → α → State} (hf : ∀ s a, SameWork s (f s a)) (l : List α) (s : State) :
    SameWork s (l.foldl f s) := by
  induction l generalizing s with
  | nil => exact .refl s
  | cons a l ih => exact (hf s a).trans (ih _)

theorem OnlyUnits.sameWork {s t : State} (h : OnlyUnits s t) : SameWork s t := by
  obtain ⟨_, _, rfl⟩ := h
  exact ⟨rfl, rfl, rfl, rfl, rfl⟩

theorem OnlyUnits.mem {s t : State} (h : OnlyUnits s t) : t.mem = s.mem := by
  obtain ⟨_, _, rfl⟩ := h
  rfl

theorem putBad_sameWork (s : State) (cl i : Nat) (b : Option BadLine) : SameWork s (putBad s cl i b) := ⟨rfl, rfl, rfl, rfl, rfl⟩

theorem commitLine_sameWork (s : State) (cl line : Nat) (v : Line) : SameWork s (commitLine s cl line v) := by
  unfold commitLine
  extract_lets t u
  have ht : SameWork s t := ⟨rfl, rfl, rfl, rfl, rfl⟩
  split
  · exact ht
  · have hn : SameWork s (noteErr t cl line 0) := ht.trans ⟨rfl, rfl, rfl, rfl, rfl⟩
    split
    · exact hn
    · split
      · exact hn.trans (putBad_sameWork ..)
      · exact hn.trans (putBad_sameWork ..)

theorem rewriteRange_sameWork (s : State) (p h : Nat) : SameWork s (rewriteRange s p h) := by
  unfold rewriteRange
  extract_lets q d
  split
  · exact .refl s
  · split
    · exact ⟨rfl, rfl, rfl, rfl, rfl⟩
    · exact .foldl (fun s l => commitLine_sameWork ..) _ s

theorem restoreHandles_sameWork (s : State) (j : Nat) : SameWork s (restoreHandles s j) := by
  unfold restoreHandles
  split
  · exact .foldl (fun s x => rewriteRange_sameWork ..) _ s
  · exact .refl s

theorem restoreHandles_of_detached {s : State} (h : s.twin.attached = false) (j : Nat) : restoreHandles s j = s := by
  simp [restoreHandles, h]

theorem copyWeights_sameWork (s : State) (r : Replacement) : SameWork s (copyWeights s r) := by
  refine .foldl (fun s h => .foldl (fun s l => ?_) _ s) _ s
  dsimp only
  split
  · exact (commitLine_sameWork ..).trans ⟨rfl, rfl, rfl, rfl, rfl⟩
  · exact commitLine_sameWork ..

theorem SameWork.getJob {s t : State} (h : SameWork s t) (j : Nat) : getJob t j = getJob s j := by rw [Machine.getJob, h.jobs, Machine.getJob]

theorem SameWork.jobOfPart {s t : State} (h : SameWork s t) (p : Nat) : jobOfPart t p = jobOfPart s p := by
  simp only [Machine.jobOfPart, h.jobs, h.getJob]

theorem SameWork.partsOfJob {s t : State} (h : SameWork s t) (j : Nat) : partsOfJob t j = partsOfJob s j := by
  simp only [Machine.partsOfJob, h.getJob, h.parts, h.jobOfPart]

theorem SameWork.keepsInputs {s t : State} (h : SameWork s t) (j : Nat) : keepsInputs t j = keepsInputs s j := by
  simp only [Machine.keepsInputs, getPart, h.parts, h.partsOfJob]

/-! ### Updates of one job -/

@[simp] theorem getJob_modJob_self (s : State) (j : Nat) (f : Job → Job) : getJob (modJob s j f) j = f (getJob s j) := by
  simp [modJob, setJob, getJob]

theorem getJob_modJob_ne (s : State) {i j : Nat} (f : Job → Job) (h : i ≠ j) : getJob (modJob s j f) i = getJob s i :=
  Tbl.get_put_ne s.jobs j i _ _ h

/-- Memory, requests and every job but `j` are as before. -/
structure OnlyJob (j : Nat) (s t : State) : Prop where
  mem : t.mem = s.mem
  requests : t.requests = s.requests
  others : ∀ i, i ≠ j → getJob t i = getJob s i

theorem OnlyJob.refl (j : Nat) (s : State) : OnlyJob j s s := ⟨rfl, rfl, fun _ _ => rfl⟩

theorem OnlyJob.trans {j : Nat} {s t u : State} (h : OnlyJob j s t) (h' : OnlyJob j t u) : OnlyJob j s u :=
  ⟨h'.mem.trans h.mem, h'.requests.trans h.requests, fun i hi => (h'.others i hi).trans (h.others i hi)⟩

theorem OnlyJob.ite {c : Prop} [Decidable c] {j : Nat} {s t u : State} (h : OnlyJob j s t) (h' : OnlyJob j s u) :
    OnlyJob j s (if c then t else u) := by
  split
  · exact h
  · exact h'

theorem modJob_onlyJob (s : State) (j : Nat) (f : Job → Job) : OnlyJob j s (modJob s j f) :=
  ⟨rfl, rfl, fun _ hi => getJob_modJob_ne s f hi⟩

theorem tryAnnounce_onlyJob (s : State) (j : Nat) : OnlyJob j s (tryAnnounce s) := by
  unfold tryAnnounce
  split
  · exact ⟨rfl, rfl, fun _ _ => rfl⟩
  · exact .refl j s

theorem OnlyJob.foldl {α : Type} {j : Nat} {f : State → α → State} (hf : ∀ s a, OnlyJob j s (f s a)) (l : List α) (s : State) :
    OnlyJob j s (l.foldl f s) := by
  induction l generalizing s with
  | nil => exact .refl j s
  | cons a l ih => exact (hf s a).trans (ih _)

theorem dropSteps_onlyJob (s : State) (j : Nat) : OnlyJob j s (dropSteps s j) := by
  refine .trans (.trans ?_ (.foldl (fun s p => ?_) _ _)) (tryAnnounce_onlyJob _ j)
  · exact modJob_onlyJob s j _
  · exact ⟨rfl, rfl, fun _ _ => rfl⟩

/-- The end of a serial replay clears the cores' marks and the job's own record of the replay. -/
theorem endSerial_cases (s : State) (j : Nat) : endSerial s j = s ∨
    ∃ cores, endSerial s j = modJob { s with cores := cores } j fun x => { x with serialReplay := false, replayed := [] } := by
  unfold endSerial
  extract_lets x
  split
  · exact .inl rfl
  · exact .inr ⟨_, rfl⟩

theorem endSerial_onlyJob (s : State) (j : Nat) : OnlyJob j s (endSerial s j) := by
  rcases endSerial_cases s j with e | ⟨cores, e⟩
  · rw [e]; exact .refl j s
  · rw [e]; exact ⟨rfl, rfl, fun _ hi => getJob_modJob_ne { s with cores := cores } _ hi⟩

theorem getJob_endSerial (s : State) (j : Nat) :
    ∃ b l, getJob (endSerial s j) j = { getJob s j with serialReplay := b, replayed := l } := by
  rcases endSerial_cases s j with e | ⟨cores, e⟩
  · rw [e]; exact ⟨_, _, rfl⟩
  · rw [e, getJob_modJob_self]; exact ⟨_, _, rfl⟩

/-! ### A step's replay -/

/-- What the replay waits for is what keeps it from doing anything. -/
theorem execStepReplay_of_waiting {s : State} {j : Nat}
    (h : (getJob s j).rung = 0 ∨ (getJob s j).acks ≠ [] ∨ probing s j = true ∨ changing s (partsOfJob s j) = true ∨ s.state ≠ .serving) :
    exec (.stepReplay j) s = .next s := by
  refine congrArg Host.Outcome.next (if_pos ?_)
  rcases h with h | h | h | h | h <;> simp [h]

/-- A job's record once its abandonment is over; the groups keep their layers where the loader's inputs are kept. -/
def Job.backToWork (keep : Bool) (x : Job) : Job :=
  { x with
    rung := 0, counted := false, ueHandles := [], fromZero := false, aborts := [], replayed := x.steps.map (·.num)
    steps := x.steps.map fun t => { t with
      abandoned := false, layA := if keep then t.layA else 0, layB := if keep then t.layB else 0 } }

/-- The abandoned groups of a job at work again, its loaders not yet launched. -/
def replayedJob (s : State) (j : Nat) : State :=
  let t := restoreHandles (unfenceJob s j) j
  let keep := keepsInputs t j && !(getJob s j).fromZero
  let t := if activeReqs t (fun r => r.sub.job = j) = [] then dropSteps t j else t
  let t := modJob t j (Job.backToWork keep)
  if (getJob t j).steps = [] then endSerial t j else t

theorem execStepReplay_of_ready {s : State} {j : Nat} (hrung : (getJob s j).rung ≠ 0) (hacks : (getJob s j).acks = [])
    (hprobe : probing s j = false) (hspare : (s.replacing.any fun r => (partsOfJob s j).contains r.part) = false)
    (hbank : changing s (partsOfJob s j) = false)
    (hparts : ∀ p ∈ partsOfJob s j, (getPart s p).fenced = false ∧ (getPart s p).map ≠ none) (hserve : s.state = .serving)
    (hlost : (getJob s j).lostAt = none) :
    exec (.stepReplay j) s = .next (kickJob ((partsOfJob s j).foldl relaunchPart (replayedJob s j)) j) := by
  refine congrArg Host.Outcome.next (if_neg ?_)
  have hp : ((partsOfJob s j).any fun p => (getPart s p).fenced || (getPart s p).map.isNone) = false :=
    List.any_eq_false.mpr fun p hp => by simp [hparts p hp]
  simpa [hrung, hacks, hprobe, hbank, hp, hserve, hlost] using hspare

theorem restored_sameWork (s : State) (j : Nat) : SameWork s (restoreHandles (unfenceJob s j) j) :=
  (unfenceJob_onlyUnits s j).sameWork.trans (restoreHandles_sameWork _ j)

theorem restored_mem_of_detached {s : State} (h : s.twin.attached = false) (j : Nat) :
    (restoreHandles (unfenceJob s j) j).mem = s.mem := by
  have hu := unfenceJob_onlyUnits s j
  rw [restoreHandles_of_detached (by rw [hu.sameWork.twin, h]), hu.mem]

theorem replayedJob_onlyJob (s : State) (j : Nat) : OnlyJob j (restoreHandles (unfenceJob s j) j) (replayedJob s j) := by
  unfold replayedJob
  extract_lets t keep t₁ t₂
  have h₁ : OnlyJob j t t₁ := .ite (dropSteps_onlyJob t j) (.refl j t)
  have h₂ : OnlyJob j t t₂ := h₁.trans (modJob_onlyJob t₁ j _)
  exact .ite (h₂.trans (endSerial_onlyJob t₂ j)) h₂

theorem getJob_replayedJob (s : State) (j : Nat) : ∃ x b l, getJob (replayedJob s j) j =
    { Job.backToWork (keepsInputs s j && !(getJob s j).fromZero) x with serialReplay := b, replayed := l } := by
  unfold replayedJob
  extract_lets t keep t₁ t₂
  have hkeep : keep = (keepsInputs s j && !(getJob s j).fromZero) := by rw [← (restored_sameWork s j).keepsInputs]
  have h₂ : getJob t₂ j = Job.backToWork keep (getJob t₁ j) := getJob_modJob_self t₁ j _
  rw [← hkeep]
  clear_value t₂ t₁
  split
  · obtain ⟨b, l, e⟩ := getJob_endSerial t₂ j
    rw [e, h₂]
    exact ⟨_, b, l, rfl⟩
  · rw [h₂]
    exact ⟨_, _, _, rfl⟩

/-- No step of a job back at work is abandoned, and each begins with layer 0 where the inputs are not kept. -/
theorem backToWork_steps {keep : Bool} {x : Job} {t : Step} (h : t ∈ (Job.backToWork keep x).steps) :
    t.abandoned = false ∧ (keep = false → t.layA = 0 ∧ t.layB = 0) := by
  obtain ⟨t', _, rfl⟩ := List.mem_map.mp h
  exact ⟨rfl, fun hk => by simp [hk]⟩

theorem stepReplay_of_ready (s : State) (j : Nat) (hrung : (getJob s j).rung ≠ 0) (hprobe : probing s j = false)
    (hspare : (s.replacing.any fun r => (partsOfJob s j).contains r.part) = false) (hbank : changing s (partsOfJob s j) = false)
    (hparts : ∀ p ∈ partsOfJob s j, (getPart s p).fenced = false ∧ (getPart s p).map ≠ none) (hserve : s.state = .serving)
    (hlost : (getJob s j).lostAt = none) (hacks : (getJob s j).acks = []) :
    ∃ u, exec (.stepReplay j) s = .next (kickJob ((partsOfJob s j).foldl relaunchPart u) j) ∧ (getJob u j).rung = 0 ∧
      (getJob u j).counted = false ∧ (getJob u j).aborts = [] ∧ (s.twin.attached = false → u.mem = s.mem) ∧ u.requests = s.requests ∧
      (∀ t ∈ (getJob u j).steps, t.abandoned = false ∧
        (keepsInputs s j = false ∨ (getJob s j).fromZero = true → t.layA = 0 ∧ t.layB = 0)) ∧
      ∀ i, i ≠ j → getJob u i = getJob s i := by
  have hu := replayedJob_onlyJob s j
  have hr := restored_sameWork s j
  obtain ⟨x, b, l, e⟩ := getJob_replayedJob s j
  refine ⟨replayedJob s j, execStepReplay_of_ready hrung hacks hprobe hspare hbank hparts hserve hlost, by rw [e]; rfl, by rw [e]; rfl,
    by rw [e]; rfl, fun h => hu.mem.trans (restored_mem_of_detached h j), hu.requests.trans hr.requests, fun t ht => ?_,
    fun i hi => (hu.others i hi).trans (hr.getJob i)⟩
  rw [e] at ht
  obtain ⟨habandoned, hlayers⟩ := backToWork_steps ht
  exact ⟨habandoned, fun h => hlayers (by rcases h with h | h <;> simp [h])⟩

/-! ### A spare that is ready -/

theorem relaunchPart_of_baseBound {s : State} {p : Nat} (h : (getPart s p).map.any (·.bb) = true) : relaunchPart s p = s := if_pos h

theorem relaunchPart_of_not_baseBound {s : State} {p : Nat} (h : (getPart s p).map.any (·.bb) = false) :
    relaunchPart s p = launchPart s p := if_neg (by simp [h])

theorem spareReady_of_waiting {s : State} {p : Nat}
    (h : (s.replacing.any fun r => r.part = p && !(r.warm && r.copied)) = true ∨ changing s [p] = true) : spareReady s p = s := by
  refine if_pos ?_
  rcases h with h | h <;> simp only [h, Bool.true_or, Bool.or_true]

/-- A partition whose spares are ready: its reset ends, or it goes on. -/
theorem spareReady_of_ready {s : State} {p : Nat}
    (h : ¬ ((s.replacing.any fun r => r.part = p && !(r.warm && r.copied)) = true ∨ changing s [p] = true))
    (hp : (s.replacing.any fun r => r.part = p) = true) :
    let u := { s with replacing := s.replacing.filter fun x => x.part ≠ p }
    spareReady s p = if (getPart s p).resetting.isSome then kickJob (finishReset u p) (jobOfPart u p)
      else kickJob (relaunchPart (buildDist u p) p) (jobOfPart u p) := by
  obtain ⟨hready, hbank⟩ := not_or.mp h
  refine if_neg ?_
  simp only [Bool.not_eq_true] at hready hbank
  simp only [hready, hp, hbank]
  decide

/-- Marking a spare's copy as complete leaves the partition's spares listed. -/
theorem any_part_markCopied {l : List Replacement} {site : Nat} {r : Replacement} (h : r ∈ l) :
    ((l.map fun x => if x.spare = site then { x with copied := true } else x).any fun x => x.part = r.part) = true := by
  refine List.any_eq_true.mpr ⟨_, List.mem_map_of_mem h, ?_⟩
  split <;> simp

theorem exec_weightCopyComplete {s : State} {site : Nat} {r : Replacement}
    (h : (s.replacing.find? fun r => r.spare = site && !r.copied) = some r) :
    let v := if s.twin.attached then copyWeights s r else s
    let t := { v with replacing := v.replacing.map fun x => if x.spare = site then { x with copied := true } else x }
    exec (.weightCopyComplete site) s = .next (spareReady t r.part) ∧ (t.replacing.any fun x => x.part = r.part) = true := by
  intro v t
  have hv : SameWork s v := .ite (copyWeights_sameWork s r) (.refl s)
  refine ⟨congrArg Host.Outcome.next ?_, any_part_markCopied (by rw [hv.replacing]; exact List.mem_of_find?_eq_some h)⟩
  rw [h]

/-! ### A spare whose clusters are on -/

theorem writeBank_replacing (s : State) (ps : List Nat) : (writeBank s ps).replacing = s.replacing := by
  unfold writeBank
  extract_lets b t
  have ht : t.replacing = s.replacing := by
    unfold t
    split
    · rfl
    · rfl
  exact ht

theorem startEpoch_replacing (s : State) (ps : List Nat) : (startEpoch s ps).replacing = s.replacing := by
  unfold startEpoch
  extract_lets e
  split
  · rfl
  · exact writeBank_replacing s _

theorem foldl_modClu_eq (f : Cluster → Cluster) (l : List Nat) (s : State) :
    ∃ clusters, l.foldl (fun s c => modClu s c f) s = { s with clusters := clusters } := by
  induction l generalizing s with
  | nil => exact ⟨_, rfl⟩
  | cons c l ih => exact ih (modClu s c f)

@[simp] theorem getClu_modClu_self (s : State) (c : Nat) (f : Cluster → Cluster) : getClu (modClu s c f) c = f (getClu s c) := by
  simp [modClu, setClu, getClu]

theorem getClu_modClu_ne (s : State) {b c : Nat} (f : Cluster → Cluster) (h : b ≠ c) : getClu (modClu s c f) b = getClu s b :=
  Tbl.get_put_ne s.clusters c b _ _ h

/-- A change that is the same made twice is made once of each cluster listed. -/
theorem getClu_foldl_modClu {f : Cluster → Cluster} (hf : ∀ u, f (f u) = f u) (l : List Nat) (s : State) (b : Nat) :
    getClu (l.foldl (fun s c => modClu s c f) s) b = if b ∈ l then f (getClu s b) else getClu s b := by
  induction l generalizing s with
  | nil => rfl
  | cons c l ih =>
    rw [List.foldl_cons, ih]
    by_cases hb : b = c
    · subst hb; simp [hf]
    · simp [hb, getClu_modClu_ne s f hb]

theorem dieCores_congr {s t : State} (hdies : t.dies = s.dies) (hbad : t.badCores = s.badCores) (hcores : t.cores = s.cores)
    (hclu : ∀ c, (getClu t c).lost = (getClu s c).lost ∧ (getClu t c).crossFault = (getClu s c).crossFault) (site : Nat) :
    dieCores t site = dieCores s site := by
  simp only [dieCores, getDie, getCore, hdies, hbad, hcores, hclu]
  rfl

/-- The loaders of the listed clusters have all eight slices to come. -/
def refillLoaders (s : State) (l : List Nat) : State := l.foldl (fun s c => modClu s c fun u => { u with slicesLeft := 8 }) s

theorem refillLoaders_eq (s : State) (l : List Nat) : ∃ clusters, refillLoaders s l = { s with clusters := clusters } :=
  foldl_modClu_eq _ l s

theorem getClu_refillLoaders (s : State) (l : List Nat) (c : Nat) :
    getClu (refillLoaders s l) c = if c ∈ l then { getClu s c with slicesLeft := 8 } else getClu s c :=
  getClu_foldl_modClu (f := fun u => { u with slicesLeft := 8 }) (fun _ => rfl) l s c

theorem dieCores_refillLoaders (s : State) (l : List Nat) : dieCores (refillLoaders s l) = dieCores s := by
  obtain ⟨clusters, e⟩ := refillLoaders_eq s l
  funext d
  refine dieCores_congr (by rw [e]) (by rw [e]) (by rw [e]) (fun c => ?_) d
  rw [getClu_refillLoaders]
  split
  · exact ⟨rfl, rfl⟩
  · exact ⟨rfl, rfl⟩

theorem getClu_setNumbering (s : State) (p c : Nat) : getClu (setNumbering s p) c = getClu s c := rfl

theorem numbering_setNumbering (s : State) (p : Nat) :
    (getPart (setNumbering s p) p).numbering = ((getPart s p).sites.map (dieCores s)).flatten := by
  simp only [setNumbering, modPart, setPart, getPart, Tbl.get_put_self]

/-- A spare's mark that its clusters are on. -/
def markWarm (s : State) (site : Nat) : State :=
  { s with replacing := s.replacing.map fun x => if x.spare = site then { x with warm := true } else x }

/-- The panel with a spare's clusters on, all of its loaders' slices to come, and its partition numbered. -/
def numberedSpare (s : State) (site p : Nat) : State := setNumbering (refillLoaders (markWarm s site) (clustersOf [site])) p

theorem numberedSpare_eq (s : State) (site p : Nat) :
    ∃ clusters parts, numberedSpare s site p = { markWarm s site with clusters := clusters, parts := parts } := by
  obtain ⟨clusters, e⟩ := refillLoaders_eq (markWarm s site) (clustersOf [site])
  rw [numberedSpare, e]
  exact ⟨clusters, _, rfl⟩

theorem getClu_numberedSpare (s : State) (site p : Nat) {c : Nat} (h : c ∈ clustersOf [site]) :
    getClu (numberedSpare s site p) c = { getClu s c with slicesLeft := 8 } := by
  rw [numberedSpare, getClu_setNumbering, getClu_refillLoaders, if_pos h]
  rfl

theorem numbering_numberedSpare (s : State) (site p : Nat) :
    (getPart (numberedSpare s site p) p).numbering = ((getPart s p).sites.map (dieCores s)).flatten := by
  obtain ⟨clusters, e⟩ := refillLoaders_eq (markWarm s site) (clustersOf [site])
  rw [numberedSpare, numbering_setNumbering, dieCores_refillLoaders, e]
  rfl

theorem spareWarmupDone_of_off {s : State} {site : Nat} {r : Replacement} (hs : s.replacing = [r]) (hsite : r.spare = site)
    (hwarm : r.warm = false) (hoff : ¬ ∀ c ∈ clustersOf [site], wakeable s c = true → (getClu s c).pwrState = 2) :
    exec (.spareWarmupDone site) s = .next s := by
  have hfind : (s.replacing.find? fun r => r.spare = site && !r.warm) = some r := by simp [hs, hsite, hwarm]
  refine congrArg Host.Outcome.next ?_
  rw [hfind]
  exact if_pos (by simpa using hoff)

theorem spareWarmupDone_of_on {s : State} {site : Nat} {r : Replacement} (hs : s.replacing = [r]) (hsite : r.spare = site)
    (hwarm : r.warm = false) (hcopied : r.copied = false)
    (hon : ∀ c ∈ clustersOf [site], wakeable s c = true → (getClu s c).pwrState = 2) :
    exec (.spareWarmupDone site) s = .next (startEpoch (numberedSpare s site r.part) [r.part]) ∧
      (numberedSpare s site r.part).replacing = [{ r with warm := true }] := by
  have hfind : (s.replacing.find? fun r => r.spare = site && !r.warm) = some r := by simp [hs, hsite, hwarm]
  have hu : (numberedSpare s site r.part).replacing = [{ r with warm := true }] := by
    obtain ⟨clusters, parts, e⟩ := numberedSpare_eq s site r.part
    rw [e]
    simp [markWarm, hs, hsite]
  refine ⟨congrArg Host.Outcome.next ?_, hu⟩
  rw [hfind]
  refine (if_neg (by simpa using hon)).trans ?_
  have hwarmed : ((numberedSpare s site r.part).replacing.any fun x => x.part = r.part && !x.warm) = false := by simp [hu]
  have hnext : (if (numberedSpare s site r.part).replacing.any (fun x => x.part = r.part && !x.warm) then numberedSpare s site r.part
      else startEpoch (numberedSpare s site r.part) [r.part]) = startEpoch (numberedSpare s site r.part) [r.part] :=
    if_neg (by simp [hwarmed])
  refine (congrArg (spareReady · r.part) hnext).trans (spareReady_of_waiting (.inl ?_))
  simp [startEpoch_replacing, hu, hcopied]

end Sys2Proof.Machine

open Sys2Proof Sys2Proof.Machine

/-- Settles O32: the replay changes only the job's own record and the partitions it drives; a spare's readiness is `spareReady`. -/
theorem stepsReplayed : Obligations.StepsReplayed := by
  refine ⟨?replay, ?waiting, fun s p => ⟨relaunchPart_of_baseBound, relaunchPart_of_not_baseBound⟩, ?copied, ?warm⟩
  case replay =>
    intro s j x ps hrung hprobe hspare hbank hparts hserve hlost
    exact ⟨fun hacks => execStepReplay_of_waiting (.inr (.inl hacks)),
      stepReplay_of_ready s j hrung hprobe hspare hbank hparts hserve hlost⟩
  case waiting =>
    intro s j h
    refine execStepReplay_of_waiting ?_
    rcases h with h | h | h | h
    · exact .inl h
    · exact .inr (.inr (.inl h))
    · exact .inr (.inr (.inr (.inl h)))
    · exact .inr (.inr (.inr (.inr h)))
  case copied =>
    intro s site r h v t u waiting
    obtain ⟨e, hp⟩ := exec_weightCopyComplete h
    refine ⟨fun hw => ?_, fun hw hr => ?_, fun hw hr => ?_⟩
    · rw [e, spareReady_of_waiting hw]
    · rw [e, spareReady_of_ready hw hp, if_neg (by simpa using hr)]
    · rw [e, spareReady_of_ready hw hp, if_pos (by simpa [Option.isSome_iff_ne_none] using hr)]
  case warm =>
    intro s site r hs hsite hwarm hcopied on
    refine ⟨spareWarmupDone_of_off hs hsite hwarm, fun hon => ?_⟩
    obtain ⟨e, hu⟩ := spareWarmupDone_of_on hs hsite hwarm hcopied hon
    obtain ⟨clusters, parts, hframe⟩ := numberedSpare_eq s site r.part
    exact ⟨_, e, hu, numbering_numberedSpare s site r.part, by rw [hframe]; rfl, by rw [hframe]; rfl,
      fun c hc => getClu_numberedSpare s site r.part hc⟩

end

section
/-! PROOFS. Views of the panel: what messages to hosts leave alone. -/

namespace Sys2Proof.Machine

/-- What messages to hosts leave alone: the panel without what they are made of, the sites that partitions hold, and each guest site
without its rules. -/
structure Untold where
  rest : State
  held : Nat → Prop
  gates : Nat → Guest

/-- A site lies in a partition. -/
def siteHeld (s : State) (d : Nat) : Prop := ∃ q ∈ s.parts, d ∈ q.2.sites

def untold (s : State) : Untold where
  rest := { s with
    emitted := [], sessions := [], requests := [], tickets := [], waits := [], twin := Twin.reset, parts := [], guests := []
    hub0 := { s.hub0 with resends := 0 }, hub1 := { s.hub1 with resends := 0 } }
  held := siteHeld s
  gates := fun g => { getGuest s g with rules := [] }

/-! ### Control flow -/

@[simp] theorem untold_ite (c : Prop) [Decidable c] (s t : State) : untold (if c then s else t) = if c then untold s else untold t :=
  apply_ite untold c s t

@[simp] theorem untold_foldl {α : Type} {f : State → α → State} (hf : ∀ s a, untold (f s a) = untold s) (l : List α) (s : State) :
    untold (l.foldl f s) = untold s := by
  induction l generalizing s with
  | nil => rfl
  | cons a l ih => exact (ih _).trans (hf s a)

/-! ### Tables -/

theorem Tbl.mem_of_find {α : Type} {t : Tbl α} {k : Nat} {v : α} (h : Tbl.find t k = some v) : (k, v) ∈ t := by
  induction t with
  | nil => cases h
  | cons p t ih =>
    obtain ⟨j, w⟩ := p
    simp only [Tbl.find] at h
    split at h
    case isTrue e => cases h; exact e ▸ List.mem_cons_self
    case isFalse => exact List.mem_cons_of_mem _ (ih h)

/-- An entry put in the place of one that agrees with it under a predicate: the table holds the predicate's entries as before. -/
theorem Tbl.exists_put {α : Type} {P : α → Prop} {t : Tbl α} {k : Nat} {v d : α} (hd : ¬ P d) (hv : P v ↔ P (Tbl.get t k d)) :
    (∃ q ∈ Tbl.put t k v, P q.2) ↔ ∃ q ∈ t, P q.2 := by
  induction t with
  | nil => simpa [Tbl.put] using hv.not.mpr hd
  | cons p t ih =>
    obtain ⟨j, w⟩ := p
    simp only [Tbl.put]
    split
    case isTrue hlt =>
      constructor
      · rintro ⟨q, hq, hP⟩
        rcases List.mem_cons.mp hq with rfl | hq
        · cases hf : Tbl.find ((j, w) :: t) k with
          | none => exact absurd (by simpa [Tbl.get, hf] using hv.mp hP) hd
          | some x => exact ⟨_, Tbl.mem_of_find hf, by simpa [Tbl.get, hf] using hv.mp hP⟩
        · exact ⟨q, hq, hP⟩
      · rintro ⟨q, hq, hP⟩
        exact ⟨q, List.mem_cons_of_mem _ hq, hP⟩
    case isFalse hge =>
      split
      case isTrue e =>
        subst e
        have hw : P v ↔ P w := by simpa [Tbl.get, Tbl.find] using hv
        simp [hw]
      case isFalse hne =>
        have hget : Tbl.get ((j, w) :: t) k d = Tbl.get t k d := by simp [Tbl.get, Tbl.find, Ne.symm hne]
        simpa using or_congr_right (ih (hget ▸ hv))

/-! ### Partitions and guests -/

theorem siteHeld_setPart {s : State} {p : Nat} {q : Partition} (h : q.sites = (getPart s p).sites) : siteHeld (setPart s p q) = siteHeld s :=
  funext fun d => propext (Tbl.exists_put (P := fun q : Partition => d ∈ q.sites) (d := Partition.reset) (by simp [Partition.reset]) (by rw [h]; rfl))

theorem untold_setPart {s : State} {p : Nat} {q : Partition} (h : q.sites = (getPart s p).sites) : untold (setPart s p q) = untold s := by
  simp only [untold, siteHeld_setPart h]
  rfl

@[simp] theorem untold_modPart {s : State} {p : Nat} {f : Partition → Partition} (h : ∀ q, (f q).sites = q.sites) :
    untold (modPart s p f) = untold s := untold_setPart (h _)

theorem siteHeld_mapParts {s t : State} {f : Nat → Partition → Partition} (ht : t.parts = Tbl.map s.parts f)
    (hf : ∀ p q, (f p q).sites = q.sites) : siteHeld t = siteHeld s := by
  funext d
  simp [siteHeld, ht, Tbl.map, hf]

theorem Tbl.get_map {α β : Type} (t : Tbl α) (f : Nat → α → β) (k : Nat) (d : α) (e : β) (h : f k d = e) :
    Tbl.get (Tbl.map t f) k e = f k (Tbl.get t k d) := by
  unfold Tbl.get
  rw [Tbl.find_map]
  cases Tbl.find t k <;> simp [h]

@[simp] theorem untold_emit (s : State) (e : Emit) : untold (emit s e) = untold s := by rfl
@[simp] theorem untold_sendCtrl (s : State) (c sx sy dx dy b : Nat) : untold (sendCtrl s c sx sy dx dy b) = untold s := by rfl

theorem untold_modSess (s : State) (n : Nat) (f : Session → Session) : untold (modSess s n f) = untold s := by
  unfold modSess; split <;> rfl

theorem untold_modHub_resends (s : State) (h : Nat) (f : BitVec 16 → BitVec 16) :
    untold (modHub s h fun x => { x with resends := f x.resends }) = untold s := by
  unfold modHub setHub getHub; split <;> rfl

/-! ### Escrow and handles -/

theorem untold_launchFrame (s : State) (u : EscSent) : untold (launchFrame s u) = untold s := by
  unfold launchFrame
  extract_lets
  split <;> rfl

theorem untold_escrowLine (s : State) (kind key : Nat) (v : Line) : untold (escrowLine s kind key v) = untold s :=
  (untold_launchFrame _ _).trans rfl

@[simp] theorem untold_escrowSend (s : State) (kind key req : Nat) (b : Bytes) : untold (escrowSend s kind key req b) = untold s := by
  simp [escrowSend, untold_escrowLine]

@[simp] theorem untold_changeHandle (s : State) (p h : Nat) (d : Handle) : untold (changeHandle s p h d) = untold s :=
  (untold_emit _ _).trans (untold_setPart rfl)

@[simp] theorem untold_closeEverywhere (s : State) (p w : Nat) : untold (closeEverywhere s p w) = untold s := untold_setPart rfl

@[simp] theorem untold_startInval (s : State) (p h : Nat) : untold (startInval s p h) = untold s := untold_modPart fun _ => rfl

@[simp] theorem untold_invalidateHandle (s : State) (p h : Nat) : untold (invalidateHandle s p h) = untold s := by
  simp [invalidateHandle]

/-! ### The end of requests and sessions, messages -/

@[simp] theorem untold_closeRequest (s : State) (r : Nat) (st : Status) : untold (closeRequest s r st) = untold s := by
  unfold closeRequest
  split
  · rfl
  · simp
    rfl

@[simp] theorem untold_failLines (s : State) (l : List QpWrite) (st : Status) : untold (failLines s l st) = untold s := by
  simp [failLines]

/-- A session that ends takes rules from guest sites and closes windows. -/
@[simp] theorem untold_dropSession (s : State) (n : Nat) : untold (dropSession s n) = untold s := by
  unfold dropSession
  extract_lets s₁ out s₂ ps gs rs
  have h₂ : untold s₂ = untold s := by simp [s₂, s₁]
  rw [← h₂]
  clear_value s₂
  simp only [untold, Untold.mk.injEq, true_and]
  have hp : ps = Tbl.map s₂.parts _ := rfl
  refine ⟨siteHeld_mapParts hp fun _ _ => rfl, funext fun g => ?_⟩
  have hget : Tbl.get gs g Guest.reset = _ := Tbl.get_map s₂.guests _ g Guest.reset Guest.reset rfl
  simp only [getGuest, hget]

@[simp] theorem untold_sendMsg (s : State) (n port : Nat) (m : Msg) : untold (sendMsg s n port m) = untold s := by
  unfold sendMsg
  split
  · rfl
  · split
    · exact untold_dropSession s n
    · split <;> rfl

@[simp] theorem untold_sendCompletion (s : State) (r : Reply) (st : Status) (p : Bytes) (i re : Bool) :
    untold (sendCompletion s r st p i re) = untold s := untold_sendMsg ..

@[simp] theorem untold_complete (s : State) (r : Reply) (st : Status) (p : Bytes) : untold (complete s r st p) = untold s := by
  unfold complete
  split
  · rfl
  · split
    · rfl
    · exact (untold_sendCompletion ..).trans rfl

@[simp] theorem untold_sendEvent (s : State) (n e : Nat) : untold (sendEvent s n e) = untold s := by
  unfold sendEvent
  split
  · rfl
  · split
    · rfl
    · exact (untold_sendMsg ..).trans rfl

@[simp] theorem untold_eventTo (s : State) (n code : Nat) (b : Bytes) : untold (eventTo s n code b) = untold s := by
  unfold eventTo
  split
  · rfl
  · split
    · rfl
    · exact (untold_sendEvent ..).trans rfl

@[simp] theorem untold_postEvent (s : State) (code : Nat) (b : Bytes) : untold (postEvent s code b) = untold s := by
  simp [postEvent]

@[simp] theorem untold_faultEvent (s : State) (d p : Nat) (st : Status) (r : Nat) (x : Bytes) : untold (faultEvent s d p st r x) = untold s :=
  untold_postEvent ..
@[simp] theorem untold_powerEvent (s : State) (c h v : Nat) : untold (powerEvent s c h v) = untold s := untold_postEvent ..
@[simp] theorem untold_hubEvent (s : State) (h c : Nat) : untold (hubEvent s h c) = untold s := untold_postEvent ..
@[simp] theorem untold_guestEvent (s : State) (g c : Nat) (x : BitVec 16) : untold (guestEvent s g c x) = untold s := untold_postEvent ..
@[simp] theorem untold_dramEvent (s : State) (d c l h x : Nat) : untold (dramEvent s d c l h x) = untold s := untold_postEvent ..

/-! ### Streams -/

@[simp] theorem untold_postReceipt (s : State) (r : Request) (n : Nat) : untold (postReceipt s r n) = untold s := untold_eventTo ..

@[simp] theorem untold_requestDone (s : State) (n : Nat) : untold (requestDone s n) = untold s := by
  unfold requestDone
  split
  · rfl
  · simp
    exact fun _ => rfl

@[simp] theorem untold_rdmaSend (s : State) (n : Nat) (imm : Option (BitVec 32)) (va : Word) (rkey : BitVec 32) (p : Bytes) (x y c l : Nat) :
    untold (rdmaSend s n imm va rkey p x y c l) = untold s := by
  unfold rdmaSend
  split
  · split
    · extract_lets
      split <;> rfl
    · rfl
  · rfl

@[simp] theorem untold_transmit (s : State) (n q : Nat) : untold (transmit s n q) = untold s := by
  unfold transmit
  split
  · rfl
  · split
    · rfl
    · split
      · rfl
      · extract_lets p rd need at0 d' t' s₁ s₂ w m s₃
        have h₁ : untold s₁ = untold s := by
          unfold s₁
          rw [untold_ite, untold_modHub_resends (f := fun x => satAdd x 1), ite_self]
        have h₃ : untold s₃ = untold s₁ := by
          unfold s₃
          rw [untold_ite, untold_rdmaSend, untold_sendMsg, ite_self]
          rfl
        rw [untold_ite, untold_foldl untold_requestDone, ite_self, h₃, h₁]

@[simp] theorem untold_sendEach (n : Nat) (l : List Nat) (s : State) : untold (sendEach n l s) = untold s := by
  induction l generalizing s with
  | nil => rfl
  | cons q l ih =>
    unfold sendEach
    split
    · exact ih s
    · rw [untold_ite, ih, untold_transmit, ite_self]

@[simp] theorem untold_sendWaiting (s : State) (n : Nat) : untold (sendWaiting s n) = untold s := by
  unfold sendWaiting
  split
  · rfl
  · simp

@[simp] theorem untold_pushDatagram (s : State) (n : Nat) (b : List Bytes) : untold (pushDatagram s n b) = untold s := by
  unfold pushDatagram
  split
  · rfl
  · exact (untold_sendWaiting ..).trans rfl

@[simp] theorem untold_pushBlocks (s : State) (n : Nat) (b : List Bytes) : untold (pushBlocks s n b) = untold s := by simp [pushBlocks]

@[simp] theorem untold_pushOne (s : State) (r : Nat) (b : Bytes) : untold (pushOne s r b) = untold s := by
  unfold pushOne
  split
  · rfl
  · split
    · rfl
    · simp

@[simp] theorem untold_endRequest (s : State) (r : Nat) (st : Status) : untold (endRequest s r st) = untold s := by
  unfold endRequest
  split
  · rfl
  · simp

@[simp] theorem untold_resendAll (s : State) (n : Nat) : untold (resendAll s n) = untold s := by
  unfold resendAll
  split
  · rfl
  · simp

@[simp] theorem untold_movePort (s : State) (p : Nat) : untold (movePort s p) = untold s := by
  simp [movePort, untold_modSess]

@[simp] theorem untold_fenceUnjournaled (s : State) (h : Nat) : untold (fenceUnjournaled s h) = untold s := by simp [fenceUnjournaled]

end Sys2Proof.Machine
end

section
/-! PROOFS. Views of the panel: what the end of tasks and the loss of their memory leave alone. -/

namespace Sys2Proof.Machine

/-- Without the cores, clusters and jobs, their memory, the banks and the epoch. -/
def Untold.bare (u : Untold) : Untold := { u with rest := { u.rest with
  freeCtr := 0, mem := [], cores := [], clusters := [], bank0 := Bank.reset, bank1 := Bank.reset, epoch := Epoch.reset, jobs := [] } }

/-- What the end of tasks leaves alone. -/
def untasked (s : State) : Untold := (untold s).bare

theorem untasked_of_untold {s t : State} (h : untold t = untold s) : untasked t = untasked s := congrArg Untold.bare h

/-! ### Control flow -/

@[simp] theorem untasked_ite (c : Prop) [Decidable c] (s t : State) :
    untasked (if c then s else t) = if c then untasked s else untasked t := apply_ite untasked c s t

@[simp] theorem untasked_foldl {α : Type} {f : State → α → State} (hf : ∀ s a, untasked (f s a) = untasked s) (l : List α) (s : State) :
    untasked (l.foldl f s) = untasked s := by
  induction l generalizing s with
  | nil => rfl
  | cons a l ih => exact (ih _).trans (hf s a)

/-! ### Parts of the state -/

@[simp] theorem untasked_bumpFree (s : State) : untasked (bumpFree s) = untasked s := by rfl
@[simp] theorem untasked_emit (s : State) (e : Emit) : untasked (emit s e) = untasked s := by rfl
@[simp] theorem untasked_sendCtrl (s : State) (c sx sy dx dy b : Nat) : untasked (sendCtrl s c sx sy dx dy b) = untasked s := by rfl
@[simp] theorem untasked_setCore (s : State) (k : Nat) (c : Core) : untasked (setCore s k c) = untasked s := by rfl
@[simp] theorem untasked_modCore (s : State) (k : Nat) (f : Core → Core) : untasked (modCore s k f) = untasked s := by rfl
@[simp] theorem untasked_setCtx (s : State) (k n : Nat) (x : Ctx) : untasked (setCtx s k n x) = untasked s := by rfl
@[simp] theorem untasked_modCtx (s : State) (k n : Nat) (f : Ctx → Ctx) : untasked (modCtx s k n f) = untasked s := by rfl
@[simp] theorem untasked_modClu (s : State) (c : Nat) (f : Cluster → Cluster) : untasked (modClu s c f) = untasked s := by rfl
@[simp] theorem untasked_modPart {s : State} {p : Nat} {f : Partition → Partition} (h : ∀ q, (f q).sites = q.sites) :
    untasked (modPart s p f) = untasked s := untasked_of_untold (untold_modPart h)

/-! ### The end of a task -/

@[simp] theorem untasked_tellFiring (s : State) (k n : Nat) (x : Ctx) : untasked (tellFiring s k n x) = untasked s := by
  unfold tellFiring
  split
  · rw [untasked_ite]; exact ite_self _
  · rfl

@[simp] theorem untasked_ackFence (s : State) (cl : Nat) (p : CtrlPacket) : untasked (ackFence s cl p) = untasked s := by
  simp [ackFence, resetCtx]

@[simp] theorem untasked_ackFences (s : State) (cl : Nat) : untasked (ackFences s cl) = untasked s := by simp [ackFences]

@[simp] theorem untasked_noteTaskEnd (s : State) (k n : Nat) (t : BitVec 16) : untasked (noteTaskEnd s k n t) = untasked s := by
  unfold noteTaskEnd
  split
  · exact untasked_modPart fun _ => rfl
  · rfl

@[simp] theorem untasked_endTaskWith (keep : Bool) (s : State) (k n : Nat) (st : Status) (fs : List FaultRec) :
    untasked (endTaskWith keep s k n st fs) = untasked s := by
  simp [endTaskWith, abortAnswer, coreToHub]

@[simp] theorem untasked_endTask (s : State) (k n : Nat) (st : Status) (fs : List FaultRec) :
    untasked (endTask s k n st fs) = untasked s := untasked_endTaskWith ..

/-- A retire point ends the task, or its effects stand. -/
theorem untasked_retirePoint {s t : State} (h : untasked t = untasked s) (k n : Nat) (fs : List FaultRec) :
    untasked (retirePoint s k n fs t) = untasked s := by
  unfold retirePoint
  extract_lets
  split
  · exact untasked_endTaskWith ..
  · simp [h]

@[simp] theorem untasked_stopCtx (s : State) (k n : Nat) : untasked (stopCtx s k n) = untasked s := by
  unfold stopCtx
  rw [untasked_ite, untasked_retirePoint rfl]
  exact ite_self _

@[simp] theorem untasked_forgetAcks (s : State) (cl : Nat) : untasked (forgetAcks s cl) = untasked s := by rfl

@[simp] theorem untasked_stopCores (s : State) (cls : List Nat) : untasked (stopCores s cls) = untasked s := by simp [stopCores]

/-! ### Memory of cores -/

@[simp] theorem untasked_bankWord (s : State) (k w m v : Nat) : untasked (bankWord s k w m v) = untasked s := by
  unfold bankWord
  extract_lets put e
  have hput (t : State) : untasked (put t) = untasked t := rfl
  split
  · rfl
  · split
    · rfl
    · cases e with
      | none => rfl
      | some b => cases b <;> rfl

@[simp] theorem untasked_spmWriteLine (s : State) (k l m v : Nat) : untasked (spmWriteLine s k l m v) = untasked s := by
  simp [spmWriteLine, bankLine]

@[simp] theorem untasked_spmWrite (s : State) (k a n v : Nat) : untasked (spmWrite s k a n v) = untasked s := by simp [spmWrite]

@[simp] theorem untasked_undefineLine (s : State) (x : Option (Bool × Nat × Nat)) : untasked (undefineLine s x) = untasked s := by
  unfold undefineLine
  split
  · rfl
  · simp [spmArrive]
  · rfl

@[simp] theorem untasked_wipeCore (s : State) (k : Nat) : untasked (wipeCore s k) = untasked s := by
  unfold wipeCore
  extract_lets c lo t
  have ht : untasked t = untasked s := untasked_foldl (fun s n => untasked_noteTaskEnd ..) _ s
  exact ht

@[simp] theorem untasked_resetCore (s : State) (k : Nat) : untasked (resetCore s k) = untasked s := by simp [resetCore]

@[simp] theorem untasked_parkOff (s : State) (cl : Nat) : untasked (parkOff s cl) = untasked s := by simp [parkOff, parkCluster]

/-! ### Banks -/

@[simp] theorem untasked_writeBank (s : State) (ps : List Nat) : untasked (writeBank s ps) = untasked s := by
  unfold writeBank
  extract_lets b t
  have ht : untasked t = untasked s := by
    unfold t
    rw [untasked_ite]
    exact ite_self _
  exact ht

@[simp] theorem untasked_startEpoch (s : State) (ps : List Nat) : untasked (startEpoch s ps) = untasked s := by
  unfold startEpoch
  extract_lets e
  rw [untasked_ite, untasked_writeBank]
  exact ite_self _

@[simp] theorem untasked_tryAnnounce (s : State) : untasked (tryAnnounce s) = untasked s := by
  unfold tryAnnounce
  split <;> rfl

/-! ### What keeps memory -/

theorem foldl_mem {α : Type} {f : State → α → State} (hf : ∀ s a, (f s a).mem = s.mem) (l : List α) (s : State) :
    (l.foldl f s).mem = s.mem := by
  induction l generalizing s with
  | nil => rfl
  | cons a l ih => exact (ih _).trans (hf s a)

theorem noteTaskEnd_mem (s : State) (k n : Nat) (t : BitVec 16) : (noteTaskEnd s k n t).mem = s.mem := by
  unfold noteTaskEnd
  split <;> rfl

theorem tellFiring_mem (s : State) (k n : Nat) (x : Ctx) : (tellFiring s k n x).mem = s.mem := by
  unfold tellFiring
  split
  · split <;> rfl
  · rfl

theorem resetCtx_mem (s : State) (k n : Nat) : (resetCtx s k n).mem = s.mem := rfl

theorem ackFence_mem (s : State) (cl : Nat) (p : CtrlPacket) : (ackFence s cl p).mem = s.mem := by
  unfold ackFence
  extract_lets b k t
  have ht : t.mem = s.mem := by
    unfold t
    split
    · exact foldl_mem (fun s x => resetCtx_mem ..) _ s
    · rfl
  exact ht

theorem ackFences_mem (s : State) (cl : Nat) : (ackFences s cl).mem = s.mem := by
  unfold ackFences
  split
  · rfl
  · exact foldl_mem (fun s p => ackFence_mem s cl p) _ _

theorem endTaskWith_mem (keep : Bool) (s : State) (k n : Nat) (st : Status) (fs : List FaultRec) :
    (endTaskWith keep s k n st fs).mem = s.mem := by
  unfold endTaskWith
  extract_lets +onlyGivenNames c x hold x' x'₁ c₂ c₃ c₄ c₅ s₆ ans s₇ s₈ s₉ s₁₀
  have h₇ : s₇.mem = s.mem := foldl_mem (f := fun s a => abortAnswer s k n x.task ans a) (fun _ _ => rfl) _ s₆
  have h₈ : s₈.mem = s.mem := by unfold s₈; split <;> simp [tellFiring_mem, h₇]
  have h₉ : s₉.mem = s.mem := by unfold s₉; split <;> exact h₈
  have h₁₀ : s₁₀.mem = s.mem := (noteTaskEnd_mem ..).trans h₉
  split
  · exact (ackFences_mem ..).trans h₁₀
  · exact h₁₀

theorem retirePoint_mem {s t : State} (h : t.mem = s.mem) (k n : Nat) (fs : List FaultRec) : (retirePoint s k n fs t).mem = s.mem := by
  unfold retirePoint
  extract_lets
  split
  · exact endTaskWith_mem ..
  · split
    · exact endTaskWith_mem ..
    · split
      · exact endTaskWith_mem ..
      · exact h

theorem stopCtx_mem (s : State) (k n : Nat) : (stopCtx s k n).mem = s.mem := by
  unfold stopCtx
  extract_lets x t
  split
  · rfl
  · exact retirePoint_mem (s := t) rfl k n []

theorem stopCores_mem (s : State) (cls : List Nat) : (stopCores s cls).mem = s.mem := by
  unfold stopCores
  extract_lets t
  have ht : t.mem = s.mem := foldl_mem (fun s c => foldl_mem (fun s n => stopCtx_mem ..) _ s) _ s
  rw [← ht]
  refine foldl_mem (fun s c => ?_) _ _
  split <;> rfl

theorem startEpoch_mem (s : State) (ps : List Nat) : (startEpoch s ps).mem = s.mem := by
  unfold startEpoch writeBank
  simp only
  split
  · rfl
  · split <;> rfl

end Sys2Proof.Machine
end

section
/-! PROOFS. Views of the panel: what recovery leaves alone. -/

namespace Sys2Proof.Machine

/-- Power, hubs and bring-up: what no reset, replay or loss of a die changes. -/
structure Footing where
  half0 : Half
  half1 : Half
  stages : Tbl Stage
  boot : Boot
  lead : Nat
  up0 : Bool
  up1 : Bool

def footing (s : State) : Footing := ⟨s.half0, s.half1, s.stages, s.boot, s.lead, s.hub0.up, s.hub1.up⟩

theorem footing_of_untasked {s t : State} (h : untasked t = untasked s) : footing t = footing s :=
  congrArg (fun u : Untold => footing u.rest) h

theorem footing_of_untold {s t : State} (h : untold t = untold s) : footing t = footing s := footing_of_untasked (untasked_of_untold h)

/-! ### Control flow -/

@[simp] theorem footing_ite (c : Prop) [Decidable c] (s t : State) : footing (if c then s else t) = if c then footing s else footing t :=
  apply_ite footing c s t

@[simp] theorem footing_foldl {α : Type} {f : State → α → State} (hf : ∀ s a, footing (f s a) = footing s) (l : List α) (s : State) :
    footing (l.foldl f s) = footing s := by
  induction l generalizing s with
  | nil => rfl
  | cons a l ih => exact (ih _).trans (hf s a)

/-! ### Parts of the state -/

@[simp] theorem footing_bumpFree (s : State) : footing (bumpFree s) = footing s := by rfl
@[simp] theorem footing_emit (s : State) (e : Emit) : footing (emit s e) = footing s := by rfl
@[simp] theorem footing_sendCtrl (s : State) (c sx sy dx dy b : Nat) : footing (sendCtrl s c sx sy dx dy b) = footing s := by rfl
@[simp] theorem footing_modCore (s : State) (k : Nat) (f : Core → Core) : footing (modCore s k f) = footing s := by rfl
@[simp] theorem footing_setCtx (s : State) (k n : Nat) (x : Ctx) : footing (setCtx s k n x) = footing s := by rfl
@[simp] theorem footing_modCtx (s : State) (k n : Nat) (f : Ctx → Ctx) : footing (modCtx s k n f) = footing s := by rfl
@[simp] theorem footing_modClu (s : State) (c : Nat) (f : Cluster → Cluster) : footing (modClu s c f) = footing s := by rfl
@[simp] theorem footing_modDie (s : State) (d : Nat) (f : Die → Die) : footing (modDie s d f) = footing s := by rfl
@[simp] theorem footing_setPart (s : State) (p : Nat) (q : Partition) : footing (setPart s p q) = footing s := by rfl
@[simp] theorem footing_modPart (s : State) (p : Nat) (f : Partition → Partition) : footing (modPart s p f) = footing s := by rfl
@[simp] theorem footing_modJob (s : State) (j : Nat) (f : Job → Job) : footing (modJob s j f) = footing s := by rfl
@[simp] theorem footing_modGuest (s : State) (g : Nat) (f : Guest → Guest) : footing (modGuest s g f) = footing s := by rfl
@[simp] theorem footing_vaultPut (s : State) (t k : Nat) (b : Bytes) (x : Bool) : footing (vaultPut s t k b x) = footing s := by rfl
@[simp] theorem footing_vaultRedundancy (s : State) (k d c x i v : Nat) : footing (vaultRedundancy s k d c x i v) = footing s := by rfl
@[simp] theorem footing_noteRung (s : State) (r : Nat) : footing (noteRung s r) = footing s := by rfl

/-! ### Messages and tasks -/

@[simp] theorem footing_faultEvent (s : State) (d p : Nat) (st : Status) (r : Nat) (x : Bytes) :
    footing (faultEvent s d p st r x) = footing s := footing_of_untold (untold_faultEvent ..)
@[simp] theorem footing_powerEvent (s : State) (c h v : Nat) : footing (powerEvent s c h v) = footing s :=
  footing_of_untold (untold_powerEvent ..)
@[simp] theorem footing_hubEvent (s : State) (h c : Nat) : footing (hubEvent s h c) = footing s := footing_of_untold (untold_hubEvent ..)
@[simp] theorem footing_guestEvent (s : State) (g c : Nat) (x : BitVec 16) : footing (guestEvent s g c x) = footing s :=
  footing_of_untold (untold_guestEvent ..)
@[simp] theorem footing_dramEvent (s : State) (d c l h x : Nat) : footing (dramEvent s d c l h x) = footing s :=
  footing_of_untold (untold_dramEvent ..)
@[simp] theorem footing_complete (s : State) (r : Reply) (st : Status) (p : Bytes) : footing (complete s r st p) = footing s :=
  footing_of_untold (untold_complete ..)
@[simp] theorem footing_endRequest (s : State) (r : Nat) (st : Status) : footing (endRequest s r st) = footing s :=
  footing_of_untold (untold_endRequest ..)
@[simp] theorem footing_noteTaskEnd (s : State) (k n : Nat) (t : BitVec 16) : footing (noteTaskEnd s k n t) = footing s :=
  footing_of_untasked (untasked_noteTaskEnd ..)
@[simp] theorem footing_stopCores (s : State) (l : List Nat) : footing (stopCores s l) = footing s :=
  footing_of_untasked (untasked_stopCores ..)
@[simp] theorem footing_spmWrite (s : State) (k a n v : Nat) : footing (spmWrite s k a n v) = footing s :=
  footing_of_untasked (untasked_spmWrite ..)
@[simp] theorem footing_undefineLine (s : State) (x : Option (Bool × Nat × Nat)) : footing (undefineLine s x) = footing s :=
  footing_of_untasked (untasked_undefineLine ..)
@[simp] theorem footing_resetCore (s : State) (k : Nat) : footing (resetCore s k) = footing s := footing_of_untasked (untasked_resetCore ..)
@[simp] theorem footing_parkOff (s : State) (cl : Nat) : footing (parkOff s cl) = footing s := footing_of_untasked (untasked_parkOff ..)
@[simp] theorem footing_startEpoch (s : State) (l : List Nat) : footing (startEpoch s l) = footing s :=
  footing_of_untasked (untasked_startEpoch ..)
@[simp] theorem footing_tryAnnounce (s : State) : footing (tryAnnounce s) = footing s := footing_of_untasked (untasked_tryAnnounce s)

/-! ### Launching and numbering -/

@[simp] theorem footing_loadBytes (s : State) (k a : Nat) (b : Bytes) : footing (loadBytes s k a b) = footing s := by simp [loadBytes]

@[simp] theorem footing_launchCtx (s : State) (p k n a : Nat) (b : Bytes) : footing (launchCtx s p k n a b) = footing s := by
  simp [launchCtx, loadData]

@[simp] theorem footing_launchCore (s : State) (p k : Nat) : footing (launchCore s p k) = footing s := by
  unfold launchCore
  extract_lets t
  have ht : footing t = footing s := by simp [t, writeUnits]
  rw [← ht]
  refine footing_foldl (fun s x => ?_) _ t
  split
  · simp
  · rfl

@[simp] theorem footing_relaunchPart (s : State) (p : Nat) : footing (relaunchPart s p) = footing s := by simp [relaunchPart, launchPart]

@[simp] theorem footing_setNumbering (s : State) (p : Nat) : footing (setNumbering s p) = footing s := by rfl

@[simp] theorem footing_renumber (s : State) (p : Nat) : footing (renumber s p) = footing s := by simp [renumber, buildDist]

@[simp] theorem footing_renumberAfter (s : State) (p : Nat) (b : Bool) : footing (renumberAfter s p b) = footing s := by
  simp [renumberAfter]

@[simp] theorem footing_renumberNow (s : State) (p : Nat) : footing (renumberNow s p) = footing s := by
  unfold renumberNow
  split
  · rfl
  · simp

/-! ### Guest sites and the alert -/

@[simp] theorem footing_answerGuest (s : State) (g : Nat) (r : GuestReq) (st : Status) (v : Option Line) :
    footing (answerGuest s g r st v) = footing s := by simp [answerGuest, sendPlp]

@[simp] theorem footing_fenceSite (s : State) (g c : Nat) : footing (fenceSite s g c) = footing s := by
  simp [fenceSite, sendNotice, sendPlp]

@[simp] theorem footing_dropWant (s : State) (g : Nat) : footing (dropWant s g) = footing s := by
  unfold dropWant
  extract_lets
  split
  · simp
  · rfl

@[simp] theorem footing_closeSites (s : State) (l : List Nat) : footing (closeSites s l) = footing s := by simp [closeSites, fenceClosed]

theorem footing_setHub {s : State} {h : Nat} {x : Hub} (hx : x.up = (getHub s h).up) : footing (setHub s h x) = footing s := by
  unfold setHub
  unfold getHub at hx
  split
  · next h0 => simp [footing, hx, h0]
  · next h0 => simp [footing, hx, h0]

@[simp] theorem footing_raiseAlert (s : State) : footing (raiseAlert s) = footing s := by
  refine footing_foldl (fun s h => ?_) _ s
  extract_lets x t
  have ht : footing t = footing s := (footing_emit _ _).trans (footing_setHub rfl)
  simp [ht]

/-! ### The safe state -/

@[simp] theorem footing_enterSafe (s : State) (c : Nat) : footing (enterSafe s c) = footing s := by
  unfold enterSafe
  split
  · rfl
  · extract_lets s₁ v s₂ s₃ s₄ s₅
    have h₁ : footing s₁ = footing s := footing_raiseAlert _
    rw [← h₁]
    clear_value s₁
    have h₂ : footing s₂ = footing s₁ := rfl
    have h₄ : footing s₄ = footing s₂ := by simp [s₄, s₃]
    rw [← h₂, ← h₄]
    clear_value s₄
    exact footing_foldl footing_parkOff _ s₅

@[simp] theorem footing_requestPowerCycle (s : State) : footing (requestPowerCycle s) = footing s := by
  simp [requestPowerCycle]
  exact fun _ => rfl

@[simp] theorem footing_countReset (s : State) : footing (countReset s) = footing s := by
  simp [countReset]
  rfl

/-! ### Channels and steps of a job -/

@[simp] theorem footing_resetChans (s : State) (p : Nat) : footing (resetChans s p) = footing s := by
  simp [resetChans]
  rfl

@[simp] theorem footing_resetJobChans (s : State) (j : Nat) : footing (resetJobChans s j) = footing s := by simp [resetJobChans]

@[simp] theorem footing_resetFenced (s : State) (j : Nat) : footing (resetFenced s j) = footing s := by simp [resetFenced]

@[simp] theorem footing_quitSteps (s : State) (j : Nat) : footing (quitSteps s j) = footing s := by simp [quitSteps, dropSteps]

@[simp] theorem footing_recompute (s : State) (r : Nat) : footing (recompute s r) = footing s := by
  unfold recompute
  split
  · rfl
  · split
    · rfl
    · extract_lets t
      have ht : footing t = footing s := by
        unfold t
        split
        · rfl
        · rfl
      exact ht

@[simp] theorem footing_recomputeJob (s : State) (j : Nat) : footing (recomputeJob s j) = footing s := by simp [recomputeJob]

@[simp] theorem footing_fenceFor (s : State) (j cl c m e p : Nat) : footing (fenceFor s j cl c m e p) = footing s := by rfl

@[simp] theorem footing_fenceWaitsEnd (s : State) (l : List Nat) : footing (fenceWaitsEnd s l) = footing s := by
  simp [fenceWaitsEnd]
  rfl

@[simp] theorem footing_fenceEnded (s : State) (p : Nat) : footing (fenceEnded s p) = footing s := by
  unfold fenceEnded
  split
  · rfl
  · extract_lets s₁ s₂
    have h₂ : footing s₂ = footing s := by
      unfold s₂
      split
      · simp [s₁]
      · rfl
    split
    · exact h₂
    · simp only [footing_ite, footing_complete]
      exact (ite_self _).trans h₂

/-! ### Losses -/

@[simp] theorem footing_noSpare (s : State) (p : Nat) : footing (noSpare s p) = footing s := by simp [noSpare, fencePart]

@[simp] theorem footing_requestWake (s : State) (cl : Nat) : footing (requestWake s cl) = footing s := by simp [requestWake]

@[simp] theorem footing_replaceDie (s : State) (p d : Nat) : footing (replaceDie s p d) = footing s := by
  unfold replaceDie
  split
  · simp
  · extract_lets s₁ s₂ s₃ s₄ move units s₅
    have h₄ : footing s₄ = footing s := by simp [s₄, s₃, s₂, s₁]
    rw [← h₄]
    clear_value s₄
    rfl

@[simp] theorem footing_losePartDies (s : State) (p : Nat) (l : List Nat) (d : Nat) : footing (losePartDies s p l d) = footing s := by
  simp [losePartDies]

@[simp] theorem footing_loseDies (s : State) (l : List Nat) (d : Nat) : footing (loseDies s l d) = footing s := by simp [loseDies]

theorem footing_relocated (s : State) (p : Nat) (u : Option (Tbl (List Nat))) : footing (relocated s p u).1 = footing s := by
  unfold relocated
  split <;> rfl

@[simp] theorem footing_relocateCluster (s : State) (p cl : Nat) : footing (relocateCluster s p cl).1 = footing s := footing_relocated ..

@[simp] theorem footing_loseCluster (s : State) (cl : Nat) (b : Bool) : footing (loseCluster s cl b) = footing s := by
  unfold loseCluster
  extract_lets waking s₁ s₂ s₃
  have h₃ : footing s₃ = footing s := by simp [s₃, s₂, s₁, nextWake]
  rw [← h₃]
  clear_value s₃
  split
  · rfl
  · split
    · simp
    · split
      next t ok e =>
        have ht : footing t = footing s₃ := by rw [← footing_relocateCluster s₃, e]
        simp [ht]

/-! ### Leaving service between steps -/

@[simp] theorem footing_unfenceCtx (s : State) (k n : Nat) : footing (unfenceCtx s k n) = footing s := by simp [unfenceCtx]

@[simp] theorem footing_realign (s : State) (cl : Nat) : footing (realign s cl) = footing s := by
  simp [realign, sendFence]
  rfl

@[simp] theorem footing_leaveService (s : State) (p : Nat) : footing (leaveService s p) = footing s := by
  unfold leaveService
  split
  · rfl
  · extract_lets cls s₁ back s₂ s₃ gone s₄
    have h₁ : footing s₁ = footing s := rfl
    have h₃ : footing s₃ = footing s₁ := by simp [s₃, s₂]
    have h₄ : footing s₄ = footing s₃ := footing_foldl (fun s cl => by split <;> simp) _ _
    simp [h₁, h₃, h₄]

@[simp] theorem footing_leaveIfIdle (s : State) (cl : Nat) : footing (leaveIfIdle s cl) = footing s := by
  unfold leaveIfIdle
  split
  · simp
  · rfl

/-! ### Channels -/

@[simp] theorem footing_putBad (s : State) (cl i : Nat) (b : Option BadLine) : footing (putBad s cl i b) = footing s := by rfl

@[simp] theorem footing_promote (s : State) (cl l : Nat) : footing (promote s cl l) = footing s := by
  unfold promote
  extract_lets +onlyGivenNames u bank row mine
  split
  · rfl
  · split
    · rfl
    · extract_lets +onlyGivenNames done pend
      split
      · rfl
      · simp

@[simp] theorem footing_remap (s : State) (cl l c : Nat) (b : Bool) : footing (remap s cl l c b) = footing s := by
  unfold remap
  extract_lets +onlyGivenNames u
  split
  · rfl
  · extract_lets +onlyGivenNames entry
    split
    · simp
    · simp [exhaust]

@[simp] theorem footing_noteErr (s : State) (cl l n : Nat) : footing (noteErr s cl l n) = footing s := by rfl

@[simp] theorem footing_readDecoded (s : State) (cl l : Nat) (r : ArrayRead) : footing (readDecoded s cl l r).1 = footing s := by
  simp [readDecoded]

@[simp] theorem footing_demandUe (s : State) (cl l : Nat) : footing (demandUe s cl l) = footing s := by simp [demandUe]

@[simp] theorem footing_demandRead (s : State) (cl l : Nat) (r : ArrayRead) : footing (demandRead s cl l r).1 = footing s := by
  unfold demandRead
  have h := footing_readDecoded s cl l r
  split
  · next t v k e =>
    have ht : footing t = footing s := by rw [← h, e]
    split
    · extract_lets u
      have hu : footing u = footing t := (footing_remap ..).trans rfl
      split
      · exact hu.trans ht
      · exact hu.trans ht
    · exact ht
  · next t e =>
    rw [footing_demandUe, ← h, e]

@[simp] theorem footing_commitLine (s : State) (cl l : Nat) (v : Line) : footing (commitLine s cl l v) = footing s := by
  unfold commitLine
  extract_lets +onlyGivenNames s₁ u
  split
  · rfl
  · extract_lets +onlyGivenNames s₂
    split
    · rfl
    · split <;> rfl

@[simp] theorem footing_holdAt (s : State) (cl : Nat) (w : OuterRequest) : footing (holdAt s cl w) = footing s := by rfl

@[simp] theorem footing_hubWrite (s : State) (cl o : Nat) (b : Bytes) : footing (hubWrite s cl o b) = footing s := by
  simp [hubWrite, putBytes]

@[simp] theorem footing_hubRead (s : State) (cl l : Nat) : footing (hubRead s cl l).1 = footing s := by simp [hubRead]

@[simp] theorem footing_hubReads (s : State) (cl : Nat) (l : List Nat) : footing (hubReads s cl l).1 = footing s := by
  unfold hubReads
  suffices h : ∀ acc : State × Option (List Line), footing (l.foldl (fun acc l => match hubRead acc.1 cl l with
      | (s, some v) => (s, acc.2.map fun vs => vs ++ [v])
      | (s, none) => (s, none)) acc).1 = footing acc.1 from h (s, some [])
  induction l with
  | nil => exact fun _ => rfl
  | cons a l ih =>
    intro acc
    refine (ih _).trans ?_
    rw [← footing_hubRead acc.1 cl a]
    rcases hr : hubRead acc.1 cl a with ⟨t, v⟩
    cases v <;> simp [hr]

/-! ### Slots and steps -/

@[simp] theorem footing_writeBuf (s : State) (p h o : Nat) (b : Bytes) : footing (writeBuf s p h o b) = footing s := by
  unfold writeBuf
  extract_lets q d
  split
  · rfl
  · split
    · split
      · simp
      · rfl
    · simp

@[simp] theorem footing_writeSlot (s : State) (j r : Nat) : footing (writeSlot s j r) = footing s := by
  unfold writeSlot
  split
  · rfl
  · split
    · rfl
    · refine (footing_foldl (fun s p => ?_) _ _).trans rfl
      split
      · rfl
      · simp

@[simp] theorem footing_assignSlots (s : State) (j : Nat) (b : Bool) : footing (assignSlots s j b) = footing s := by
  refine footing_foldl (fun s r => ?_) _ s
  dsimp only
  split
  · rfl
  · split <;> rfl

@[simp] theorem footing_clearVacated (s : State) (j : Nat) (b : Bool) : footing (clearVacated s j b) = footing s := by
  refine (footing_foldl (fun s p => ?_) _ _).trans (footing_modJob s j _)
  split
  · simp
  · rfl

@[simp] theorem footing_writeGroup (s : State) (j : Nat) (b : Bool) : footing (writeGroup s j b) = footing s := by simp [writeGroup]

@[simp] theorem footing_beginStep (s : State) (j : Nat) : footing (beginStep s j) = footing s := by
  unfold beginStep
  split
  · rfl
  · extract_lets s₁ ks fresh s₂
    have h₁ : footing s₁ = footing s := by simp [s₁, restorePred]
    exact (footing_foldl (fun s p => footing_modPart ..) _ s₂).trans h₁

@[simp] theorem footing_kickJob (s : State) (j : Nat) : footing (kickJob s j) = footing s := by simp [kickJob]

/-! ### Resets and abandonment -/

@[simp] theorem footing_rewriteRange (s : State) (p h : Nat) : footing (rewriteRange s p h) = footing s := by simp [rewriteRange]

@[simp] theorem footing_readMaps (s : State) (p : Nat) : footing (readMaps s p) = footing s := by
  refine footing_foldl (fun s h => ?_) _ s
  dsimp only
  simp

@[simp] theorem footing_awaitReset (s : State) (p : Nat) (r : Reply) : footing (awaitReset s p r) = footing s := by
  unfold awaitReset
  split
  · rfl
  · simp

@[simp] theorem footing_finishReset (s : State) (p : Nat) : footing (finishReset s p) = footing s := by
  unfold finishReset
  extract_lets r s₁ s₂ s₃
  have h₃ : footing s₃ = footing s := by simp [s₃, s₂, s₁, unfencePart]
  cases r with
  | none => exact h₃
  | some r => exact (footing_complete ..).trans h₃

@[simp] theorem footing_resetCluster (s : State) (cl : Nat) : footing (resetCluster s cl) = footing s := by simp [resetCluster, recalDone]

@[simp] theorem footing_resetPartition (s : State) (p : Nat) : footing (resetPartition s p) = footing s := by
  unfold resetPartition
  extract_lets q j s₁ s₂ s₃ ks live s₄ s₅ s₆ s₇ s₈ s₉
  have h₅ : footing s₅ = footing s := by simp [s₅, s₄, s₃, s₂, s₁, fencePart]
  have h₆ : footing s₆ = footing s₅ := rfl
  have h₉ : footing s₉ = footing s := by simp [s₉, s₈, s₇, h₆, h₅]
  split
  · simp [h₉]
  · exact h₉

@[simp] theorem footing_replayLimit (s : State) (j : Nat) (b : Bool) : footing (replayLimit s j b).1 = footing s := by simp [replayLimit]

@[simp] theorem footing_hubAbort (s : State) (j : Nat) (x : Nat × Nat) : footing (hubAbort s j x) = footing s := by rfl

@[simp] theorem footing_dropReleases (s : State) (j : Nat) : footing (dropReleases s j) = footing s := by rfl

@[simp] theorem footing_loseGroup (s : State) (j : Nat) (b : Bool) : footing (loseGroup s j b) = footing s := by simp [loseGroup]

@[simp] theorem footing_abandonGroups (s : State) (j : Nat) : footing (abandonGroups s j).1 = footing s := by
  unfold abandonGroups
  split
  · extract_lets x split_ cls s₁ s₂ aOpen bOpen s₃ s₄ s₅ s₆ s₇
    have h₇ : footing s₇ = footing s := by simp [s₇, s₆, s₅, s₄, s₃, s₂, s₁]
    rw [← h₇]
    clear_value s₇
    have hlimit (t : State) (c b : Bool) : footing (if c then replayLimit t j b else (t, false)).1 = footing t := by
      split
      · simp
      · rfl
    split
    next s₈ hitA e₈ =>
    split
    next s₉ hitB e₉ =>
    calc footing s₉ = footing s₈ := by rw [← hlimit s₈, e₉]
      _ = footing s₇ := by rw [← hlimit s₇, e₈]
  · rfl

@[simp] theorem footing_resetJob (s : State) (j : Nat) : footing (resetJob s j) = footing s := by simp [resetJob, countOnce]

@[simp] theorem footing_abandonStep (s : State) (j : Nat) : footing (abandonStep s j) = footing s := by
  unfold abandonStep
  have h := footing_abandonGroups s j
  split
  · next e => rw [footing_resetJob, ← h, e]
  · next e => rw [← h, e]

@[simp] theorem footing_emptyHalf (s : State) (h : Nat) : footing (emptyHalf s h) = footing s := by simp [emptyHalf]

end Sys2Proof.Machine
end

section
/-! PROOFS. Rules of the power state: halves, stages, dies, and a die that goes dark. -/

namespace Sys2Proof.Machine

/-! ### Reports -/

@[simp] theorem withReports_self (s : State) : withReports s s = s := by simp [withReports]

theorem report_of_eq {s t u : State} (h : t = u) : report s t = .next (withReports s u) := h ▸ rfl

theorem report_same {s t : State} (h : t = s) : report s t = .next s := by rw [report, h, withReports_self]

/-! ### Halves -/

@[simp] theorem getHalf_modHalf_self (s : State) (h : Nat) (f : Half → Half) : getHalf (modHalf s h f) h = f (getHalf s h) := by
  unfold modHalf setHalf getHalf; split <;> rfl

theorem getHalf_modHalf_other (s : State) {h : Nat} (hh : h < 2) (f : Half → Half) : getHalf (modHalf s h f) (1 - h) = getHalf s (1 - h) := by
  unfold modHalf setHalf getHalf
  obtain rfl | rfl : h = 0 ∨ h = 1 := by omega
  · rfl
  · rfl

theorem modHalf_eq (s : State) (h : Nat) (f : Half → Half) : ∃ a b, modHalf s h f = { s with half0 := a, half1 := b } := by
  unfold modHalf setHalf
  split <;> exact ⟨_, _, rfl⟩

theorem getHalf_of_footing {s t : State} (h : footing t = footing s) (k : Nat) : getHalf t k = getHalf s k := by
  have h0 : t.half0 = s.half0 := congrArg Footing.half0 h
  have h1 : t.half1 = s.half1 := congrArg Footing.half1 h
  simp only [getHalf, h0, h1]

theorem stages_of_footing {s t : State} (h : footing t = footing s) : t.stages = s.stages := congrArg Footing.stages h

/-! ### Stages -/

@[simp] theorem getStage_modStage_self (s : State) (n : Nat) (f : Stage → Stage) : getStage (modStage s n f) n = f (getStage s n) :=
  Tbl.get_put_self ..

theorem getStage_modStage_ne (s : State) {m n : Nat} (f : Stage → Stage) (h : m ≠ n) : getStage (modStage s n f) m = getStage s m :=
  Tbl.get_put_ne _ _ _ _ _ h

theorem getStage_of_stages {s t : State} (h : t.stages = s.stages) (n : Nat) : getStage t n = getStage s n := by rw [getStage, h, getStage]

theorem foldl_modStage_eq (f : Stage → Stage) (l : List Nat) (s : State) :
    ∃ st, l.foldl (fun s j => modStage s j f) s = { s with stages := st } := by
  induction l generalizing s with
  | nil => exact ⟨_, rfl⟩
  | cons j l ih => exact ih (modStage s j f)

/-- A change made of each stage listed. -/
theorem getStage_foldl_modStage (f : Stage → Stage) {l : List Nat} (hl : l.Nodup) (s : State) (n : Nat) :
    getStage (l.foldl (fun s j => modStage s j f) s) n = if n ∈ l then f (getStage s n) else getStage s n := by
  induction l generalizing s with
  | nil => rfl
  | cons j l ih =>
    obtain ⟨hj, hl⟩ := List.nodup_cons.mp hl
    rw [List.foldl_cons, ih hl]
    by_cases hn : n = j
    · subst hn; simp [hj]
    · simp [hn, getStage_modStage_ne s f hn]

theorem mem_stagesOf {h j : Nat} : j ∈ stagesOf h ↔ j / 40 = h := by
  simp only [stagesOf, List.mem_map, List.mem_range]
  exact ⟨by rintro ⟨i, hi, rfl⟩; omega, fun e => ⟨j - 40 * h, by omega, by omega⟩⟩

theorem nodup_stagesOf (h : Nat) : (stagesOf h).Nodup := List.nodup_range.map fun a b (e : 40 * h + a = 40 * h + b) => by omega

theorem mem_sitesOf {h d : Nat} : d ∈ sitesOf h ↔ d / 80 = h := by
  simp only [sitesOf, List.mem_map, List.mem_range]
  exact ⟨by rintro ⟨i, hi, rfl⟩; omega, fun e => ⟨d - 80 * h, by omega, by omega⟩⟩

/-! ### Dies -/

@[simp] theorem getDie_modDie_self (s : State) (d : Nat) (f : Die → Die) : getDie (modDie s d f) d = f (getDie s d) := getDie_setDie ..

theorem getDie_modDie_ne (s : State) {d e : Nat} (f : Die → Die) (h : e ≠ d) : getDie (modDie s d f) e = getDie s e :=
  Tbl.get_put_ne _ _ _ _ _ h

theorem getDie_modDie (s : State) (d e : Nat) (f : Die → Die) : getDie (modDie s d f) e = if e = d then f (getDie s e) else getDie s e := by
  split
  · next h => subst h; simp
  · next h => exact getDie_modDie_ne s f h

theorem getDie_of_untasked {s t : State} (h : untasked t = untasked s) (d : Nat) : getDie t d = getDie s d := by
  have hd : t.dies = s.dies := congrArg (fun u : Untold => u.rest.dies) h
  rw [getDie, hd, getDie]

theorem stages_of_untasked {s t : State} (h : untasked t = untasked s) : t.stages = s.stages := congrArg (fun u : Untold => u.rest.stages) h

theorem vault_of_untasked {s t : State} (h : untasked t = untasked s) : t.vault = s.vault := congrArg (fun u : Untold => u.rest.vault) h

theorem siteHeld_of_untasked {s t : State} (h : untasked t = untasked s) : siteHeld t = siteHeld s := congrArg Untold.held h

theorem partOfSite_none {s : State} {d : Nat} : partOfSite s d = none ↔ ¬ siteHeld s d := by
  simp [partOfSite, siteHeld]

/-! ### Memory -/

/-- Cells kept by address alone. -/
theorem Mem.read_filter (p : Nat → Bool) (m : List Host.Cell) (a : Nat) :
    Mem.read (m.filter fun c => p c.1) a = if p a then Mem.read m a else Mem.unlisted := by
  induction m with
  | nil => simp [Mem.read]
  | cons c m ih =>
    obtain ⟨j, b⟩ := c
    by_cases hj : j = a
    · subst hj
      by_cases hp : p j <;> simp [hp, Mem.read, ih]
    · by_cases hp : p j <;> simp [hp, Mem.read, hj, ih]

/-- The scratchpad of a core is memory of its die. -/
theorem ofDie_of_spm {k a : Nat} (hlo : spmAddr k 0 ≤ a) (hhi : a < spmAddr k 0 + 65536) : ofDie (siteOf k) a = true := by
  have h : spmAddr (4096 * (k / 4096)) 0 ≤ a ∧ a < spmAddr (4096 * (k / 4096 + 1)) 0 := by unfold spmAddr at *; omega
  simp [ofDie, siteOf, h]

/-- A core's memory is wiped: memory outside its die reads as before. -/
theorem read_wipeCore {s : State} {k a : Nat} (h : ofDie (siteOf k) a = false) : Mem.read (wipeCore s k).mem a = Mem.read s.mem a := by
  unfold wipeCore
  extract_lets c lo t
  have ht : t.mem = s.mem := foldl_mem (fun s n => noteTaskEnd_mem ..) _ s
  have hout : (!(decide (lo ≤ a) && decide (a < lo + 65536))) = true := by
    by_contra hin
    simp only [Bool.not_eq_true, Bool.not_eq_false', Bool.and_eq_true, decide_eq_true_eq] at hin
    simp [ofDie_of_spm hin.1 hin.2] at h
  refine (Mem.read_filter (fun a => !(decide (lo ≤ a) && decide (a < lo + 65536))) t.mem a).trans ?_
  rw [if_pos hout, ht]

theorem read_foldl_wipeCore {l : List (Nat × Core)} {d a : Nat} (hl : ∀ c ∈ l, siteOf c.1 = d) (h : ofDie d a = false) (s : State) :
    Mem.read (l.foldl (fun s c => wipeCore s c.1) s).mem a = Mem.read s.mem a := by
  induction l generalizing s with
  | nil => rfl
  | cons c l ih =>
    obtain ⟨hc, hl⟩ := List.forall_mem_cons.mp hl
    rw [List.foldl_cons, ih hl, read_wipeCore (hc ▸ h)]

/-! ### A die that goes dark -/

theorem foldl_modClu_mem (f : Cluster → Cluster) (l : List Nat) (s : State) : (l.foldl (fun s c => modClu s c f) s).mem = s.mem :=
  foldl_mem (f := fun s c => modClu s c f) (fun _ _ => rfl) l s

/-- What is left of a die without power. -/
def Die.darkened (x : Die) : Die := { x with dark := true, fenced := true, wakes := [] }

@[simp] theorem untasked_darkDie (s : State) (d : Nat) (st : BitVec 2) : untasked (darkDie s d st) = untasked (modDie s d Die.darkened) := by
  unfold darkDie
  extract_lets s₁ s₂ s₃
  have h₂ : untasked s₂ = untasked s₁ := untasked_foldl (fun _ _ => untasked_modClu ..) _ s₁
  have h₃ : untasked s₃ = untasked s₂ := untasked_foldl (fun _ _ => untasked_wipeCore ..) _ s₂
  have h₁ : untasked s₁ = untasked (modDie s d Die.darkened) := rfl
  rw [← h₁, ← h₂, ← h₃]
  clear_value s₃
  rfl

theorem getDie_darkDie (s : State) (d e : Nat) (st : BitVec 2) :
    getDie (darkDie s d st) e = if e = d then (getDie s e).darkened else getDie s e :=
  (getDie_of_untasked (untasked_darkDie s d st) e).trans (getDie_modDie ..)

@[simp] theorem footing_darkDie (s : State) (d : Nat) (st : BitVec 2) : footing (darkDie s d st) = footing s :=
  (footing_of_untasked (untasked_darkDie s d st)).trans rfl

theorem stages_darkDie (s : State) (d : Nat) (st : BitVec 2) : (darkDie s d st).stages = s.stages := stages_of_footing (footing_darkDie s d st)

theorem vault_darkDie (s : State) (d : Nat) (st : BitVec 2) : (darkDie s d st).vault = s.vault :=
  (vault_of_untasked (untasked_darkDie s d st)).trans rfl

theorem siteHeld_darkDie (s : State) (d : Nat) (st : BitVec 2) : siteHeld (darkDie s d st) = siteHeld s :=
  (siteHeld_of_untasked (untasked_darkDie s d st)).trans rfl

/-- The memory of a dark die is empty, all other memory as before. -/
theorem read_darkDie (s : State) (d a : Nat) (st : BitVec 2) :
    Mem.read (darkDie s d st).mem a = if ofDie d a then Mem.unlisted else Mem.read s.mem a := by
  unfold darkDie
  extract_lets s₁ s₂ s₃
  have h₂ : s₂.mem = s₁.mem := foldl_modClu_mem _ _ s₁
  refine (Mem.read_filter (fun a => !ofDie d a) s₃.mem a).trans ?_
  cases h : ofDie d a with
  | true => rfl
  | false =>
    refine (read_foldl_wipeCore (by simp) h s₂).trans ?_
    rw [h₂]
    rfl

/-- Dies that go dark one after another. -/
theorem getDie_foldl_darkDie (st : BitVec 2) (l : List Nat) (s : State) (d : Nat) :
    getDie (l.foldl (fun s d => darkDie s d st) s) d = if d ∈ l then (getDie s d).darkened else getDie s d := by
  induction l generalizing s with
  | nil => rfl
  | cons e l ih =>
    rw [List.foldl_cons, ih, getDie_darkDie]
    by_cases hd : d = e
    · subst hd; simp [Die.darkened]
    · simp [hd]

@[simp] theorem footing_foldl_darkDie (st : BitVec 2) (l : List Nat) (s : State) :
    footing (l.foldl (fun s d => darkDie s d st) s) = footing s := footing_foldl (fun s d => footing_darkDie s d st) l s

/-- Both dies of a pair go dark. -/
theorem getDie_darkPair (s : State) (n d : Nat) (st : BitVec 2) :
    getDie (darkDie (darkDie s (2 * n) st) (2 * n + 1) st) d = if d / 2 = n then (getDie s d).darkened else getDie s d := by
  rw [getDie_darkDie, getDie_darkDie]
  by_cases h0 : d = 2 * n
  · rw [if_neg (by omega), if_pos h0, if_pos (by omega)]
  · rw [if_neg h0]
    exact if_congr (by omega) rfl rfl

theorem read_darkPair (s : State) (n a : Nat) (st : BitVec 2) :
    Mem.read (darkDie (darkDie s (2 * n) st) (2 * n + 1) st).mem a =
      if ofDie (2 * n) a = true ∨ ofDie (2 * n + 1) a = true then Mem.unlisted else Mem.read s.mem a := by
  simp only [read_darkDie]
  by_cases h : ofDie (2 * n + 1) a = true <;> simp [h]

end Sys2Proof.Machine
end

section
/-! PROOFS. Stages that trip, auxiliary outputs and planes, the loss of all power. -/

namespace Sys2Proof.Machine

/-! ### A main output that trips (R336, R337) -/

/-- A stage whose main output has latched off. -/
def Stage.tripped (x : Stage) (hot : Bool) : Stage :=
  { x with state := if hot then 4 else 3, trips := satAdd x.trips 1, trippedOnce := true }

/-- A pair that trips again before its bring-up ends is recorded as failed. -/
def noteTrip (s : State) (n : Nat) : State :=
  if s.state = .bringUp ∧ (getStage s n).trippedOnce = true then vaultRedundancy s 5 (2 * n) 0 0 0 0 else s

/-- A stage latched off, its pair of dies dark. -/
def darkPair (s : State) (n : Nat) (hot : Bool) : State :=
  darkDie (darkDie (modStage (noteTrip s n) n fun _ => (getStage s n).tripped hot) (2 * n) 3) (2 * n + 1) 3

/-- The partitions `ps` of a dark pair lose their step and the dies. -/
def losePair (t : State) (n : Nat) (ps : List Nat) : State :=
  let w := match ps.head? with
    | some p => faultEvent (reportStep t (jobOfPart t p) 3 false) 7 p stFenced 3 []
    | none => faultEvent t 7 0 stFenced 3 []
  let w := match ps with
    | [a, b] => if jobOfPart w a = jobOfPart w b then w else reportStep w (jobOfPart w b) 3 false
    | _ => w
  loseDies w [2 * n, 2 * n + 1] 7

theorem noteTrip_eq (s : State) (n : Nat) : ∃ v, noteTrip s n = { s with vault := v } := by
  unfold noteTrip
  split <;> exact ⟨_, rfl⟩

theorem tripStage_off {s : State} {n : Nat} (hot : Bool) (h : (getStage s n).state = 3 ∨ (getStage s n).state = 4 ∨ stageNow s n = 0) :
    tripStage s n hot = s := by
  refine if_pos ?_
  rcases h with h | h | h <;> simp [h]

theorem tripStage_on {s : State} {n : Nat} (hot : Bool) (h3 : (getStage s n).state ≠ 3) (h4 : (getStage s n).state ≠ 4)
    (h0 : stageNow s n ≠ 0) : tripStage s n hot = losePair (darkPair s n hot) n ([2 * n, 2 * n + 1].filterMap (partOfSite s)) := by
  have hv : (if s.state = .bringUp && (getStage s n).trippedOnce then vaultRedundancy s 5 (2 * n) 0 0 0 0 else s) = noteTrip s n := by
    simp [noteTrip]
  refine (if_neg (by simpa using ⟨⟨h3, h4⟩, h0⟩)).trans ?_
  rw [hv]
  obtain ⟨v, e⟩ := noteTrip_eq s n
  have hset : (modStage (noteTrip s n) n fun x => { x with
      state := if hot then 4 else 3, trips := satAdd x.trips 1, trippedOnce := true }) =
      modStage (noteTrip s n) n fun _ => (getStage s n).tripped hot := by rw [e]; rfl
  have hps : partOfSite s = partOfSite (modStage (noteTrip s n) n fun _ => (getStage s n).tripped hot) := by rw [e]; rfl
  rw [hset, hps, darkPair]
  generalize (modStage (noteTrip s n) n fun _ => (getStage s n).tripped hot) = t
  rfl

theorem losePair_two {t w : State} {n p : Nat} (b : Nat) (hw : w = faultEvent (reportStep t (jobOfPart t p) 3 false) 7 p stFenced 3 []) :
    losePair t n [p, b] = loseDies (if jobOfPart w p = jobOfPart w b then w else reportStep w (jobOfPart w b) 3 false) [2 * n, 2 * n + 1] 7 :=
  hw ▸ rfl

/-! ### A pair in no partition -/

/-- A die that is lost in no partition. -/
def retire (s : State) (d : Nat) : State := modDie s d fun x => { x with retired := x.retired || !x.dark, spare := false }

/-- Dies of no partition are lost: they are fenced and leave the pool of spares. -/
theorem loseDies_unheld {s : State} {sites : List Nat} (domain : Nat) (h : ∀ d ∈ sites, ¬ siteHeld s d) :
    loseDies s sites domain = sites.foldl retire
      (startEpoch (sites.foldl (fun s d => modDie s d fun x => { x with fenced := true }) (stopCores s (clustersOf sites))) []) := by
  unfold loseDies
  extract_lets t u ps v
  have hu : siteHeld u = siteHeld s := by
    have hfence : ∀ (l : List Nat) (s : State), siteHeld (l.foldl (fun s d => modDie s d fun x => { x with fenced := true }) s) = siteHeld s := by
      intro l
      induction l with
      | nil => exact fun _ => rfl
      | cons d l ih => exact fun s => (ih _).trans rfl
    exact (siteHeld_of_untasked (untasked_startEpoch ..)).trans ((hfence ..).trans (siteHeld_of_untasked (untasked_stopCores ..)))
  have hnone : ∀ d ∈ sites, partOfSite u d = none := fun d hd => partOfSite_none.mpr (hu ▸ h d hd)
  have hps : ps = [] := by
    have hfold : ∀ l : List Nat, (∀ d ∈ l, partOfSite u d = none) → l.foldl (fun l d => match partOfSite u d with
        | some p => if l.contains p then l else l ++ [p]
        | none => l) [] = ([] : List Nat) := by
      intro l hl
      induction l with
      | nil => rfl
      | cons d l ih =>
        obtain ⟨hd, hl⟩ := List.forall_mem_cons.mp hl
        rw [List.foldl_cons, hd]
        exact ih hl
    exact hfold sites hnone
  have hall : (sites.filter fun d => (partOfSite u d).isNone) = sites := List.filter_eq_self.mpr fun d hd => by simp [hnone d hd]
  rw [hps, List.foldl_nil]
  unfold v
  rw [hall]
  rfl

/-- What is left of a dark die that is lost. -/
theorem getDie_retired (s : State) (n d : Nat) : getDie (retire (retire s (2 * n)) (2 * n + 1)) d =
    if d / 2 = n then { getDie s d with retired := (getDie s d).retired || !(getDie s d).dark, spare := false } else getDie s d := by
  rw [retire, getDie_modDie, retire, getDie_modDie]
  by_cases h0 : d = 2 * n
  · rw [if_neg (by omega), if_pos h0, if_pos (by omega)]
  · rw [if_neg h0]
    exact if_congr (by omega) rfl rfl

theorem getDie_fencedPair (s : State) (n d : Nat) :
    getDie ([2 * n, 2 * n + 1].foldl (fun s d => modDie s d fun x => { x with fenced := true }) s) d =
      if d / 2 = n then { getDie s d with fenced := true } else getDie s d := by
  simp only [List.foldl_cons, List.foldl_nil]
  rw [getDie_modDie, getDie_modDie]
  by_cases h0 : d = 2 * n
  · rw [if_neg (by omega), if_pos h0, if_pos (by omega)]
  · rw [if_neg h0]
    exact if_congr (by omega) rfl rfl

/-- A dark pair of no partition is lost: the dies alone are changed. -/
theorem loseDies_pair {t w : State} {n : Nat} (ht : untold w = untold t) (h : ∀ d ∈ [2 * n, 2 * n + 1], ¬ siteHeld t d)
    (hdark : ∀ d, d / 2 = n → (getDie t d).dark = true) : let u := loseDies w [2 * n, 2 * n + 1] 7
    u.stages = t.stages ∧ u.vault = t.vault ∧ u.mem = t.mem ∧
      (∀ d, d / 2 = n → (getDie u d).dark = true ∧ (getDie u d).fenced = true ∧ (getDie u d).spare = false) ∧
      ∀ d, d / 2 ≠ n → getDie u d = getDie t d := by
  intro u
  have hw : untasked w = untasked t := untasked_of_untold ht
  have hu := loseDies_unheld (s := w) 7 (siteHeld_of_untasked hw ▸ h)
  generalize hcore : stopCores w (clustersOf [2 * n, 2 * n + 1]) = v₁ at hu
  have h₁ : untasked v₁ = untasked t := hcore ▸ (untasked_stopCores ..).trans hw
  have hm₁ : v₁.mem = t.mem := hcore ▸ (stopCores_mem ..).trans (congrArg (fun u : Untold => u.rest.mem) ht)
  generalize hfence : [2 * n, 2 * n + 1].foldl (fun s d => modDie s d fun x => { x with fenced := true }) v₁ = v₂ at hu
  have hd₂ : ∀ d, getDie v₂ d = if d / 2 = n then { getDie v₁ d with fenced := true } else getDie v₁ d := hfence ▸ getDie_fencedPair v₁ n
  have hs₂ : v₂.stages = v₁.stages ∧ v₂.vault = v₁.vault ∧ v₂.mem = v₁.mem := by subst hfence; exact ⟨rfl, rfl, rfl⟩
  have h₃ := untasked_startEpoch v₂ []
  have hm₃ := startEpoch_mem v₂ []
  generalize startEpoch v₂ [] = v₃ at hu h₃ hm₃
  obtain ⟨hs, hv, hm⟩ := hs₂
  have hdie : ∀ d, getDie u d = if d / 2 = n then
      { getDie v₃ d with retired := (getDie v₃ d).retired || !(getDie v₃ d).dark, spare := false } else getDie v₃ d := by
    intro d
    rw [← getDie_retired]
    exact congrArg (getDie · d) hu
  have hd₃ : ∀ d, getDie v₃ d = if d / 2 = n then { getDie t d with fenced := true } else getDie t d := fun d => by
    rw [getDie_of_untasked h₃, hd₂, getDie_of_untasked h₁]
  refine ⟨?_, ?_, ?_, fun d hd => ?_, fun d hd => ?_⟩
  · rw [show u.stages = v₃.stages from (congrArg State.stages hu).trans rfl, stages_of_untasked h₃, hs, stages_of_untasked h₁]
  · rw [show u.vault = v₃.vault from (congrArg State.vault hu).trans rfl, vault_of_untasked h₃, hv, vault_of_untasked h₁]
  · rw [show u.mem = v₃.mem from (congrArg State.mem hu).trans rfl, hm₃, hm, hm₁]
  · rw [hdie, if_pos hd, hd₃, if_pos hd]
    exact ⟨hdark d hd, rfl, rfl⟩
  · rw [hdie, if_neg hd, hd₃, if_neg hd]

/-- A stage of a pair in no partition trips. -/
theorem stageTrip_unheld {s u : State} {n : Nat} (hot : Bool) (h : ∀ d ∈ [2 * n, 2 * n + 1], partOfSite s d = none)
    (hu : u = loseDies (faultEvent (darkPair s n hot) 7 0 stFenced 3 []) [2 * n, 2 * n + 1] 7) :
    getStage u n = (getStage s n).tripped hot ∧ (∀ m, m ≠ n → getStage u m = getStage s m) ∧ u.vault = (noteTrip s n).vault ∧
      (∀ d, d / 2 = n → (getDie u d).dark = true ∧ (getDie u d).fenced = true ∧ (getDie u d).spare = false) ∧
      (∀ d, d / 2 ≠ n → getDie u d = getDie s d) ∧
      ∀ a, Mem.read u.mem a = if ofDie (2 * n) a = true ∨ ofDie (2 * n + 1) a = true then Mem.unlisted else Mem.read s.mem a := by
  obtain ⟨v, e⟩ := noteTrip_eq s n
  have hd : ∀ d, getDie (darkPair s n hot) d = if d / 2 = n then (getDie s d).darkened else getDie s d := fun d => by
    rw [darkPair, getDie_darkPair, e]; rfl
  have hheld : siteHeld (darkPair s n hot) = siteHeld s := by
    rw [darkPair, siteHeld_darkDie, siteHeld_darkDie, e]; rfl
  have hst : (darkPair s n hot).stages = Tbl.put s.stages n ((getStage s n).tripped hot) := by
    rw [darkPair, stages_darkDie, stages_darkDie, e]; rfl
  obtain ⟨hus, huv, hum, hin, hout⟩ := loseDies_pair (untold_faultEvent (darkPair s n hot) 7 0 stFenced 3 [])
    (fun d hd => hheld ▸ partOfSite_none.mp (h d hd)) (fun d hn => by rw [hd, if_pos hn]; rfl)
  rw [← hu] at hus huv hum hin hout
  refine ⟨?_, fun m hm => ?_, ?_, hin, fun d hn => ?_, fun a => ?_⟩
  · rw [getStage_of_stages hus, getStage, hst, Tbl.get_put_self]
  · rw [getStage_of_stages hus, getStage, hst, Tbl.get_put_ne _ _ _ _ _ hm, getStage]
  · rw [huv, darkPair, vault_darkDie, vault_darkDie]; rfl
  · rw [hout d hn, hd, if_neg hn]
  · rw [hum, darkPair, read_darkPair, e]; rfl

end Sys2Proof.Machine
end

section
/-! PROOFS. Auxiliary planes, the loss of all power, inputs, ramp-downs and the reads of stages. -/

namespace Sys2Proof.Machine

/-! ### Auxiliary planes (R31, R338) -/

theorem takeHalfOut_of_out {s : State} {h : Nat} (ho : (getHalf s h).inService = false) : takeHalfOut s h = s := if_pos (by simp [ho])

theorem auxPlaneDown_of_out {s : State} {h : Nat} (ho : (getHalf s h).inService = false) :
    let t := { s with optDies := Tbl.keep s.optDies fun o _ => decide (o / 24 ≠ h) }
    auxPlaneDown s h = if spineFed t 0 || spineFed t 1 then t else powerOff t := by
  intro t
  rw [auxPlaneDown, takeHalfOut_of_out (s := { s with optDies := Tbl.keep s.optDies fun o _ => decide (o / 24 ≠ h) }) ho]

theorem auxOn_any {s : State} {h : Nat} : ((stagesOf h).any fun j => (getStage s j).auxOn) = true ↔ ∃ j, j / 40 = h ∧ (getStage s j).auxOn = true := by
  simp [List.any_eq_true, mem_stagesOf]

theorem spineFed_iff {s : State} {h : Nat} : spineFed s h = true ↔ (getHalf s h).power = true ∧
    ((∃ j, j / 40 = h ∧ (getStage s j).auxOn = true) ∨ (s.half0.outSince ≠ none ∧ s.half1.outSince ≠ none) ∨ s.boot.phase ≤ 1) := by
  simp only [spineFed, Bool.and_eq_true, Bool.or_eq_true, auxOn_any, decide_eq_true_eq, Option.isSome_iff_ne_none, or_assoc]

theorem powerOff_keeps (s : State) : let u := powerOff s
    u.boot.phase = 0 ∧ u.mem = [] ∧ u.cores = [] ∧ u.sessions = [] ∧ u.requests = [] ∧ u.vault = cutVault s ∧ u.sys = s.sys ∧
    u.nextEst = s.nextEst ∧ u.freeCtr = s.freeCtr + 1 := by
  unfold powerOff
  extract_lets v s₁ s₂ u
  have h₂ : ∃ es, s₂ = { s with emitted := es } := by
    unfold s₂ s₁
    split <;> split <;> exact ⟨_, rfl⟩
  obtain ⟨es, e⟩ := h₂
  have hsys : s₂.sys = s.sys := by rw [e]
  have hest : s₂.nextEst = s.nextEst := by rw [e]
  have hfree : s₂.freeCtr = s.freeCtr := by rw [e]
  exact ⟨rfl, rfl, rfl, rfl, rfl, rfl, hsys, hest, congrArg (· + 1) hfree⟩

/-- An auxiliary output leaves its plane. -/
def auxTripped (s : State) (n : Nat) : State := modStage s n fun x => { x with auxOn := false, trips := satAdd x.trips 1 }

/-- An auxiliary output trips as the `k`-th of its half. -/
theorem exec_auxOutputTrip_on {s : State} {n k : Nat} (h : (getStage s n).auxOn = true)
    (hk : ((stagesOf (n / 40)).filter fun j => !(getStage (auxTripped s n) j).auxOn).length = k) :
    let u := if k = 4 then powerEvent { auxTripped s n with guestCut := true } 0 (n / 40) 40 else auxTripped s n
    exec (.auxOutputTrip n) s = .next (withReports s (if k = 40 then auxPlaneDown u (n / 40) else u)) :=
  hk ▸ report_of_eq (if_neg (by simp [h]))

/-! ### Inputs (R335) -/

theorem heldFor_iff {s : State} {o : Option Word} {ns : Nat} : heldFor s o ns = true ↔ ∃ u, o = some u ∧ u.toNat + ns ≤ now s := by
  cases o <;> simp [heldFor]

@[simp] theorem heldFor_none (s : State) (ns : Nat) : heldFor s none ns = false := rfl

theorem inputInRange_iff {v : BitVec 16} : inputInRange v = true ↔ 6400 ≤ v.toNat ∧ v.toNat ≤ 8000 := by simp [inputInRange]

/-- The panel with both inputs sampled. -/
def sampled (s : State) (h0 h1 : InputSample) : State := { s with half0 := s.half0.sample s.tally h0, half1 := s.half1.sample s.tally h1 }

/-- Within range and below the limits of the current. -/
def quietInput (r : InputSample) : Prop := (6400 ≤ r.v.toNat ∧ r.v.toNat ≤ 8000) ∧ r.i.toNat ≤ 2250

/-- A powered input above 84 V. -/
def Half.high (x : Half) : Bool := x.power && decide (8400 < x.v.toNat)

/-- A half whose input calls for nothing: in range, its current within limits. -/
def Half.calm (x : Half) : Prop := x.outSince = none ∧ x.over10Since = none ∧ x.overSince = none

/-- What an input asks for its half: out of range, or too much current, takes it out. -/
def judgeHalf (t u : State) (h : Nat) : State :=
  let x := getHalf u h
  if !x.inService then u
  else if heldFor t (getHalf t h).outSince 1000000 then takeHalfOut (powerEvent u 3 h (x.v.toNat * x.i.toNat / 1000)) h
  else if heldFor u x.over10Since 10000000 || heldFor u x.overSince 100000 then takeHalfOut u h
  else u

/-- What follows from the inputs as sampled. -/
def judgeInputs (t : State) : State :=
  if t.half0.high || t.half1.high then ([0, 1].filter fun h => (getHalf t h).high).foldl stagesOff t
  else if heldFor t t.half0.outSince 1000000 && heldFor t t.half1.outSince 1000000 && (t.half0.inService || t.half1.inService) then
    rampPanel t 2 true
  else judgeHalf t (judgeHalf t t 0) 1

theorem exec_inputSample (s : State) (h0 h1 : InputSample) :
    exec (.inputSample h0 h1) s = .next (withReports s (judgeInputs (sampled s h0 h1))) := rfl

theorem judgeInputs_high (t : State) (h : t.half0.high = true ∨ t.half1.high = true) :
    judgeInputs t = ([0, 1].filter fun h => (getHalf t h).high).foldl stagesOff t := if_pos (by simpa using h)

theorem judgeInputs_low {t : State} (h0 : t.half0.high = false) (h1 : t.half1.high = false)
    (h : ¬ (heldFor t t.half0.outSince 1000000 = true ∧ heldFor t t.half1.outSince 1000000 = true)) :
    judgeInputs t = judgeHalf t (judgeHalf t t 0) 1 := by
  refine (if_neg (by simp [h0, h1])).trans (if_neg ?_)
  simp only [Bool.and_eq_true]
  exact fun hx => h hx.1

theorem judgeInputs_both {t : State} (h0 : t.half0.high = false) (h1 : t.half1.high = false) (ho : heldFor t t.half0.outSince 1000000 = true)
    (ho' : heldFor t t.half1.outSince 1000000 = true) (hs : t.half0.inService = true ∨ t.half1.inService = true) :
    judgeInputs t = rampPanel t 2 true :=
  (if_neg (by simp [h0, h1])).trans (if_pos (by simpa [ho, ho'] using hs))

/-- A calm half stays as it is. -/
theorem judgeHalf_calm {t u : State} {h : Nat} (ht : (getHalf t h).outSince = none) (hu : (getHalf u h).calm) : judgeHalf t u h = u := by
  obtain ⟨_, h10, hover⟩ := hu
  unfold judgeHalf
  simp [ht, h10, hover]

theorem judgeHalf_out {t u : State} {h : Nat} (hs : (getHalf u h).inService = true) (ho : heldFor t (getHalf t h).outSince 1000000 = true) :
    judgeHalf t u h = takeHalfOut (powerEvent u 3 h ((getHalf u h).v.toNat * (getHalf u h).i.toNat / 1000)) h :=
  (if_neg (by simp [hs])).trans (if_pos ho)

theorem judgeHalf_above {t u : State} {h : Nat} (hs : (getHalf u h).inService = true) (ho : (getHalf t h).outSince = none)
    (ha : heldFor u (getHalf u h).over10Since 10000000 = true ∨ heldFor u (getHalf u h).overSince 100000 = true) :
    judgeHalf t u h = takeHalfOut u h :=
  (if_neg (by simp [hs])).trans ((if_neg (by simp [ho])).trans (if_pos (by simpa using ha)))

theorem sample_calm {x : Half} {t : Word} {r : InputSample} (h : quietInput r) : (x.sample t r).calm ∧ (x.sample t r).high = false := by
  obtain ⟨⟨hlo, hhi⟩, hi⟩ := h
  have h1 : ¬ 2250 < r.i.toNat := by omega
  have h2 : ¬ 2500 < r.i.toNat := by omega
  have h3 : ¬ 8400 < r.v.toNat := by omega
  simp [Half.calm, Half.high, Half.sample, inputInRange_iff.mpr ⟨hlo, hhi⟩, h1, h2, h3]

theorem sample_high {x : Half} {t : Word} {r : InputSample} : (x.sample t r).high = true ↔ x.power = true ∧ 8400 < r.v.toNat := by
  simp [Half.high, Half.sample]

theorem sample_high_false {x : Half} {t : Word} {r : InputSample} (h : ¬ (x.power = true ∧ 8400 < r.v.toNat)) :
    (x.sample t r).high = false := Bool.eq_false_iff.mpr (sample_high.not.mpr h)

/-- An input that has been out of range for a time. -/
theorem sample_outSince {x : Half} {t : Word} {r : InputSample} (h : ¬ (6400 ≤ r.v.toNat ∧ r.v.toNat ≤ 8000)) {u : Word}
    (hu : x.outSince = some u) : (x.sample t r).outSince = some u := by
  have hr : inputInRange r.v = false := Bool.eq_false_iff.mpr (inputInRange_iff.not.mpr h)
  simp [Half.sample, hr, hu]

theorem sample_inRange {x : Half} {t : Word} {r : InputSample} (h : 6400 ≤ r.v.toNat ∧ r.v.toNat ≤ 8000) :
    (x.sample t r).outSince = none ∧ (x.sample t r).high = false := by
  have h3 : ¬ 8400 < r.v.toNat := by omega
  simp [Half.sample, Half.high, inputInRange_iff.mpr h, h3]

theorem sample_over10Since {x : Half} {t : Word} {r : InputSample} (h : 2250 < r.i.toNat) {u : Word} (hu : x.over10Since = some u) :
    (x.sample t r).over10Since = some u := by simp [Half.sample, h, hu]

theorem sample_overSince {x : Half} {t : Word} {r : InputSample} (h : 2500 < r.i.toNat) {u : Word} (hu : x.overSince = some u) :
    (x.sample t r).overSince = some u := by simp [Half.sample, h, hu]

/-- A current above its limits for its time, as sampled. -/
theorem sample_above {s t : State} {x : Half} {r : InputSample} (ht : t.tally = s.tally)
    (h : (2250 < r.i.toNat ∧ ∃ u, x.over10Since = some u ∧ u.toNat + 10000000 ≤ now s) ∨
      (2500 < r.i.toNat ∧ ∃ u, x.overSince = some u ∧ u.toNat + 100000 ≤ now s)) :
    heldFor t (x.sample s.tally r).over10Since 10000000 = true ∨ heldFor t (x.sample s.tally r).overSince 100000 = true := by
  have hnow : now t = now s := congrArg BitVec.toNat ht
  rcases h with ⟨hi, u, hu, hn⟩ | ⟨hi, u, hu, hn⟩
  · exact .inl (heldFor_iff.mpr ⟨u, sample_over10Since hi hu, hnow ▸ hn⟩)
  · exact .inr (heldFor_iff.mpr ⟨u, sample_overSince hi hu, hnow ▸ hn⟩)

/-! ### Stages switched off, ramp-downs (R32, R349, R350) -/

/-- A ramp that begins leaves out of service what is out. -/
theorem inService_startRamp (s : State) (h : Nat) (t : Word) (aux : Bool) :
    (getHalf (startRamp s h t aux) h).inService = (getHalf s h).inService := by
  rw [startRamp, getHalf_modHalf_self]
  split <;> rfl

theorem inService_takeHalfOut (s : State) (h : Nat) : (getHalf (takeHalfOut s h) h).inService = false := by
  unfold takeHalfOut
  split
  next ho => simpa using ho
  next =>
    rw [inService_startRamp]
    have he : footing (mfrRampdown (emptyHalf (modHalf s h fun x => { x with inService := false, leaving := false }) h) h 1) =
        footing (modHalf s h fun x => { x with inService := false, leaving := false }) := (footing_emit ..).trans (footing_emptyHalf ..)
    rw [getHalf_of_footing he, getHalf_modHalf_self]

theorem getHalf_startRamp {s : State} {h : Nat} (t : Word) (aux : Bool) (hr : (getHalf s h).ramp = none) :
    getHalf (startRamp s h t aux) h = { getHalf s h with ramp := some (t, aux) } := by
  rw [startRamp, getHalf_modHalf_self, hr]

theorem startRamp_eq (s : State) (h : Nat) (t : Word) (aux : Bool) : ∃ a b, startRamp s h t aux = { s with half0 := a, half1 := b } :=
  modHalf_eq ..

/-- A stage whose outputs are both off. -/
def Stage.off (x : Stage) : Stage := { x with state := if x.state = 1 || x.state = 2 then 0 else x.state, auxOn := false }

/-- The half of an input below the lockout, before its stages switch off. -/
def lockedOut (s : State) (h : Nat) : State := if (getHalf s h).inService then takeHalfOut (powerEvent s 3 h 0) h else s

theorem inService_lockedOut (s : State) (h : Nat) : (getHalf (lockedOut s h) h).inService = false := by
  unfold lockedOut
  split
  next => exact inService_takeHalfOut ..
  next ho => simpa using ho

/-- The stages of a half off and its dies dark, the auxiliary plane still to follow. -/
def halfOff (s : State) (h : Nat) : State :=
  (sitesOf h).foldl (fun s d => darkDie s d 0) ((stagesOf h).foldl (fun s j => modStage s j Stage.off)
    (modHalf (lockedOut s h) h fun x => { x with power := false, ramp := none, leaving := false }))

theorem stagesOff_eq (s : State) (h : Nat) : stagesOff s h = auxPlaneDown (halfOff s h) h := rfl

theorem halfOff_spec (s : State) {h : Nat} (hh : h < 2) : let u := halfOff s h
    (getHalf u h).power = false ∧ (getHalf u h).ramp = none ∧ (getHalf u h).inService = false ∧
      getHalf u (1 - h) = getHalf (lockedOut s h) (1 - h) ∧
      (∀ j, getStage u j = if j / 40 = h then (getStage (lockedOut s h) j).off else getStage (lockedOut s h) j) ∧
      (∀ d, d / 80 = h → (getDie u d).dark = true ∧ (getDie u d).fenced = true) ∧ ∀ d, d / 80 ≠ h → getDie u d = getDie (lockedOut s h) d := by
  intro u
  have hv := inService_lockedOut s h
  generalize hvdef : lockedOut s h = v at hv ⊢
  obtain ⟨a, b, ehalf⟩ := modHalf_eq v h fun x => { x with power := false, ramp := none, leaving := false }
  obtain ⟨st, est⟩ := foldl_modStage_eq Stage.off (stagesOf h) (modHalf v h fun x => { x with power := false, ramp := none, leaving := false })
  have hu : u = (sitesOf h).foldl (fun s d => darkDie s d 0) { modHalf v h fun x => { x with power := false, ramp := none, leaving := false } with
      stages := st } := by rw [← est, ← hvdef]; rfl
  have hfoot := footing_foldl_darkDie 0 (sitesOf h) { modHalf v h fun x => { x with power := false, ramp := none, leaving := false } with stages := st }
  rw [← hu] at hfoot
  have hhalf : ∀ k, getHalf u k = getHalf (modHalf v h fun x => { x with power := false, ramp := none, leaving := false }) k :=
    fun k => getHalf_of_footing hfoot k
  have hself : getHalf u h = { getHalf v h with power := false, ramp := none, leaving := false } := (hhalf h).trans (getHalf_modHalf_self ..)
  have hdie : ∀ d, getDie u d = if d ∈ sitesOf h then (getDie v d).darkened else getDie v d := fun d => by
    rw [hu, getDie_foldl_darkDie, ehalf]; rfl
  refine ⟨by rw [hself], by rw [hself], by rw [hself]; exact hv, (hhalf _).trans (getHalf_modHalf_other v hh _), fun j => ?_, fun d hd => ?_,
    fun d hd => ?_⟩
  · rw [getStage_of_stages (stages_of_footing hfoot), ← est, getStage_foldl_modStage _ (nodup_stagesOf h), ehalf]
    exact if_congr mem_stagesOf rfl rfl
  · rw [hdie, if_pos (mem_sitesOf.mpr hd)]
    exact ⟨rfl, rfl⟩
  · rw [hdie, if_neg (mem_sitesOf.not.mpr hd)]

/-- A stage begins its ramp: its pair goes dark. -/
theorem exec_rampDownStageStart_due {s : State} {n : Nat} {t : Word} {aux : Bool} (hr : (getHalf s (n / 40)).ramp = some (t, aux))
    (h1 : (getStage s n).state = 1) (ht : t.toNat + 25000 * (n % 40) ≤ now s) :
    exec (.rampDownStageStart n) s = .next (withReports s
      (darkDie (darkDie (modStage s n fun x => { x with state := 2 }) (2 * n) 0) (2 * n + 1) 0)) := by
  refine report_of_eq ?_
  rw [stageHalf, hr]
  exact if_neg (by simpa [h1] using ht)

/-- A stage after the ramp-down of its half. -/
def Stage.ramped (aux : Bool) (x : Stage) : Stage := { x with state := if x.state = 2 then 0 else x.state, auxOn := x.auxOn && !aux }

/-- A half whose ramp-down is over: one that was leaving is out. -/
def Half.ramped (x : Half) : Half := { x with ramp := none, inService := x.inService && !x.leaving, leaving := false }

/-- The panel after the ramp-down of a half. -/
def rampOver (s : State) (h : Nat) (aux : Bool) : State :=
  modHalf ((stagesOf h).foldl (fun s j => modStage s j (Stage.ramped aux)) s) h Half.ramped

theorem exec_auxOutputOpen_due {s : State} {half : Nat} {t : Word} {aux : Bool} (hr : (getHalf s (half % 2)).ramp = some (t, aux))
    (ht : t.toNat + 2000000 ≤ now s) : let h := half % 2
    let u := rampOver s h aux
    let v := if u.pins.resetLow && (getHalf u (1 - h)).ramp.isNone then holdReset u else u
    exec (.auxOutputOpen half) s = .next (withReports s (if aux then auxPlaneDown v h else v)) := by
  intro h u v
  refine report_of_eq ?_
  dsimp only
  rw [hr]
  exact if_neg (by simpa using ht)

theorem rampOver_eq (s : State) (h : Nat) (aux : Bool) : ∃ st a b, rampOver s h aux = { s with stages := st, half0 := a, half1 := b } := by
  obtain ⟨st, e⟩ := foldl_modStage_eq (Stage.ramped aux) (stagesOf h) s
  rw [rampOver, e]
  obtain ⟨a, b, e⟩ := modHalf_eq { s with stages := st } h Half.ramped
  exact ⟨st, a, b, e⟩

theorem getHalf_rampOver (s : State) {h : Nat} (hh : h < 2) (aux : Bool) : getHalf (rampOver s h aux) h = (getHalf s h).ramped ∧
    getHalf (rampOver s h aux) (1 - h) = getHalf s (1 - h) := by
  obtain ⟨st, e⟩ := foldl_modStage_eq (Stage.ramped aux) (stagesOf h) s
  rw [rampOver, e]
  have hs (k : Nat) : getHalf { s with stages := st } k = getHalf s k := rfl
  exact ⟨by rw [getHalf_modHalf_self, hs], by rw [getHalf_modHalf_other _ hh, hs]⟩

theorem getStage_rampOver (s : State) (h : Nat) (aux : Bool) (j : Nat) :
    getStage (rampOver s h aux) j = if j / 40 = h then (getStage s j).ramped aux else getStage s j := by
  obtain ⟨a, b, e⟩ := modHalf_eq ((stagesOf h).foldl (fun s j => modStage s j (Stage.ramped aux)) s) h Half.ramped
  have hs (t : State) (a b : Half) : getStage { t with half0 := a, half1 := b } j = getStage t j := rfl
  rw [rampOver, e, hs, getStage_foldl_modStage (Stage.ramped aux) (nodup_stagesOf h)]
  exact if_congr mem_stagesOf rfl rfl

theorem exec_stageHeartbeatLoss_due {s : State} {half : Nat} (ht : (getHalf s (half % 2)).heartbeat.toNat + 500000000 ≤ now s)
    (hr : (getHalf s (half % 2)).ramp = none) (hl : s.pins.resetLow = false)
    (ha : ∃ j, j / 40 = half % 2 ∧ (getStage s j).auxOn = true) :
    exec (.stageHeartbeatLoss half) s = .next (withReports s (startRamp
      (modHalf s (half % 2) fun x => { x with inService := false, leaving := false }) (half % 2)
      ((getHalf s (half % 2)).heartbeat + 500000000) true)) := by
  refine report_of_eq (if_neg ?_)
  simpa [hr, hl, auxOn_any.mpr ha] using ht

/-! ### The segment and the reads of its stages (R347, R348) -/

theorem segmentHub_cases {s : State} {h : Nat} (hh : h < 2) (hup : hubUp s 0 = true ∨ hubUp s 1 = true) :
    ∃ k, k < 2 ∧ hubUp s k = true ∧ (hubUp s h = true → k = h) ∧ segmentHub s h = some k := by
  unfold segmentHub
  by_cases hu : hubUp s h = true
  · exact ⟨h, hh, hu, fun _ => rfl, if_pos hu⟩
  · have ho : hubUp s (1 - h) = true := by
      obtain rfl | rfl : h = 0 ∨ h = 1 := by omega
      · exact hup.resolve_left hu
      · exact hup.resolve_right hu
    exact ⟨1 - h, by omega, ho, fun h' => absurd h' hu, (if_neg hu).trans (if_pos ho)⟩

theorem segmentHub_none {s : State} {h : Nat} (hh : h < 2) (h0 : hubUp s 0 = false) (h1 : hubUp s 1 = false) : segmentHub s h = none := by
  obtain rfl | rfl : h = 0 ∨ h = 1 := by omega
  · simp [segmentHub, h0, h1]
  · simp [segmentHub, h0, h1]

theorem segmentHub_isNone {s : State} {h : Nat} (hh : h < 2) : (segmentHub s h).isNone = true ↔ ¬ (hubUp s 0 = true ∨ hubUp s 1 = true) := by
  constructor
  · intro hn hup
    obtain ⟨k, _, _, _, e⟩ := segmentHub_cases hh hup
    simp [e] at hn
  · intro hup
    simp only [not_or, Bool.not_eq_true] at hup
    simp [segmentHub_none hh hup.1 hup.2]

theorem toStages_eq (s : State) (n : Nat) (l : List (Nat × Nat)) :
    toStages s n l = { s with emitted := s.emitted ++ l.map fun c => Emit.pmbus (n / 40) (0x20 + n % 40) c.1 c.2 } := by
  unfold toStages
  induction l generalizing s with
  | nil => simp
  | cons c l ih =>
    rw [List.foldl_cons, ih]
    simp [toStage, emit, stageHalf]

theorem readDue_iff {s : State} {o : Option Word} {ns : Nat} : readDue s o ns = true ↔ ∀ t, o = some t → t.toNat + ns ≤ now s := by
  cases o <;> simp [readDue]

end Sys2Proof.Machine
end

section
/-! PROOFS. Stages, inputs and ramp-downs: O54. -/

namespace Sys2Proof.Machine

/-! ### The telemetry of a stage -/

theorem now_eq_of_tally {s t : State} (h : t.tally = s.tally) : now t = now s := congrArg BitVec.toNat h

theorem exec_telemetryPoll_skip {s : State} {r : StageRead} (hn : r.stage < 80)
    (h : ¬ (hubUp s 0 = true ∨ hubUp s 1 = true) ∨ ¬ readDue s (getStage s r.stage).readAt 8000000 = true) :
    exec (.telemetryPoll r) s = .next s := by
  refine congrArg Host.Outcome.next (if_pos ?_)
  have hs := segmentHub_isNone (s := s) (h := stageHalf r.stage) (show r.stage / 40 < 2 by omega)
  rcases h with h | h
  · simp [hs.mpr h]
  · simp [h]

theorem exec_telemetryPoll_due {s : State} {r : StageRead} (hn : r.stage < 80) (hup : hubUp s 0 = true ∨ hubUp s 1 = true)
    (h : readDue s (getStage s r.stage).readAt 8000000 = true) :
    let u := readFast (toStages s r.stage
      [(0x00, 0), (0x88, 0), (0x8C, 0), (0x20, 0), (0x8B, 0), (0x00, 1), (0x88, 0), (0x8C, 0)]) r
    exec (.telemetryPoll r) s = .next (if readDue u (getStage s r.stage).slowAt 64000000 then
      readSlow (toStages u r.stage [(0x00, 0), (0x8D, 0), (0x79, 0)]) r else u) := by
  refine congrArg Host.Outcome.next (if_neg ?_)
  have hs := (segmentHub_isNone (s := s) (h := stageHalf r.stage) (show r.stage / 40 < 2 by omega)).not.mpr (not_not_intro hup)
  simp [hs, h]

theorem exec_smbalert_skip {s : State} {r : StageRead} (c : BitVec 16) (hn : r.stage < 80) (h : ¬ (hubUp s 0 = true ∨ hubUp s 1 = true)) :
    exec (.smbalert r c) s = .next s :=
  congrArg Host.Outcome.next (if_pos ((segmentHub_isNone (show r.stage / 40 < 2 by omega)).mpr h))

theorem exec_smbalert_up {s : State} {r : StageRead} (c : BitVec 16) (hn : r.stage < 80) (h : hubUp s 0 = true ∨ hubUp s 1 = true) :
    exec (.smbalert r c) s = .next (modStage (toStages s r.stage [(0x79, 0), (0xD2, 0)]) r.stage fun y => { y with
      status := r.status, readAt := some s.tally }) :=
  congrArg Host.Outcome.next (if_neg ((segmentHub_isNone (show r.stage / 40 < 2 by omega)).not.mpr (not_not_intro h)))

theorem exec_heartbeatWrite_skip {s : State} {half : Nat}
    (h : segmentHub s (half % 2) = none ∨ now s < (getHalf s (half % 2)).heartbeat.toNat + 100000000) :
    exec (.heartbeatWrite half) s = .next s := by
  refine congrArg Host.Outcome.next ?_
  dsimp only
  rcases h with h | h
  · rw [h]
  · split
    · rfl
    · exact if_pos h

theorem exec_heartbeatWrite_due {s : State} {half k : Nat} (hk : segmentHub s (half % 2) = some k)
    (h : (getHalf s (half % 2)).heartbeat.toNat + 100000000 ≤ now s) : exec (.heartbeatWrite half) s =
      .next (emit (modHalf s (half % 2) fun x => { x with heartbeat := s.tally }) (.pmbus (half % 2) 0x1F 0xD0 k)) := by
  refine congrArg Host.Outcome.next ?_
  dsimp only
  rw [hk]
  exact if_neg (by omega)

end Sys2Proof.Machine

open Sys2Proof Sys2Proof.Machine

/-- Settles O54: each event's branch is taken apart once (a trip, an auxiliary output, an input, a ramp-down, a read); what a
trip of a pair of no partition leaves unchanged is its frame on stages, dies, memory and the Vault. -/
theorem stagesAndInputs : Obligations.StagesAndInputs := by
  unfold Obligations.StagesAndInputs
  refine ⟨fun s n hot => ?trip, fun s n => ?aux, fun s h hout => ?plane, powerOff_keeps, fun s h0 h1 => ?input, fun s n => ?ramp,
    fun s half => ?opens, fun s half => ?lockout, fun s half => ?loss, fun s half => ?beat, fun w mode k => ?number, fun s r cause => ?read⟩
  case trip =>
    intro x v y t
    refine ⟨fun h => ?_, fun h3 h4 h0 => ?_⟩
    · exact report_same (tripStage_off hot h)
    have hexec : exec (.stageMainTrip n hot) s =
        .next (withReports s (losePair (darkPair s n hot) n ([2 * n, 2 * n + 1].filterMap (partOfSite s)))) :=
      report_of_eq (tripStage_on hot h3 h4 h0)
    refine ⟨fun ha hb => ?_, fun p r hps => ?_⟩
    · have hps : [2 * n, 2 * n + 1].filterMap (partOfSite s) = [] := by simp [ha, hb]
      rw [hps] at hexec
      obtain ⟨u, hu⟩ : ∃ u, u = losePair (darkPair s n hot) n [] := ⟨_, rfl⟩
      exact ⟨u, hu ▸ hexec, hu, stageTrip_unheld hot (by simpa using ⟨ha, hb⟩) hu⟩
    · intro w
      rw [hps] at hexec
      refine ⟨fun hr => ?_, fun b hr hj => ?_, fun b hr hj => ?_⟩
      · subst hr
        exact hexec
      · rw [hexec, hr, losePair_two (t := darkPair s n hot) (w := w) b rfl, if_pos hj]
      · rw [hexec, hr, losePair_two (t := darkPair s n hot) (w := w) b rfl, if_neg hj]
  case aux =>
    intro x t
    refine ⟨fun h => ?_, fun h => ?_⟩
    · exact report_same (if_pos (by simp [x, h]))
    intro out
    refine ⟨fun h4 h40 => ?_, fun h4 => ?_, fun h40 => ?_⟩
    · refine (exec_auxOutputTrip_on h rfl).trans ?_
      change Host.Outcome.next (withReports s (if out = 40 then _ else if out = 4 then _ else t)) = _
      rw [if_neg h40, if_neg h4]
    · exact exec_auxOutputTrip_on h h4
    · exact exec_auxOutputTrip_on h h40
  case plane =>
    refine ⟨fun hf => ?_, fun h0 h1 => ?_, spineFed_iff⟩
    · exact (auxPlaneDown_of_out hout).trans (if_pos (by simpa using hf))
    · exact (auxPlaneDown_of_out hout).trans (if_neg (by rw [h0, h1]; decide))
  case input =>
    intro a b t inRange quiet high since out above
    have hexec : exec (.inputSample h0 h1) s = .next (withReports s (judgeInputs t)) := exec_inputSample s h0 h1
    have hnone {x : Option Word} (h : x = none) : ¬ heldFor t x 1000000 = true := by simp [h]
    have hheld {x : Half} {r : InputSample} (h : out r x.outSince) : heldFor t (x.sample s.tally r).outSince 1000000 = true := by
      obtain ⟨hr, u, hu, hns⟩ := h
      exact heldFor_iff.mpr ⟨u, sample_outSince hr hu, hns⟩
    refine ⟨fun q0 q1 => ?_, fun g0 g1 => ?_, fun g0 g1 => ?_, fun g0 g1 => ?_, fun g0 g1 o0 o1 hs => ?_,
      fun q0 hs => ⟨fun g1 o1 => ?_, fun r1 a1 => ?_⟩, fun q1 hs => ⟨fun u hu hb g0 o0 => ?_, fun u hu hb r0 a0 => ?_⟩⟩
    · obtain ⟨c0, g0⟩ := sample_calm (x := s.half0) (t := s.tally) q0
      obtain ⟨c1, g1⟩ := sample_calm (x := s.half1) (t := s.tally) q1
      rw [hexec, judgeInputs_low g0 g1 fun h => hnone c0.1 h.1, judgeHalf_calm (t := t) (u := t) (h := 0) c0.1 c0,
        judgeHalf_calm (t := t) (u := t) (h := 1) c1.1 c1]
    · have g0 : t.half0.high = true := sample_high.mpr g0
      have g1 : t.half1.high = false := sample_high_false g1
      rw [hexec, judgeInputs_high t (.inl g0)]
      simp [getHalf, g0, g1]
    · have g0 : t.half0.high = false := sample_high_false g0
      have g1 : t.half1.high = true := sample_high.mpr g1
      rw [hexec, judgeInputs_high t (.inr g1)]
      simp [getHalf, g0, g1]
    · have g0 : t.half0.high = true := sample_high.mpr g0
      have g1 : t.half1.high = true := sample_high.mpr g1
      rw [hexec, judgeInputs_high t (.inl g0)]
      simp [getHalf, g0, g1]
    · rw [hexec, judgeInputs_both (sample_high_false g0) (sample_high_false g1) (hheld o0) (hheld o1) hs]
    · obtain ⟨c0, g0⟩ := sample_calm (x := s.half0) (t := s.tally) q0
      rw [hexec, judgeInputs_low g0 (sample_high_false g1) fun h => hnone c0.1 h.1, judgeHalf_calm (t := t) (u := t) (h := 0) c0.1 c0,
        judgeHalf_out (t := t) (u := t) (h := 1) hs (hheld o1)]
      rfl
    · obtain ⟨c0, g0⟩ := sample_calm (x := s.half0) (t := s.tally) q0
      obtain ⟨o1, g1⟩ := sample_inRange (x := s.half1) (t := s.tally) r1
      rw [hexec, judgeInputs_low g0 g1 fun h => hnone c0.1 h.1, judgeHalf_calm (t := t) (u := t) (h := 0) c0.1 c0,
        judgeHalf_above (t := t) (u := t) (h := 1) hs o1 (sample_above rfl a1)]
    · obtain ⟨c1, g1⟩ := sample_calm (x := s.half1) (t := s.tally) q1
      have hu1 : getHalf u 1 = b := hb
      rw [hexec, judgeInputs_low (sample_high_false g0) g1 fun h => hnone c1.1 h.2, judgeHalf_out (t := t) (u := t) (h := 0) hs (hheld o0)]
      exact congrArg (fun t => Host.Outcome.next (withReports s t))
        ((congrArg (judgeHalf t · 1) hu.symm).trans (judgeHalf_calm c1.1 (hu1 ▸ c1)))
    · obtain ⟨c1, g1⟩ := sample_calm (x := s.half1) (t := s.tally) q1
      obtain ⟨o0, g0⟩ := sample_inRange (x := s.half0) (t := s.tally) r0
      have hu1 : getHalf u 1 = b := hb
      rw [hexec, judgeInputs_low g0 g1 fun h => hnone c1.1 h.2, judgeHalf_above (t := t) (u := t) (h := 0) hs o0 (sample_above rfl a0)]
      exact congrArg (fun t => Host.Outcome.next (withReports s t))
        ((congrArg (judgeHalf t · 1) hu.symm).trans (judgeHalf_calm c1.1 (hu1 ▸ c1)))
  case ramp =>
    refine ⟨fun hr => ?_, fun t aux hr => ⟨fun h => ?_, fun h1 ht => ⟨_, exec_rampDownStageStart_due hr h1 ht, ?_⟩⟩⟩
    · refine report_same ?_
      rw [stageHalf, hr]
    · refine report_same ?_
      rw [stageHalf, hr]
      exact if_pos (by simpa using h)
    · have hst (m : Nat) : getStage (darkDie (darkDie (modStage s n fun x => { x with state := 2 }) (2 * n) 0) (2 * n + 1) 0) m =
          getStage (modStage s n fun x => { x with state := 2 }) m :=
        getStage_of_stages ((stages_darkDie ..).trans (stages_darkDie ..)) m
      refine ⟨(hst n).trans (getStage_modStage_self ..), fun m hm => (hst m).trans (getStage_modStage_ne s _ hm), fun d hd => ?_,
        fun d hd => ?_, fun a => read_darkPair ..⟩
      · rw [getDie_darkPair, if_pos hd]
        exact ⟨rfl, rfl⟩
      · rw [getDie_darkPair, if_neg hd]
        rfl
  case opens =>
    refine ⟨fun hr => ?_, fun t aux hr => ⟨fun ht => ?_, fun ht hl => ?_⟩⟩
    · refine report_same ?_
      dsimp only
      rw [hr]
    · refine report_same ?_
      dsimp only
      rw [hr]
      exact if_pos (by simpa using ht)
    · obtain ⟨st, a, b, e⟩ := rampOver_eq s (half % 2) aux
      have hl' : (rampOver s (half % 2) aux).pins.resetLow = false := by rw [e]; exact hl
      have hexec := exec_auxOutputOpen_due hr ht
      dsimp only at hexec
      rw [hl', Bool.false_and, if_neg Bool.false_ne_true] at hexec
      obtain ⟨hself, hother⟩ := getHalf_rampOver s (h := half % 2) (Nat.mod_lt _ (by decide)) aux
      refine ⟨rampOver s (half % 2) aux, fun ha => ?_, fun ha => ?_, hself, hother, by rw [e], by rw [e], by rw [e], getStage_rampOver s _ aux⟩
      · subst ha
        exact hexec
      · subst ha
        exact hexec
  case lockout =>
    obtain ⟨hp, hr, hs, hother, hst, hd, hd'⟩ := halfOff_spec s (h := half % 2) (Nat.mod_lt _ (by decide))
    refine ⟨rfl, halfOff s (half % 2), stagesOff_eq .., hp, hr, hs, hother, fun j => (hst j).trans (if_congr Iff.rfl ?_ rfl), hd, hd'⟩
    simp only [Stage.off, Bool.or_eq_true, decide_eq_true_eq]
    rfl
  case loss =>
    refine ⟨fun h => ?_, fun ht hr hl ha => ⟨_, exec_stageHeartbeatLoss_due ht hr hl ha, ?_⟩⟩
    · refine report_same (if_pos ?_)
      simp [h]
    · have hr' : (getHalf (modHalf s (half % 2) fun x => { x with inService := false, leaving := false }) (half % 2)).ramp = none := by
        rw [getHalf_modHalf_self]
        exact hr
      refine ⟨?_, ?_, ?_⟩
      · rw [getHalf_startRamp _ _ hr', getHalf_modHalf_self]
      · rw [startRamp, getHalf_modHalf_other _ (Nat.mod_lt _ (by decide)), getHalf_modHalf_other _ (Nat.mod_lt _ (by decide))]
      · obtain ⟨a, b, e⟩ := modHalf_eq s (half % 2) fun x => { x with inService := false, leaving := false }
        obtain ⟨a', b', e'⟩ := startRamp_eq (modHalf s (half % 2) fun x => { x with inService := false, leaving := false }) (half % 2)
          ((getHalf s (half % 2)).heartbeat + 500000000) true
        rw [e', e]
        exact ⟨rfl, rfl, rfl⟩
  case beat =>
    have hh : half % 2 < 2 := Nat.mod_lt _ (by decide)
    refine ⟨fun h => exec_heartbeatWrite_skip ?_, fun hup hd => ?_⟩
    · exact h.imp (fun h => segmentHub_none hh h.1 h.2) Nat.lt_of_not_le
    · obtain ⟨k, hk, hu, hself, e⟩ := segmentHub_cases hh hup
      exact ⟨k, hk, hu, hself, exec_heartbeatWrite_due e hd⟩
  case number => exact ⟨fun h => if_pos h, fun h => if_neg (by omega), fun h => if_pos h, fun h => if_neg (by omega)⟩
  case read =>
    intro n x served due asks fast temp slow hot hn
    have hdue {o : Option Word} {ns : Nat} {v : State} (hv : v.tally = s.tally) : readDue v o ns = true ↔ due o ns := by
      rw [readDue_iff, now_eq_of_tally hv]
    refine ⟨fun h => exec_telemetryPoll_skip hn (h.imp_right fun h => (hdue rfl).not.mpr h), fun hup hd => ?_, exec_smbalert_skip cause hn,
      fun hup => (exec_smbalert_up cause hn hup).trans (by rw [toStages_eq])⟩
    have hexec := exec_telemetryPoll_due hn hup ((hdue rfl).mpr hd)
    rw [toStages_eq] at hexec
    change exec (.telemetryPoll r) s = .next (if readDue fast x.slowAt 64000000 = true then _ else fast) at hexec
    have hslow : readDue fast x.slowAt 64000000 = true ↔ due x.slowAt 64000000 := hdue rfl
    have htemp (l : List (Nat × Nat)) : (getStage (asks fast l) n).temp = x.temp := by
      rw [show getStage (asks fast l) n = getStage fast n from rfl, getStage_modStage_self]
      rfl
    refine ⟨fun hs => ?_, fun hs hh => ?_, fun hs hh => ?_⟩
    · rw [hexec, if_neg (hslow.not.mpr hs)]
    · rw [hexec, if_pos (hslow.mpr hs), toStages_eq]
      exact congrArg Host.Outcome.next (if_neg fun h => hh (h.imp_right fun h => htemp [(0x00, 0), (0x8D, 0), (0x79, 0)] ▸ h))
    · rw [hexec, if_pos (hslow.mpr hs), toStages_eq]
      exact congrArg Host.Outcome.next (if_pos (hh.imp_right fun h => (htemp [(0x00, 0), (0x8D, 0), (0x79, 0)]).symm ▸ h))
end

section
/-! PROOFS. The records of the Vault: one held by both dies, compaction, and what a loss of power leaves. -/

namespace Sys2Proof.Machine

/-! ### A record that is programmed (R416, R417) -/

/-- A record as it stands once programmed. -/
def VaultWrite.held (w : VaultWrite) (v : Vault) (both : Bool) : VaultRec :=
  { w.record with
    seq := v.seq, half := if w.copy then 1 - Tbl.get v.halves ((recordRegion w.record).getD 0) 0 else Tbl.get v.halves ((recordRegion w.record).getD 0) 0,
    on0 := true, on1 := both }

/-- The records that stand beside one that is programmed. -/
def besideWrite (v : Vault) (w : VaultWrite) (both : Bool) : List VaultRec :=
  if w.copy || !both then v.recs else v.recs.filter fun x => !sameKey x (w.held v both)

theorem holdWrite_keeps (v : Vault) (w : VaultWrite) (both : Bool) : (holdWrite v w both).seq = v.seq + 1 ∧ (holdWrite v w both).writing = v.writing := by
  unfold holdWrite
  extract_lets g h x r old mark v'
  cases g with
  | some g =>
    dsimp only
    split
    · exact ⟨rfl, rfl⟩
    · exact ⟨rfl, rfl⟩
  | none => exact ⟨rfl, rfl⟩

/-- A record that is no COMPACT, or one held by one die alone. -/
theorem holdWrite_recs {v : Vault} {w : VaultWrite} {both : Bool} (h : both = false ∨ w.record.type ≠ 3) :
    (holdWrite v w both).recs = besideWrite v w both ++ [w.held v both] ∧ (holdWrite v w both).halves = v.halves := by
  unfold holdWrite
  extract_lets g h' x r old mark v'
  have hno : (both && r.type.toNat = 3) = false := by
    rcases h with h | h
    · simp [h]
    · have h3 : w.record.type.toNat ≠ 3 := fun e => h (BitVec.eq_of_toNat_eq e)
      simp [r, x, h3]
  rw [hno]
  cases g with
  | some g => exact ⟨rfl, rfl⟩
  | none => exact ⟨rfl, rfl⟩

theorem recordRegion_compact {r : VaultRec} (h : r.type = 3) : recordRegion r = some (r.key / 2) := by simp [recordRegion, h]

/-- A COMPACT held by both dies: the half in use is erased. -/
theorem holdWrite_compact {v : Vault} {w : VaultWrite} (h : w.record.type = 3) : let g := (recordRegion w.record).getD 0
    (holdWrite v w true).recs = (besideWrite v w true ++ [w.held v true]).filter (fun r =>
      !(recordRegion r = some g && r.half = Tbl.get v.halves g 0)) ∧
    (holdWrite v w true).halves = Tbl.put v.halves g (1 - Tbl.get v.halves g 0) := by
  intro g
  have hg : recordRegion w.record = some g := by simp [g, recordRegion_compact h]
  unfold holdWrite
  rw [hg]
  extract_lets g' h' x r old mark v'
  have h3 : (true && r.type.toNat = 3) = true := by simp [r, x, h]
  rw [h3]
  have hr : w.held v true = r := by
    unfold VaultWrite.held
    rw [hg]
  rw [besideWrite, hr]
  exact ⟨rfl, rfl⟩

/-! ### Compaction queued -/

/-- Nothing but copies is queued in front. -/
def QueuesCopies (v u : Vault) : Prop :=
  u.seq = v.seq ∧ u.recs = v.recs ∧ u.halves = v.halves ∧ u.used = v.used ∧
    ∃ l, u.writing = l ++ v.writing ∧ ∀ x ∈ l, x.copy = true ∧ x.acts = []

theorem compact_idle {v : Vault} {g : Nat} (h : Tbl.get v.used g 0 * 4 < regionHalf g * 3) : compact v g = v := if_pos (by simp [h])

theorem queuesCopies_compact (v : Vault) (g : Nat) : QueuesCopies v (compact v g) := by
  unfold compact
  split
  · exact ⟨rfl, rfl, rfl, rfl, [], rfl, by simp⟩
  · refine ⟨rfl, rfl, rfl, rfl, _, rfl, fun x hx => ?_⟩
    obtain ⟨r, _, rfl⟩ := List.mem_map.mp hx
    exact ⟨rfl, rfl⟩

theorem QueuesCopies.trans {u v w : Vault} (h : QueuesCopies u v) (h' : QueuesCopies v w) : QueuesCopies u w := by
  obtain ⟨hs, hr, hh, hu, l, hl, hc⟩ := h
  obtain ⟨hs', hr', hh', hu', l', hl', hc'⟩ := h'
  refine ⟨hs'.trans hs, hr'.trans hr, hh'.trans hh, hu'.trans hu, l' ++ l, by rw [hl', hl, List.append_assoc], fun x hx => ?_⟩
  exact (List.mem_append.mp hx).elim (hc' x) (hc x)

theorem queuesCopies_compactAll (v : Vault) : QueuesCopies v (compactAll v) :=
  (queuesCopies_compact v 0).trans ((queuesCopies_compact _ 1).trans (queuesCopies_compact _ 2))

theorem compactAll_idle {v : Vault} (h : ∀ g, g < 3 → Tbl.get v.used g 0 * 4 < regionHalf g * 3) : compactAll v = v := by
  simp only [compactAll, List.foldl_cons, List.foldl_nil, compact_idle (h 0 (by decide)), compact_idle (h 1 (by decide)),
    compact_idle (h 2 (by decide))]

theorem exec_vaultRecordWritten_cons {s : State} {w : VaultWrite} {rest : List VaultWrite} (h : s.vault.writing = w :: rest) :
    exec .vaultRecordWritten s = .next (withReports s (w.acts.foldl runAct { s with
      vault := compactAll (holdWrite { s.vault with writing := rest } w true) })) := by
  refine report_of_eq ?_
  rw [recordWritten, h]

theorem sameKey_iff {a b : VaultRec} : sameKey a b = true ↔ a.type = b.type ∧ a.key = b.key := by simp [sameKey]

/-- The records that stand after one that is no COMPACT. -/
theorem recordWritten_record {v : Vault} {w : VaultWrite} (h : w.record.type ≠ 3) : let r := w.held v true
    let u := holdWrite v w true
    r ∈ u.recs ∧ u.halves = v.halves ∧ (w.copy = true → u.recs = v.recs ++ [r]) ∧
      (w.copy = false → (∀ x ∈ u.recs, x.type = r.type → x.key = r.key → x = r) ∧
        ∀ x ∈ v.recs, ¬ (x.type = r.type ∧ x.key = r.key) → x ∈ u.recs) := by
  intro r u
  obtain ⟨hrecs, hhalves⟩ := holdWrite_recs (v := v) (both := true) (.inr h)
  refine ⟨by simp [u, hrecs, r], hhalves, fun hc => ?_, fun hc => ⟨fun x hx ht hk => ?_, fun x hx hne => ?_⟩⟩
  · simp [u, r, hrecs, besideWrite, hc]
  · rw [hrecs, besideWrite, hc] at hx
    rcases List.mem_append.mp hx with hx | hx
    · have hn : sameKey x r = false := by simpa [r] using (List.mem_filter.mp hx).2
      simp [sameKey_iff.mpr ⟨ht, hk⟩] at hn
    · exact List.mem_singleton.mp hx
  · have hn : sameKey x r = false := Bool.eq_false_iff.mpr (sameKey_iff.not.mpr hne)
    rw [hrecs, besideWrite, hc]
    exact List.mem_append_left _ (List.mem_filter.mpr ⟨hx, by simp [r] at hn ⊢; exact hn⟩)

/-- The records that stand after a COMPACT. -/
theorem recordWritten_compact {v : Vault} {w : VaultWrite} (h : w.record.type = 3) : let g := (recordRegion w.record).getD 0
    let old := Tbl.get v.halves g 0
    let u := holdWrite v w true
    Tbl.get u.halves g 0 = 1 - old ∧ (∀ x ∈ u.recs, recordRegion x = some g → x.half ≠ old) ∧
      (w.copy = true → w.held v true ∈ u.recs ∧ ∀ x ∈ v.recs, (recordRegion x ≠ some g ∨ x.half ≠ old) → x ∈ u.recs) := by
  intro g old u
  obtain ⟨hrecs, hhalves⟩ := holdWrite_compact (v := v) h
  refine ⟨by rw [hhalves, Tbl.get_put_self], fun x hx hg => ?_, fun hc => ⟨?_, fun x hx hn => ?_⟩⟩
  · rw [hrecs] at hx
    have hx := (List.mem_filter.mp hx).2
    simpa [g, old, hg] using hx
  · rw [hrecs]
    refine List.mem_filter.mpr ⟨by simp, ?_⟩
    have hne : 1 - old ≠ old := by omega
    simp [VaultWrite.held, hc, g, old] at hne ⊢
    exact .inr hne
  · rw [hrecs, besideWrite, hc]
    refine List.mem_filter.mpr ⟨List.mem_append_left _ hx, ?_⟩
    simpa [g, old, imp_iff_not_or] using hn

/-! ### A loss of power (R433) -/

theorem vaultAfterLoss_idle {v : Vault} (one : Bool) (h : v.writing = []) : vaultAfterLoss one v = v := by rw [vaultAfterLoss, h]

theorem vaultAfterLoss_cons {v : Vault} {w : VaultWrite} {rest : List VaultWrite} (one : Bool) (h : v.writing = w :: rest) :
    vaultAfterLoss one v = if one then holdWrite { v with writing := [] } w false else { v with writing := [] } := by rw [vaultAfterLoss, h]

theorem besideWrite_one (v : Vault) (w : VaultWrite) : besideWrite v w false = v.recs := if_pos (by simp)

end Sys2Proof.Machine
end

section
/-! PROOFS. What the phases of bring-up do to halves, stages, dies and cores. -/

namespace Sys2Proof.Machine

/-! ### Folds -/

/-- A fold that establishes `P` at one element, from `Q` that holds until then. -/
theorem foldl_establishes {σ α : Type} {f : σ → α → σ} {P Q : σ → Prop} {a : α} {l : List α} (hl : l.Nodup) (ha : a ∈ l)
    (hQ : ∀ s, ∀ b ∈ l, b ≠ a → Q s → Q (f s b)) (hf : ∀ s, Q s → P (f s a)) (hP : ∀ s, ∀ b ∈ l, b ≠ a → P s → P (f s b)) {s : σ} (hs : Q s) :
    P (l.foldl f s) := by
  have hkeep : ∀ (m : List α) (s : σ), (∀ b ∈ m, b ∈ l ∧ b ≠ a) → P s → P (m.foldl f s) := by
    intro m
    induction m with
    | nil => exact fun _ _ h => h
    | cons b m ih =>
      intro s hm hs
      obtain ⟨⟨hb, hne⟩, hm⟩ := List.forall_mem_cons.mp hm
      exact ih _ hm (hP s b hb hne hs)
  have hall : ∀ (m : List α) (s : σ), (∀ b ∈ m, b ∈ l) → m.Nodup → a ∈ m → Q s → P (m.foldl f s) := by
    intro m
    induction m with
    | nil => exact fun _ _ _ h => absurd h List.not_mem_nil
    | cons b m ih =>
      intro s hm hnd ham hs
      obtain ⟨hb, hm⟩ := List.forall_mem_cons.mp hm
      obtain ⟨hbm, hnd⟩ := List.nodup_cons.mp hnd
      by_cases hba : b = a
      · subst hba
        exact hkeep m _ (fun c hc => ⟨hm c hc, fun e => hbm (e ▸ hc)⟩) (hf s hs)
      · exact ih _ hm hnd ((List.mem_cons.mp ham).resolve_left (Ne.symm hba)) (hQ s b hb hba hs)
  exact hall l s (fun _ h => h) hl ha hs

/-- What every step of a fold keeps, the fold keeps. -/
theorem foldl_keeps {σ α β : Type} {f : σ → α → σ} (g : σ → β) (hf : ∀ s a, g (f s a) = g s) (l : List α) (s : σ) : g (l.foldl f s) = g s := by
  induction l generalizing s with
  | nil => rfl
  | cons a l ih => exact (ih _).trans (hf s a)

theorem mem_poweredHalves {s : State} {h : Nat} : h ∈ poweredHalves s ↔ h < 2 ∧ (getHalf s h).power = true := by
  have h2 : h ∈ [0, 1] ↔ h < 2 := by simp; omega
  rw [poweredHalves, List.mem_filter, h2]

theorem nodup_poweredHalves (s : State) : (poweredHalves s).Nodup := List.Nodup.filter _ (by decide)

theorem getHalf_modHalf_ne (s : State) {h k : Nat} (hh : h < 2) (hk : k < 2) (hne : k ≠ h) (f : Half → Half) :
    getHalf (modHalf s h f) k = getHalf s k := by
  obtain rfl : k = 1 - h := by omega
  exact getHalf_modHalf_other s hh f

theorem getStage_modHalf (s : State) (h j : Nat) (f : Half → Half) : getStage (modHalf s h f) j = getStage s j := by
  obtain ⟨a, b, e⟩ := modHalf_eq s h f
  rw [e]; rfl

theorem vault_modHalf (s : State) (h : Nat) (f : Half → Half) : (modHalf s h f).vault = s.vault := by
  obtain ⟨a, b, e⟩ := modHalf_eq s h f
  rw [e]

theorem getDie_modHalf (s : State) (h d : Nat) (f : Half → Half) : getDie (modHalf s h f) d = getDie s d := by
  obtain ⟨a, b, e⟩ := modHalf_eq s h f
  rw [e]; rfl

theorem getStage_modDie (s : State) (d j : Nat) (f : Die → Die) : getStage (modDie s d f) j = getStage s j := rfl

/-! ### Phase 1: auxiliary outputs rise (R442, R448) -/

theorem getStage_auxUp (s : State) (h j : Nat) :
    getStage (auxUp s h) j = if j / 40 = h then { getStage s j with auxOn := true } else getStage s j :=
  (getStage_foldl_modStage _ (nodup_stagesOf h) s j).trans (if_congr mem_stagesOf rfl rfl)

theorem auxUp_eq (s : State) (h : Nat) : ∃ st, auxUp s h = { s with stages := st } := foldl_modStage_eq _ _ s

theorem getHalf_auxUp (s : State) (h k : Nat) : getHalf (auxUp s h) k = getHalf s k := by
  obtain ⟨st, e⟩ := auxUp_eq s h
  rw [e]; rfl

theorem phaseEffect_one {s : State} (r : PhaseResult) {h : Nat} (hh : h < 2) (hp : (getHalf s h).power = true) :
    (getHalf (phaseEffect s 1 r) h).refOk = true ∧ ∀ j, j / 40 = h → (getStage (phaseEffect s 1 r) j).auxOn = true := by
  refine foldl_establishes (P := fun s => (getHalf s h).refOk = true ∧ ∀ j, j / 40 = h → (getStage s j).auxOn = true) (Q := fun _ => True)
    (nodup_poweredHalves s) (mem_poweredHalves.mpr ⟨hh, hp⟩) (fun _ _ _ _ _ => trivial) (fun s _ => ?_) (fun s k hk hne hs => ?_) trivial
  · refine ⟨by rw [getHalf_modHalf_self], fun j hj => ?_⟩
    rw [getStage_modHalf, getStage_auxUp, if_pos hj]
  · obtain ⟨href, haux⟩ := hs
    refine ⟨?_, fun j hj => ?_⟩
    · rw [getHalf_modHalf_ne _ (mem_poweredHalves.mp hk).1 hh hne.symm, getHalf_auxUp, href]
    · rw [getStage_modHalf, getStage_auxUp, if_neg (by omega), haux j hj]

/-! ### Phase 5: the hub that leads (R25) -/

theorem raiseAlert_eq (s : State) : ∃ h0 h1 es, raiseAlert s = { s with hub0 := h0, hub1 := h1, emitted := es } := by
  have hstep (h : Nat) : ∀ s : State, ∃ h0 h1 es, (let x := getHub s h
      if x.alert then s
      else
        let s := emit (setHub s h { x with alert := true }) (.pin (if h = 0 then "ALERT0#" else "ALERT1#") false)
        if x.events.getLsbD 0 then emit s (.ibi h) else s) = { s with hub0 := h0, hub1 := h1, emitted := es } := by
    intro s
    unfold setHub
    dsimp only
    split
    · exact ⟨_, _, _, rfl⟩
    · split <;> split <;> exact ⟨_, _, _, rfl⟩
  unfold raiseAlert
  rw [List.foldl_cons, List.foldl_cons, List.foldl_nil]
  obtain ⟨a, b, c, e⟩ := hstep 0 s
  obtain ⟨a', b', c', e'⟩ := hstep 1 { s with hub0 := a, hub1 := b, emitted := c }
  dsimp only at e e' ⊢
  rw [e, e']
  exact ⟨a', b', c', rfl⟩

theorem loseIdentity_state (s : State) : (loseIdentity s).state = .safeNoId := by
  obtain ⟨a, b, c, e⟩ := raiseAlert_eq { s with state := .safeNoId }
  rw [loseIdentity, e]

@[simp] theorem footing_loseIdentity (s : State) : footing (loseIdentity s) = footing s := footing_raiseAlert _

/-- The hubs that pass their self-test, and the one that leads. -/
theorem footing_chooseLead (s : State) (r : PhaseResult) : footing (chooseLead s r) = { footing s with
    lead := if s.hub0.selfTest && r.hub0ok then 0 else 1, up0 := s.hub0.selfTest && r.hub0ok, up1 := s.hub1.selfTest && r.hub1ok } := by
  unfold chooseLead
  extract_lets set s₁ s₂
  rw [footing_ite, footing_ite, footing_loseIdentity, footing_enterSafe, ite_self, ite_self]
  rfl

theorem chooseLead_none {s : State} {r : PhaseResult} (h0 : (s.hub0.selfTest && r.hub0ok) = false) (h1 : (s.hub1.selfTest && r.hub1ok) = false) :
    (chooseLead s r).state = .safeNoId := by
  unfold chooseLead
  extract_lets set s₁ s₂
  rw [if_pos (by simp [s₂, s₁, set, h0, h1])]
  exact loseIdentity_state _

/-! ### Phase 6: main outputs rise (R336, R337) -/

/-- The main output of a stage rises, unless it is latched or its pair has failed. -/
def stageUp (s : State) (j : Nat) : State :=
  let latched := (getStage s j).state = 3 || (getStage s j).state = 4
  if latched || pairFailed s j then (stageSites j).foldl (fun s d => darkDie s d 3) s
  else
    let s := modStage (toStages s j [(0x00, 0), (0x03, 0), (0x01, 0x80)]) j fun x => { x with state := 1 }
    (stageSites j).foldl (fun s d => modDie s d fun x => { x with dark := false }) s

theorem mainUp_eq (s : State) (h : Nat) (l : List Nat) : mainUp s h l =
    (l.filter fun j => stageHalf j = h).foldl (fun s j => tripStage s j false) ((stagesOf h).foldl stageUp s) := rfl

theorem mainUp_nil (s : State) (h : Nat) : mainUp s h [] = (stagesOf h).foldl stageUp s := by
  rw [mainUp_eq, List.filter_nil, List.foldl_nil]

/-- A pair that may rise. -/
def Startable (s : State) (j : Nat) : Prop := (getStage s j).state ≠ 3 ∧ (getStage s j).state ≠ 4 ∧ pairFailed s j = false

/-- A pair that has risen. -/
def Risen (s : State) (j : Nat) : Prop := (getStage s j).state = 1 ∧ (getDie s (2 * j)).dark = false ∧ (getDie s (2 * j + 1)).dark = false

theorem Startable.congr {s t : State} {j : Nat} (hs : getStage t j = getStage s j) (hv : t.vault = s.vault) (h : Startable s j) : Startable t j := by
  unfold Startable pairFailed at *
  rw [hs, hv]
  exact h

theorem Risen.congr {s t : State} {j : Nat} (hs : getStage t j = getStage s j) (hd : ∀ d, d / 2 = j → getDie t d = getDie s d) (h : Risen s j) :
    Risen t j := by
  unfold Risen at *
  rw [hs, hd _ (by omega), hd _ (by omega)]
  exact h

theorem stageUp_startable {s : State} {j : Nat} (h : Startable s j) : stageUp s j =
    modDie (modDie (modStage (toStages s j [(0x00, 0), (0x03, 0), (0x01, 0x80)]) j fun x => { x with state := 1 }) (2 * j) fun x => { x with
      dark := false }) (2 * j + 1) fun x => { x with dark := false } := by
  obtain ⟨h3, h4, hf⟩ := h
  exact if_neg (by simpa [hf] using ⟨h3, h4⟩)

theorem stageUp_risen {s : State} {j : Nat} (h : Startable s j) : Risen (stageUp s j) j := by
  rw [stageUp_startable h, toStages_eq]
  refine ⟨?_, ?_, ?_⟩
  · rw [getStage_modDie, getStage_modDie, getStage_modStage_self]
  · rw [getDie_modDie_ne _ _ (by omega), getDie_modDie_self]
  · rw [getDie_modDie_self]

/-- A stage that rises, or does not, leaves the other pairs, the halves and the Vault. -/
theorem stageUp_frame (s : State) (j : Nat) : (∀ k, k ≠ j → getStage (stageUp s j) k = getStage s k) ∧
    (∀ d, d / 2 ≠ j → getDie (stageUp s j) d = getDie s d) ∧ (stageUp s j).vault = s.vault ∧ ∀ k, getHalf (stageUp s j) k = getHalf s k := by
  by_cases h : Startable s j
  · rw [stageUp_startable h, toStages_eq]
    refine ⟨fun k hk => ?_, fun d hd => ?_, rfl, fun k => rfl⟩
    · rw [getStage_modDie, getStage_modDie, getStage_modStage_ne _ _ hk]
      rfl
    rw [getDie_modDie_ne _ _ (by omega), getDie_modDie_ne _ _ (by omega)]
    rfl
  · have e : stageUp s j = darkDie (darkDie s (2 * j) 3) (2 * j + 1) 3 := by
      refine if_pos ?_
      simp only [Startable, not_and_or, not_not, Bool.not_eq_false] at h
      simpa [or_assoc] using h
    rw [e]
    refine ⟨fun k _ => getStage_of_stages ((stages_darkDie ..).trans (stages_darkDie ..)) k, fun d hd => ?_,
      (vault_darkDie ..).trans (vault_darkDie ..), fun k => getHalf_of_footing ((footing_darkDie ..).trans (footing_darkDie ..)) k⟩
    rw [getDie_darkPair, if_neg hd]

/-- A half whose stages rise leaves the other half's pairs, the halves and the Vault. -/
theorem mainUp_frame (s : State) (h : Nat) : (∀ k, k / 40 ≠ h → getStage (mainUp s h []) k = getStage s k) ∧
    (∀ d, d / 80 ≠ h → getDie (mainUp s h []) d = getDie s d) ∧ (mainUp s h []).vault = s.vault ∧
    ∀ k, getHalf (mainUp s h []) k = getHalf s k := by
  rw [mainUp_nil]
  have hl : ∀ j ∈ stagesOf h, j / 40 = h := fun j hj => mem_stagesOf.mp hj
  generalize stagesOf h = l at hl
  induction l generalizing s with
  | nil => exact ⟨fun _ _ => rfl, fun _ _ => rfl, rfl, fun _ => rfl⟩
  | cons j l ih =>
    obtain ⟨hj, hl⟩ := List.forall_mem_cons.mp hl
    obtain ⟨hs, hd, hv, hh⟩ := stageUp_frame s j
    obtain ⟨is, id, iv, ih⟩ := ih (stageUp s j) hl
    refine ⟨fun k hk => (is k hk).trans (hs k fun e => hk (e ▸ hj)), fun d hdd => (id d hdd).trans (hd d (by omega)), iv.trans hv,
      fun k => (ih k).trans (hh k)⟩

theorem mainUp_risen {s : State} {h j : Nat} (hj : j / 40 = h) (hs : Startable s j) : Risen (mainUp s h []) j := by
  rw [mainUp_nil]
  refine foldl_establishes (P := (Risen · j)) (Q := (Startable · j)) (nodup_stagesOf h) (mem_stagesOf.mpr hj) (fun s k _ hk hq => ?_)
    (fun s => stageUp_risen) (fun s k _ hk hp => ?_) hs
  · obtain ⟨est, _, ev, _⟩ := stageUp_frame s k
    exact hq.congr (est j hk.symm) ev
  · obtain ⟨est, ed, _, _⟩ := stageUp_frame s k
    exact hp.congr (est j hk.symm) fun d hd => ed d (hd ▸ hk.symm)

theorem phaseEffect_six {s : State} {r : PhaseResult} (hr : r.tripped = []) {h : Nat} (hh : h < 2) (hp : (getHalf s h).power = true) :
    (getHalf (phaseEffect s 6 r) h).inService = true ∧ ∀ j, j / 40 = h → Startable s j → Risen (phaseEffect s 6 r) j := by
  have hstep : phaseEffect s 6 r = (poweredHalves s).foldl (fun s h => modHalf (mainUp s h r.tripped) h fun x => { x with inService := true }) s :=
    rfl
  rw [hr] at hstep
  have hframe (s : State) {k j : Nat} (hj : j / 40 ≠ k) : let t := modHalf (mainUp s k []) k fun x => { x with inService := true }
      getStage t j = getStage s j ∧ (∀ d, d / 2 = j → getDie t d = getDie s d) ∧ t.vault = s.vault := by
    obtain ⟨hs, hd, hv, _⟩ := mainUp_frame s k
    exact ⟨(getStage_modHalf ..).trans (hs j hj), fun d hdj => (getDie_modHalf ..).trans (hd d (by omega)), (vault_modHalf ..).trans hv⟩
  rw [hstep]
  refine ⟨?_, fun j hj hs => ?_⟩
  · refine foldl_establishes (P := fun s => (getHalf s h).inService = true) (Q := fun _ => True) (nodup_poweredHalves s)
      (mem_poweredHalves.mpr ⟨hh, hp⟩) (fun _ _ _ _ _ => trivial) (fun s _ => by rw [getHalf_modHalf_self]) (fun s k hk hne hs => ?_) trivial
    obtain ⟨_, _, _, hhalf⟩ := mainUp_frame s k
    rw [getHalf_modHalf_ne _ (mem_poweredHalves.mp hk).1 hh hne.symm, hhalf, hs]
  · refine foldl_establishes (P := (Risen · j)) (Q := (Startable · j)) (nodup_poweredHalves s) (mem_poweredHalves.mpr ⟨hh, hp⟩)
      (fun s k _ hk hq => ?_) (fun s hq => ?_) (fun s k _ hk hq => ?_) hs
    · obtain ⟨est, _, ev⟩ := hframe s (k := k) (j := j) (by omega)
      exact hq.congr est ev
    · exact (mainUp_risen hj hq).congr (getStage_modHalf ..) fun d _ => getDie_modHalf ..
    · obtain ⟨est, ed, _⟩ := hframe s (k := k) (j := j) (by omega)
      exact hq.congr est ed

/-! ### Phase 7: islands align (R365) -/

/-- A change made of each die listed. -/
theorem getDie_foldl_modDie (f : Nat → Die → Die) {l : List Nat} (hl : l.Nodup) (s : State) (d : Nat) :
    getDie (l.foldl (fun s d => modDie s d (f d)) s) d = if d ∈ l then f d (getDie s d) else getDie s d := by
  induction l generalizing s with
  | nil => rfl
  | cons j l ih =>
    obtain ⟨hj, hl⟩ := List.nodup_cons.mp hl
    rw [List.foldl_cons, ih hl]
    by_cases hd : d = j
    · subst hd; simp [hj]
    · simp [hd, getDie_modDie_ne s _ hd]

theorem nodup_sitesOf (h : Nat) : (sitesOf h).Nodup := List.nodup_range.map fun a b (e : 80 * h + a = 80 * h + b) => by omega

/-- A die whose island is aligned. -/
def Die.aligned (d : Nat) (x : Die) : Die :=
  { x with island := { x.island with off := 0, steer := 0, latched := Config.lineDelay d, delay := Config.lineDelay d, missed := 0, hold := false } }

theorem getDie_alignIslands (s : State) (h d : Nat) :
    getDie (alignIslands s h) d = if d / 80 = h then (getDie s d).aligned d else getDie s d :=
  (getDie_foldl_modDie Die.aligned (nodup_sitesOf h) s d).trans (if_congr mem_sitesOf rfl rfl)

theorem phaseEffect_seven {s : State} (r : PhaseResult) {d : Nat} (hd : d < 160) (hp : (getHalf s (d / 80)).power = true) :
    getDie (phaseEffect s 7 r) d = (getDie s d).aligned d := by
  refine foldl_establishes (P := fun t => getDie t d = (getDie s d).aligned d) (Q := fun t => getDie t d = getDie s d) (nodup_poweredHalves s)
    (mem_poweredHalves.mpr ⟨by omega, hp⟩) (fun t k _ hk hq => ?_) (fun t hq => ?_) (fun t k _ hk hq => ?_) rfl
  · rw [getDie_alignIslands, if_neg hk.symm, hq]
  · rw [getDie_alignIslands, if_pos rfl, hq]
  · rw [getDie_alignIslands, if_neg hk.symm, hq]

/-! ### Phase 11: the built-in test (R443) -/

/-- The cores of a half that failed its test join the list. -/
def badOfHalf (r : PhaseResult) (h : Nat) (l : List Nat) : List Nat :=
  (r.badCores.filter fun k => decide (siteOf k / 80 = h)).foldl (fun l k => if l.contains k then l else l ++ [k]) l

theorem testHalf_frame (s : State) (h : Nat) (r : PhaseResult) :
    (testHalf s h r).badCores = badOfHalf r h s.badCores ∧ (testHalf s h r).boot = s.boot := by
  unfold testHalf
  extract_lets mine s₁ s₂ s₃ bad s₄
  have h₁ : s₁.badCores = s.badCores ∧ s₁.boot = s.boot :=
    ⟨foldl_keeps State.badCores (by intros; rfl) _ s, foldl_keeps State.boot (by intros; rfl) _ s⟩
  have h₂ : s₂.badCores = s₁.badCores ∧ s₂.boot = s₁.boot :=
    ⟨foldl_keeps State.badCores (by intros; rfl) _ s₁, foldl_keeps State.boot (by intros; rfl) _ s₁⟩
  have h₃ : s₃.badCores = s₂.badCores ∧ s₃.boot = s₂.boot :=
    ⟨foldl_keeps State.badCores (by intros; rfl) _ s₂, foldl_keeps State.boot (by intros; rfl) _ s₂⟩
  have hb : s₃.badCores = s.badCores := h₃.1.trans (h₂.1.trans h₁.1)
  have ho : s₃.boot = s.boot := h₃.2.trans (h₂.2.trans h₁.2)
  exact ⟨show bad = _ by rw [← hb]; rfl, ho⟩

theorem mem_badOfHalf {r : PhaseResult} {h k : Nat} {l : List Nat} :
    k ∈ badOfHalf r h l ↔ k ∈ l ∨ (k ∈ r.badCores ∧ siteOf k / 80 = h) := by
  have hf : ∀ (m l : List Nat), k ∈ m.foldl (fun l k => if l.contains k then l else l ++ [k]) l ↔ k ∈ l ∨ k ∈ m := by
    intro m
    induction m with
    | nil => simp
    | cons a m ih =>
      intro l
      rw [List.foldl_cons, ih]
      split
      next hc =>
        have ha : a ∈ l := by simpa using hc
        constructor
        · exact fun h => h.imp_right (List.mem_cons_of_mem _)
        · rintro (h | h)
          · exact .inl h
          · exact (List.mem_cons.mp h).elim (fun e => .inl (e ▸ ha)) .inr
      next => simp [or_assoc]
  rw [badOfHalf, hf]
  simp

theorem splitHalves_crossed {s : State} (h : s.boot.spineFailed = false) : splitHalves s = s := if_neg (by simp [h])

theorem phaseEffect_eleven {s : State} {r : PhaseResult} (hs : s.boot.spineFailed = false) {k : Nat} (hk : k ∈ r.badCores)
    (hp : (getHalf s (siteOf k / 80)).power = true) (hd : siteOf k < 160) : k ∈ (phaseEffect s 11 r).badCores := by
  have hboot : ((poweredHalves s).foldl (fun s h => testHalf s h r) s).boot = s.boot :=
    foldl_keeps State.boot (fun t h => (testHalf_frame t h r).2) _ s
  rw [show phaseEffect s 11 r = splitHalves ((poweredHalves s).foldl (fun s h => testHalf s h r) s) from rfl, splitHalves_crossed (by rw [hboot, hs])]
  refine foldl_establishes (P := fun t : State => k ∈ t.badCores) (Q := fun _ => True) (nodup_poweredHalves s) (mem_poweredHalves.mpr ⟨by omega, hp⟩)
    (fun _ _ _ _ _ => trivial) (fun t _ => ?_) (fun t h _ _ hq => ?_) trivial
  · rw [(testHalf_frame ..).1]
    exact mem_badOfHalf.mpr (.inr ⟨hk, rfl⟩)
  · rw [(testHalf_frame ..).1]
    exact mem_badOfHalf.mpr (.inl hq)

/-! ### Phase 12: the panel serves (R412) -/

theorem endBringUp_spec (s : State) : let t := endBringUp s
    t.epoch = Epoch.reset ∧ t.state = (if s.vault.latch then .safe else .serving) ∧
      t.safeCause = if s.vault.latch then s.vault.latchCause else 0 := by
  unfold endBringUp
  extract_lets safe b s₁ t
  obtain ⟨h0, h1, es, e⟩ := raiseAlert_eq { s₁ with state := if safe then .safe else .serving, safeCause := if safe then s₁.vault.latchCause else 0 }
  rw [show t = _ from e]
  exact ⟨rfl, rfl, rfl⟩

end Sys2Proof.Machine
end

section
/-! PROOFS. Commands of bring-up, of a half that returns and of the discrete inputs. -/

namespace Sys2Proof.Machine

/-! ### A phase of the panel ends (R445, R446) -/

theorem booting_iff {s : State} :
    booting s = true ↔ s.state = .bringUp ∧ 1 ≤ s.boot.phase ∧ s.boot.phase ≤ 12 ∧ s.pins.resetLow = false := by
  simp [booting, and_assoc]

theorem exec_bringUpPhaseComplete_booting {s : State} (r : PhaseResult) (h : booting s = true) :
    exec (.bringUpPhaseComplete r) s = .next (withReports s (endPhase s r)) :=
  report_of_eq (if_pos h)

theorem exec_bringUpPhaseTimeout_late {s : State} (r : PhaseResult) (h : booting s = true)
    (ha : (2 * phaseEnd s.boot.phase - phaseEnd (s.boot.phase - 1)) * 1000000 < bootAge s) :
    exec (.bringUpPhaseTimeout r) s = exec (.bringUpPhaseComplete r) s := by
  rw [exec_bringUpPhaseComplete_booting r h]
  exact report_of_eq (if_pos (by simp [h, ha]))

theorem exec_bringUpPhaseTimeout_early {s : State} (r : PhaseResult)
    (h : booting s = false ∨ bootAge s ≤ (2 * phaseEnd s.boot.phase - phaseEnd (s.boot.phase - 1)) * 1000000) :
    exec (.bringUpPhaseTimeout r) s = .next s := by
  refine report_same (if_neg ?_)
  rcases h with h | h
  · simp [h]
  · simp [h]

/-- A phase that ends leaves its effect; of what bring-up keeps of itself, whether the spine is crossed. -/
theorem endPhase_eq {s : State} (r : PhaseResult) {n : Nat} (hn : s.boot.phase = n) :
    ∃ b, endPhase s r = { phaseEffect s n r with boot := b } ∧ b.spineFailed = (phaseEffect s n r).boot.spineFailed := by
  subst hn
  exact ⟨_, rfl, rfl⟩

/-! ### A phase of a half that returns ends (R449) -/

theorem exec_bringUpPhaseComplete_idle {s : State} (r : PhaseResult) (h : booting s = false) (hh : s.boot.half = none) :
    exec (.bringUpPhaseComplete r) s = .next s := by
  refine (report_of_eq (if_neg (by simp [h]))).trans ?_
  rw [hh, withReports_self]

theorem exec_bringUpPhaseComplete_half {s : State} (r : PhaseResult) (h : booting s = false) {k : Nat} {q : Reply} (hh : s.boot.half = some (k, q)) :
    exec (.bringUpPhaseComplete r) s = .next (withReports s (endHalfPhase s k q r)) := by
  refine (report_of_eq (if_neg (by simp [h]))).trans ?_
  rw [hh]

theorem withReports_of_key {s t : State} (h : reportKey s = reportKey t) : withReports s t = t := by
  unfold withReports
  rw [if_pos h, ite_self]

/-- A step change is announced for the half that joins. -/
theorem announceJoin_spec (s : State) (h : Nat) : let t := announceJoin s h
    t.boot = s.boot ∧ t.clock.pending = true ∧ t.clock.joining = some h ∧ t.mem = s.mem ∧
      (s.clock.pending = false → t.clock.next = s.clock.step ∧ t.clock.tChange = BitVec.ofNat 64 (changeTime (now s))) :=
  ⟨rfl, rfl, rfl, rfl, fun hp => ⟨if_neg (by simp [hp]), if_neg (by simp [hp])⟩⟩

theorem reportKey_announceJoin (s : State) (h : Nat) : reportKey (announceJoin s h) = reportKey s := (reportKey_journal ..).trans rfl

theorem startEpoch_changes (s : State) (ps : List Nat) : bankChanges (startEpoch s ps) = true := by
  unfold startEpoch bankChanges
  extract_lets e
  split
  · simp
  · unfold writeBank
    split <;> rfl

theorem halfEnter_spec (s : State) (h : Nat) : (halfEnter s h).boot.halfPhase = 12 ∧ bankChanges (halfEnter s h) = true := by
  unfold halfEnter
  extract_lets s₁
  refine ⟨?_, startEpoch_changes _ _⟩
  exact congrArg (fun f : Footing => f.boot.halfPhase) (footing_startEpoch { s₁ with boot := { s₁.boot with halfPhase := 12 } } [])

theorem halfJoins_spec (s : State) (h : Nat) (q : Reply) : (getHalf (halfJoins s h q) h).inService = true ∧ (halfJoins s h q).boot.half = none := by
  unfold halfJoins
  extract_lets s₁ s₂ b s₃
  have hf := footing_complete { s₃ with boot := countBoot s₃ } q stOk []
  refine ⟨?_, ?_⟩
  · rw [getHalf_of_footing hf, show getHalf { s₃ with boot := countBoot s₃ } h = getHalf s₂ h from rfl, getHalf_modHalf_self]
  · exact (congrArg (fun f : Footing => f.boot.half) hf).trans rfl

/-! ### Inputs that rise (R442, R447, R448) -/

/-- A half whose input has risen. -/
def Half.risen (x : Half) (t : Word) : Half := { x with power := true, inSince := none, heartbeat := t }

theorem exec_busbarInputRise_on {s : State} {half : Nat} (h : (getHalf s (half % 2)).power = true) : exec (.busbarInputRise half) s = .next s :=
  congrArg Host.Outcome.next (if_pos h)

/-- The auxiliary plane of a half comes back. -/
def planeBack (s : State) (h : Nat) : State := modHalf (auxUp s h) h fun x => { x with refOk := true }

theorem planeBack_eq (s : State) (h : Nat) : ∃ st a b, planeBack s h = { s with stages := st, half0 := a, half1 := b } := by
  obtain ⟨st, e⟩ := auxUp_eq s h
  obtain ⟨a, b, e'⟩ := modHalf_eq { s with stages := st } h fun x => { x with refOk := true }
  exact ⟨st, a, b, by rw [planeBack, e, e']⟩

theorem getHalf_planeBack_self (s : State) (h : Nat) : getHalf (planeBack s h) h = { getHalf s h with refOk := true } := by
  rw [planeBack, getHalf_modHalf_self, getHalf_auxUp]

theorem getHalf_planeBack_other (s : State) {h : Nat} (hh : h < 2) : getHalf (planeBack s h) (1 - h) = getHalf s (1 - h) := by
  rw [planeBack, getHalf_modHalf_other _ hh, getHalf_auxUp]

theorem getStage_planeBack (s : State) (h j : Nat) :
    getStage (planeBack s h) j = if j / 40 = h then { getStage s j with auxOn := true } else getStage s j := by
  rw [planeBack, getStage_modHalf, getStage_auxUp]

theorem exec_busbarInputRise_off {s : State} {half : Nat} (h : (getHalf s (half % 2)).power = false) :
    let t := modHalf s (half % 2) fun x => x.risen s.tally
    exec (.busbarInputRise half) s = .next (
      if s.boot.phase = 0 then { t with state := .bringUp, boot := { s.boot with phase := 1, started := s.tally } }
      else if s.boot.phase = 1 then t else planeBack t (half % 2)) := by
  refine congrArg Host.Outcome.next ((if_neg (by simp [h])).trans ?_)
  obtain ⟨a, b, e⟩ := modHalf_eq s (half % 2) fun x => x.risen s.tally
  rw [show (modHalf s (half % 2) fun x => { x with power := true, inSince := none, heartbeat := s.tally }) = _ from e]
  rw [e]
  rfl

/-! ### Discrete inputs (R349, R459) -/

/-- A report says nothing of THERM_TRIP#. -/
theorem reportKey_thermTrip (s : State) (b : Bool) : reportKey { s with pins := { s.pins with thermTrip := b } } = reportKey s := rfl

theorem exec_thermTrip_low {s : State} (h : s.pins.thermTrip = true) : exec .thermTrip s = .next s :=
  report_same (if_pos h)

theorem exec_thermTrip_held {s : State} (h : s.pins.thermTrip = false) (hl : s.pins.resetLow = true) :
    exec .thermTrip s = .next { s with pins := { s.pins with thermTrip := true } } :=
  (report_of_eq ((if_neg (by simp [h])).trans (if_pos hl))).trans
    (congrArg Host.Outcome.next (withReports_of_key (reportKey_thermTrip s true).symm))

theorem exec_thermTrip_high {s : State} (h : s.pins.thermTrip = false) (hl : s.pins.resetLow = false) : exec .thermTrip s =
    .next (withReports s (rampPanel (bumpFree { s with pins := { s.pins with thermTrip := true }, vault := cutVault s }) 4 false)) :=
  report_of_eq ((if_neg (by simp [h])).trans (if_neg (by simp [hl])))

theorem exec_twinPresentLow_gone {s : State} (h : s.pins.twinPresent = false) : exec .twinPresentLow s = .next s :=
  report_same (if_pos (by simp [h]))

/-- The partner's pin falls: while its frames still arrive an event is all that follows. -/
theorem exec_twinPresentLow_falls {s : State} (h : s.pins.twinPresent = true) : let t := { s with pins := { s.pins with twinPresent := false } }
    exec .twinPresentLow s = .next (withReports s (
      if s.twin.attached && decide (now s < s.twin.lastBeat.toNat + 20000000) then twinEvent t 0 else t)) :=
  report_of_eq (if_neg (by simp [h]))

theorem getHalf_startRamp_ne (s : State) {h k : Nat} (hh : h < 2) (hk : k < 2) (hne : k ≠ h) (t : Word) (aux : Bool) :
    getHalf (startRamp s h t aux) k = getHalf s k := getHalf_modHalf_ne s hh hk hne _

theorem tally_modHalf (s : State) (h : Nat) (f : Half → Half) : (modHalf s h f).tally = s.tally := by
  obtain ⟨a, b, e⟩ := modHalf_eq s h f
  rw [e]

/-- The panel once RESET# is low. -/
def resetAsserted (s : State) : State :=
  let s := bumpFree { s with pins := { s.pins with resetLow := true }, vault := cutVault s }
  let s := mfrRampdown (mfrRampdown s 0 0) 1 0
  let s := modHalf (modHalf s 0 fun x => { x with inService := false }) 1 fun x => { x with inService := false }
  startRamp (startRamp s 0 s.tally false) 1 s.tally false

theorem exec_resetPinAssert_high {s : State} (h : s.pins.resetLow = false) :
    exec .resetPinAssert s = .next (withReports s (resetAsserted s)) :=
  report_of_eq (if_neg (by simp [h]))

theorem resetAsserted_eq (s : State) : ∃ es a b, resetAsserted s = { s with
    pins := { s.pins with resetLow := true }, vault := cutVault s, freeCtr := s.freeCtr + 1, emitted := es, half0 := a, half1 := b } := by
  unfold resetAsserted
  extract_lets p s₁ s₂ s₃
  obtain ⟨a, b, e⟩ := modHalf_eq s₂ 0 fun x => { x with inService := false }
  obtain ⟨a₁, b₁, e₁⟩ := modHalf_eq { s₂ with half0 := a, half1 := b } 1 fun x => { x with inService := false }
  obtain ⟨a₂, b₂, e₂⟩ := startRamp_eq { s₂ with half0 := a₁, half1 := b₁ } 0 s.tally false
  obtain ⟨a₃, b₃, e₃⟩ := startRamp_eq { s₂ with half0 := a₂, half1 := b₂ } 1 s.tally false
  have e' : s₃ = { s₂ with half0 := a₁, half1 := b₁ } := by rw [← e₁, ← e]
  have ht : s₃.tally = s.tally := (tally_modHalf ..).trans (tally_modHalf ..)
  rw [ht, e', e₂, e₃]
  exact ⟨_, _, _, rfl⟩

theorem getHalf_resetAsserted (s : State) {h : Nat} (hh : h < 2) : (getHalf (resetAsserted s) h).inService = false ∧
    ((getHalf s h).ramp = none → (getHalf (resetAsserted s) h).ramp = some (s.tally, false)) := by
  unfold resetAsserted
  extract_lets p s₁ s₂ s₃
  have h₃ : getHalf s₃ h = { getHalf s h with inService := false } := by
    obtain rfl | rfl : h = 0 ∨ h = 1 := by omega
    · rw [getHalf_modHalf_ne _ (by decide) (by decide) (by decide), getHalf_modHalf_self]; rfl
    · rw [getHalf_modHalf_self, getHalf_modHalf_ne _ (by decide) (by decide) (by decide)]; rfl
  have hs : (getHalf s₃ h).inService = false := by rw [h₃]
  have ht : s₃.tally = s.tally := (tally_modHalf ..).trans (tally_modHalf ..)
  rw [ht]
  have hr (hn : (getHalf s h).ramp = none) : (getHalf s₃ h).ramp = none := by rw [h₃]; exact hn
  obtain rfl | rfl : h = 0 ∨ h = 1 := by omega
  · rw [getHalf_startRamp_ne _ (by decide) (by decide) (by decide)]
    exact ⟨(inService_startRamp ..).trans hs, fun hn => by rw [getHalf_startRamp _ _ (hr hn)]⟩
  · have h₄ : getHalf (startRamp s₃ 0 s.tally false) 1 = getHalf s₃ 1 := getHalf_startRamp_ne _ (by decide) (by decide) (by decide) _ _
    exact ⟨(inService_startRamp ..).trans (by rw [h₄, hs]), fun hn => by rw [getHalf_startRamp _ _ (by rw [h₄, hr hn])]⟩

theorem getStage_released {s t : State} {f : Nat → Stage → Stage} (h : t.stages = Tbl.map s.stages f) (j : Nat)
    (hf : f j Stage.reset = Stage.reset) : getStage t j = f j (getStage s j) := by
  rw [getStage, h, Tbl.get_map _ _ _ _ _ hf, getStage]

end Sys2Proof.Machine
end

section
/-! PROOFS. Guest sites that close, and messages to sessions whose numbering has room. -/

namespace Sys2Proof.Machine

/-! ### Guest sites without their rules -/

/-- A guest site without its rules. -/
def gate (s : State) (g : Nat) : Guest := { getGuest s g with rules := [] }

theorem gate_of_untasked {s t : State} (h : untasked t = untasked s) (g : Nat) : gate t g = gate s g := congrArg (fun u : Untold => u.gates g) h

theorem gate_of_untold {s t : State} (h : untold t = untold s) (g : Nat) : gate t g = gate s g := gate_of_untasked (untasked_of_untold h) g

theorem state_of_untasked {s t : State} (h : untasked t = untasked s) : t.state = s.state := congrArg (fun u : Untold => u.rest.state) h

theorem state_of_untold {s t : State} (h : untold t = untold s) : t.state = s.state := state_of_untasked (untasked_of_untold h)

@[simp] theorem getGuest_modGuest_self (s : State) (g : Nat) (f : Guest → Guest) : getGuest (modGuest s g f) g = f (getGuest s g) :=
  Tbl.get_put_self ..

theorem getGuest_modGuest_ne (s : State) {g k : Nat} (f : Guest → Guest) (h : k ≠ g) : getGuest (modGuest s g f) k = getGuest s k :=
  Tbl.get_put_ne _ _ _ _ _ h

theorem gate_modGuest_ne (s : State) {g k : Nat} (f : Guest → Guest) (h : k ≠ g) : gate (modGuest s g f) k = gate s k := by
  rw [gate, getGuest_modGuest_ne s f h, gate]

/-- A change made of each guest site listed. -/
theorem getGuest_foldl_modGuest (f : Guest → Guest) {l : List Nat} (hl : l.Nodup) (s : State) (g : Nat) :
    getGuest (l.foldl (fun s g => modGuest s g f) s) g = if g ∈ l then f (getGuest s g) else getGuest s g := by
  induction l generalizing s with
  | nil => rfl
  | cons k l ih =>
    obtain ⟨hk, hl⟩ := List.nodup_cons.mp hl
    rw [List.foldl_cons, ih hl]
    by_cases hg : g = k
    · subst hg; simp [hk]
    · simp [hg, getGuest_modGuest_ne s f hg]

theorem foldl_modGuest_eq (f : Guest → Guest) (l : List Nat) (s : State) : ∃ gs, l.foldl (fun s g => modGuest s g f) s = { s with guests := gs } := by
  induction l generalizing s with
  | nil => exact ⟨_, rfl⟩
  | cons g l ih => exact ih (modGuest s g f)

/-! ### A site that is fenced Closed (R439) -/

theorem dropWant_eq (s : State) (g : Nat) : dropWant s g = s ∨
    ∃ r st, dropWant s g = complete (modGuest s g fun x => { x with want := none }) r st [] := by
  unfold dropWant
  extract_lets x
  cases x.want with
  | none => exact .inl rfl
  | some w => exact .inr ⟨_, _, rfl⟩

@[simp] theorem untasked_answerGuest (s : State) (g : Nat) (r : GuestReq) (st : Status) (v : Option Line) :
    untasked (answerGuest s g r st v) = untasked s := by
  unfold answerGuest sendPlp
  extract_lets s₁
  have h₁ : untasked s₁ = untasked s := by
    unfold s₁
    split
    · exact untasked_undefineLine ..
    · rfl
  exact (untasked_of_untold (untold_emit ..)).trans h₁

@[simp] theorem untold_sendNotice (s : State) (g b : Nat) : untold (sendNotice s g b) = untold s := by
  unfold sendNotice
  extract_lets
  split
  · exact untold_emit ..
  · rfl

/-- A site that is fenced: its requests are answered, and it is fenced. -/
theorem fenceSite_eq (s : State) (g cause : Nat) : ((getGuest s g).fenced = true ∧ fenceSite s g cause = s) ∨
    ∃ u, untasked u = untasked s ∧ untasked (fenceSite s g cause) = untasked (modGuest u g fun x => { x with fenced := true, reqs := [] }) := by
  unfold fenceSite
  extract_lets x s₁ s₂
  by_cases h : x.fenced = true
  · exact .inl ⟨h, if_pos h⟩
  · refine .inr ⟨s₁, foldl_keeps untasked (fun s r => untasked_answerGuest ..) _ s, ?_⟩
    rw [if_neg h]
    exact untasked_of_untold ((untold_guestEvent ..).trans (untold_sendNotice ..))

theorem gate_dropWant (s : State) (g k : Nat) : ∃ w, gate (dropWant s g) k = { gate s k with want := w } := by
  rcases dropWant_eq s g with e | ⟨r, st, e⟩
  · exact ⟨_, by rw [e]⟩
  · rw [e, gate_of_untold (untold_complete ..)]
    by_cases hk : k = g
    · subst hk
      exact ⟨none, by rw [gate, getGuest_modGuest_self]; rfl⟩
    · exact ⟨_, by rw [gate_modGuest_ne _ _ hk]⟩

theorem gate_dropWant_ne (s : State) {g k : Nat} (hk : k ≠ g) : gate (dropWant s g) k = gate s k := by
  rcases dropWant_eq s g with e | ⟨r, st, e⟩
  · rw [e]
  · rw [e, gate_of_untold (untold_complete ..), gate_modGuest_ne _ _ hk]

theorem gate_fenceSite_ne (s : State) {g k : Nat} (cause : Nat) (hk : k ≠ g) : gate (fenceSite s g cause) k = gate s k := by
  rcases fenceSite_eq s g cause with ⟨_, e⟩ | ⟨u, hu, e⟩
  · rw [e]
  · rw [gate_of_untasked e, gate_modGuest_ne _ _ hk, gate_of_untasked hu]

theorem gate_fenceSite_self (s : State) (g cause : Nat) : let x := gate (fenceSite s g cause) g
    x.fenced = true ∧ x.mode = (gate s g).mode ∧ x.kept = (gate s g).kept := by
  intro x
  rcases fenceSite_eq s g cause with ⟨hf, e⟩ | ⟨u, hu, e⟩
  · have hx : x = gate s g := by unfold x; rw [e]
    rw [hx]
    exact ⟨hf, rfl, rfl⟩
  · have hx : x = { gate s g with fenced := true, reqs := [] } := by
      rw [← gate_of_untasked hu]
      unfold x
      rw [gate_of_untasked e, gate, getGuest_modGuest_self]
      rfl
    rw [hx]
    exact ⟨rfl, rfl, rfl⟩

theorem gate_fenceClosed_ne (s : State) {g k : Nat} (cause : Nat) (hk : k ≠ g) : gate (fenceClosed s g cause) k = gate s k := by
  rw [fenceClosed, gate_fenceSite_ne _ _ hk, gate_modGuest_ne _ _ hk, gate_dropWant_ne s hk]

theorem gate_fenceClosed_self (s : State) (g cause : Nat) : let x := gate (fenceClosed s g cause) g
    x.fenced = true ∧ x.mode = 0 ∧ x.kept = (gate s g).kept := by
  obtain ⟨w, hw⟩ := gate_dropWant s g g
  obtain ⟨hf, hm, hk⟩ := gate_fenceSite_self (modGuest (dropWant s g) g fun x => { x with mode := 0, attq := none }) g cause
  have hg : gate (modGuest (dropWant s g) g fun x => { x with mode := 0, attq := none }) g =
      { gate (dropWant s g) g with mode := 0, attq := none } := by rw [gate, getGuest_modGuest_self]; rfl
  refine ⟨hf, ?_, ?_⟩
  · rw [fenceClosed, hm, hg]
  · rw [fenceClosed, hk, hg, hw]

theorem state_dropWant (s : State) (g : Nat) : (dropWant s g).state = s.state := by
  rcases dropWant_eq s g with e | ⟨r, st, e⟩
  · rw [e]
  · rw [e, state_of_untold (untold_complete ..)]
    rfl

theorem state_fenceSite (s : State) (g cause : Nat) : (fenceSite s g cause).state = s.state := by
  rcases fenceSite_eq s g cause with ⟨_, e⟩ | ⟨u, hu, e⟩
  · rw [e]
  · rw [state_of_untasked e, ← state_of_untasked hu]
    rfl

theorem state_closeSites (s : State) (l : List Nat) : (closeSites s l).state = s.state :=
  foldl_keeps State.state (fun s g => (state_fenceSite ..).trans ((show (modGuest _ _ _).state = _ from rfl).trans (state_dropWant s g))) l s

/-- The sites that close are fenced Closed; what they keep is kept. -/
theorem gate_closeSites {l : List Nat} (hl : l.Nodup) (s : State) {g : Nat} (hg : g ∈ l) : let x := gate (closeSites s l) g
    x.fenced = true ∧ x.mode = 0 ∧ x.kept = (gate s g).kept := by
  refine foldl_establishes (P := fun t => (gate t g).fenced = true ∧ (gate t g).mode = 0 ∧ (gate t g).kept = (gate s g).kept)
    (Q := fun t => (gate t g).kept = (gate s g).kept) hl hg (fun t k _ hk hq => ?_) (fun t hq => ?_) (fun t k _ hk hq => ?_) rfl
  · rw [gate_fenceClosed_ne _ _ hk.symm, hq]
  · obtain ⟨hf, hm, hkept⟩ := gate_fenceClosed_self t g 4
    exact ⟨hf, hm, hkept.trans hq⟩
  · rw [gate_fenceClosed_ne _ _ hk.symm]
    exact hq

/-! ### The safe state -/

theorem state_raiseAlert (s : State) : (raiseAlert s).state = s.state := by
  obtain ⟨a, b, c, e⟩ := raiseAlert_eq s
  rw [e]

theorem state_enterSafe (s : State) (cause : Nat) : (enterSafe s cause).state = .safe ∨ (enterSafe s cause).state = .safeNoId := by
  unfold enterSafe
  split
  next h => exact h
  next =>
    extract_lets s₁ v s₂ s₃ s₄ s₅
    have h₁ : s₁.state = .safe := by
      unfold s₁
      rw [state_raiseAlert]
    clear_value s₁
    have h₃ : s₃.state = s₂.state := state_of_untold (foldl_keeps untold (fun s r => untold_endRequest ..) _ s₂)
    have h₄ : s₄.state = s₃.state := state_closeSites ..
    have h₂ : s₂.state = s₁.state := rfl
    clear_value s₄
    have h₅ : s₅.state = s₄.state := rfl
    left
    rw [state_of_untasked (foldl_keeps untasked untasked_parkOff _ s₅), h₅, h₄, h₃, h₂, h₁]

/-! ### Messages to sessions with numbers left (R312) -/

/-- Each session of `ks` was sent at most one message; nothing else changed but the panel's transcript. -/
structure Told (ks : List Nat) (s t : State) : Prop where
  frame : ∃ ss es, t = { s with sessions := ss, emitted := es }
  others : ∀ n, n ∉ ks → Tbl.find t.sessions n = Tbl.find s.sessions n
  said : ∀ n u, Tbl.find t.sessions n = some u → ∃ v, Tbl.find s.sessions n = some v ∧ u.seqOut.toNat ≤ v.seqOut.toNat + 1 ∧ u.retained = v.retained
  known : ∀ n, (Tbl.find t.sessions n).isSome = (Tbl.find s.sessions n).isSome
  ordered : Tbl.wf s.sessions = true → Tbl.wf t.sessions = true

theorem Told.refl (ks : List Nat) (s : State) : Told ks s s where
  frame := ⟨_, _, rfl⟩
  others _ _ := rfl
  said _ u h := ⟨u, h, Nat.le_succ _, rfl⟩
  known _ := rfl
  ordered h := h

/-- A session that was sent one message, or none. -/
theorem told_put {s t : State} {n : Nat} {u v : Session} {es : List Emit} (hv : Tbl.find s.sessions n = some v)
    (hq : u.seqOut.toNat ≤ v.seqOut.toNat + 1) (hr : u.retained = v.retained)
    (ht : t = { s with sessions := Tbl.put s.sessions n u, emitted := es }) : Told [n] s t := by
  subst ht
  have hne : ∀ k, k ≠ n → Tbl.find (Tbl.put s.sessions n u) k = Tbl.find s.sessions k := fun k hk => Tbl.find_put_ne _ _ _ _ hk
  refine ⟨⟨_, _, rfl⟩, fun k hk => hne k (by simpa using hk), fun k w hw => ?_, fun k => ?_, fun h => Tbl.put_wf h⟩
  · by_cases hk : k = n
    · subst hk
      rw [Tbl.find_put_self, Option.some.injEq] at hw
      exact ⟨v, hv, hw ▸ hq, hw ▸ hr⟩
    · exact ⟨w, (hne k hk).symm.trans hw, Nat.le_succ _, rfl⟩
  · by_cases hk : k = n
    · subst hk
      rw [Tbl.find_put_self, hv]
      rfl
    · rw [hne k hk]

/-- Then other sessions are told. -/
theorem Told.cons {n : Nat} {ks : List Nat} {s t u : State} (hn : n ∉ ks) (h : Told [n] s t) (h' : Told ks t u) : Told (n :: ks) s u := by
  obtain ⟨⟨ss, es, rfl⟩, ho, hs, hk, hw⟩ := h
  obtain ⟨⟨ss', es', rfl⟩, ho', hs', hk', hw'⟩ := h'
  refine ⟨⟨ss', es', rfl⟩, fun m hm => ?_, fun m x hx => ?_, fun m => (hk' m).trans (hk m), fun h => hw' (hw h)⟩
  · obtain ⟨hmn, hmk⟩ := not_or.mp (List.mem_cons.not.mp hm)
    exact (ho' m hmk).trans (ho m (by simpa using hmn))
  · by_cases hm : m = n
    · subst hm
      exact hs m x ((ho' m hn).symm.trans hx)
    · obtain ⟨v, hv, hq, hr⟩ := hs' m x hx
      exact ⟨v, (ho m (by simpa using hm)).symm.trans hv, hq, hr⟩

theorem seqOut_succ (q : BitVec 64) : (q + 1).toNat ≤ q.toNat + 1 := by
  rw [BitVec.toNat_add]
  exact Nat.mod_le _ _

/-- A message to a session with numbers left. -/
theorem sendMsg_eq {s : State} {n : Nat} {t : Session} (port : Nat) (m : Msg) (ht : Tbl.find s.sessions n = some t) (hn : t.seqOut.toNat < 2 ^ 63) :
    ∃ u es, u.seqOut.toNat ≤ t.seqOut.toNat + 1 ∧ u.retained = t.retained ∧
      (sendMsg s n port m = s ∨ sendMsg s n port m = { s with sessions := Tbl.put s.sessions n u, emitted := es }) := by
  unfold sendMsg
  rw [ht]
  dsimp only
  rw [if_neg (by omega)]
  split
  · exact ⟨t, s.emitted, Nat.le_succ _, rfl, .inl rfl⟩
  · exact ⟨{ t with seqOut := t.seqOut + 1 }, _, seqOut_succ _, rfl, .inr rfl⟩

/-- A session is put in its place, and sent a message. -/
theorem told_sendMsg {s : State} {n : Nat} {t u : Session} (port : Nat) (m : Msg) (ht : Tbl.find s.sessions n = some t)
    (hn : t.seqOut.toNat < 2 ^ 63) (hq : u.seqOut = t.seqOut) (hr : u.retained = t.retained) :
    Told [n] s (sendMsg { s with sessions := Tbl.put s.sessions n u } n port m) := by
  obtain ⟨v, es, hvq, hvr, e⟩ := sendMsg_eq (s := { s with sessions := Tbl.put s.sessions n u }) port m (Tbl.find_put_self ..) (hq ▸ hn)
  rcases e with e | e
  · refine told_put (es := s.emitted) ht ?_ hr e
    rw [hq]
    exact Nat.le_succ _
  · rw [e]
    refine told_put (es := es) ht (hq ▸ hvq) (hvr.trans hr) ?_
    dsimp only
    rw [Tbl.put_put]

theorem told_sendEvent {s : State} {n : Nat} {t u : Session} (eseq : Nat) (ht : Tbl.find s.sessions n = some t) (hn : t.seqOut.toNat < 2 ^ 63)
    (hq : u.seqOut = t.seqOut) (hr : u.retained = t.retained) : Told [n] s (sendEvent { s with sessions := Tbl.put s.sessions n u } n eseq) := by
  unfold sendEvent
  rw [Tbl.find_put_self]
  dsimp only
  split
  next =>
    refine told_put (es := s.emitted) ht ?_ hr rfl
    rw [hq]
    exact Nat.le_succ _
  next e _ =>
    rw [Tbl.put_put]
    exact told_sendMsg _ _ ht hn hq hr

theorem told_eventTo {s : State} {n : Nat} (code : Nat) (body : Bytes) (hn : Numbered s n) : Told [n] s (eventTo s n code body) := by
  unfold eventTo
  split
  next => exact Told.refl _ _
  next t ht =>
    split
    next =>
      refine told_put (es := s.emitted) ht ?_ ?_ rfl
      · exact Nat.le_succ _
      · rfl
    next =>
      refine told_sendEvent _ ht (hn t ht) ?_ ?_
      · rfl
      · rfl

/-- An event to the sessions that subscribe to it. -/
theorem told_foldl_eventTo (code : Nat) (body : Bytes) {l : List (Nat × Session)} (hl : (l.map (·.1)).Nodup) {s : State}
    (hn : ∀ n ∈ l.map (·.1), Numbered s n) :
    Told (l.map (·.1)) s (l.foldl (fun s t => if t.2.est && t.2.mask.getLsbD code then eventTo s t.1 code body else s) s) := by
  induction l generalizing s with
  | nil => exact Told.refl _ _
  | cons p l ih =>
    obtain ⟨hp, hl⟩ := List.nodup_cons.mp hl
    obtain ⟨hnp, hnl⟩ := List.forall_mem_cons.mp hn
    have hstep : Told [p.1] s (if p.2.est && p.2.mask.getLsbD code then eventTo s p.1 code body else s) := by
      split
      · exact told_eventTo _ _ hnp
      · exact Told.refl _ _
    refine hstep.cons hp (ih hl fun n hm t ht => ?_)
    have hne : n ∉ [p.1] := by
      rw [List.mem_singleton]
      rintro rfl
      exact hp hm
    exact hnl n hm t ((hstep.others n hne).symm.trans ht)

/-- Every session has `k` numbers left. -/
def Roomy (k : Nat) (s : State) : Prop :=
  Tbl.wf s.sessions = true ∧ ∀ n t, Tbl.find s.sessions n = some t → t.seqOut.toNat + k ≤ 2 ^ 63

theorem told_postEvent {s : State} (code : Nat) (body : Bytes) (h : Roomy 1 s) : Told (s.sessions.map (·.1)) s (postEvent s code body) := by
  obtain ⟨hw, hroom⟩ := h
  refine told_foldl_eventTo code body ?_ fun n _ t ht => by have := hroom n t ht; omega
  exact List.pairwise_map.mpr (((Tbl.wf_iff _).mp hw).imp fun h => Nat.ne_of_lt h)

/-! ### What a hub's loss and return change beside it -/

/-- At most `k` messages to each session, and changes of the guest sites `l`. -/
structure Talked (k : Nat) (l : List Nat) (s t : State) : Prop where
  mem : t.mem = s.mem
  cores : t.cores = s.cores
  parts : t.parts = s.parts
  requests : t.requests = s.requests
  guests : ∀ g, g ∉ l → getGuest t g = getGuest s g
  known : ∀ n, (Tbl.find t.sessions n).isSome = (Tbl.find s.sessions n).isSome
  ordered : Tbl.wf s.sessions = true → Tbl.wf t.sessions = true
  said : ∀ n u, Tbl.find t.sessions n = some u → ∃ v, Tbl.find s.sessions n = some v ∧ u.seqOut.toNat ≤ v.seqOut.toNat + k ∧ u.retained = v.retained

theorem Talked.trans {j k : Nat} {l : List Nat} {s t u : State} (h : Talked j l s t) (h' : Talked k l t u) : Talked (j + k) l s u where
  mem := h'.mem.trans h.mem
  cores := h'.cores.trans h.cores
  parts := h'.parts.trans h.parts
  requests := h'.requests.trans h.requests
  guests g hg := (h'.guests g hg).trans (h.guests g hg)
  known n := (h'.known n).trans (h.known n)
  ordered hw := h'.ordered (h.ordered hw)
  said n x hx := by
    obtain ⟨v, hv, hq, hr⟩ := h'.said n x hx
    obtain ⟨w, hw, hq', hr'⟩ := h.said n v hv
    exact ⟨w, hw, by omega, hr.trans hr'⟩

theorem Talked.mono {j k : Nat} {l m : List Nat} {s t : State} (hk : j ≤ k) (hl : ∀ g ∈ l, g ∈ m) (h : Talked j l s t) : Talked k m s t where
  mem := h.mem
  cores := h.cores
  parts := h.parts
  requests := h.requests
  guests g hg := h.guests g fun hm => hg (hl g hm)
  known := h.known
  ordered := h.ordered
  said n x hx := by
    obtain ⟨v, hv, hq, hr⟩ := h.said n x hx
    exact ⟨v, hv, by omega, hr⟩

theorem Talked.roomy {j k : Nat} {l : List Nat} {s t : State} (h : Talked j l s t) (hr : Roomy (j + k) s) : Roomy k t := by
  obtain ⟨hw, hroom⟩ := hr
  refine ⟨h.ordered hw, fun n x hx => ?_⟩
  obtain ⟨v, hv, hq, _⟩ := h.said n x hx
  have := hroom n v hv
  omega

/-- The hosts' sessions and the fields that `Talked` speaks of as they are: all else may change. -/
theorem talked_of_eq {l : List Nat} {s t : State} (hm : t.mem = s.mem) (hc : t.cores = s.cores) (hp : t.parts = s.parts)
    (hq : t.requests = s.requests) (hg : ∀ g, g ∉ l → getGuest t g = getGuest s g) (hs : t.sessions = s.sessions) : Talked 0 l s t where
  mem := hm
  cores := hc
  parts := hp
  requests := hq
  guests := hg
  known n := by rw [hs]
  ordered h := hs ▸ h
  said n u hu := ⟨u, hs ▸ hu, Nat.le_refl _, rfl⟩

theorem Talked.refl (s : State) : Talked 0 [] s s := talked_of_eq rfl rfl rfl rfl (fun _ _ => rfl) rfl

theorem talked_of_told {ks : List Nat} {s t : State} (h : Told ks s t) : Talked 1 [] s t := by
  obtain ⟨⟨ss, es, rfl⟩, _, hs, hk, hw⟩ := h
  exact ⟨rfl, rfl, rfl, rfl, fun _ _ => rfl, hk, hw, hs⟩

theorem talked_postEvent {s : State} (code : Nat) (body : Bytes) (h : Roomy 1 s) : Talked 1 [] s (postEvent s code body) :=
  talked_of_told (told_postEvent code body h)

theorem talked_modGuest (s : State) (g : Nat) (f : Guest → Guest) : Talked 0 [g] s (modGuest s g f) :=
  talked_of_eq rfl rfl rfl rfl (fun _ hk => getGuest_modGuest_ne s f (by simpa using hk)) rfl

theorem talked_sendNotice (s : State) (g b : Nat) : Talked 0 [] s (sendNotice s g b) := by
  unfold sendNotice sendPlp
  extract_lets
  split
  · exact talked_of_eq rfl rfl rfl rfl (fun _ _ => rfl) rfl
  · exact Talked.refl s

/-! ### Sites at rest close -/

/-- No request of the site is open, and no change of its mode is under way. -/
def SiteAtRest (s : State) (g : Nat) : Prop := (getGuest s g).reqs = [] ∧ (getGuest s g).want = none

theorem talked_fenceClosed {s : State} {g : Nat} (cause : Nat) (hg : SiteAtRest s g) (hr : Roomy 1 s) : Talked 1 [g] s (fenceClosed s g cause) := by
  obtain ⟨hreqs, hwant⟩ := hg
  have hdrop : dropWant s g = s := by rw [dropWant, hwant]
  have h₁ := talked_modGuest s g fun x => { x with mode := 0, attq := none }
  unfold fenceClosed
  rw [hdrop]
  have hreqs₁ : (getGuest (modGuest s g fun x => { x with mode := 0, attq := none }) g).reqs = [] := by
    rw [getGuest_modGuest_self]; exact hreqs
  generalize (modGuest s g fun x => { x with mode := 0, attq := none }) = t at h₁ hreqs₁
  unfold fenceSite
  dsimp only
  rw [hreqs₁, List.foldl_nil]
  generalize hu : (modGuest t g fun x => { x with fenced := true, reqs := [] }) = u
  split
  · exact h₁.mono (Nat.zero_le _) fun _ h => h
  · have h₂ : Talked 0 [g] s (sendNotice u g 1) :=
      h₁.trans ((hu ▸ talked_modGuest t g _ : Talked 0 [g] t u).trans ((talked_sendNotice u g 1).mono (Nat.le_refl _) (by simp)))
    exact (h₂.trans ((talked_postEvent _ _ (h₂.roomy (by simpa using hr))).mono (Nat.le_refl _) (by simp))).mono (by omega) fun _ h => h

theorem talked_closeSites {l : List Nat} (hl : l.Nodup) {s : State} (hg : ∀ g ∈ l, SiteAtRest s g) (hr : Roomy l.length s) :
    Talked l.length l s (closeSites s l) := by
  induction l generalizing s with
  | nil => exact Talked.refl s
  | cons g l ih =>
    obtain ⟨hgl, hl⟩ := List.nodup_cons.mp hl
    obtain ⟨hg0, hg⟩ := List.forall_mem_cons.mp hg
    have hw : Roomy (1 + l.length) s := by rw [Nat.add_comm]; exact hr
    have hone : Roomy 1 s := ⟨hw.1, fun n t ht => by have := hw.2 n t ht; omega⟩
    have h₁ := talked_fenceClosed 4 hg0 hone
    have h₂ := ih hl (s := fenceClosed s g 4) (fun k hk => ?_) (h₁.roomy hw)
    · have h₃ := (h₁.mono (Nat.le_refl _) (m := g :: l) (by simp)).trans (h₂.mono (Nat.le_refl _) (m := g :: l) (by simp +contextual))
      exact h₃.mono (by simp; omega) fun _ h => h
    · have hk' : k ∉ [g] := by
        rw [List.mem_singleton]
        exact fun e => hgl (e ▸ hk)
      unfold SiteAtRest
      rw [h₁.guests k hk']
      exact hg k hk

/-! ### Streams that move to the other port (R304) -/

theorem talked_modSess_port (s : State) (n port : Nat) : Talked 0 [] s (modSess s n fun t => { t with port := port }) := by
  unfold modSess
  split
  next t ht =>
    have h := told_put (s := s) (t := { s with sessions := Tbl.put s.sessions n { t with port := port } }) (es := s.emitted)
      (u := { t with port := port }) ht (Nat.le_succ _) rfl rfl
    refine ⟨rfl, rfl, rfl, rfl, fun _ _ => rfl, h.known, h.ordered, fun k u hu => ?_⟩
    by_cases hk : k = n
    · subst hk
      rw [Tbl.find_put_self, Option.some.injEq] at hu
      exact ⟨t, ht, hu ▸ Nat.le_refl _, hu ▸ rfl⟩
    · exact ⟨u, (Tbl.find_put_ne _ _ _ _ hk).symm.trans hu, Nat.le_refl _, rfl⟩
  next => exact Talked.refl s

/-- No stream holds anything to be sent again. -/
def Streamless (s : State) : Prop := ∀ n t, Tbl.find s.sessions n = some t → t.retained = []

theorem Talked.streamless {k : Nat} {l : List Nat} {s t : State} (h : Talked k l s t) (hs : Streamless s) : Streamless t := fun n u hu => by
  obtain ⟨v, hv, _, hr⟩ := h.said n u hu
  exact hr.trans (hs n v hv)

theorem resendAll_streamless {s : State} (n : Nat) (hs : Streamless s) : resendAll s n = s := by
  have hw : sendWaiting s n = s := by
    unfold sendWaiting
    split
    next => rfl
    next t ht => simp [Session.inOrder, hs n t ht, sendEach]
  unfold resendAll
  split
  next => rfl
  next t ht => simp [Session.inOrder, hs n t ht, hw]

theorem talked_movePort {s : State} (p : Nat) (hs : Streamless s) : Talked 0 [] s (movePort s p) := by
  unfold movePort
  extract_lets dest
  split
  next => exact Talked.refl s
  next hd =>
    clear hd
    generalize (s.sessions.filter fun t => t.2.est && t.2.port = p) = l
    induction l generalizing s with
    | nil => exact Talked.refl s
    | cons e l ih =>
      have h₁ := talked_modSess_port s e.1 dest
      rw [List.foldl_cons, resendAll_streamless e.1 (h₁.streamless hs)]
      exact h₁.trans (ih (h₁.streamless hs))

end Sys2Proof.Machine
end

section
/-! PROOFS. The loss of a hub and its return. -/

namespace Sys2Proof.Machine

/-! ### Hubs -/

theorem getHub_modHub_self (s : State) (h : Nat) (f : Hub → Hub) : getHub (modHub s h f) h = f (getHub s h) := by
  unfold modHub setHub getHub
  split <;> rfl

theorem getHub_modHub_other (s : State) {h : Nat} (hh : h < 2) (f : Hub → Hub) : getHub (modHub s h f) (1 - h) = getHub s (1 - h) := by
  unfold modHub setHub getHub
  obtain rfl | rfl : h = 0 ∨ h = 1 := by omega
  · rfl
  · rfl

theorem modHub_eq (s : State) (h : Nat) (f : Hub → Hub) : ∃ a b, modHub s h f = { s with hub0 := a, hub1 := b } := by
  unfold modHub setHub
  split <;> exact ⟨_, _, rfl⟩

theorem hubUp_of_footing {s t : State} (h : footing t = footing s) (k : Nat) : hubUp t k = hubUp s k := by
  have h0 : t.hub0.up = s.hub0.up := congrArg Footing.up0 h
  have h1 : t.hub1.up = s.hub1.up := congrArg Footing.up1 h
  unfold hubUp getHub
  split
  · exact h0
  · exact h1

theorem lead_of_footing {s t : State} (h : footing t = footing s) : t.lead = s.lead := congrArg Footing.lead h

theorem getHub_journal_of_untold {s t : State} (h : untold t = untold s) (k : Nat) : (getHub t k).journal = (getHub s k).journal := by
  have h0 : t.hub0.journal = s.hub0.journal := congrArg (fun u : Untold => u.rest.hub0.journal) h
  have h1 : t.hub1.journal = s.hub1.journal := congrArg (fun u : Untold => u.rest.hub1.journal) h
  unfold getHub
  split
  · exact h0
  · exact h1

theorem nodup_sitesOfHub (h : Nat) : (sitesOfHub h).Nodup := List.nodup_range.map fun a b (e : 4 * h + a = 4 * h + b) => by omega

/-! ### A hub that leaves service (R29) -/

/-- A hub out, its partner leading if it led and the partner is there. -/
def hubOff (s : State) (h : Nat) : State :=
  let s := ptpPortLost (modHub s h fun x => { x with up := false, portUp := false }) h
  if s.lead = h && hubUp s (1 - h) then { s with lead := 1 - h } else s

/-- The sites of a hub close, its streams move, and the hosts are told. -/
def hubGone (s : State) (h : Nat) (leads : Bool) : State :=
  let s := hubEvent (movePort (closeSites (keepModes s (sitesOfHub h)) (sitesOfHub h)) h) h 0
  if leads then hubEvent s (1 - h) 2 else s

theorem hubOff_eq (s : State) (h : Nat) : ∃ a b m l, hubOff s h = { s with hub0 := a, hub1 := b, master := m, lead := l } := by
  obtain ⟨a, b, e⟩ := modHub_eq s h fun x => { x with up := false, portUp := false }
  unfold hubOff
  rw [e]
  extract_lets t
  obtain ⟨m, ht⟩ : ∃ m, t = { s with hub0 := a, hub1 := b, master := m } := ⟨_, rfl⟩
  clear_value t
  subst ht
  split
  · exact ⟨a, b, m, _, rfl⟩
  · exact ⟨a, b, m, _, rfl⟩

theorem getHub_ptpPortLost (s : State) (p k : Nat) : getHub (ptpPortLost s p) k = getHub s k := rfl

theorem hubOff_spec (s : State) {h : Nat} (hh : h < 2) : hubUp (hubOff s h) h = false ∧ hubUp (hubOff s h) (1 - h) = hubUp s (1 - h) ∧
    (hubOff s h).lead = if s.lead = h ∧ hubUp s (1 - h) = true then 1 - h else s.lead := by
  unfold hubOff
  extract_lets t
  have hself : hubUp t h = false := by
    rw [hubUp, getHub_ptpPortLost, getHub_modHub_self]
  have hother : hubUp t (1 - h) = hubUp s (1 - h) := by
    rw [hubUp, getHub_ptpPortLost, getHub_modHub_other s hh, hubUp]
  have hlead : t.lead = s.lead := by
    obtain ⟨a, b, e⟩ := modHub_eq s h fun x => { x with up := false, portUp := false }
    unfold t
    rw [e]
    rfl
  clear_value t
  have hk (l : Nat) (k : Nat) : hubUp { t with lead := l } k = hubUp t k := rfl
  have hc : (t.lead = h && hubUp t (1 - h)) = true ↔ s.lead = h ∧ hubUp s (1 - h) = true := by simp [hlead, hother]
  by_cases hl : s.lead = h ∧ hubUp s (1 - h) = true
  · rw [if_pos (hc.mpr hl), if_pos hl, hk, hk]
    exact ⟨hself, hother, rfl⟩
  · rw [if_neg (hc.not.mpr hl), if_neg hl]
    exact ⟨hself, hother, hlead⟩

theorem hubDown_out {s : State} {h : Nat} (hu : hubUp s h = false) : hubDown s h = s := if_pos (by simp [hu])

/-- Does the partner take the lead? -/
def leadMoves (s : State) (h : Nat) : Bool := s.lead = h && hubUp s (1 - h)

/-- A hub that is up leaves service. -/
theorem hubDown_eq {s : State} {h : Nat} (hh : h < 2) (hu : hubUp s h = true) :
    let t := hubOff s h
    let u := if hubUp t (1 - h) then fenceUnjournaled t (1 - h) else { t with boot := { t.boot with hubsLost := true } }
    hubDown s h = hubGone (if hubUp u (1 - h) then u else enterSafe (noteRung u 5) 2) h (leadMoves s h) := by
  intro t' u'
  unfold hubDown
  rw [if_neg (by simp [hu])]
  extract_lets t leads
  have hlead : leads = leadMoves s h := by
    have hl : t.lead = s.lead := by
      obtain ⟨a, b, e⟩ := modHub_eq s h fun x => { x with up := false, portUp := false }
      unfold t
      rw [e]
      rfl
    have ho : hubUp t (1 - h) = hubUp s (1 - h) := by rw [hubUp, getHub_ptpPortLost, getHub_modHub_other s hh, hubUp]
    unfold leads leadMoves
    rw [hl, ho]
  rw [← hlead]
  rfl

theorem hubDown_survived {s : State} {h : Nat} (hh : h < 2) (hu : hubUp s h = true) (ho : hubUp s (1 - h) = true) :
    hubDown s h = hubGone (fenceUnjournaled (hubOff s h) (1 - h)) h (leadMoves s h) := by
  obtain ⟨_, hother, _⟩ := hubOff_spec s hh
  rw [ho] at hother
  have hf : hubUp (fenceUnjournaled (hubOff s h) (1 - h)) (1 - h) = true :=
    (hubUp_of_footing (footing_of_untold (untold_fenceUnjournaled ..)) _).trans hother
  rw [hubDown_eq hh hu, if_pos hother, if_pos hf]

theorem hubDown_alone {s : State} {h : Nat} (hh : h < 2) (hu : hubUp s h = true) (ho : hubUp s (1 - h) = false) : let t := hubOff s h
    hubDown s h = hubGone (enterSafe (noteRung { t with boot := { t.boot with hubsLost := true } } 5) 2) h (leadMoves s h) := by
  obtain ⟨_, hother, _⟩ := hubOff_spec s hh
  rw [ho, ← Bool.not_eq_true] at hother
  intro t
  have hf : ¬ hubUp { t with boot := { t.boot with hubsLost := true } } (1 - h) = true := hother
  rw [hubDown_eq hh hu, if_neg hother, if_neg hf]

theorem footing_keepModes (s : State) (l : List Nat) : footing (keepModes s l) = footing s := foldl_keeps footing (by intros; rfl) l s

theorem state_keepModes (s : State) (l : List Nat) : (keepModes s l).state = s.state := foldl_keeps State.state (by intros; rfl) l s

theorem untold_hubGone (s : State) (h : Nat) (leads : Bool) :
    untold (hubGone s h leads) = untold (closeSites (keepModes s (sitesOfHub h)) (sitesOfHub h)) := by
  unfold hubGone
  extract_lets t
  have ht : untold t = untold (closeSites (keepModes s (sitesOfHub h)) (sitesOfHub h)) := (untold_hubEvent ..).trans (untold_movePort ..)
  split
  · exact (untold_hubEvent ..).trans ht
  · exact ht

theorem footing_hubGone (s : State) (h : Nat) (leads : Bool) : footing (hubGone s h leads) = footing s :=
  (footing_of_untold (untold_hubGone ..)).trans ((footing_closeSites ..).trans (footing_keepModes ..))

theorem state_hubGone (s : State) (h : Nat) (leads : Bool) : (hubGone s h leads).state = s.state :=
  (state_of_untold (untold_hubGone ..)).trans ((state_closeSites ..).trans (state_keepModes ..))

theorem gate_hubGone (s : State) (h : Nat) (leads : Bool) {g : Nat} (hg : g ∈ sitesOfHub h) : let x := gate (hubGone s h leads) g
    x.fenced = true ∧ x.mode = 0 ∧ x.kept = some (gate s g).mode := by
  rw [gate_of_untold (untold_hubGone ..)]
  obtain ⟨hf, hm, hk⟩ := gate_closeSites (nodup_sitesOfHub h) (keepModes s (sitesOfHub h)) hg
  refine ⟨hf, hm, hk.trans ?_⟩
  rw [gate, keepModes, getGuest_foldl_modGuest _ (nodup_sitesOfHub h), if_pos hg]
  rfl

theorem talked_keepModes (s : State) (l : List Nat) (hl : l.Nodup) : Talked 0 l s (keepModes s l) := by
  obtain ⟨gs, e⟩ := foldl_modGuest_eq (fun x => { x with kept := some x.mode }) l s
  have hg : ∀ g, g ∉ l → getGuest (keepModes s l) g = getGuest s g := fun g hg => by
    rw [keepModes, getGuest_foldl_modGuest _ hl, if_neg hg]
  refine talked_of_eq ?_ ?_ ?_ ?_ hg ?_ <;> rw [keepModes, e]

/-- A hub whose sites are at rest, with streams that hold nothing and sessions with room, is lost: nothing else changes. -/
theorem talked_hubGone {s : State} (h : Nat) (leads : Bool) (hg : ∀ g ∈ sitesOfHub h, SiteAtRest s g) (hs : Streamless s) (hr : Roomy 6 s) :
    Talked 6 (sitesOfHub h) s (hubGone s h leads) := by
  have hlen : (sitesOfHub h).length = 4 := by simp [sitesOfHub]
  have h₁ := talked_keepModes s (sitesOfHub h) (nodup_sitesOfHub h)
  have hrest : ∀ g ∈ sitesOfHub h, SiteAtRest (keepModes s (sitesOfHub h)) g := fun g hm => by
    unfold SiteAtRest
    rw [keepModes, getGuest_foldl_modGuest _ (nodup_sitesOfHub h), if_pos hm]
    exact hg g hm
  have hroom : Roomy (4 + 2) (keepModes s (sitesOfHub h)) := h₁.roomy (j := 0) hr
  have h₂ : Talked 4 (sitesOfHub h) s (closeSites (keepModes s (sitesOfHub h)) (sitesOfHub h)) := by
    have h₂ := talked_closeSites (nodup_sitesOfHub h) hrest (hlen ▸ ⟨hroom.1, fun n t ht => by have := hroom.2 n t ht; omega⟩)
    rw [hlen] at h₂
    exact h₁.trans h₂
  have h₃ := h₂.trans ((talked_movePort h (h₂.streamless hs)).mono (Nat.le_refl 0) (by simp))
  have h₄ := h₃.trans ((talked_postEvent 8 (leBytes 1 h ++ leBytes 1 0) (h₃.roomy ⟨hr.1, fun n t ht => by have := hr.2 n t ht; omega⟩)).mono
    (Nat.le_refl 1) (m := sitesOfHub h) (by simp))
  unfold hubGone
  extract_lets t
  split
  · exact h₄.trans ((talked_postEvent _ _ (h₄.roomy (j := 5) (k := 1) hr)).mono (Nat.le_refl 1) (by simp))
  · exact h₄.mono (by omega) fun _ h => h

theorem fenceUnjournaled_idle {s : State} (k : Nat) (h : ∀ e ∈ s.sessions, ∀ b ∈ e.2.boxes, b.2.held = []) : fenceUnjournaled s k = s := by
  unfold fenceUnjournaled
  extract_lets lost
  have hlost : lost = [] := by
    refine List.flatMap_eq_nil_iff.mpr fun e he => List.flatMap_eq_nil_iff.mpr fun b hb => ?_
    simp [h e he b hb]
  rw [hlost, List.foldl_nil]

/-- A request that waits and that the survivor's journal does not hold. -/
theorem fenceUnjournaled_one {s : State} {k n : Nat} {e : Session} {b : Mailbox} {q : HeldRequest} (hs : s.sessions = [(n, e)])
    (hb : e.boxes = [(0, b)]) (hh : b.held = [(q.reply.rseq, q)]) (hq : q.ro = false) (hj : q.reply.entry ∉ (getHub s k).journal) :
    fenceUnjournaled s k = complete s q.reply stFenced [] := by
  unfold fenceUnjournaled
  simp [hs, hb, hh, hq, hj]

/-! ### A hub that returns (R26) -/

/-- May a lost hub return? -/
theorem exec_hubReturn_eq (s : State) (h : Nat) : exec (.hubReturn h) s = .next (withReports s (
    if 2 ≤ h ∨ hubUp s h = true ∨ (getHub s h).selfTest = false ∨ hubUp s (1 - h) = false ∨ ∃ f, s.fwUpdate = some f ∧ f.hub = h then s
    else hubBack s h)) := by
  refine report_of_eq (if_congr ?_ rfl rfl)
  cases s.fwUpdate <;> simp [hubUp, or_assoc]

theorem exec_hubReturn_out {s : State} {h : Nat} (hc : 2 ≤ h ∨ hubUp s h = true ∨ (getHub s h).selfTest = false ∨ hubUp s (1 - h) = false ∨
    s.boot.hubsLost = true ∨ ∃ f, s.fwUpdate = some f ∧ f.hub = h) : exec (.hubReturn h) s = .next s := by
  rw [exec_hubReturn_eq]
  split
  next => rw [withReports_self]
  next hn =>
    simp only [not_or] at hn
    obtain ⟨h2, hd, ht, ho, hf⟩ := hn
    have hl : s.boot.hubsLost = true := ((((hc.resolve_left h2).resolve_left hd).resolve_left ht).resolve_left ho).resolve_right hf
    rw [hubBack, if_pos hl, withReports_self]

theorem exec_hubReturn_in {s : State} {h : Nat} (hh : h < 2) (hd : hubUp s h = false) (ht : (getHub s h).selfTest = true)
    (ho : hubUp s (1 - h) = true) (hl : s.boot.hubsLost = false) (hf : ∀ f, s.fwUpdate = some f → f.hub ≠ h) :
    exec (.hubReturn h) s = .next (withReports s (hubEvent (restoreModes (modHub s h fun x => { x with
      up := true, journal := (getHub s (1 - h)).journal }) (sitesOfHub h)) h 1)) := by
  have hn : ¬ (2 ≤ h ∨ hubUp s h = true ∨ (getHub s h).selfTest = false ∨ hubUp s (1 - h) = false ∨ ∃ f, s.fwUpdate = some f ∧ f.hub = h) := by
    rintro (h2 | h2 | h2 | h2 | ⟨f, h2, h3⟩)
    · omega
    · simp [hd] at h2
    · simp [ht] at h2
    · simp [ho] at h2
    · exact hf f h2 h3
  rw [exec_hubReturn_eq, if_neg hn, hubBack, if_neg (by simp [hl])]

/-- A hub back in service, with its partner's journal. -/
def hubIn (s : State) (h : Nat) : State :=
  restoreModes (modHub s h fun x => { x with up := true, journal := (getHub s (1 - h)).journal }) (sitesOfHub h)

theorem hubIn_eq (s : State) (h : Nat) : ∃ a b gs, hubIn s h = { s with hub0 := a, hub1 := b, guests := gs } := by
  obtain ⟨a, b, e⟩ := modHub_eq s h fun x => { x with up := true, journal := (getHub s (1 - h)).journal }
  unfold hubIn
  rw [e]
  obtain ⟨gs, e'⟩ := foldl_modGuest_eq (fun x => { x with mode := x.kept.getD x.mode, kept := none }) (sitesOfHub h) { s with hub0 := a, hub1 := b }
  exact ⟨a, b, gs, e'⟩

theorem getHub_hubIn (s : State) (h k : Nat) :
    getHub (hubIn s h) k = getHub (modHub s h fun x => { x with up := true, journal := (getHub s (1 - h)).journal }) k :=
  foldl_keeps (getHub · k) (by intros; rfl) _ _

theorem getGuest_hubIn (s : State) (h g : Nat) : getGuest (hubIn s h) g = if g ∈ sitesOfHub h then
    { getGuest s g with mode := (getGuest s g).kept.getD (getGuest s g).mode, kept := none } else getGuest s g := by
  obtain ⟨a, b, e⟩ := modHub_eq s h fun x => { x with up := true, journal := (getHub s (1 - h)).journal }
  rw [hubIn, e]
  exact getGuest_foldl_modGuest _ (nodup_sitesOfHub h) _ g

end Sys2Proof.Machine
end

section
/-! PROOFS. Bring-up, halves, pins and hubs: O57. -/

namespace Sys2Proof.Machine

/-! ### Phases -/

theorem endPhase_five {s : State} (r : PhaseResult) (hn : s.boot.phase = 5) : let t := endPhase s r
    t.hub0.up = (s.hub0.selfTest && r.hub0ok) ∧ t.hub1.up = (s.hub1.selfTest && r.hub1ok) ∧ t.lead = if t.hub0.up then 0 else 1 := by
  intro t
  obtain ⟨b, e, _⟩ := endPhase_eq r hn
  have hf := footing_chooseLead s r
  have h0 : t.hub0.up = (s.hub0.selfTest && r.hub0ok) := (congrArg (fun u : State => u.hub0.up) e).trans (congrArg Footing.up0 hf)
  refine ⟨h0, (congrArg (fun u : State => u.hub1.up) e).trans (congrArg Footing.up1 hf), ?_⟩
  rw [h0]
  exact (congrArg State.lead e).trans (congrArg Footing.lead hf)

theorem endHalfPhase_steps {s : State} {h : Nat} {q : Reply} {r : PhaseResult}
    (hp : s.boot.halfPhase = 6 ∨ s.boot.halfPhase = 7 ∨ s.boot.halfPhase = 10) :
    (endHalfPhase s h q r).boot.halfPhase = s.boot.halfPhase + 1 := by
  unfold endHalfPhase
  rcases hp with hp | hp | hp
  · rw [hp]; rfl
  · rw [hp]; rfl
  · rw [hp]; rfl

/-- The crossing of the spine, for a half that returns. -/
theorem endHalfPhase_eight {s : State} (h : Nat) (q : Reply) (r : PhaseResult) (hp : s.boot.halfPhase = 8) : endHalfPhase s h q r =
    if r.spineOk then { announceJoin s h with boot := { s.boot with halfPhase := 9 } } else halfFails s h q := by
  unfold endHalfPhase
  rw [hp]
  rfl

theorem endHalfPhase_eleven {s : State} (h : Nat) (q : Reply) (r : PhaseResult) (hp : s.boot.halfPhase = 11) :
    endHalfPhase s h q r = halfEnter (testHalf s h r) h := by
  unfold endHalfPhase
  rw [hp]
  rfl

theorem endHalfPhase_twelve {s : State} (h : Nat) (q : Reply) (r : PhaseResult) (hp : s.boot.halfPhase = 12) :
    endHalfPhase s h q r = if bankChanges s then s else halfJoins s h q := by
  unfold endHalfPhase
  rw [hp]
  rfl

/-! ### The reset pin -/

theorem exec_resetPinRelease_spec {s : State} (hl : s.pins.resetLow = true) (hh : s.boot.hubsLost = false) :
    ∃ t, exec .resetPinRelease s = .next t ∧ t.boot.phase = 3 ∧ t.boot.rstBoot = true ∧ t.state = .bringUp ∧
      t.pins = { s.pins with resetLow := false } ∧ t.vault = cutVault s ∧ t.nextEst = s.nextEst ∧ t.mem = [] ∧ t.cores = [] ∧ t.clusters = [] ∧
      t.parts = [] ∧ t.sessions = [] ∧ t.requests = [] ∧
      (∀ h, h < 2 → (getHalf t h).power = (getHalf s h).power ∧ (getHalf t h).inService = false) ∧
      ∀ j, (getStage t j).auxOn = (getStage s j).auxOn := by
  refine ⟨_, congrArg Host.Outcome.next ((if_neg (by simp [hl])).trans (if_neg (by simp [hh]))), rfl, rfl, rfl, rfl, rfl, rfl, rfl, rfl, rfl,
    rfl, rfl, rfl, fun h hlt => ?_, fun j => ?_⟩
  · obtain rfl | rfl : h = 0 ∨ h = 1 := by omega
    · exact ⟨rfl, rfl⟩
    · exact ⟨rfl, rfl⟩
  · rw [getStage_released (s := s) (f := fun _ x => { Stage.reset with
      state := if x.state = 3 || x.state = 4 then x.state else 0, auxOn := x.auxOn, trippedOnce := x.trippedOnce }) rfl j (by rfl)]

/-! ### The loss of a hub -/

theorem exec_hubLoss {s : State} {h : Nat} (hh : h < 2) : exec (.hubLoss h) s = .next (withReports s (hubDown s h)) :=
  report_of_eq (if_pos hh)

theorem boot_hubOff (s : State) (h : Nat) : (hubOff s h).boot = s.boot := by
  obtain ⟨a, b, m, l, e⟩ := hubOff_eq s h
  rw [e]

theorem gate_hubOff (s : State) (h g : Nat) : gate (hubOff s h) g = gate s g := by
  obtain ⟨a, b, m, l, e⟩ := hubOff_eq s h
  rw [e]
  rfl

theorem talked_hubOff (s : State) (h : Nat) : Talked 0 [] s (hubOff s h) := by
  obtain ⟨a, b, m, l, e⟩ := hubOff_eq s h
  rw [e]
  exact talked_of_eq rfl rfl rfl rfl (fun _ _ => rfl) rfl

theorem footing_hubDown {s : State} {h : Nat} (hh : h < 2) (hu : hubUp s h = true) : footing (hubDown s h) =
    { footing (hubOff s h) with boot := { s.boot with hubsLost := s.boot.hubsLost || !hubUp s (1 - h) } } := by
  have hb : (footing (hubOff s h)).boot = s.boot := boot_hubOff s h
  cases ho : hubUp s (1 - h) with
  | true =>
    rw [hubDown_survived hh hu ho, footing_hubGone, footing_of_untold (untold_fenceUnjournaled ..), Bool.not_true, Bool.or_false, ← hb]
  | false =>
    rw [hubDown_alone hh hu ho, footing_hubGone, footing_enterSafe, footing_noteRung, Bool.not_false, Bool.or_true, ← hb]
    rfl

theorem gate_hubDown {s : State} {h g : Nat} (hh : h < 2) (hu : hubUp s h = true) (hg : g ∈ sitesOfHub h) : let x := gate (hubDown s h) g
    x.fenced = true ∧ x.mode = 0 ∧ (hubUp s (1 - h) = true → x.kept = some (gate s g).mode) := by
  intro x
  cases ho : hubUp s (1 - h) with
  | true =>
    obtain ⟨hf, hm, hk⟩ := gate_hubGone (fenceUnjournaled (hubOff s h) (1 - h)) h (leadMoves s h) hg
    rw [← hubDown_survived hh hu ho] at hf hm hk
    rw [gate_of_untold (untold_fenceUnjournaled ..), gate_hubOff] at hk
    exact ⟨hf, hm, fun _ => hk⟩
  | false =>
    have e := hubDown_alone hh hu ho
    dsimp only at e
    obtain ⟨hf, hm, _⟩ := gate_hubGone (enterSafe (noteRung { hubOff s h with boot := { (hubOff s h).boot with hubsLost := true } } 5) 2) h
      (leadMoves s h) hg
    rw [← e] at hf hm
    exact ⟨hf, hm, fun h => absurd h (by simp)⟩

theorem state_hubDown {s : State} {h : Nat} (hh : h < 2) (hu : hubUp s h = true) (ho : hubUp s (1 - h) = false) :
    (hubDown s h).state = .safe ∨ (hubDown s h).state = .safeNoId := by
  rw [hubDown_alone hh hu ho, state_hubGone]
  exact state_enterSafe _ _

theorem roomy_of_lt {s : State} {k : Nat} (hw : Tbl.wf s.sessions = true) (hk : k < 2 ^ 62) (h : ∀ e ∈ s.sessions, e.2.seqOut.toNat < 2 ^ 62) :
    Roomy k s :=
  ⟨hw, fun n t ht => by have : t.seqOut.toNat < 2 ^ 62 := h _ (Tbl.mem_of_find ht); omega⟩

/-- A hub at rest whose partner survives is lost. -/
theorem talked_hubDown {s : State} {h : Nat} (hh : h < 2) (hu : hubUp s h = true) (ho : hubUp s (1 - h) = true) (hi : Inv s)
    (hg : ∀ g ∈ sitesOfHub h, SiteAtRest s g)
    (hs : ∀ e ∈ s.sessions, e.2.seqOut.toNat < 2 ^ 62 ∧ e.2.retained = [] ∧ ∀ b ∈ e.2.boxes, b.2.held = []) :
    Talked 6 (sitesOfHub h) s (hubDown s h) := by
  obtain ⟨_, _, _, hw⟩ := hi
  have h₁ := talked_hubOff s h
  have hsess : (hubOff s h).sessions = s.sessions := by
    obtain ⟨a, b, m, l, e⟩ := hubOff_eq s h
    rw [e]
  have hidle : fenceUnjournaled (hubOff s h) (1 - h) = hubOff s h := fenceUnjournaled_idle _ (hsess ▸ fun e he => (hs e he).2.2)
  have hrest : ∀ g ∈ sitesOfHub h, SiteAtRest (hubOff s h) g := fun g hm => by
    unfold SiteAtRest
    rw [h₁.guests g (by simp)]
    exact hg g hm
  have hroom : Roomy 6 s := roomy_of_lt hw (by decide) fun e he => (hs e he).1
  have hstream : Streamless s := fun n t ht => (hs _ (Tbl.mem_of_find ht)).2.1
  rw [hubDown_survived hh hu ho, hidle]
  exact (h₁.mono (Nat.le_refl 0) (by simp)).trans (talked_hubGone h _ hrest (h₁.streamless hstream) (h₁.roomy (j := 0) hroom))

end Sys2Proof.Machine

open Sys2Proof Sys2Proof.Machine

/-- Settles O57: each event is read through what its branch leaves unchanged; the phases act on each powered half by itself, and a hub's loss
or return sends each session at most six messages, so that none runs out of numbers. -/
theorem bringUpAndPins : Obligations.BringUpAndPins := by
  unfold Obligations.BringUpAndPins
  refine ⟨fun s w rest => ?record, fun one v => ?power, fun s half => ?rise, fun s r => ?phase, fun s r hb => ?half, fun s => ?pins, fun s => ?reset,
    fun s half t hr ht hl ho => ?held, fun s h hc => ?lossNone, fun s h hh hu => ?loss, fun s h n e b q hh hu ho hs hb hq hro hj => ?fence,
    fun s h => ?back⟩
  case record =>
    refine ⟨fun h => ?_, fun h => ?_⟩
    · refine report_same ?_
      rw [recordWritten, h]
    intro g old r
    obtain ⟨hseq, hwriting⟩ := holdWrite_keeps { s.vault with writing := rest } w true
    obtain ⟨cseq, crecs, chalves, cused, l, hl, hcopy⟩ := queuesCopies_compactAll (holdWrite { s.vault with writing := rest } w true)
    refine ⟨_, exec_vaultRecordWritten_cons h, cseq.trans hseq, ⟨l, by rw [hl, hwriting], hcopy, fun hidle => ?_⟩, fun ht => ?_, fun ht => ?_⟩
    · rw [compactAll_idle hidle] at hl
      exact List.self_eq_append_left.mp hl
    · rw [crecs, chalves]
      exact recordWritten_record (v := { s.vault with writing := rest }) ht
    · rw [crecs, chalves]
      exact recordWritten_compact (v := { s.vault with writing := rest }) ht
  case power =>
    refine ⟨vaultAfterLoss_idle one, fun w rest h => ⟨vaultAfterLoss_cons false h, ?_, fun ht => ?_⟩⟩
    · rw [vaultAfterLoss_cons true h, if_pos rfl, (holdWrite_keeps ..).2]
    · obtain ⟨hrecs, _⟩ := holdWrite_recs (v := { v with writing := [] }) (w := w) (both := false) (.inl rfl)
      rw [vaultAfterLoss_cons true h, if_pos rfl, hrecs, besideWrite_one]
      exact ⟨_, rfl, rfl, rfl, rfl, rfl, rfl⟩
  case rise =>
    refine ⟨exec_busbarInputRise_on, fun h => ⟨_, exec_busbarInputRise_off h, ?_⟩⟩
    have hh : half % 2 < 2 := Nat.mod_lt _ (by decide)
    obtain ⟨a, b, e⟩ := modHalf_eq s (half % 2) fun x => x.risen s.tally
    have hself := getHalf_modHalf_self s (half % 2) fun x => x.risen s.tally
    have hother := getHalf_modHalf_other s hh fun x => x.risen s.tally
    rw [e] at hself hother
    by_cases h0 : s.boot.phase = 0
    · rw [if_pos h0, e]
      exact ⟨hother, rfl, rfl, fun _ => ⟨hself, rfl, rfl, rfl⟩, fun h1 => by omega, fun h2 => by omega⟩
    rw [if_neg h0]
    by_cases h1 : s.boot.phase = 1
    · rw [if_pos h1, e]
      exact ⟨hother, rfl, rfl, fun h0 => by omega, fun _ => e.symm, fun h2 => by omega⟩
    rw [if_neg h1, e]
    obtain ⟨st, c, d, e'⟩ := planeBack_eq { s with half0 := a, half1 := b } (half % 2)
    refine ⟨(getHalf_planeBack_other _ hh).trans hother, by rw [e'], by rw [e'], fun h0 => by omega, fun h1 => by omega, fun _ =>
      ⟨?_, by rw [e'], by rw [e'], getStage_planeBack _ _⟩⟩
    rw [getHalf_planeBack_self, hself]
    rfl
  case phase =>
    intro n age hs hn1 hn12 hl
    have hboot : booting s = true := booting_iff.mpr ⟨hs, hn1, hn12, hl⟩
    refine ⟨⟨endPhase s r, exec_bringUpPhaseComplete_booting r hboot, rfl, rfl, fun hn h hh hp => ?_, fun hn => ?_, fun hn _ => endPhase_five r hn,
      fun hn h0 h1 => ?_, fun hn htrip h hh hp => ?_, fun hn d hd hp => ?_, fun hn => ?_, fun hn => ?_, fun hn hsp k hk hp hd => ?_, fun hn hlatch => ?_,
      fun hn hlatch => ?_⟩, exec_bringUpPhaseTimeout_late r hboot, fun hage => exec_bringUpPhaseTimeout_early r (.inr hage)⟩
    all_goals obtain ⟨b, e, hspine⟩ := endPhase_eq r (show s.boot.phase = _ from hn)
    all_goals rw [e]
    · exact phaseEffect_one r hh hp
    · rfl
    · exact chooseLead_none h0 h1
    · obtain ⟨hin, hrisen⟩ := phaseEffect_six htrip hh hp
      exact ⟨hin, fun j hj h3 h4 hfailed => hrisen j hj ⟨h3, h4, hfailed⟩⟩
    · exact congrArg Die.island (phaseEffect_seven r hd hp)
    · exact hspine
    · rfl
    · exact phaseEffect_eleven hsp hk hp hd
    · obtain ⟨hepoch, hstate, _⟩ := endBringUp_spec s
      rw [hlatch] at hstate
      exact ⟨hstate, hepoch⟩
    · obtain ⟨_, hstate, hcause⟩ := endBringUp_spec s
      rw [hlatch] at hstate hcause
      exact ⟨hstate, hcause⟩
  case half =>
    refine ⟨exec_bringUpPhaseTimeout_early r (.inl hb), exec_bringUpPhaseComplete_idle r hb, fun h q hh => ?_⟩
    have hexec := exec_bringUpPhaseComplete_half r hb hh
    refine ⟨fun hp => ⟨_, hexec, endHalfPhase_steps hp⟩, fun hp hok => ?_, fun hp hok => ?_, fun hp => ?_, fun hp hbank => ?_, fun hp hbank => ?_⟩
    · rw [endHalfPhase_eight h q r hp, if_pos hok] at hexec
      obtain ⟨_, hpend, hjoin, hmem, hnext⟩ := announceJoin_spec s h
      refine ⟨_, hexec.trans (congrArg Host.Outcome.next (withReports_of_key ?_)), rfl, hpend, hjoin, hmem, hnext⟩
      exact (reportKey_announceJoin s h).symm
    · rw [hexec, endHalfPhase_eight h q r hp, if_neg (by simp [hok])]
    · obtain ⟨hphase, hchange⟩ := halfEnter_spec (testHalf s h r) h
      rw [endHalfPhase_eleven h q r hp] at hexec
      exact ⟨_, hexec, rfl, hphase, hchange⟩
    · rw [hexec, endHalfPhase_twelve h q r hp, if_pos hbank]
    · obtain ⟨hin, hnone⟩ := halfJoins_spec s h q
      rw [endHalfPhase_twelve h q r hp, if_neg (by simp [hbank])] at hexec
      exact ⟨_, hexec, rfl, hin, hnone⟩
  case pins =>
    refine ⟨exec_thermTrip_low, fun h => ⟨exec_thermTrip_held h, exec_thermTrip_high h⟩, rfl, exec_twinPresentLow_gone,
      fun h => ⟨fun ha hb => ?_, fun hb => ?_⟩, rfl⟩
    · exact (exec_twinPresentLow_falls h).trans (report_of_eq (if_pos (by simp [ha, hb])))
    · refine (exec_twinPresentLow_falls h).trans (report_of_eq (if_neg ?_))
      rcases hb with hb | hb
      · simp [hb]
      · simp [Nat.not_lt.mpr hb]
  case reset =>
    refine ⟨fun hl => ?_, fun hl => ?_, fun hl => ?_, fun hl hlost => ?_, exec_resetPinRelease_spec⟩
    · exact report_same (if_pos hl)
    · obtain ⟨es, a, b, e⟩ := resetAsserted_eq s
      exact ⟨_, exec_resetPinAssert_high hl, by rw [e], by rw [e], by rw [e], by rw [e], fun h hh => getHalf_resetAsserted s hh⟩
    · exact congrArg Host.Outcome.next (if_pos (by simp [hl]))
    · exact congrArg Host.Outcome.next ((if_neg (by simp [hl])).trans (if_pos hlost))
  case held =>
    have hh : half % 2 < 2 := Nat.mod_lt _ (by decide)
    obtain ⟨hself, hother⟩ := getHalf_rampOver s hh false
    obtain ⟨st, a, b, e⟩ := rampOver_eq s (half % 2) false
    have hpin : (rampOver s (half % 2) false).pins.resetLow = true := by rw [e]; exact hl
    refine ⟨holdReset (rampOver s (half % 2) false), ?_, rfl, rfl, rfl, ?_⟩
    · refine (exec_auxOutputOpen_due hr ht).trans (report_of_eq ?_)
      exact (if_neg Bool.false_ne_true).trans (if_pos (by simp [hpin, hother, ho]))
    · exact congrArg Half.ramp hself
  case lossNone =>
    refine report_same ?_
    rcases hc with hc | hc
    · exact if_neg (by omega)
    · rw [hubDown_out hc, ite_self]
  case loss =>
    obtain ⟨hself, hother, hlead⟩ := hubOff_spec s hh
    have hf := footing_hubDown hh hu
    refine ⟨hubDown s h, exec_hubLoss hh, ?_, ?_, ?_, ?_, fun g hg => ?_, fun ho g hg => ?_, state_hubDown hh hu, fun hi ho hg hs => ?_⟩
    · exact (hubUp_of_footing (s := { hubOff s h with boot := { s.boot with hubsLost := s.boot.hubsLost || !hubUp s (1 - h) } }) hf h).trans hself
    · exact (hubUp_of_footing (s := { hubOff s h with boot := { s.boot with hubsLost := s.boot.hubsLost || !hubUp s (1 - h) } }) hf (1 - h)).trans hother
    · exact (congrArg Footing.lead hf).trans hlead
    · exact congrArg (fun f : Footing => f.boot.hubsLost) hf
    · obtain ⟨hfenced, hmode, _⟩ := gate_hubDown hh hu hg
      exact ⟨hfenced, hmode⟩
    · obtain ⟨_, _, hkept⟩ := gate_hubDown hh hu hg
      exact hkept ho
    · have ht := talked_hubDown hh hu ho hi hg hs
      exact ⟨ht.mem, ht.cores, ht.parts, ht.requests, ht.known, ht.guests⟩
  case fence => exact fenceUnjournaled_one hs hb hq hro hj
  case back =>
    refine ⟨exec_hubReturn_out, fun hh hd ht ho hl hf => ⟨hubEvent (hubIn s h) h 1, exec_hubReturn_in hh hd ht ho hl hf, ?_, ?_, ?_, ?_, fun hi hs => ?_⟩⟩
    · rw [hubUp_of_footing (footing_hubEvent ..), hubUp, getHub_hubIn, getHub_modHub_self]
    · rw [hubUp_of_footing (footing_hubEvent ..), hubUp, getHub_hubIn, getHub_modHub_other s hh]
      exact ho
    · obtain ⟨a, b, gs, e⟩ := hubIn_eq s h
      rw [lead_of_footing (footing_hubEvent ..), e]
    · rw [getHub_journal_of_untold (untold_hubEvent ..), getHub_hubIn, getHub_modHub_self]
    · obtain ⟨_, _, _, hw⟩ := hi
      obtain ⟨a, b, gs, e⟩ := hubIn_eq s h
      have hroom : Roomy 1 (hubIn s h) := by
        rw [e]
        exact roomy_of_lt hw (by decide) hs
      have htalk := talked_postEvent 8 (leBytes 1 h ++ leBytes 1 1) hroom
      refine ⟨htalk.mem.trans (by rw [e]), htalk.parts.trans (by rw [e]), htalk.requests.trans (by rw [e]), fun g => ?_⟩
      exact (htalk.guests g (by simp)).trans (getGuest_hubIn s h g)
end

section
/-! PROOFS. Transfers through CORE.BASE and CORE.BOUND: O17. -/

namespace Sys2Proof.Machine

/-! ### The form of a transfer (R93, R99, R101) -/

theorem boundFault_inside {a n : Nat} (h : a + n ≤ 49152) : boundFault a n = [] := if_neg (Nat.not_lt.mpr h)

theorem boundFault_beyond {a n : Nat} (h : 49152 < a + n) : boundFault a n = [fBound 0 a] := if_pos h

theorem lenBad_iff {n : Nat} : lenBad n = true ↔ n = 0 ∨ 768 < n := by simp [lenBad]

theorem lenBad_legal {n : Nat} (h1 : 1 ≤ n) (h2 : n ≤ 768) : lenBad n = false := by
  rw [← Bool.not_eq_true, lenBad_iff]
  omega

/-- A well-formed transfer in the addressing mode that takes it. -/
theorem transferForm_wellFormed (x : Ctx) {off sp n : Nat} (hoff : off % 64 = 0) (hsp : sp % 64 = 0) (h1 : 1 ≤ n) (h2 : n ≤ 768)
    (hfit : sp + 64 * n ≤ 49152) : transferForm x false off sp n = [] := by
  simp [transferForm, hoff, hsp, lenBad_legal h1 h2, boundFault_inside hfit]

/-- Under an addressing mode that refuses it, a transfer whose LEN is illegal or whose lines lie in the scratchpad is illegal only. -/
theorem transferForm_notAdmitted (x : Ctx) (off : Nat) {sp n : Nat} (h : n = 0 ∨ 768 < n ∨ sp + 64 * n ≤ 49152) :
    transferForm x true off sp n = [fIllegal x.pc] := by
  have hrange : (if lenBad n then [] else boundFault sp (64 * n)) = [] := by
    split
    · rfl
    · next hlen =>
      rw [lenBad_iff] at hlen
      exact boundFault_inside (by omega)
  simp [transferForm, hrange]

/-- One whose lines leave the scratchpad is out of bounds as well. -/
theorem transferForm_notAdmitted_beyond (x : Ctx) (off : Nat) {sp n : Nat} (h1 : 1 ≤ n) (h2 : n ≤ 768) (h : 49152 < sp + 64 * n) :
    transferForm x true off sp n = [fIllegal x.pc, fBound 0 sp] := by
  simp [transferForm, lenBad_legal h1 h2, boundFault_beyond h]

/-! ### The lines that BASE and BOUND permit (R63) -/

theorem bbPermits_iff (x : Ctx) (off : Nat) :
    bbPermits x off = true ↔ x.boundEn = true ∧ off + 64 ≤ 64 * x.limit.toNat ∧ 64 * x.base.toNat + off + 64 ≤ 2 ^ 26 := by
  simp [bbPermits, and_assoc]

theorem bbFault_permitted {x : Ctx} {off n : Nat} (h : ∀ j, j < n → bbPermits x (off + 64 * j) = true) : bbFault x off n = [] := by
  have hnone : (List.range n).find? (fun j => !bbPermits x (off + 64 * j)) = none := by
    simp only [List.find?_eq_none, List.mem_range]
    intro j hj
    simp [h j hj]
  rw [bbFault, hnone]

theorem bbFault_first {x : Ctx} {off n j : Nat} (hj : j < n) (hbad : bbPermits x (off + 64 * j) ≠ true)
    (hbelow : ∀ l, l < j → bbPermits x (off + 64 * l) = true) : bbFault x off n = [fBound 1 (off + 64 * j)] := by
  have hfind : (List.range n).find? (fun j => !bbPermits x (off + 64 * j)) = some j := by
    rw [List.find?_range_eq_some]
    exact ⟨by simpa using hbad, List.mem_range.mpr hj, fun l hl => by simp [hbelow l hl]⟩
  rw [bbFault, hfind]

/-! ### BLD and BST -/

theorem worstFault_single (f : FaultRec) : worstFault [f] = some f := rfl

/-- BOUND_FAULT ranks before ILLEGAL_OP (R15). -/
theorem worstFault_illegal_bound (pc : Word) (space a : Nat) : worstFault [fIllegal pc, fBound space a] = some (fBound space a) := by
  have h : (fBound space a).status < (fIllegal pc).status := show stBoundFault < stIllegalOp by decide
  simp only [worstFault, h, if_true]

/-- The faults of a base-bound transfer. -/
def baseFaults (i : Issue) (x : Ctx) : List FaultRec :=
  transferForm x (!x.bb) (x.s i.rb).toNat (x.s i.rc).toNat (i.fld 0 16) ++
    if !x.bb || lenBad (i.fld 0 16) then [] else bbFault x (x.s i.rb).toNat (i.fld 0 16)

theorem baseFaults_bound {i : Issue} {x : Ctx} (hbb : x.bb = true) (hoff : (x.s i.rb).toNat % 64 = 0) (hsp : (x.s i.rc).toNat % 64 = 0)
    (h1 : 1 ≤ i.fld 0 16) (h2 : i.fld 0 16 ≤ 768) (hfit : (x.s i.rc).toNat + 64 * i.fld 0 16 ≤ 49152) :
    baseFaults i x = bbFault x (x.s i.rb).toNat (i.fld 0 16) := by
  simp [baseFaults, hbb, transferForm_wellFormed x hoff hsp h1 h2 hfit, lenBad_legal h1 h2]

theorem baseFaults_handle {i : Issue} {x : Ctx} (hbb : x.bb = false) :
    baseFaults i x = transferForm x true (x.s i.rb).toNat (x.s i.rc).toNat (i.fld 0 16) := by
  simp [baseFaults, hbb]

theorem bodyBase_faults {wr : Bool} {i : Issue} {s : State} {x : Ctx} {f : FaultRec} {fs : List FaultRec} (h : baseFaults i x = f :: fs) :
    bodyBase wr i s x = .fault s (f :: fs) := by
  simp only [baseFaults] at h
  simp only [bodyBase, h]

theorem bodyBase_load {i : Issue} {s : State} {x : Ctx} (h : baseFaults i x = [])
    (hfree : rangeBusy s i.core (x.s i.rc).toNat (64 * i.fld 0 16) = false) :
    bodyBase false i s x = .retire (requestRead s i.core (clusterOf i.core) (x.base.toNat + (x.s i.rb).toNat / 64) (i.fld 0 16)
      ((x.s i.rc).toNat / 64) i.cnt) (nextPc x) := by
  simp only [baseFaults] at h
  simp only [bodyBase, h, hfree, Bool.false_eq_true, if_false]

theorem bodyBase_store {i : Issue} {s : State} {x : Ctx} (h : baseFaults i x = []) :
    bodyBase true i s x = .retire (requestWrite s i.core (clusterOf i.core) (x.base.toNat + (x.s i.rb).toNat / 64) (i.fld 0 16)
      ((x.s i.rc).toNat / 64) i.cnt) (nextPc x) := by
  simp only [baseFaults] at h
  simp only [bodyBase, h, if_true]

/-- The faults of a base-bound transfer end its task, whichever way it goes. -/
theorem exec_base_faults {i : Issue} {s : State} {f g : FaultRec} {fs : List FaultRec} (hi : Issues { Enc.transfer with a := false } i s)
    (h : baseFaults i (ctxOf i s) = f :: fs) (hg : worstFault (f :: fs) = some g) :
    exec (.bld i) s = .next (endTask (begun i s) i.core i.ctx g.status (f :: fs)) ∧
    exec (.bst i) s = .next (endTask (begun i s) i.core i.ctx g.status (f :: fs)) := by
  have hbody (wr : Bool) : issue { Enc.transfer with a := false } i s (bodyBase wr i) = endTask (begun i s) i.core i.ctx g.status (f :: fs) := by
    rw [issue_eq _ hi, bodyBase_faults h, settle_fault _ g hi hg]
  exact ⟨congrArg Host.Outcome.next (hbody false), congrArg Host.Outcome.next (hbody true)⟩

theorem exec_bld_reads {i : Issue} {s : State} (hi : Issues { Enc.transfer with a := false } i s) (h : baseFaults i (ctxOf i s) = [])
    (hfree : rangeBusy (begun i s) i.core ((ctxOf i s).s i.rc).toNat (64 * i.fld 0 16) = false) :
    exec (.bld i) s = .next (wentOn i s (requestRead (begun i s) i.core (clusterOf i.core)
      ((ctxOf i s).base.toNat + ((ctxOf i s).s i.rb).toNat / 64) (i.fld 0 16) (((ctxOf i s).s i.rc).toNat / 64) i.cnt)) := by
  change Host.Outcome.next (issue _ i s (bodyBase false i)) = _
  rw [issue_eq _ hi, bodyBase_load h hfree, settle_retire _ hi]

theorem exec_bst_writes {i : Issue} {s : State} (hi : Issues { Enc.transfer with a := false } i s) (h : baseFaults i (ctxOf i s) = []) :
    exec (.bst i) s = .next (wentOn i s (requestWrite (begun i s) i.core (clusterOf i.core)
      ((ctxOf i s).base.toNat + ((ctxOf i s).s i.rb).toNat / 64) (i.fld 0 16) (((ctxOf i s).s i.rc).toNat / 64) i.cnt)) := by
  change Host.Outcome.next (issue _ i s (bodyBase true i)) = _
  rw [issue_eq _ hi, bodyBase_store h, settle_retire _ hi]

/-- Settles O17: the faults of the two instructions are those of their form and, under Base-bound addressing, the first line that is not
permitted; without one they hand their lines to the channel. -/
theorem baseBoundTransfers : Obligations.BaseBoundTransfers := by
  unfold Obligations.BaseBoundTransfers
  intro i s x u k off sp n permitted hi
  have hpermits (o : Nat) : bbPermits x o = true ↔ permitted o := bbPermits_iff x o
  refine ⟨fun hbb hoff hsp h1 h2 hfit => ?bound, fun hbb h => ?illegal, fun hbb h1 h2 h => ?beyond⟩
  case bound =>
    have hfaults : baseFaults i x = bbFault x off n := baseFaults_bound hbb hoff hsp h1 h2 hfit
    refine ⟨fun hall => ?_, fun j hj hbad hbelow => ?_⟩
    · have hnone : baseFaults i x = [] := hfaults.trans (bbFault_permitted fun j hj => (hpermits _).mpr (hall j hj))
      exact ⟨exec_bld_reads hi hnone, exec_bst_writes hi hnone⟩
    · have hfirst : baseFaults i x = [fBound 1 (off + 64 * j)] := hfaults.trans
        (bbFault_first hj (mt (hpermits _).mp hbad) fun l hl => (hpermits _).mpr (hbelow l hl))
      exact exec_base_faults (g := fBound 1 (off + 64 * j)) hi hfirst (worstFault_single _)
  case illegal =>
    have hform : baseFaults i x = [fIllegal x.pc] := (baseFaults_handle hbb).trans (transferForm_notAdmitted x off h)
    exact exec_base_faults (g := fIllegal x.pc) hi hform (worstFault_single _)
  case beyond =>
    have hform : baseFaults i x = [fIllegal x.pc, fBound 0 sp] :=
      (baseFaults_handle hbb).trans (transferForm_notAdmitted_beyond x off h1 h2 h)
    exact exec_base_faults (g := fBound 0 sp) hi hform (worstFault_illegal_bound ..)

end Sys2Proof.Machine
end

section
/-! PROOFS. The engines' queues, the tile checker and the instructions that wait for them: O14, O15. -/

namespace Sys2Proof.Machine

/-! ### Instructions that waited -/

/-- At the retire point of a context with nothing due the effects stand. -/
theorem retirePoint_of_notDue {s : State} {k n : Nat} (t : State) (h : (getCtx s k n).endDue = false) : retirePoint s k n [] t = t := by
  obtain ⟨hpend, hfired, hfence, haborts⟩ := Ctx.endDue_false h
  simp [retirePoint, hpend, hfired, hfence, haborts, worstFault]

/-- An instruction that waited and finds nothing more to wait for retires. -/
theorem resume_retires {i : Issue} {s t : State} {body : State → Ctx → Res} {st : CtxState} {w : Wait} {pc : Word}
    (hw : Waiting s i.core i.ctx st w) (hrun : s.clock.stopped = false) (hb : body s (getCtx s i.core i.ctx) = .retire t pc) :
    resume i s body = goOn t i.core i.ctx pc := by
  obtain ⟨_, _, hdue⟩ := hw
  rw [resume, if_neg (by simp [hrun]), hb]
  exact retirePoint_of_notDue _ hdue

theorem exec_engineQueueRoom_waiting {i : Issue} {s : State} {opc : BitVec 8} (hw : Waiting s i.core i.ctx .waitEngine (.engine opc i)) :
    exec (.engineQueueRoom i.core i.ctx) s = .next (resume i s (bodyEngine (opc = 0x61) i)) := by
  obtain ⟨hstate, hwait, _⟩ := hw
  change execEngineQueueRoom i.core i.ctx s = _
  simp [execEngineQueueRoom, hstate, hwait]

theorem exec_operandRangeRelease_waiting {i : Issue} {s : State} {opc : BitVec 8} (hw : Waiting s i.core i.ctx .waitEngine (.range opc i)) :
    exec (.operandRangeRelease i.core i.ctx) s = .next (resume i s (rangeBody opc i)) := by
  obtain ⟨hstate, hwait, _⟩ := hw
  change execOperandRangeRelease i.core i.ctx s = _
  simp [execOperandRangeRelease, hstate, hwait]

/-! ### Operations that join a queue (R107, R108, R110) -/

/-- The operation at the end of its engine's queue. -/
def opJoined (s : State) (k : Nat) (o : EngOp) : State :=
  let c := getCore s k
  let g := c.eng o.eng
  setCore s k { c.setEng o.eng { g with queue := g.queue ++ [o], wdStart := if g.live = [] then s.tally else g.wdStart } with
    nextOp := c.nextOp + 1 }

/-- The operation passes the checks of its form and of its operands' ranges, and no other suspect has one on its engine. -/
def Queueable (sparse : Bool) (i : Issue) (s : State) (x : Ctx) (o : EngOp) : Prop :=
  opIllegal sparse i x o = false ∧ operandBound o.spa o.aAddr o.aStride o.fba.toNat o.nblk = [] ∧
    operandBound o.spb o.bAddr o.bStride o.fbb.toNat o.nblk = [] ∧ serialBlocked (getCore s i.core) o.eng i.ctx = false

section
variable {sparse : Bool} {i : Issue} {s : State} {x : Ctx} {o : EngOp}

/-- An operation that may be queued joins the queue, or its instruction waits while the queue is full. -/
theorem bodyEngine_queueable (ho : mkOp sparse i x (getCore s i.core).nextOp (sparsePolicy s i.core) = o) (h : Queueable sparse i s x o) :
    bodyEngine sparse i s x =
      if 4 ≤ ((getCore s i.core).eng o.eng).live.length then .wait s (.engine (if sparse then 0x61 else 0x60) i) .waitEngine
      else .retire (opJoined s i.core o) (nextPc x) := by
  obtain ⟨hlegal, ha, hb, hserial⟩ := h
  have hfaults : (if opIllegal sparse i x o then [fIllegal x.pc] else []) ++ operandBound o.spa o.aAddr o.aStride o.fba.toNat o.nblk ++
      operandBound o.spb o.bAddr o.bStride o.fbb.toNat o.nblk = [] := by simp [hlegal, ha, hb]
  unfold bodyEngine
  extract_lets +onlyGivenNames c p
  have hp : p = o := ho
  clear_value p
  subst hp
  rw [hfaults]
  change (if _ then _ else _) = _
  by_cases hfull : 4 ≤ (c.eng p.eng).live.length
  · rw [if_pos (.inl hfull), if_pos hfull]
  · rw [if_neg (by simp [c, hfull, hserial]), if_neg hfull]
    rfl

theorem issue_bodyEngine_joins {f : Enc} (hi : Issues f i s)
    (ho : mkOp sparse i (ctxOf i s) (getCore (begun i s) i.core).nextOp (sparsePolicy (begun i s) i.core) = o)
    (h : Queueable sparse i (begun i s) (ctxOf i s) o) (hroom : ((getCore (begun i s) i.core).eng o.eng).live.length < 4) :
    issue f i s (bodyEngine sparse i) = wentOn i s (opJoined (begun i s) i.core o) := by
  rw [issue_eq _ hi, bodyEngine_queueable ho h, if_neg (Nat.not_le.mpr hroom), settle_retire _ hi]

theorem issue_bodyEngine_waits {f : Enc} (hi : Issues f i s)
    (ho : mkOp sparse i (ctxOf i s) (getCore (begun i s) i.core).nextOp (sparsePolicy (begun i s) i.core) = o)
    (h : Queueable sparse i (begun i s) (ctxOf i s) o) (hfull : 4 ≤ ((getCore (begun i s) i.core).eng o.eng).live.length) :
    issue f i s (bodyEngine sparse i) = waits i (begun i s) .waitEngine (.engine (if sparse then 0x61 else 0x60) i) := by
  rw [issue_eq _ hi, bodyEngine_queueable ho h, if_pos hfull, settle_wait _ _ _ hi]

end

/-! ### DRAIN and AZERO (R47, R111) -/

/-- The formats that DRAIN writes. -/
theorem drain_format {f : Nat} (h : f ≤ 4 ∨ f = 7) : f = 0 ∨ f = 1 ∨ f = 2 ∨ f = 3 ∨ f = 4 ∨ f = 7 := by omega

/-- What DRAIN writes: the drained set in the format and with the rounding that the instruction names. -/
def drainValue (i : Issue) (s : State) (x : Ctx) : Nat :=
  drained (getCore s i.core) (i.fld 16 2) (i.fld 18 3) (i.fld 21 4) (i.bit 25) fun j =>
    if i.bit 26 then some (roundWord (x.s i.rb).toNat (((x.s i.rc).toNat + j) % 2 ^ 64)) else none

theorem bodyDrain_drains {i : Issue} {s : State} {x : Ctx} (hf : i.fld 21 4 ≤ 4 ∨ i.fld 21 4 = 7) (hown : i.fld 18 3 / 2 = i.ctx)
    (halign : (x.s i.ra).toNat % (2 * elemBits (i.fld 21 4)) = 0) (hfit : (x.s i.ra).toNat + 2 * elemBits (i.fld 21 4) ≤ 49152)
    (hidle : setBusy (getCore s i.core) (i.fld 16 2) (i.fld 18 3) i.ctx = false)
    (hfree : rangeBusy s i.core (x.s i.ra).toNat (2 * elemBits (i.fld 21 4)) = false) :
    let t := spmWrite s i.core (x.s i.ra).toNat (2 * elemBits (i.fld 21 4)) (drainValue i s x)
    bodyDrain i s x = .retire (if i.bit 27 then modCore t i.core (·.setAcc (i.fld 16 2) (i.fld 18 3) 0) else t) (nextPc x) := by
  have hfaults : (if i.fld 18 3 / 2 ≠ i.ctx ∨ (x.s i.ra).toNat % (2 * elemBits (i.fld 21 4)) ≠ 0 then [fIllegal x.pc] else []) ++
      boundFault (x.s i.ra).toNat (2 * elemBits (i.fld 21 4)) = [] := by
    simp [hown, halign, boundFault_inside hfit]
  simp only [bodyDrain, drainValue, drain_format hf, decide_true, Bool.not_true, hfaults, hidle, hfree, Bool.false_eq_true, if_false]

theorem exec_drain_drains {i : Issue} {s : State}
    (hi : Issues { Enc.none with a := true, b := i.bit 26, c := i.bit 26, imm := 0xFFF0000 } i s) {t : State}
    (hbody : bodyDrain i (begun i s) (ctxOf i s) = .retire t (nextPc (ctxOf i s))) : exec (.drain i) s = .next (wentOn i s t) := by
  change Host.Outcome.next (issue _ i s (bodyDrain i)) = _
  rw [issue_eq _ hi, hbody, settle_retire _ hi]

theorem exec_azero_owned {i : Issue} {s : State} (hi : Issues { Enc.none with imm := 0x1F0000 } i s) (hown : i.fld 18 3 / 2 = i.ctx)
    (hidle : setBusy (getCore (begun i s) i.core) (i.fld 16 2) (i.fld 18 3) i.ctx = false) :
    exec (.azero i) s = .next (wentOn i s (modCore (begun i s) i.core (·.setAcc (i.fld 16 2) (i.fld 18 3) 0))) := by
  change Host.Outcome.next (issue _ i s _) = _
  rw [issue_eq _ hi]
  simp only [hown, hidle, ne_eq, not_true, Bool.false_eq_true, if_false, settle_retire _ hi]

theorem exec_azero_foreign {i : Issue} {s : State} (hi : Issues { Enc.none with imm := 0x1F0000 } i s) (hown : i.fld 18 3 / 2 ≠ i.ctx) :
    exec (.azero i) s = .next (endTask (begun i s) i.core i.ctx stIllegalOp [fIllegal (ctxOf i s).pc]) := by
  change Host.Outcome.next (issue _ i s _) = _
  rw [issue_eq _ hi]
  simp only [hown, ne_eq, not_false_iff, if_true, illegal, settle_fault _ _ hi (worstFault_single _)]
  rfl

/-- Settles O14: ETILE and ESPARSE share one body, which joins the queue or waits; DRAIN and AZERO find their set owned and drained. -/
theorem engineQueue : Obligations.EngineQueue := by
  unfold Obligations.EngineQueue
  intro i s x u c
  refine ⟨fun hi hlegal ha hb hser => ?etile, fun hi hlegal ha hb hser => ?esparse, fun hi => ?drain, fun hi => ⟨?azero, ?foreign⟩⟩
  case etile =>
    exact ⟨fun h => congrArg Host.Outcome.next (issue_bodyEngine_joins hi rfl ⟨hlegal, ha, hb, hser⟩ h),
      fun h => congrArg Host.Outcome.next (issue_bodyEngine_waits hi rfl ⟨hlegal, ha, hb, hser⟩ h)⟩
  case esparse =>
    exact ⟨fun h => congrArg Host.Outcome.next (issue_bodyEngine_joins hi rfl ⟨hlegal, ha, hb, hser⟩ h),
      fun h => congrArg Host.Outcome.next (issue_bodyEngine_waits hi rfl ⟨hlegal, ha, hb, hser⟩ h)⟩
  case drain =>
    intro e as_ f a n hf hown halign hfit hidle hfree
    exact ⟨_, rfl, exec_drain_drains hi (bodyDrain_drains hf hown halign hfit hidle hfree)⟩
  case azero => exact exec_azero_owned hi
  case foreign => exact exec_azero_foreign hi

/-! ### Blocks (R42, R110, R162) -/

/-- With no word in error a read meets none. -/
theorem spmRead_noErr {s : State} {k : Nat} (h : (getCore s k).spmErr = []) (a n : Nat) :
    (spmRead s k a n).bad = none ∧ (spmRead s k a n).ce = [] := by
  have hfind (w : Nat) : Tbl.find (getCore s k).spmErr w = none := by rw [h]; rfl
  simp [spmRead, hfind]

/-- Nor do the reads of several spans. -/
theorem spmReads_noErr {s : State} {k : Nat} (h : (getCore s k).spmErr = []) (l : List (Nat × Nat)) :
    ((l.map fun p => spmRead s k p.1 p.2).filterMap (·.bad)).head? = none ∧ (l.map fun p => spmRead s k p.1 p.2).flatMap (·.ce) = [] := by
  induction l with
  | nil => exact ⟨rfl, rfl⟩
  | cons p l ih =>
    obtain ⟨hbad, hce⟩ := spmRead_noErr h p.1 p.2
    simp only [List.map_cons, List.flatMap_cons, hce, ih, List.filterMap_cons, hbad, List.append_nil, and_self]

/-- A read without errors leaves nothing to note. -/
theorem noteRead_nothing (s : State) (k d : Nat) : noteRead s k { data := d, bad := none, ce := [] } = s := rfl

theorem exec_engineBlockClose_closes {s u : State} {core eng : Nat} {ups : List (Nat × Bool)} {o : EngOp} {r : List EngOp}
    (hserves : coreServing s core = true) (hrun : s.clock.stopped = false) (hu : modCore s core (·.upset ups) = u)
    (hhead : ((getCore u core).eng eng).live = o :: r) (hhung : ((getCore u core).eng eng).hung = false)
    (hcheck : o.check = .notNeeded ∨ o.check = .passed) (herr : (getCore u core).spmErr = []) :
    exec (.engineBlockClose core eng ups) s = .next (modCore u core fun c =>
      (c.setEng eng (((getCore u core).eng eng).advance o.id s.tally)).setAcc o.eng o.aset
        (closeBlock (opBlocks u core o o.closed).1 (opBlocks u core o o.closed).2 (c.accSet o.eng o.aset))) := by
  have hgo : ¬ (((getCore u core).eng eng).hung || decide (o.check = .waiting) || decide (o.check = .taken)) = true := by
    rcases hcheck with h | h <;> simp [hhung, h]
  have htally : u.tally = s.tally := by rw [← hu]; rfl
  obtain ⟨hbad, hce⟩ := spmReads_noErr herr ((opBlocks u core o o.closed).1.spans ++ (opBlocks u core o o.closed).2.spans)
  change execEngineBlockClose core eng ups s = _
  unfold execEngineBlockClose
  rw [if_neg (by simp [hserves, hrun])]
  simp only [hu, hhead, if_neg hgo, hbad, hce, noteRead_nothing, htally]

/-! ### The tile checker (R135, R136, R147) -/

theorem exec_tileCheckerTakeOp_oldest {s : State} {core : Nat} {o : EngOp} (hrun : s.clock.stopped = false)
    (hfree : (getCore s core).taken = none) (hnext : (getCore s core).allOps.find? (fun o => o.check = .waiting) = some o) :
    exec (.tileCheckerTakeOp core) s = .next (setCore s core
      ((getCore s core).mapOps fun q => some (if q.id = o.id then { q with check := .taken } else q))) := by
  change execTileCheckerTakeOp core s = _
  simp [execTileCheckerTakeOp, hrun, hfree, hnext]

/-- What the checker does to the queues and their watchdogs leaves every task as it is. -/
theorem taskRuns_kick (s : State) (k : Nat) (o : EngOp) (g : EngOp → Option EngOp) (t : Word) :
    o.taskRuns (modCore s k fun c => (c.mapOps g).kick t) k = o.taskRuns s k := by
  have hctx : getCtx (modCore s k fun c => (c.mapOps g).kick t) k o.ctx = getCtx s k o.ctx := by
    simp [getCtx, modCore, Core.ctx, Core.kick, Core.mapOps]
  simp only [EngOp.taskRuns, hctx]

theorem exec_tileCheckComplete_passes {s : State} {core : Nat} {o : EngOp} (htaken : (getCore s core).taken = some o)
    (hrun : s.clock.stopped = false) (hdead : o.dead = false) (hce : (checkOp s core o (!o.policy.tolerant)).ce = [])
    (hfail : (checkOp s core o (!o.policy.tolerant)).fail = none) :
    exec (.tileCheckComplete core) s = .next (modClu
      (modCore s core fun c => (c.mapOps fun q => some (if q.id = o.id then { q with check := .passed } else q)).kick s.tally) (clusterOf core)
      fun u => (checkOp s core o (!o.policy.tolerant)).tiles.foldl (·.countTile o.policy) u) := by
  have hmap (q : EngOp) : (if q.id = o.id then some { q with check := .passed } else some q) =
      some (if q.id = o.id then { q with check := .passed } else q) := by split <;> rfl
  change execTileCheckComplete core s = _
  simp only [execTileCheckComplete, htaken, hfail, hrun, hdead, hce, noteRead_nothing, Option.isSome_none, Bool.or_self, Bool.false_eq_true,
    if_false, hmap]

theorem exec_tileCheckFailureReport_fails {s : State} {core : Nat} {o : EngOp} {f : FaultRec} (htaken : (getCore s core).taken = some o)
    (hrun : s.clock.stopped = false) (hdead : o.dead = false) (hce : (checkOp s core o (!o.policy.tolerant)).ce = [])
    (hfail : (checkOp s core o (!o.policy.tolerant)).fail = some f) (htask : o.taskRuns s core = true) :
    exec (.tileCheckFailureReport core) s = .next (reportFault (modClu
      (modCore (modCore (noteRead s core { data := 0, bad := if f.status = stEcc then some f.addr.toNat else none, ce := [] }) core fun c =>
        (c.mapOps fun q => if q.id = o.id then none else some q).kick s.tally) core (·.removeFrom o)) (clusterOf core) fun u =>
      if f.status = stSparseDecl then { u with declFaults := satAdd u.declFaults 1 }
      else if f.status = stSparseIndex then { u with indexFaults := satAdd u.indexFaults 1 } else u) core o f) := by
  have hnote (r : SpmRead) (hr : r.ce = []) : (noteRead s core r).tally = s.tally ∧ o.taskRuns (noteRead s core r) core = o.taskRuns s core := by
    unfold noteRead
    rw [if_pos hr]
    split <;> exact ⟨rfl, rfl⟩
  obtain ⟨htally, hruns⟩ := hnote { data := 0, bad := if f.status = stEcc then some f.addr.toNat else none, ce := [] } rfl
  change execTileCheckFailureReport core s = _
  simp only [execTileCheckFailureReport, htaken, hfail, hrun, hdead, hce, htally, Bool.false_eq_true, if_false, Bool.not_false, Bool.true_and,
    taskRuns_kick, hruns, htask, if_true]

theorem exec_spmCeRewrite_pending {s : State} {core word : Nat} (h : (getCore s core).rewrite.contains word = true) :
    exec (.spmCeRewrite core word) s = .next (modClu (modCore s core (·.cure word)) (clusterOf core) fun u =>
      { u with ceCount := satAdd u.ceCount 1 }) := by
  change execSpmCeRewrite core word s = _
  rw [execSpmCeRewrite, if_pos h]

/-! ### Instructions that go on -/

/-- A store of at most 8 aligned bytes of the scratchpad, outside every operand range. -/
theorem bodySt_stores {i : Issue} {s : State} {x : Ctx} (hsize : accessSize i ≤ 8) (halign : accessAddr i x % accessSize i = 0)
    (hfit : accessAddr i x + accessSize i ≤ 49152) (hform : i.fld 16 3 ≤ 4)
    (hfree : rangeBusy s i.core (accessAddr i x) (accessSize i) = false) :
    bodySt i s x = .retire (tillStore s i.core (accessAddr i x) (accessSize i) (x.s i.rb).toNat) (nextPc x) := by
  have hsmall : accessSize i ≠ 16 := by omega
  have hfaults : accessFaults x (accessAddr i x) (accessSize i) i.rb = [] := by
    simp [accessFaults, halign, hsmall, boundFault_inside hfit]
  simp only [bodySt, if_neg (Nat.not_lt.mpr hform), hfaults, hfree, hsmall, gt_iff_lt, Bool.false_eq_true, if_false, Nat.add_zero]

/-- Settles O15: each event's branch is the one that its conditions name; a block finds no word in error, and an instruction that waited runs
its body again. -/
theorem engineProgress : Obligations.EngineProgress := by
  unfold Obligations.EngineProgress
  refine ⟨?close, fun s core o hrun hfree hnext => exec_tileCheckerTakeOp_oldest hrun hfree hnext, ?check,
    fun s core word h => exec_spmCeRewrite_pending h, ?room, ?range⟩
  case close =>
    intro s core eng ups o r u g hserves hrun hhead hhung hcheck herr
    exact exec_engineBlockClose_closes hserves hrun rfl hhead hhung hcheck herr
  case check =>
    intro s core o r htaken hrun hdead hce
    exact ⟨fun hfail => exec_tileCheckComplete_passes htaken hrun hdead hce hfail,
      fun f hfail htask => exec_tileCheckFailureReport_fails htaken hrun hdead hce hfail htask⟩
  case room =>
    intro s i x c o g hw hrun hlegal ha hb hserial hroom
    have hbody : bodyEngine false i s x = .retire (opJoined s i.core o) (nextPc x) :=
      (bodyEngine_queueable rfl ⟨hlegal, ha, hb, hserial⟩).trans (if_neg (Nat.not_le.mpr hroom))
    rw [exec_engineQueueRoom_waiting hw]
    exact congrArg Host.Outcome.next (resume_retires hw hrun hbody)
  case range =>
    intro s i x a n hw hrun hsize halign hfit hform hfree
    have hbody : rangeBody 0x21 i s x = .retire (tillStore s i.core a n (x.s i.rb).toNat) (nextPc x) :=
      bodySt_stores hsize halign hfit hform hfree
    rw [exec_operandRangeRelease_waiting hw]
    exact congrArg Host.Outcome.next (resume_retires hw hrun hbody)

end Sys2Proof.Machine
end

section
/-! PROOFS. The end of a task: O5. -/

namespace Sys2Proof.Machine

/-! ### What the end of a task writes (R52, R61, R98) -/

/-- The context of a task that has ended, where neither a fence nor Compatible recovery holds it. -/
def Ctx.ended (x : Ctx) (st : Status) (fs : List FaultRec) : Ctx :=
  { x.recordFault fs with
    state := if st = stOk || st = stAborted then .idle else .stopped, lastStatus := st, wait := .none, pend := [], aborts := []
    fenceDue := false, fired := none, launch := x.launch }

/-- Its core: counters, queues, sets and what waits to be injected. -/
def Core.ended (c : Core) (n : Nat) (st : Status) : Core :=
  let c := c.disarm n
  let c := if st = stOk then c else c.removeOps n
  let c := if st = stAborted then c.clearSets n else c
  { c with inj := c.inj.filter (fun p => p.1 ≠ n) }

@[simp] theorem Core.removeOps_ctxs (c : Core) (n : Nat) : (c.removeOps n).ctxs = c.ctxs := rfl
@[simp] theorem Core.removeOps_cnts (c : Core) (n : Nat) : (c.removeOps n).cnts = c.cnts := rfl
@[simp] theorem Core.setAcc_ctxs (c : Core) (e a : Nat) (v : Line) : (c.setAcc e a v).ctxs = c.ctxs := rfl
@[simp] theorem Core.setAcc_cnts (c : Core) (e a : Nat) (v : Line) : (c.setAcc e a v).cnts = c.cnts := rfl
@[simp] theorem Core.clearSets_ctxs (c : Core) (n : Nat) : (c.clearSets n).ctxs = c.ctxs := by simp [Core.clearSets]
@[simp] theorem Core.clearSets_cnts (c : Core) (n : Nat) : (c.clearSets n).cnts = c.cnts := by simp [Core.clearSets]
@[simp] theorem Core.disarm_ctxs (c : Core) (n : Nat) : (c.disarm n).ctxs = c.ctxs := rfl

theorem Core.ended_ctxs (c : Core) (n : Nat) (st : Status) : (c.ended n st).ctxs = c.ctxs := by
  simp [Core.ended, apply_ite Core.ctxs]

theorem Core.ended_cnts (c : Core) (n : Nat) (st : Status) : (c.ended n st).cnts = (c.disarm n).cnts := by
  simp [Core.ended, apply_ite Core.cnts]

@[simp] theorem Core.setCtx_cnts (c : Core) (n : Nat) (x : Ctx) : (c.setCtx n x).cnts = c.cnts := rfl

theorem Core.ctx_setCtx_other (c : Core) {n m : Nat} (x : Ctx) (h : m ≠ n) : (c.setCtx n x).ctx m = c.ctx m := Tbl.get_put_ne _ _ _ _ _ h

theorem Core.ctx_ended (c : Core) (n m : Nat) (st : Status) : (c.ended n st).ctx m = c.ctx m := by
  simp only [Core.ctx, Core.ended_ctxs]

/-- A counter that the context armed is disarmed and discards from then on; any other stays. -/
theorem Core.find_disarm {c : Core} {n m : Nat} {v : Counter} (h : Tbl.find c.cnts m = some v) :
    (v.armed = true → v.owner = n → Tbl.find (c.disarm n).cnts m =
      some { v with armed := false, count := 0, total := 0, status := 0, ueDram := false, ueSpm := false, discard := true }) ∧
    (v.armed = false ∨ v.owner ≠ n → Tbl.find (c.disarm n).cnts m = some v) := by
  simp only [Core.disarm, Tbl.find_map, h, Option.map_some]
  refine ⟨fun harmed howner => ?_, fun hother => ?_⟩
  · rw [if_pos (by simp [harmed, howner])]
    rfl
  · rw [if_neg (by rcases hother with h | h <;> simp [h])]

/-! ### What it leaves alone -/

@[simp] theorem getCore_noteTaskEnd (s : State) (k n : Nat) (task : BitVec 16) (j : Nat) :
    getCore (noteTaskEnd s k n task) j = getCore s j := by
  unfold noteTaskEnd
  split <;> rfl

theorem noteTaskEnd_emitted (s : State) (k n : Nat) (task : BitVec 16) : (noteTaskEnd s k n task).emitted = s.emitted := by
  unfold noteTaskEnd
  split <;> rfl

theorem getCore_setCore_other (s : State) {k j : Nat} (c : Core) (h : j ≠ k) : getCore (setCore s k c) j = getCore s j :=
  Tbl.get_put_ne _ _ _ _ _ h

/-- Compatible recovery holds back a watchdog's end and a TIMEOUT only (R409). -/
theorem relaunchable_false (s : State) (k : Nat) (x : Ctx) {st : Status} (hw : st ≠ stCtxWatchdog) (ht : st ≠ stTimeout) :
    relaunchable s k x st = false := by
  simp [relaunchable, hw, ht]

section
variable {s : State} {k n : Nat} {st : Status} (fs : List FaultRec)

/-- A task whose context has nothing due ends: its core and context are written, a fault is told to the hub, and invalidations see it. -/
theorem endTask_notDue (hdue : (getCtx s k n).endDue = false) (hw : st ≠ stCtxWatchdog) (ht : st ≠ stTimeout) :
    let x := getCtx s k n
    let t := setCore s k (((getCore s k).ended n st).setCtx n (x.ended st fs))
    endTask s k n st fs =
      noteTaskEnd (if st = stOk then t else coreToHub t k 0x0D (x.task.toNat + 2 ^ 16 * st.toNat + 2 ^ 32 * n)) k n x.task := by
  intro x t
  unfold endTask endTaskWith
  extract_lets +onlyGivenNames c x₀ hold x₁ x₂ c₂ c₃ c₄ c₅ s₆ ans s₇ s₈ s₉ s₁₀
  obtain ⟨_, hfired, hfence, haborts⟩ := Ctx.endDue_false (x := x₀) hdue
  have haborts : x₀.aborts = [] := List.isEmpty_iff.mp haborts
  have hfired : x₀.fired = none := Option.not_isSome_iff_eq_none.mp (by simp [hfired])
  have hhold : hold = false := by simp [hold, relaunchable_false _ _ _ hw ht]
  have hx : x₂ = x.ended st fs := by
    simp only [x₂, hhold, hfence, Bool.false_eq_true, if_false]
    rfl
  have hc : c₅ = (getCore s k).ended n st := by
    simp only [c₅, c₄, c₃, c₂, c, Core.ended, Bool.or_false, decide_eq_true_eq]
  have h₆ : s₆ = t := by simp only [s₆, t, hx, hc]
  have h₇ : s₇ = t := by simp only [s₇, haborts, List.foldl_nil, h₆]
  have h₈ : s₈ = t := by simp only [s₈, hhold, tellFiring, hfired, h₇, Bool.false_eq_true, if_false]
  have h₉ : s₉ = if st = stOk then t else coreToHub t k 0x0D (x.task.toNat + 2 ^ 16 * st.toNat + 2 ^ 32 * n) := by
    simp only [s₉, h₈, hhold, Bool.or_false, decide_eq_true_eq]
    rfl
  rw [if_neg (by simp [hfence]), ← h₉]
  rfl

theorem getCore_endTask (hdue : (getCtx s k n).endDue = false) (hw : st ≠ stCtxWatchdog) (ht : st ≠ stTimeout) :
    getCore (endTask s k n st fs) k = ((getCore s k).ended n st).setCtx n ((getCtx s k n).ended st fs) := by
  rw [endTask_notDue fs hdue hw ht, getCore_noteTaskEnd]
  split <;> exact getCore_setCore ..

theorem getCore_endTask_other (hdue : (getCtx s k n).endDue = false) (hw : st ≠ stCtxWatchdog) (ht : st ≠ stTimeout) {j : Nat}
    (hj : j ≠ k) : getCore (endTask s k n st fs) j = getCore s j := by
  rw [endTask_notDue fs hdue hw ht, getCore_noteTaskEnd]
  split <;> exact getCore_setCore_other _ _ hj

theorem getCtx_endTask (hdue : (getCtx s k n).endDue = false) (hw : st ≠ stCtxWatchdog) (ht : st ≠ stTimeout) :
    getCtx (endTask s k n st fs) k n = (getCtx s k n).ended st fs := by
  rw [getCtx, getCore_endTask fs hdue hw ht, Core.ctx_setCtx]

theorem getCtx_endTask_other (hdue : (getCtx s k n).endDue = false) (hw : st ≠ stCtxWatchdog) (ht : st ≠ stTimeout) {m : Nat}
    (hm : m ≠ n) : getCtx (endTask s k n st fs) k m = getCtx s k m := by
  rw [getCtx, getCore_endTask fs hdue hw ht, Core.ctx_setCtx_other _ _ hm, Core.ctx_ended, getCtx]

/-- A task that ends OK is reported to nobody (R393). -/
theorem endTask_ok_emitted (hdue : (getCtx s k n).endDue = false) : (endTask s k n stOk fs).emitted = s.emitted := by
  rw [endTask_notDue fs hdue (by decide) (by decide), noteTaskEnd_emitted, if_pos rfl]
  rfl

end

/-! ### END, and instructions that are illegal (R52, R86, R87) -/

theorem getCtx_begun_any (i : Issue) (s : State) (n : Nat) : getCtx (begun i s) i.core n = getCtx s i.core n := by
  simp [begun, getCtx, modCore, Core.upset, Core.ctx]

theorem exec_end_ok {i : Issue} {s : State} (hi : Issues Enc.none i s) :
    exec (.end_ i) s = .next (endTask (begun i s) i.core i.ctx stOk []) := by
  change Host.Outcome.next (issue Enc.none i s _) = _
  rw [issue_eq _ hi]
  exact congrArg Host.Outcome.next (retirePoint_clear _ hi)

/-- An instruction that can issue, but is fetched outside the image or uses a field that its opcode does not, ends its task. -/
theorem issue_illegal {f : Enc} {i : Issue} {s : State} (body : State → Ctx → Res) (hready : (ctxOf i s).state = .ready)
    (hserves : coreServing s i.core = true) (hrun : s.clock.stopped = false) (hdue : (ctxOf i s).endDue = false)
    (hbad : (ctxOf i s).inImage (ctxOf i s).pc.toNat = false ∨ f.ok i = false) :
    issue f i s body = endTask (begun i s) i.core i.ctx stIllegalOp [fIllegal (ctxOf i s).pc] := by
  have hissues : canIssue s i.core i.ctx = true := by simp [canIssue, ← ctxOf.eq_def, hready, hserves, hrun]
  have hctx : getCtx (begun i s) i.core i.ctx = ctxOf i s := getCtx_begun i s
  have hfault : settle (begun i s) i.core i.ctx (.fault (begun i s) [fIllegal (ctxOf i s).pc]) =
      endTask (begun i s) i.core i.ctx stIllegalOp [fIllegal (ctxOf i s).pc] := by
    obtain ⟨hpend, _⟩ := Ctx.endDue_false hdue
    simp only [settle, retirePoint, hctx, hpend, List.nil_append, worstFault_single]
    rfl
  simp only [issue, if_pos hissues, ← begun.eq_def, hctx]
  rcases hbad with h | h <;> simp [h, hfault]

/-- ILLEGAL_OP at `pc` in the fault registers (R61, log 12). -/
theorem recordFault_illegal (x : Ctx) (pc : Word) :
    let y := x.recordFault [fIllegal pc]
    y.fault = x.fault ||| 0x02 ∧
    (x.fault = 0 → y.firstStatus = stIllegalOp ∧ y.faultAddr = pc.setWidth 48 ∧ y.faultSpace = 3) ∧
    (x.fault ≠ 0 → y.firstStatus = x.firstStatus ∧ y.faultAddr = x.faultAddr ∧ y.faultSpace = x.faultSpace) := by
  have hbits : faultBits [fIllegal pc] = 0x02 := BitVec.zero_or
  simp only [Ctx.recordFault, worstFault_single, hbits]
  refine ⟨trivial, fun h => ?_, fun h => ?_⟩
  · simp only [if_pos h]
    exact ⟨rfl, rfl, rfl⟩
  · simp only [if_neg h, and_self]

theorem recordFault_keeps (x : Ctx) (fs : List FaultRec) :
    (x.recordFault fs).regs = x.regs ∧ (x.recordFault fs).vregs = x.vregs ∧ (x.recordFault fs).masks = x.masks ∧
      (x.recordFault fs).pc = x.pc := by
  unfold Ctx.recordFault
  split
  · exact ⟨rfl, rfl, rfl, rfl⟩
  · simp only
    split <;> exact ⟨rfl, rfl, rfl, rfl⟩

theorem encImm_da_refuses {i : Issue} (h : i.b ≠ 0 ∨ i.c ≠ 0 ∨ i.men = true) : Enc.ok { encImm with d := true, a := true } i = false := by
  rw [← Bool.not_eq_true]
  intro hok
  simp only [Enc.ok, encImm, Enc.none, Bool.and_eq_true, Bool.false_or, decide_eq_true_eq, Bool.not_eq_true'] at hok
  obtain ⟨⟨⟨⟨_, hb⟩, hc⟩, _⟩, hmen⟩ := hok.1
  rcases h with h | h | h
  · exact h hb
  · exact h hc
  · exact absurd h (by simp [hmen])

/-- Settles O5: both halves are `endTask` of a context with nothing due, END with OK and no fault, the other with ILLEGAL_OP. -/
theorem tasksEnd : Obligations.TasksEnd := by
  unfold Obligations.TasksEnd
  refine ⟨fun i s hi => ?ok, fun i s => ?illegal⟩
  case ok =>
    have hdue : (getCtx (begun i s) i.core i.ctx).endDue = false := by
      obtain ⟨_, _, _, hdue, _, _⟩ := hi
      rwa [getCtx_begun]
    have hctx := getCtx_endTask [] hdue (st := stOk) (by decide) (by decide)
    have hcore := getCore_endTask [] hdue (st := stOk) (by decide) (by decide)
    refine ⟨_, exec_end_ok hi, congrArg Ctx.state hctx, congrArg Ctx.lastStatus hctx, ?_, endTaskWith_mem .., endTask_ok_emitted [] hdue,
      fun n hn => ?_, fun k hk => ?_, fun n v hv => ?_⟩
    · rw [hctx, getCtx_begun]
      rfl
    · rw [getCtx_endTask_other [] hdue (by decide) (by decide) hn]
      exact getCtx_begun_any i s n
    · rw [getCore_endTask_other [] hdue (by decide) (by decide) hk]
      exact getCore_setCore_other _ _ hk
    · rw [hcore, Core.setCtx_cnts, Core.ended_cnts]
      exact Core.find_disarm (by simpa [begun, modCore, Core.upset] using hv)
  case illegal =>
    intro x hready hserves hrun hdue hbad
    have hdue' : (getCtx (begun i s) i.core i.ctx).endDue = false := by rwa [getCtx_begun]
    have hctx := getCtx_endTask [fIllegal x.pc] hdue' (st := stIllegalOp) (by decide) (by decide)
    rw [getCtx_begun] at hctx
    refine ⟨_, congrArg Host.Outcome.next (issue_illegal _ hready hserves hrun hdue (hbad.imp_right encImm_da_refuses)),
      endTaskWith_mem .., ?_⟩
    obtain ⟨hregs, hvregs, hmasks, hpc⟩ := recordFault_keeps x [fIllegal x.pc]
    obtain ⟨hfault, hfirst, hheld⟩ := recordFault_illegal x x.pc
    intro y
    have hy : y = x.ended stIllegalOp [fIllegal x.pc] := hctx
    rw [hy]
    exact ⟨rfl, rfl, hregs, hvregs, hmasks, hpc, hfault, hfirst, hheld⟩

end Sys2Proof.Machine
end

section
/-! PROOFS. A channel's reads, commits and maintenance: O35. -/

namespace Sys2Proof.Machine

/-! ### Updates of one cluster -/

theorem modClu_modClu (s : State) (cl : Nat) (f g : Cluster → Cluster) : modClu (modClu s cl f) cl g = modClu s cl fun u => g (f u) := by
  simp only [modClu, getClu_setClu, setClu_setClu]

/-! ### What has waited (R192) -/

/-- Where no request from outside waits, none is served. -/
theorem drain_of_waits_nil {s : State} {cl : Nat} (h : (getClu s cl).waits = []) : drain s cl = s := by
  rw [drain, h]
  rfl

/-! ### Lines read and decoded (R187, R188, R196) -/

/-- A line without errors is decoded as it is stored. -/
theorem readDecoded_clean {s : State} {cl line : Nat} {r : ArrayRead} (hfresh : r.fresh = 0)
    (herr : Tbl.find (getClu s cl).lineErr line = none) (hpend : pendingEntry (getClu s cl) line = none)
    (hexh : line ∉ (getClu s cl).exhLines) :
    readDecoded s cl line r = (modClu s cl fun u => { u with
      lineErr := Tbl.drop u.lineErr line, innerCe := if r.inner then satAdd u.innerCe 1 else u.innerCe }, .good (storedLine s cl line) 0) := by
  have hsym : symbolsAt (getClu s cl) line r = 0 := by simp [symbolsAt, Tbl.get, herr, hfresh]
  have hdec : decodeLine s cl line r = .good (storedLine s cl line) 0 := by simp [decodeLine, hsym, hpend, hexh]
  simp only [readDecoded, hsym, hdec, noteErr, Nat.not_lt_zero, if_false, if_true, modClu_modClu]

/-- A line that waits for a cure is not decoded; the read counts what it met on the way, and may draw a free value (log 7). -/
theorem readDecoded_pending {s : State} {cl line : Nat} {e : Nat × BadLine} (r : ArrayRead)
    (hpend : pendingEntry (getClu s cl) line = some e) :
    ∃ t le ic, (t = s ∨ t = bumpFree s) ∧
      readDecoded s cl line r = (modClu t cl fun u => { u with lineErr := le, innerCe := ic }, .bad) := by
  have hdec : decodeLine s cl line r = .bad := by simp [decodeLine, hpend]
  simp only [readDecoded, hdec, noteErr, modClu_modClu]
  split
  · exact ⟨_, _, _, .inr rfl, rfl⟩
  · exact ⟨_, _, _, .inl rfl, rfl⟩

/-- A demand read of a line without errors answers its data. -/
theorem demandRead_clean {s : State} {cl line : Nat} {r : ArrayRead} (hfresh : r.fresh = 0)
    (herr : Tbl.find (getClu s cl).lineErr line = none) (hpend : pendingEntry (getClu s cl) line = none)
    (hexh : line ∉ (getClu s cl).exhLines) :
    demandRead s cl line r = (modClu s cl fun u => { u with
      lineErr := Tbl.drop u.lineErr line, innerCe := if r.inner then satAdd u.innerCe 1 else u.innerCe }, some (storedLine s cl line)) := by
  rw [demandRead, readDecoded_clean hfresh herr hpend hexh]
  rfl

/-- A line that already waits for a cure is counted, and not entered again (R199). -/
theorem demandUe_pending {s : State} {cl line : Nat} {e : Nat × BadLine} (hpend : pendingEntry (getClu s cl) line = some e) :
    demandUe s cl line = modClu s cl fun u => { u with ueRead := satAdd u.ueRead 1 } := by
  simp [demandUe, hpend]

/-- A demand read of a line that waits for a cure counts it uncorrectable and answers nothing. -/
theorem demandRead_pending {s : State} {cl line : Nat} {e : Nat × BadLine} (r : ArrayRead)
    (hpend : pendingEntry (getClu s cl) line = some e) :
    ∃ t le ic, (t = s ∨ t = bumpFree s) ∧ demandRead s cl line r =
      (modClu t cl fun u => { u with lineErr := le, innerCe := ic, ueRead := satAdd u.ueRead 1 }, none) := by
  obtain ⟨t, le, ic, ht, hread⟩ := readDecoded_pending r hpend
  have hstill : pendingEntry (getClu (modClu t cl fun u => { u with lineErr := le, innerCe := ic }) cl) line = some e := by
    rw [getClu_modClu_self]
    rcases ht with rfl | rfl <;> exact hpend
  refine ⟨t, le, ic, ht, ?_⟩
  rw [demandRead, hread]
  simp only [demandUe_pending hstill, modClu_modClu]

/-! ### The read served next (R65, R242) -/

theorem pickRead_stream {u : Cluster} {j : ReadJob} (cl : Nat) (h : (u.reads.find? fun j => j.core.isNone) = some j) :
    pickRead u cl = some (j, u.turn, u.credit) := by
  simp only [pickRead, h]

theorem readNext_inSlice {s : State} {cl : Nat} (r : ArrayRead) (h : (getClu s cl).inSlice = true) : readNext cl r s = s := by
  simp [readNext, h]

/-- The channel has taken a read to serve, with the turn that this leaves (R65). -/
def readTaken (s : State) (cl : Nat) (j : ReadJob) (turn credit : Nat) : State :=
  modClu s cl fun u => { u with reads := u.reads.erase j, turn := turn, credit := credit }

/-- It has taken a received line to commit. -/
def commitTaken (s : State) (cl : Nat) (j : CommitJob) (turn credit : Nat) : State :=
  modClu s cl fun u => { u with commits := u.commits.erase j, turn := turn, credit := credit }

theorem getClu_readTaken (s : State) (cl : Nat) (j : ReadJob) (turn credit : Nat) : getClu (readTaken s cl j turn credit) cl =
    { getClu s cl with reads := (getClu s cl).reads.erase j, turn := turn, credit := credit } := getClu_modClu_self ..

theorem getClu_commitTaken (s : State) (cl : Nat) (j : CommitJob) (turn credit : Nat) : getClu (commitTaken s cl j turn credit) cl =
    { getClu s cl with commits := (getClu s cl).commits.erase j, turn := turn, credit := credit } := getClu_modClu_self ..

section
variable {s : State} {cl : Nat} {r : ArrayRead} {j : ReadJob} {turn credit : Nat} {x y : BitVec 10} {sp cnt : Nat}

/-- A core's read that no window stands behind is a demand read, answered with what it finds. -/
theorem readNext_core (hpick : pickRead (getClu s cl) cl = some (j, turn, credit)) (hdest : j.dest = .core x y sp cnt) (hvia : j.via = none)
    (hslice : (getClu s cl).inSlice = false) (hout : (getClu s cl).channelOut = false) {t : State} {v : Option Line}
    (hread : demandRead (readTaken s cl j turn credit) cl j.line r = (t, v)) : readNext cl r s = answerRead t cl x y sp cnt j.line v := by
  unfold readTaken at hread
  simp only [readNext, hslice, hout, hpick, serveRead, hdest, hvia, Option.bind_none, Bool.or_self, Bool.false_eq_true, if_false]
  exact congrArg (fun p => answerRead p.1 cl x y sp cnt j.line p.2) hread

/-- A good line is sent to its core with the stored data. -/
theorem readNext_good (hpick : pickRead (getClu s cl) cl = some (j, turn, credit)) (hdest : j.dest = .core x y sp cnt) (hvia : j.via = none)
    (hslice : (getClu s cl).inSlice = false) (hout : (getClu s cl).channelOut = false) (hfresh : r.fresh = 0)
    (herr : Tbl.find (getClu s cl).lineErr j.line = none) (hpend : pendingEntry (getClu s cl) j.line = none)
    (hexh : j.line ∉ (getClu s cl).exhLines) :
    ∃ t, readNext cl r s = deliverLine t cl x y sp cnt (storedLine s cl j.line) ∧ t.mem = s.mem ∧ t.emitted = s.emitted ∧
      t.cores = s.cores ∧ t.epoch = s.epoch ∧ (getClu t cl).reads = (getClu s cl).reads.erase j ∧
      (getClu t cl).ueRead = (getClu s cl).ueRead ∧ (getClu t cl).waits = (getClu s cl).waits := by
  have hu := getClu_readTaken s cl j turn credit
  have hread := demandRead_clean (s := readTaken s cl j turn credit) (cl := cl) (line := j.line) hfresh (by rw [hu]; exact herr)
    (by rw [hu]; exact hpend) (by rw [hu]; exact hexh)
  refine ⟨_, readNext_core hpick hdest hvia hslice hout hread, rfl, rfl, rfl, rfl, ?_⟩
  rw [getClu_modClu_self, hu]
  exact ⟨rfl, rfl, rfl⟩

/-- A line that waits for a cure is counted uncorrectable at its core instead, and at the channel. -/
theorem readNext_pending (hpick : pickRead (getClu s cl) cl = some (j, turn, credit)) (hdest : j.dest = .core x y sp cnt)
    (hvia : j.via = none) (hslice : (getClu s cl).inSlice = false) (hout : (getClu s cl).channelOut = false) {e : Nat × BadLine}
    (hpend : pendingEntry (getClu s cl) j.line = some e) :
    ∃ t, readNext cl r s = sendCountOnly t cl x.toNat y.toNat cnt 1 stEcc ∧ t.mem = s.mem ∧
      (cl, j.line) ∈ (getCore t (coreAt x.toNat y.toNat)).ueLines ∧ (getClu t cl).reads = (getClu s cl).reads.erase j ∧
      (getClu t cl).ueRead = satAdd (getClu s cl).ueRead 1 ∧ (getClu t cl).waits = (getClu s cl).waits := by
  have hu := getClu_readTaken s cl j turn credit
  obtain ⟨t, le, ic, ht, hread⟩ := demandRead_pending (s := readTaken s cl j turn credit) r (by rw [hu]; exact hpend)
  have hclu : getClu t cl = getClu (readTaken s cl j turn credit) cl := by rcases ht with rfl | rfl <;> rfl
  have hmem : t.mem = s.mem := by rcases ht with rfl | rfl <;> rfl
  refine ⟨_, readNext_core hpick hdest hvia hslice hout hread, hmem, ?_, ?_, ?_, ?_⟩
  · simp [modCore]
  all_goals rw [modCore, getClu_setCore, getClu_modClu_self, hclu, hu]

end

theorem exec_dramReadComplete {s t : State} {cl : Nat} {r : ArrayRead} (h : readNext cl r s = t) (hwaits : (getClu t cl).waits = []) :
    exec (.dramReadComplete cl r) s = .next (withReports s t) := by
  change report s (drain (readNext cl r s) cl) = _
  rw [h, drain_of_waits_nil hwaits, report]

/-! ### The line committed next (R189, R196) -/

theorem commitNext_inSlice {s : State} {cl : Nat} (h : (getClu s cl).inSlice = true) : commitNext cl s = s := by
  simp [commitNext, h]

/-- A line that no window stands behind is stored and answered COMMIT. -/
theorem commitNext_core {s : State} {cl : Nat} {j : CommitJob} {turn credit : Nat}
    (hpick : pickCommit (getClu s cl) cl = some (j, turn, credit)) (hvia : j.via = none) (hslice : (getClu s cl).inSlice = false)
    (hout : (getClu s cl).channelOut = false) :
    commitNext cl s = sendCtrl (commitLine (commitTaken s cl j turn credit) cl j.line j.data) 4 (coreX (portCore cl)) (coreY (portCore cl))
      j.x.toNat j.y.toNat (countBody j.cnt 1 0) := by
  simp only [commitNext, hslice, hout, hpick, hvia, Option.bind_none, Bool.or_self, Bool.false_eq_true, if_false]
  rfl

/-- A table change leaves the channel's queues and the errors of its lines as they are. -/
theorem putBad_queues (s : State) (cl i : Nat) (b : Option BadLine) :
    (getClu (putBad s cl i b) cl).commits = (getClu s cl).commits ∧ (getClu (putBad s cl i b) cl).waits = (getClu s cl).waits ∧
      (getClu (putBad s cl i b) cl).lineErr = (getClu s cl).lineErr := by
  have h : getClu (putBad s cl i b) cl = getClu (modClu s cl fun u => { u with
    bad := match b with | some b => Tbl.put u.bad i b | none => Tbl.drop u.bad i }) cl := rfl
  rw [h, getClu_modClu_self]
  exact ⟨rfl, rfl, rfl⟩

/-- The line as it is stored, with no errors left in it. -/
def lineStored (s : State) (cl line : Nat) (v : Line) : State :=
  noteErr { s with mem := Mem.writeN s.mem (dramAddr cl (64 * line)) 64 v.toNat } cl line 0

theorem getClu_lineStored (s : State) (cl line : Nat) (v : Line) : getClu (lineStored s cl line v) cl =
    { getClu s cl with lineErr := Tbl.drop (getClu s cl).lineErr line } := getClu_modClu_self ..

theorem commitLine_exhausted {s : State} {cl line : Nat} (v : Line) (h : line ∈ (getClu s cl).exhLines) :
    commitLine s cl line v = { s with mem := Mem.writeN s.mem (dramAddr cl (64 * line)) 64 v.toNat } :=
  if_pos (List.contains_iff_mem.mpr h)

/-- A line that the channel serves is stored without errors, and an entry that waits for its cure is completed. -/
theorem commitLine_cures {s : State} {cl line : Nat} (v : Line) (h : line ∉ (getClu s cl).exhLines) :
    commitLine s cl line v = lineStored s cl line v ∨ ∃ i b, commitLine s cl line v = putBad (lineStored s cl line v) cl i b := by
  have hneg : ¬ (getClu s cl).exhLines.contains line = true := mt List.contains_iff_mem.mp h
  have heq : commitLine s cl line v = _ := if_neg hneg
  rw [heq]
  split
  · exact .inl rfl
  · split
    · exact .inr ⟨_, _, rfl⟩
    · exact .inr ⟨_, _, rfl⟩

/-- A line written is stored, and the channel's queues stay. -/
theorem commitLine_frame (s : State) (cl line : Nat) (v : Line) :
    (commitLine s cl line v).mem = Mem.writeN s.mem (dramAddr cl (64 * line)) 64 v.toNat ∧ (commitLine s cl line v).cores = s.cores ∧
      (getClu (commitLine s cl line v) cl).commits = (getClu s cl).commits ∧
      (getClu (commitLine s cl line v) cl).waits = (getClu s cl).waits := by
  by_cases hexh : line ∈ (getClu s cl).exhLines
  · rw [commitLine_exhausted v hexh]
    exact ⟨rfl, rfl, rfl, rfl⟩
  · have hclu := getClu_lineStored s cl line v
    rcases commitLine_cures v hexh with h | ⟨i, b, h⟩
    · rw [h, hclu]
      exact ⟨rfl, rfl, rfl, rfl⟩
    · obtain ⟨hcommits, hwaits, _⟩ := putBad_queues (lineStored s cl line v) cl i b
      rw [h, hcommits, hwaits, hclu]
      exact ⟨rfl, rfl, rfl, rfl⟩

/-- But for a line that the channel could not remap, the errors it held are gone. -/
theorem commitLine_lineErr {s : State} {cl line : Nat} (v : Line) (hexh : line ∉ (getClu s cl).exhLines) :
    Tbl.find (getClu (commitLine s cl line v) cl).lineErr line = none := by
  have hclu := getClu_lineStored s cl line v
  rcases commitLine_cures v hexh with h | ⟨i, b, h⟩
  · rw [h, hclu]
    exact Tbl.find_drop_self ..
  · obtain ⟨_, _, herr⟩ := putBad_queues (lineStored s cl line v) cl i b
    rw [h, herr, hclu]
    exact Tbl.find_drop_self ..

theorem exec_dramWriteCommit {s t : State} {cl : Nat} (h : commitNext cl s = t) (hwaits : (getClu t cl).waits = []) :
    exec (.dramWriteCommit cl) s = .next (withReports s t) := by
  change report s (drain (commitNext cl s) cl) = _
  rw [h, drain_of_waits_nil hwaits, report]

/-! ### The patrol scrub (R191, R193) -/

/-- What is not told to hosts stays in each cluster and in memory. -/
theorem channel_of_untold {s t : State} (h : untold t = untold s) (cl : Nat) : getClu t cl = getClu s cl ∧ t.mem = s.mem :=
  ⟨congrArg (fun u : Untold => getClu u.rest cl) h, congrArg (fun u : Untold => u.rest.mem) h⟩

/-- The scrub has come to the next line. -/
def visited (s : State) (cl : Nat) : State := modClu s cl fun u => { u with scrubPos := u.scrubPos + 1, scrubAt := s.tally }

theorem getClu_visited (s : State) (cl : Nat) : getClu (visited s cl) cl =
    { getClu s cl with scrubPos := (getClu s cl).scrubPos + 1, scrubAt := s.tally } := getClu_modClu_self ..

theorem exec_patrolScrubVisit_idle {s : State} {cl : Nat} (r : ArrayRead)
    (h : (getClu s cl).inSlice = true ∨ now s < (getClu s cl).scrubAt.toNat + scrubGap s) : exec (.patrolScrubVisit cl r) s = .next s :=
  report_same (if_pos (by simpa using h))

section
variable {s : State} {cl : Nat} {r : ArrayRead} (hslice : (getClu s cl).inSlice = false)
  (hdue : (getClu s cl).scrubAt.toNat + scrubGap s ≤ now s)
include hslice hdue

/-- A visit that is due reads and decodes the line. -/
theorem exec_patrolScrubVisit_good {t : State} {v : Line}
    (hread : readDecoded (visited s cl) cl (getClu s cl).scrubPos.toNat r = (t, .good v 0)) :
    exec (.patrolScrubVisit cl r) s = .next (withReports s
      (modClu t cl fun u => { u with scrubHit := Tbl.drop u.scrubHit (getClu s cl).scrubPos.toNat })) := by
  unfold visited at hread
  refine report_of_eq ?_
  simp only [hslice, Nat.not_lt.mpr hdue, hread, Bool.false_or, decide_false, Bool.false_eq_true, if_false, if_true]

theorem exec_patrolScrubVisit_bad {t : State}
    (hread : readDecoded (visited s cl) cl (getClu s cl).scrubPos.toNat r = (t, .bad)) :
    exec (.patrolScrubVisit cl r) s = .next (withReports s (scrubUe t cl (getClu s cl).scrubPos.toNat)) := by
  unfold visited at hread
  refine report_of_eq ?_
  simp only [hslice, Nat.not_lt.mpr hdue, hread, Bool.false_or, decide_false, Bool.false_eq_true, if_false]

end

/-- A line that already waits for a cure is not remapped again (R194). -/
theorem remap_pending {s : State} {cl line : Nat} {e : Nat × BadLine} (cause : Nat) (h : pendingEntry (getClu s cl) line = some e) :
    remap s cl line cause true = s := by
  simp [remap, h]

/-- A scrub read that finds a line uncorrectable that waits for a cure counts it and tells the hosts. -/
theorem scrubUe_pending {s : State} {cl line : Nat} {e : Nat × BadLine} (h : pendingEntry (getClu s cl) line = some e) :
    (getClu (scrubUe s cl line) cl).scrubPos = (getClu s cl).scrubPos ∧
      (getClu (scrubUe s cl line) cl).ueScrub = satAdd (getClu s cl).ueScrub 1 ∧ (scrubUe s cl line).mem = s.mem := by
  have hstill : pendingEntry (getClu (modClu s cl fun u => { u with
      ueScrub := satAdd u.ueScrub 1, scrubHit := Tbl.drop u.scrubHit line }) cl) line = some e := by
    rw [getClu_modClu_self]
    exact h
  have huntold : untold (scrubUe s cl line) = untold (modClu s cl fun u => { u with
      ueScrub := satAdd u.ueScrub 1, scrubHit := Tbl.drop u.scrubHit line }) := by
    simp only [scrubUe, untold_dramEvent, remap_pending 3 hstill, ite_self]
  obtain ⟨hclu, hmem⟩ := channel_of_untold huntold cl
  rw [hclu, hmem, getClu_modClu_self]
  exact ⟨rfl, rfl, rfl⟩

/-! ### Recalibration (R191, R192) -/

/-- A channel in no partition has no step to leave service between. -/
theorem leaveIfIdle_none {s : State} {cl : Nat} (h : partOfSite s (cl / 64) = none) : leaveIfIdle s cl = s := by
  rw [leaveIfIdle, h]

theorem le_dist_iff {n a b : Nat} : n ≤ dist a b ↔ n ≤ a - b ∨ n ≤ b - a := by
  change n ≤ max a b - min a b ↔ _
  omega

/-- The temperature is noted; a recalibration that falls due while none runs starts with eight slices. -/
theorem exec_recalibrationTrigger_out {s : State} {cl : Nat} (temp : BitVec 8) (hout : partOfSite s (cl / 64) = none)
    (hnone : (getClu s cl).slicesLeft = 0) :
    exec (.recalibrationTrigger cl temp) s = .next (withReports s
      (if (getClu s cl).lastRecal.toNat + s.sys.recalS * 1000000000 ≤ now s ∨ 8 ≤ dist (getClu s cl).recalTemp.toNat temp.toNat
       then setClu s cl { (getClu s cl).noteDie temp with slicesLeft := 8 } else setClu s cl ((getClu s cl).noteDie temp))) := by
  have hclu : getClu (modClu s cl fun u => u.noteDie temp) cl = (getClu s cl).noteDie temp := getClu_modClu_self ..
  have hleft : ((getClu s cl).noteDie temp).slicesLeft = 0 := hnone
  refine report_of_eq ?_
  simp only [hclu, hleft, decide_true, Bool.and_true, Bool.or_eq_true, decide_eq_true_eq, modClu_modClu]
  refine (leaveIfIdle_none ?_).trans ?_
  · split <;> exact hout
  · rfl

/-- No channel of the die runs a slice. -/
theorem noSlice_of_die {s : State} {cl : Nat} (h : ∀ c, c < 64 → (getClu s (cl / 64 * 64 + c)).inSlice = false) :
    ((List.range 64).any fun c => (getClu s (cl / 64 * 64 + c)).inSlice) = false := by
  simpa using h

theorem exec_recalSliceStart_starts {s : State} {cl : Nat} (hleft : (getClu s cl).slicesLeft ≠ 0) (hslice : (getClu s cl).inSlice = false)
    (hpower : (getClu s cl).pwrState ≠ 1) (hdie : ∀ c, c < 64 → (getClu s (cl / 64 * 64 + c)).inSlice = false)
    (hspace : (getClu s cl).slicesLeft = 8 ∨ (getClu s cl).lastSlice.toNat + 1000000 ≤ now s) :
    exec (.recalSliceStart cl) s = .next (setClu s cl { getClu s cl with inSlice := true, lastSlice := s.tally }) := by
  have hgap : (decide ((getClu s cl).slicesLeft < 8) && decide (now s < (getClu s cl).lastSlice.toNat + 1000000)) = false := by
    simp only [Bool.and_eq_false_iff, decide_eq_false_iff_not]
    omega
  refine congrArg Host.Outcome.next (if_neg ?_)
  simp only [hleft, hslice, noSlice_of_die hdie, hpower, hgap, decide_false, Bool.or_self, Bool.false_eq_true, not_false_iff]

theorem exec_recalSliceStart_early {s : State} {cl : Nat} (hleft : (getClu s cl).slicesLeft < 8)
    (hearly : now s < (getClu s cl).lastSlice.toNat + 1000000) : exec (.recalSliceStart cl) s = .next s :=
  congrArg Host.Outcome.next (if_pos (by simp [hleft, hearly]))

/-- A slice that ends with others left: what arrived in it is served then. -/
theorem endSlice_more {s : State} {cl : Nat} (hslice : (getClu s cl).inSlice = true) (hmore : 1 < (getClu s cl).slicesLeft) :
    endSlice s cl = setClu s cl { getClu s cl with
      inSlice := false, slicesLeft := (getClu s cl).slicesLeft - 1, heldTo := (getClu s cl).nextArr } := by
  simp only [endSlice, hslice, hmore, Bool.not_true, Bool.false_eq_true, if_false, if_true]
  rfl

/-- The last slice ends the recalibration. -/
theorem endSlice_last {s : State} {cl : Nat} (hslice : (getClu s cl).inSlice = true) (hlast : (getClu s cl).slicesLeft ≤ 1) :
    endSlice s cl = recalDone s cl := by
  simp only [endSlice, hslice, Nat.not_lt.mpr hlast, Bool.not_true, Bool.false_eq_true, if_false]

theorem exec_recalSliceEnd {s t : State} {cl : Nat} (h : endSlice s cl = t) :
    exec (.recalSliceEnd cl) s = .next (withReports s (drain t cl)) := by
  rw [← h]
  rfl

/-- Settles O35: without requests that have waited each command serves one line, the one that its turn names; the maintenance commands take
the branch that their conditions name. -/
theorem channelsServe : Obligations.ChannelsServe := by
  unfold Obligations.ChannelsServe
  refine ⟨⟨?serve, ?scrub⟩, fun s cl => rfl, ?trigger, fun u temp => ⟨rfl, rfl⟩, ?start, ?stop⟩
  case serve =>
    intro s cl r u hwaits
    refine ⟨fun hslice => ?slice, fun j turn credit x y sp cnt hpick hdest hvia hslice hout => ⟨?good, ?pending⟩, ?commit,
      fun j hstream => pickRead_stream cl hstream⟩
    case slice =>
      exact ⟨(exec_dramReadComplete (readNext_inSlice r hslice) hwaits).trans (by rw [withReports_self]),
        (exec_dramWriteCommit (commitNext_inSlice hslice) hwaits).trans (by rw [withReports_self])⟩
    case good =>
      intro _ hfresh herr hpend hexh
      obtain ⟨t, hread, hmem, hsent, hcores, hepoch, hreads, hue, hw⟩ := readNext_good hpick hdest hvia hslice hout hfresh herr hpend hexh
      refine ⟨t, (exec_dramReadComplete hread (hw.trans hwaits)).trans ?_, hmem, hsent, hcores, hreads, hue⟩
      rw [deliverLine, hepoch]
      rfl
    case pending =>
      intro e hpend _
      obtain ⟨t, hread, hmem, hline, hreads, hue, hw⟩ := readNext_pending (r := r) hpick hdest hvia hslice hout hpend
      exact ⟨t, exec_dramReadComplete hread (hw.trans hwaits), hmem, hline, hreads, hue⟩
    case commit =>
      intro j turn credit hpick hvia hslice hout
      have hu := getClu_commitTaken s cl j turn credit
      obtain ⟨hmem, hcores, hcommits, hw⟩ := commitLine_frame (commitTaken s cl j turn credit) cl j.line j.data
      rw [hu] at hcommits hw
      exact ⟨_, exec_dramWriteCommit (commitNext_core hpick hvia hslice hout) (hw.trans hwaits), hmem, hcommits, hcores,
        fun hexh _ => commitLine_lineErr j.data (by rw [hu]; exact hexh)⟩
  case scrub =>
    intro s cl r u due
    have hv := getClu_visited s cl
    refine ⟨fun h => exec_patrolScrubVisit_idle r (h.imp_right Nat.not_le.mp), fun hslice hdue herr hfresh hpend hexh => ?clean,
      fun e hslice hdue hpend hexh => ?bad⟩
    case clean =>
      have hread := readDecoded_clean (s := visited s cl) (cl := cl) (line := u.scrubPos.toNat) hfresh (by rw [hv]; exact herr)
        (by rw [hv]; exact hpend) (by rw [hv]; exact hexh)
      refine ⟨_, exec_patrolScrubVisit_good hslice hdue hread, ?_⟩
      rw [getClu_modClu_self, getClu_modClu_self, hv]
      exact ⟨rfl, rfl, rfl, rfl⟩
    case bad =>
      obtain ⟨t, le, ic, ht, hread⟩ := readDecoded_pending (s := visited s cl) (line := u.scrubPos.toNat) r (by rw [hv]; exact hpend)
      have hclu : getClu t cl = getClu (visited s cl) cl := by rcases ht with rfl | rfl <;> rfl
      have hmem : t.mem = s.mem := by rcases ht with rfl | rfl <;> rfl
      obtain ⟨hpos, hue, hsame⟩ := scrubUe_pending (s := modClu t cl fun u => { u with lineErr := le, innerCe := ic }) (cl := cl)
        (line := u.scrubPos.toNat) (e := e) (by rw [getClu_modClu_self, hclu, hv]; exact hpend)
      rw [getClu_modClu_self, hclu, hv] at hpos hue
      exact ⟨_, exec_patrolScrubVisit_bad hslice hdue hread, hpos, hue, hsame.trans hmem⟩
  case trigger =>
    intro s cl temp u hout hnone
    refine ⟨fun hdue => ?_, fun hearly hdown hup => ?_⟩
    · exact (exec_recalibrationTrigger_out temp hout hnone).trans
        (by rw [if_pos (hdue.imp_right le_dist_iff.mpr)])
    · refine (exec_recalibrationTrigger_out temp hout hnone).trans ?_
      have hnear : ¬ 8 ≤ dist u.recalTemp.toNat temp.toNat := mt le_dist_iff.mp (not_or.mpr ⟨Nat.not_le.mpr hdown, Nat.not_le.mpr hup⟩)
      rw [if_neg (not_or.mpr ⟨Nat.not_le.mpr hearly, hnear⟩)]
  case start =>
    intro s cl u hleft hslice hpower hdie
    exact ⟨exec_recalSliceStart_starts hleft hslice hpower hdie, exec_recalSliceStart_early⟩
  case stop =>
    intro s cl u hslice
    exact ⟨fun hmore => exec_recalSliceEnd (endSlice_more hslice hmore), fun hlast => exec_recalSliceEnd (endSlice_last hslice hlast)⟩

end Sys2Proof.Machine
end

section
/-! PROOFS. What an instruction that issues comes to, by the outcome of its body. -/

namespace Sys2Proof.Machine

section
variable {f : Enc} {i : Issue} {s t : State} {body : State → Ctx → Res}

/-- A body that retires at the next word. -/
theorem issue_retires (hi : Issues f i s) (hb : body (begun i s) (ctxOf i s) = .retire t (nextPc (ctxOf i s))) :
    issue f i s body = wentOn i s t := by
  rw [issue_eq _ hi, hb, settle_retire _ hi]

/-- A body that retires elsewhere. -/
theorem issue_jumps {pc : Word} (hi : Issues f i s) (hb : body (begun i s) (ctxOf i s) = .retire t pc) :
    issue f i s body = goOn t i.core i.ctx pc := by
  rw [issue_eq _ hi, hb, settle_jump _ _ hi]

/-- A body that retires with registers written in what it has made of the state. -/
theorem issue_writesIn {y : Ctx} (hi : Issues f i s) (hb : body (begun i s) (ctxOf i s) = retireCtx t i y) (hpc : y.pc = (ctxOf i s).pc) :
    issue f i s body = wentOn i s (setCtx t i.core i.ctx y) := by
  rw [issue_eq _ hi, hb, settle_retireCtx hi hpc]

/-- A body that retires with registers written and nothing else. -/
theorem issue_writes {y : Ctx} (hi : Issues f i s) (hb : body (begun i s) (ctxOf i s) = retireCtx (begun i s) i y)
    (hpc : y.pc = (ctxOf i s).pc) : issue f i s body = wrote i s y := by
  rw [wrote, issue_writesIn hi hb hpc]

/-- A body that faults. -/
theorem issue_faults {fs : List FaultRec} {g : FaultRec} (hi : Issues f i s) (hb : body (begun i s) (ctxOf i s) = .fault (begun i s) fs)
    (hg : worstFault fs = some g) : issue f i s body = endTask (begun i s) i.core i.ctx g.status fs := by
  rw [issue_eq _ hi, hb, settle_fault _ g hi hg]

/-- A body that finds its instruction illegal. -/
theorem issue_illegalBody (hi : Issues f i s) (hb : body (begun i s) (ctxOf i s) = illegal (begun i s) (ctxOf i s)) :
    issue f i s body = endTask (begun i s) i.core i.ctx stIllegalOp [fIllegal (ctxOf i s).pc] := by
  rw [issue_eq _ hi, hb, illegal, settle_fault _ _ hi (worstFault_single _)]
  rfl

/-- A body that waits. -/
theorem issue_waits {w : Wait} {st : CtxState} (hi : Issues f i s) (hb : body (begun i s) (ctxOf i s) = .wait t w st) :
    issue f i s body = waits i t st w := by
  rw [issue_eq _ hi, hb, settle_wait _ _ _ hi]

end

end Sys2Proof.Machine
end

section
/-! PROOFS. Scalar arithmetic, branches and jumps: O3, O4. -/

namespace Sys2Proof.Machine

/-! ### Scalar registers (R49) -/

@[simp] theorem Ctx.s_zero (x : Ctx) : x.s 0 = 0 := rfl

@[simp] theorem Ctx.setS_zero (x : Ctx) (v : Word) : x.setS 0 v = x := rfl

theorem Ctx.s_setS_same (x : Ctx) {n : Nat} (v : Word) (h : n ≠ 0) : (x.setS n v).s n = v := by
  simp [Ctx.s, Ctx.setS, h]

theorem Ctx.s_setS_other (x : Ctx) {n m : Nat} (v : Word) (h : m ≠ n) : (x.setS n v).s m = x.s m := by
  unfold Ctx.s Ctx.setS
  split
  · rfl
  · split
    · rfl
    · exact Tbl.get_put_ne _ _ _ _ _ h

/-! ### The functions of the scalar unit -/

theorem bitVec_mul_ofNat {w : Nat} (a b : BitVec w) : a * b = BitVec.ofNat w (a.toNat * b.toNat) := by
  apply BitVec.eq_of_toNat_eq
  simp

theorem slt_one_zero (a b : Word) : (if a.slt b then (1 : Word) else 0) = if a.toInt < b.toInt then 1 else 0 := by
  simp [BitVec.slt]

theorem ult_one_zero (a b : Word) : (if a.ult b then (1 : Word) else 0) = if a.toNat < b.toNat then 1 else 0 := by
  simp [BitVec.ult]

theorem min_signed (a b : Word) : (if b.slt a then b else a) = if a.toInt ≤ b.toInt then a else b := by
  by_cases h : b.toInt < a.toInt
  · simp [BitVec.slt, h]
  · simp [BitVec.slt, h, Int.not_lt.mp h]

theorem max_signed (a b : Word) : (if a.slt b then b else a) = if a.toInt ≤ b.toInt then b else a := by
  rcases Int.lt_trichotomy a.toInt b.toInt with h | h | h
  · simp [BitVec.slt, h, Int.le_of_lt h]
  · simp [BitVec.toInt_inj.mp h]
  · simp [BitVec.slt, Int.not_lt.mpr (Int.le_of_lt h), Int.not_le.mpr h]

/-- An operation of the scalar unit on sA and sB retires with its result in sD. -/
theorem issue_alu {f : Enc} {i : Issue} {s : State} (g : Word → Word → Word) (hi : Issues f i s) :
    issue f i s (alu i g) = wrote i s ((ctxOf i s).setS i.rd (g ((ctxOf i s).s i.ra) ((ctxOf i s).s i.rb))) :=
  issue_writes hi rfl (Ctx.setS_pc ..)

/-- One whose result the specification writes otherwise. -/
theorem issue_alu_of_eq {f : Enc} {i : Issue} {s : State} {g : Word → Word → Word} {v : Word} (hi : Issues f i s)
    (hv : g ((ctxOf i s).s i.ra) ((ctxOf i s).s i.rb) = v) : issue f i s (alu i g) = wrote i s ((ctxOf i s).setS i.rd v) := by
  rw [issue_alu g hi, hv]

/-- Settles O3: every operation on two registers is `alu` of its function; the two on an immediate write the same way. -/
theorem scalarArithmetic : Obligations.ScalarArithmetic := by
  unfold Obligations.ScalarArithmetic
  refine ⟨?results, fun x v => ⟨rfl, rfl⟩, fun x n m v hn => ⟨Ctx.s_setS_same x v hn, fun hm => Ctx.s_setS_other x v hm⟩⟩
  intro i s x a b gives
  refine ⟨fun hi => ?registers, fun hi => ?immediate⟩
  case registers =>
    have hgives {c : Issue → Instr} (g : Word → Word → Word) (hc : exec (c i) s = .next (issue Enc.dab i s (alu i g))) {v : Word}
        (hv : g a b = v) : gives c v := hc.trans (congrArg _ (issue_alu_of_eq hi hv))
    exact ⟨hgives _ rfl rfl, hgives _ rfl rfl, hgives _ rfl rfl, hgives _ rfl rfl, hgives _ rfl rfl, hgives _ rfl rfl, hgives _ rfl rfl,
      hgives _ rfl rfl, hgives _ rfl (bitVec_mul_ofNat a b), hgives _ rfl (slt_one_zero a b), hgives _ rfl (ult_one_zero a b),
      hgives _ rfl (min_signed a b), hgives _ rfl (max_signed a b)⟩
  case immediate =>
    exact ⟨congrArg Host.Outcome.next (issue_writes hi rfl (Ctx.setS_pc ..)),
      congrArg Host.Outcome.next (issue_writes hi rfl (Ctx.setS_pc ..))⟩

/-! ### Jumps (R90) -/

/-- A jump goes where its target lies, or is illegal. -/
theorem issue_jumpTo {f : Enc} {i : Issue} {s : State} {body : State → Ctx → Res} {y : Ctx} {pc : Word} (hi : Issues f i s)
    (hb : body (begun i s) (ctxOf i s) = jumpTo i y pc (begun i s) (ctxOf i s)) :
    issue f i s body = if (ctxOf i s).inImage pc.toNat then jumped i s y pc
      else endTask (begun i s) i.core i.ctx stIllegalOp [fIllegal (ctxOf i s).pc] := by
  unfold jumpTo at hb
  split at hb
  · next hin => rw [if_pos hin, jumped, issue_jumps hi hb]
  · next hin => rw [if_neg hin, issue_illegalBody hi hb]

theorem branch_taken {i : Issue} {c : Word → Word → Bool} {s : State} {x : Ctx} (h : c (x.s i.ra) (x.s i.rb) = true) :
    branch i c s x = jumpTo i x (branchTarget i x) s x := if_pos h

theorem branch_notTaken {i : Issue} {c : Word → Word → Bool} {s : State} {x : Ctx} (h : ¬ c (x.s i.ra) (x.s i.rb) = true) :
    branch i c s x = retireCtx s i x := if_neg h

/-- Settles O4: every branch is `branch` of its condition, which jumps where the condition holds. -/
theorem branchesAndJumps : Obligations.BranchesAndJumps := by
  unfold Obligations.BranchesAndJumps
  intro i s x a b t goes branch'
  have hbranch {c : Issue → Instr} (g : Word → Word → Bool) {taken : Prop} [Decidable taken] (hg : g a b = true ↔ taken)
      (hi : Issues encBranch i s) (hc : exec (c i) s = .next (issue encBranch i s (branch i g))) : branch' c taken :=
    ⟨fun h => hc.trans (congrArg _ (issue_jumpTo hi (branch_taken (hg.mpr h)))),
      fun h => hc.trans (congrArg _ (issue_writes hi (branch_notTaken (mt hg.mp h)) rfl))⟩
  refine ⟨fun hi => ?branches, fun hi => ?b, fun hi => ?jal, fun hi => ?jr, fun hi => ?nop⟩
  case branches =>
    exact ⟨hbranch _ beq_iff_eq hi rfl, hbranch _ bne_iff_ne hi rfl, hbranch _ (by simp [BitVec.slt]) hi rfl,
      hbranch _ (by simp [BitVec.sle]) hi rfl, hbranch _ (by simp [BitVec.ult]) hi rfl⟩
  case b => exact congrArg Host.Outcome.next (issue_jumpTo hi rfl)
  case jal => exact congrArg Host.Outcome.next (issue_jumpTo hi rfl)
  case jr => exact congrArg Host.Outcome.next (issue_jumpTo hi rfl)
  case nop => exact congrArg Host.Outcome.next (issue_writes hi rfl rfl)

end Sys2Proof.Machine
end

section
/-! PROOFS. The vector unit: lanes and masks, arithmetic, compares, reductions, conversions and quantisation: O9 to O13. -/

namespace Sys2Proof.Machine

/-! ### Lanes of a vector (R48) -/

/-- Numbers of 32 bits after one another, the first lowest: each stands at its own place. -/
theorem lane_digit (f : Nat → Lane) {l : List Nat} {j : Nat} (h : j < l.length) :
    (l.foldr (fun i acc => (f i).toNat + 2 ^ 32 * acc) 0) / 2 ^ (32 * j) % 2 ^ 32 = (f l[j]).toNat := by
  induction l generalizing j with
  | nil => simp at h
  | cons i l ih =>
    have hlt : (f i).toNat < 2 ^ 32 := (f i).isLt
    cases j with
    | zero =>
      simp only [List.foldr_cons, Nat.mul_zero, Nat.pow_zero, Nat.div_one, Nat.add_mul_mod_self_left, List.getElem_cons_zero]
      exact Nat.mod_eq_of_lt hlt
    | succ j =>
      have hshift (a : Nat) : ((f i).toNat + 2 ^ 32 * a) / 2 ^ (32 * (j + 1)) = a / 2 ^ (32 * j) := by
        rw [Nat.mul_add, Nat.add_comm (32 * j), Nat.pow_add, ← Nat.div_div_eq_div_mul, Nat.mul_one,
          Nat.add_mul_div_left _ _ (by decide), Nat.div_eq_of_lt hlt, Nat.zero_add]
      simp only [List.foldr_cons, hshift, List.getElem_cons_succ]
      exact ih (Nat.lt_of_succ_lt_succ h)

theorem lane_digits_lt (f : Nat → Lane) (l : List Nat) :
    l.foldr (fun i acc => (f i).toNat + 2 ^ 32 * acc) 0 < 2 ^ (32 * l.length) := by
  induction l with
  | nil => simp
  | cons i l ih =>
    have hlt : (f i).toNat < 2 ^ 32 := (f i).isLt
    have hpow : 2 ^ (32 * (l.length + 1)) = 2 ^ 32 * 2 ^ (32 * l.length) := by rw [← Nat.pow_add]; congr 1; omega
    rw [List.foldr_cons, List.length_cons, hpow]
    omega

theorem ofLanes_toNat (f : Nat → Lane) : (ofLanes f).toNat = (List.range 16).foldr (fun i acc => (f i).toNat + 2 ^ 32 * acc) 0 := by
  have hlt := lane_digits_lt f (List.range 16)
  rw [show 32 * (List.range 16).length = 512 from rfl] at hlt
  rw [ofLanes, BitVec.toNat_ofNat]
  generalize 512 = w at hlt ⊢
  exact Nat.mod_eq_of_lt hlt

/-- The lanes of a vector are those it was made of. -/
theorem lane_ofLanes (f : Nat → Lane) {j : Nat} (h : j < 16) : lane (ofLanes f) j = f j := by
  have hj : j < (List.range 16).length := by rwa [List.length_range]
  have hdigit := lane_digit f hj
  rw [List.getElem_range] at hdigit
  apply BitVec.eq_of_toNat_eq
  rw [lane, BitVec.toNat_ofNat, ofLanes_toNat, Nat.shiftRight_eq_div_pow, hdigit]

/-- Settles O9: the lanes of a masked vector are chosen by the mask, those of any vector made of lanes are its lanes. -/
theorem maskedLanes : Obligations.MaskedLanes := by
  unfold Obligations.MaskedLanes
  intro men m old f j hj
  cases men with
  | false => exact lane_ofLanes f hj
  | true => simp [maskLanes, lane_ofLanes _ hj]

/-! ### Arithmetic, logic and functions (R111, R114) -/

section
variable {f : Enc} {i : Issue} {s : State}

/-- The instruction has retired with these lanes written to vD under its mask. -/
def wroteLanes (i : Issue) (s : State) (g : Nat → Lane) : State :=
  wrote i s ((ctxOf i s).setV i.rd (maskLanes i.men (maskOf i (ctxOf i s)) ((ctxOf i s).v i.rd) (ofLanes g)))

/-- A body that computes lanes writes them. -/
theorem issue_lanes {body : State → Ctx → Res} {g : Nat → Lane} (hi : Issues f i s)
    (hb : body (begun i s) (ctxOf i s) = lanes i g (begun i s) (ctxOf i s)) : issue f i s body = wroteLanes i s g :=
  issue_writes hi hb (Ctx.setV_pc ..)

/-- One whose function an FN up to `top` names writes the lanes of that function. -/
theorem issue_codedLanes {body : State → Ctx → Res} {top n : Nat} {fn : Nat → Nat → Lane} {g : Nat → Lane} (hi : Issues f i s)
    (hb : body (begun i s) (ctxOf i s) =
      if i.fld 0 3 > top then illegal (begun i s) (ctxOf i s) else lanes i (fn (i.fld 0 3)) (begun i s) (ctxOf i s))
    (hn : i.fld 0 3 = n) (h : n ≤ top) (hg : ∀ j, fn n j = g j) : issue f i s body = wroteLanes i s g := by
  rw [← funext hg]
  subst hn
  exact issue_lanes hi (hb.trans (if_neg (Nat.not_lt.mpr h)))

end

/-- Settles O10: every lane-wise body is `lanes` of its function, and an FN beyond the last one defined is illegal. -/
theorem vectorArithmetic : Obligations.VectorArithmetic := by
  unfold Obligations.VectorArithmetic
  intro i s x a b fn writes
  have hlanes {e : Enc} {c : Issue → Instr} {body : State → Ctx → Res} {g : Nat → Lane} (hi : Issues e i s)
      (hc : exec (c i) s = .next (issue e i s body)) (hb : body (begun i s) x = lanes i g (begun i s) x) : writes c g :=
    hc.trans (congrArg _ (issue_lanes hi hb))
  refine ⟨fun hi => ?two, fun hi => hlanes hi rfl rfl, fun hi => ⟨hlanes hi rfl rfl, hlanes hi rfl rfl⟩, fun hi => hlanes hi rfl rfl,
    fun hi => ?logic, fun hi => ?functions⟩
  case two =>
    exact ⟨hlanes hi rfl rfl, hlanes hi rfl rfl, hlanes hi rfl rfl, hlanes hi rfl rfl, hlanes hi rfl rfl, hlanes hi rfl rfl⟩
  case logic =>
    have hlog {n : Nat} {g : Nat → Lane} (h : n ≤ 3) (hg : ∀ j, vlogFn n (a j) (b j) = g j) (hn : fn = n) : writes .vlog g :=
      congrArg Host.Outcome.next (issue_codedLanes (fn := fun n j => vlogFn n (a j) (b j)) hi rfl hn h hg)
    have hop {n : Nat} {g : Nat → Lane} (h : n ≤ 5) (hg : ∀ j, viopFn n (a j) (b j) = g j) (hn : fn = n) : writes .viop g :=
      congrArg Host.Outcome.next (issue_codedLanes (fn := fun n j => viopFn n (a j) (b j)) hi rfl hn h hg)
    exact ⟨hlog (by decide) fun _ => rfl, hlog (by decide) fun _ => rfl, hlog (by decide) fun _ => rfl, hlog (by decide) fun _ => rfl,
      hop (by decide) fun _ => rfl, hop (by decide) fun _ => rfl, hop (by decide) fun _ => rfl, hop (by decide) fun _ => rfl,
      hop (by decide) fun _ => rfl, hop (by decide) fun _ => rfl, fun h => congrArg Host.Outcome.next (issue_illegalBody hi (if_pos h))⟩
  case functions =>
    have hfn {n : Nat} {g : Nat → Lane} (h : n ≤ 3) (hg : ∀ j, vfnFn n (a j) = g j) (hn : fn = n) : writes .vfn g :=
      congrArg Host.Outcome.next (issue_codedLanes (fn := fun n j => vfnFn n (a j)) hi rfl hn h hg)
    exact ⟨hfn (by decide) fun _ => rfl, hfn (by decide) fun _ => rfl, hfn (by decide) fun _ => rfl, hfn (by decide) fun _ => rfl,
      fun h => congrArg Host.Outcome.next (issue_illegalBody hi (if_pos h))⟩

/-! ### Masks, compares, reductions (R112, R116, R117) -/

/-- A sum of distinct powers of two has the bits that were picked. -/
theorem testBit_pickedBits (f : Nat → Bool) (n : Nat) :
    let v := (List.range n).foldl (fun acc j => if f j then acc + 2 ^ j else acc) 0
    v < 2 ^ n ∧ ∀ j, v.testBit j = (decide (j < n) && f j) := by
  induction n with
  | zero => simp
  | succ n ih =>
    obtain ⟨hlt, hbits⟩ := ih
    have hstep (v : Nat) : (if f n then v + 2 ^ n else v) = 2 ^ n * (f n).toNat + v := by cases f n <;> simp [Nat.add_comm]
    simp only [List.range_succ, List.foldl_append, List.foldl_cons, List.foldl_nil, hstep]
    refine ⟨?_, fun j => ?_⟩
    · cases f n <;> simp only [Bool.toNat_false, Bool.toNat_true] <;> omega
    · rw [Nat.testBit_two_pow_mul_add _ hlt, hbits]
      rcases Nat.lt_trichotomy j n with h | rfl | h
      · simp [h, Nat.lt_succ_of_lt h]
      · cases f j <;> simp
      · have hne : j - n ≠ 0 := by omega
        have hbit : (f n).toNat.testBit (j - n) = false :=
          Nat.testBit_lt_two_pow (Nat.lt_of_lt_of_le (Bool.toNat_lt _) (Nat.le_self_pow hne 2))
        simp [Nat.not_lt.mpr (Nat.le_of_lt h), show ¬ j < n + 1 by omega, hbit]

theorem getLsbD_ofBits (f : Nat → Bool) {j : Nat} (h : j < 16) : (ofBits f).getLsbD j = f j := by
  obtain ⟨hlt, hbits⟩ := testBit_pickedBits f 16
  rw [ofBits, BitVec.getLsbD_ofNat, hbits]
  simp [h]

theorem pairTree_eq (f : Lane → Lane → Lane) (l : Nat → Lane) : pairTree f l =
    f (f (f (f (l 0) (l 1)) (f (l 2) (l 3))) (f (f (l 4) (l 5)) (f (l 6) (l 7))))
      (f (f (f (l 8) (l 9)) (f (l 10) (l 11))) (f (f (l 12) (l 13)) (f (l 14) (l 15)))) := rfl

/-- The lanes that a reduction sees: one that is masked off is the operation's identity. -/
def redLanes (i : Issue) (x : Ctx) (off : Lane) (j : Nat) : Lane := if (maskOf i x).getLsbD j then lane (x.v i.ra) j else off

section
variable {i : Issue} {s : State}

/-- The operation of a reduction by FN, and its identity (R112). -/
def redFn (fn : Nat) : Lane → Lane → Lane :=
  match fn with | 0 => f32Add | 1 => f32Max | _ => f32Min

def redIdentity (fn : Nat) : Lane :=
  match fn with | 0 => 0x80000000#32 | 1 => inf32 true | _ => inf32 false

/-- What a mask operation writes, by FN (R116). -/
def mlogWrites (fn : Nat) (i : Issue) (x : Ctx) : Ctx :=
  match fn with
  | 0 => x.setM i.rd (x.m i.ra &&& x.m i.rb)
  | 1 => x.setM i.rd (x.m i.ra ||| x.m i.rb)
  | 2 => x.setM i.rd (x.m i.ra ^^^ x.m i.rb)
  | 3 => x.setM i.rd (~~~ x.m i.ra)
  | 4 => x.setM i.rd ((x.s i.ra).setWidth 16)
  | _ => x.setS i.rd ((x.m i.ra).setWidth 64)

theorem exec_vcmp_defined (hi : Issues { Enc.vab with imm := 0xF } i s) (hfn : i.fld 0 3 ≤ 5) (hrd : i.rd ≤ 7) :
    exec (.vcmp i) s = .next (wrote i s ((ctxOf i s).setM i.rd (ofBits fun j =>
      if (maskOf i (ctxOf i s)).getLsbD j
      then (if i.bit 3 then intCmp else f32Cmp) (i.fld 0 3) (lane ((ctxOf i s).v i.ra) j) (lane ((ctxOf i s).v i.rb) j)
      else ((ctxOf i s).m i.rd).getLsbD j))) :=
  congrArg Host.Outcome.next (issue_writes hi (if_neg (by omega)) (Ctx.setM_pc ..))

/-- A reduction writes the tree of its operation. -/
theorem exec_vred_defined {n : Nat} (hi : Issues { Enc.va with imm := 0x7 } i s) (h : n ≤ 2) (hn : i.fld 0 3 = n) :
    exec (.vred i) s = .next (wrote i s ((ctxOf i s).setS i.rd
      ((pairTree (redFn n) (redLanes i (ctxOf i s) (redIdentity n))).setWidth 64))) := by
  subst hn
  exact congrArg Host.Outcome.next (issue_writes hi (if_neg (Nat.not_lt.mpr h)) (Ctx.setS_pc ..))

theorem exec_srand_draws (hi : Issues { encImm with d := true, a := true, b := true } i s) :
    exec (.srand i) s = .next (wrote i s ((ctxOf i s).setS i.rd
      (sampleDraw ((ctxOf i s).s i.ra).toNat ((ctxOf i s).s i.rb).toNat i.imm.toNat))) :=
  congrArg Host.Outcome.next (issue_writes hi rfl (Ctx.setS_pc ..))

/-- A mask operation whose mask numbers are below 8 does what its FN says. -/
theorem exec_mlog_defined (hi : Issues { Enc.da with b := decide (i.fld 0 3 < 3), imm := 0x7 } i s) (hfn : i.fld 0 3 ≤ 5)
    (ha : i.fld 0 3 ≠ 4 → i.ra ≤ 7) (hd : i.fld 0 3 ≠ 5 → i.rd ≤ 7) (hb : i.fld 0 3 < 3 → i.rb ≤ 7) :
    exec (.mlog i) s = .next (wrote i s (mlogWrites (i.fld 0 3) i (ctxOf i s))) := by
  have hlegal : ¬ (i.fld 0 3 > 5 ∨ (i.fld 0 3 ≠ 4 ∧ i.ra > 7) ∨ (i.fld 0 3 ≠ 5 ∧ i.rd > 7) ∨ (i.fld 0 3 < 3 ∧ i.rb > 7)) := by omega
  refine congrArg Host.Outcome.next (issue_writes hi (if_neg hlegal) ?_)
  unfold mlogWrites
  split <;> simp

end

/-- Settles O11: each body's guard lets the listed forms pass; the bits of VCMP's mask are those it was made of, and VRED's tree has four
levels. -/
theorem comparesMasksReductions : Obligations.ComparesMasksReductions := by
  unfold Obligations.ComparesMasksReductions
  refine ⟨?masks, ?reductions⟩
  case masks =>
    intro i s x fn
    refine ⟨fun hi hfn hrd => ⟨_, exec_vcmp_defined hi hfn hrd, fun j hj => getLsbD_ofBits _ hj⟩, fun hi => ?mlog, fun hi => ?vext,
      fun hi => ?srand⟩
    case mlog =>
      have hmlog {n : Nat} {y : Ctx} (hn : fn = n) (h5 : n ≤ 5) (hd : n ≠ 5 → i.rd ≤ 7) (ha : n ≠ 4 → i.ra ≤ 7) (hb : n < 3 → i.rb ≤ 7)
          (hy : mlogWrites n i x = y) : exec (.mlog i) s = .next (wrote i s y) := by
        subst hy hn
        exact exec_mlog_defined hi h5 ha hd hb
      refine ⟨fun h hd ha hb => hmlog h ?_ (fun _ => hd) (fun _ => ha) (fun _ => hb) rfl,
        fun h hd ha hb => hmlog h ?_ (fun _ => hd) (fun _ => ha) (fun _ => hb) rfl,
        fun h hd ha hb => hmlog h ?_ (fun _ => hd) (fun _ => ha) (fun _ => hb) rfl,
        fun h hd ha => hmlog h ?_ (fun _ => hd) (fun _ => ha) (fun hlt => absurd hlt ?_) rfl,
        fun h hd => hmlog h ?_ (fun _ => hd) (fun hne => absurd rfl hne) (fun hlt => absurd hlt ?_) rfl,
        fun h ha => hmlog h ?_ (fun hne => absurd rfl hne) (fun _ => ha) (fun hlt => absurd hlt ?_) rfl⟩ <;> decide
    case vext => exact congrArg Host.Outcome.next (issue_writes hi rfl (Ctx.setS_pc ..))
    case srand =>
      have h := exec_srand_draws hi
      rwa [sampleDraw] at h
  case reductions =>
    intro i s x fn l tree gives hi
    exact ⟨exec_vred_defined hi (by decide), exec_vred_defined hi (by decide), exec_vred_defined hi (by decide),
      fun h => congrArg Host.Outcome.next (issue_illegalBody hi (if_pos h))⟩

/-! ### The largest lane (R113) -/

/-- `n` is of the list, none of it is larger in `f`, and of the largest it is the lowest. -/
def LeadsIn (f : Nat → Int) (l : List Nat) (n : Nat) : Prop := n ∈ l ∧ ∀ j ∈ l, f j ≤ f n ∧ (f j = f n → n ≤ j)

/-- The fold that keeps the first largest finds it, in a rising list. -/
theorem foldl_largest_leads (f : Nat → Int) (b : Nat) (r : List Nat) (h : (b :: r).Pairwise (· < ·)) :
    LeadsIn f (b :: r) (r.foldl (fun b q => if f b < f q then q else b) b) := by
  induction r generalizing b with
  | nil => exact ⟨List.mem_cons_self, by simp⟩
  | cons q r ih =>
    obtain ⟨hb, hqr⟩ := List.pairwise_cons.mp h
    have hbq : b < q := hb q List.mem_cons_self
    rw [List.foldl_cons]
    split
    · next hlt =>
      obtain ⟨hmem, hall⟩ := ih q hqr
      obtain ⟨hq, _⟩ := hall q List.mem_cons_self
      refine ⟨List.mem_cons_of_mem _ hmem, List.forall_mem_cons.mpr ⟨?_, hall⟩⟩
      omega
    · next hle =>
      have hbr : (b :: r).Pairwise (· < ·) :=
        List.pairwise_cons.mpr ⟨fun j hj => hb j (List.mem_cons_of_mem _ hj), (List.pairwise_cons.mp hqr).2⟩
      obtain ⟨hmem, hall⟩ := ih b hbr
      obtain ⟨hbn, hfirst⟩ := hall b List.mem_cons_self
      have hall' := fun j hj => hall j (List.mem_cons_of_mem _ hj)
      refine ⟨?_, List.forall_mem_cons.mpr ⟨hall b List.mem_cons_self, List.forall_mem_cons.mpr ⟨?_, hall'⟩⟩⟩
      · exact List.mem_cons.mpr ((List.mem_cons.mp hmem).imp_right (List.mem_cons_of_mem _))
      · omega

/-- The lanes that VARGMAX looks at. -/
def eligibleLanes (m : BitVec 16) (v : Line) : List Nat := (List.range 16).filter fun j => m.getLsbD j && !isNan32 (lane v j)

theorem mem_eligibleLanes {m : BitVec 16} {v : Line} {j : Nat} :
    j ∈ eligibleLanes m v ↔ j < 16 ∧ m.getLsbD j = true ∧ isNan32 (lane v j) = false := by
  simp [eligibleLanes]

theorem argMax_none {m : BitVec 16} {v : Line} (h : eligibleLanes m v = []) : argMax m v = 16 := by
  rw [eligibleLanes] at h
  simp only [argMax, h]

theorem argMax_leads {m : BitVec 16} {v : Line} (h : eligibleLanes m v ≠ []) :
    LeadsIn (fun j => val32 (lane v j)) (eligibleLanes m v) (argMax m v) := by
  have hsorted : (eligibleLanes m v).Pairwise (· < ·) := List.pairwise_lt_range.filter _
  have hargMax : argMax m v = match eligibleLanes m v with
      | [] => 16
      | j :: r => r.foldl (fun b q => if val32 (lane v b) < val32 (lane v q) then q else b) j := rfl
  cases hl : eligibleLanes m v with
  | nil => exact absurd hl h
  | cons j r =>
    rw [hl] at hargMax hsorted
    rw [hargMax]
    exact foldl_largest_leads (fun j => val32 (lane v j)) j r hsorted

/-- Settles O12: VARGMAX writes `argMax`, which leads the eligible lanes where there are any. -/
theorem largestLane : Obligations.LargestLane := by
  unfold Obligations.LargestLane
  intro i s x l eligible hi
  refine ⟨argMax (maskOf i x) (x.v i.ra), congrArg Host.Outcome.next (issue_writes hi rfl (Ctx.setS_pc ..)), fun hnone => ?none,
    fun ⟨j, hj, hel⟩ => ?some⟩
  case none =>
    exact argMax_none (List.eq_nil_iff_forall_not_mem.mpr fun j hj => hnone j (mem_eligibleLanes.mp hj).1 (mem_eligibleLanes.mp hj).2)
  case some =>
    obtain ⟨hmem, hall⟩ := argMax_leads (List.ne_nil_of_mem (mem_eligibleLanes.mpr ⟨hj, hel⟩))
    obtain ⟨hn, heln⟩ := mem_eligibleLanes.mp hmem
    exact ⟨hn, heln, fun j hj hel => hall j (mem_eligibleLanes.mpr ⟨hj, hel⟩)⟩

/-! ### Conversions and quantisation (R81, R83, R115) -/

/-- The faults of an aligned block and its scale inside the scratchpad. -/
theorem blockFaults_none {bad : Prop} [Decidable bad] {pc : Word} {a n e m : Nat} (hbad : ¬ bad) (ha : a + n ≤ 49152) (he : e + m ≤ 49152) :
    (if bad then [fIllegal pc] else []) ++ boundFault a n ++ boundFault e m = [] := by
  rw [if_neg hbad, boundFault_inside ha, boundFault_inside he]
  rfl

/-- The random words of a stochastic instruction, if BIT says that it is one, under the key `k` from position `p`. -/
def roundWords (on : Bool) (k p : Word) (j : Nat) : Option Nat := if on then some (roundWord k.toNat ((p.toNat + j) % 2 ^ 64)) else none

section
variable {i : Issue} {s : State}

theorem exec_vcvt_converts (hi : Issues { Enc.va with b := i.bit 9, c := i.bit 9, imm := 0x3FF } i s) {v : Line}
    (h : convert (i.fld 0 4) (i.fld 4 4) (i.bit 8) (roundWords (i.bit 9) ((ctxOf i s).s i.rb) ((ctxOf i s).s i.rc)) ((ctxOf i s).v i.ra) =
      some v) :
    exec (.vcvt i) s = .next (wrote i s ((ctxOf i s).setV i.rd (maskLanes i.men (maskOf i (ctxOf i s)) ((ctxOf i s).v i.rd) v))) := by
  refine congrArg Host.Outcome.next (issue_writes hi ?_ (Ctx.setV_pc ..))
  unfold roundWords at h
  simp only [h]

/-- A block whose addresses and operands are legal and free is quantised. -/
theorem bodyQblk_quantises {x : Ctx} (hlow : 3 ≤ i.fld 0 4) (hhigh : i.fld 0 4 ≤ 7) (hra : i.ra % 2 = 0) (hrd : i.bit 4 = true → i.rd % 2 = 0)
    (ha : (x.s i.rb).toNat % 8 = 0) (ht : tileScaleOk (i.fld 5 16) = true) (hfit : (x.s i.rb).toNat + 4 * elemBits (i.fld 0 4) ≤ 49152)
    (hscale : (x.s i.rc).toNat + 1 ≤ 49152) (hfree : rangeBusy s i.core (x.s i.rb).toNat (4 * elemBits (i.fld 0 4)) = false)
    (hfree' : rangeBusy s i.core (x.s i.rc).toNat 1 = false) :
    let q := quantBlock (i.fld 0 4) (i.fld 5 16) (roundWords (i.bit 4) (x.s i.rd) (x.s (i.rd + 1)))
      ((List.range 32).map fun j => lane (x.v (i.ra + j / 16)) (j % 16))
    bodyQblk i s x = .retire (spmWrite (spmWrite s i.core (x.s i.rb).toNat (4 * elemBits (i.fld 0 4)) (packElems (elemBits (i.fld 0 4)) q.2))
      i.core (x.s i.rc).toNat 1 q.1) (nextPc x) := by
  have hfmt : qfmtOk (i.fld 0 4) = true := by simp [qfmtOk, hlow, hhigh]
  have hlegal : ¬ (i.ra % 2 ≠ 0 ∨ (i.bit 4 = true ∧ i.rd % 2 ≠ 0) ∨ (x.s i.rb).toNat % 8 ≠ 0 ∨ (!tileScaleOk (i.fld 5 16)) = true) := by
    simp only [hra, ha, ht, Bool.not_true, Bool.false_eq_true, ne_eq, not_true, false_or, or_false, not_and, not_not]
    exact hrd
  simp only [bodyQblk, hfmt, blockFaults_none hlegal hfit hscale, hfree, hfree', Bool.not_true, Bool.or_self, Bool.false_eq_true, if_false]
  rfl

/-- A block without words in error is dequantised. -/
theorem exec_dqblk_dequantises (hi : Issues { Enc.vab with imm := 0x1FFFEF } i s) (hlow : 3 ≤ i.fld 0 4) (hhigh : i.fld 0 4 ≤ 7)
    (hrd : i.rd % 2 = 0) (ha : ((ctxOf i s).s i.ra).toNat % 8 = 0) (hfit : ((ctxOf i s).s i.ra).toNat + 4 * elemBits (i.fld 0 4) ≤ 49152)
    (hscale : ((ctxOf i s).s i.rb).toNat + 1 ≤ 49152) (herr : (getCore (begun i s) i.core).spmErr = []) :
    let half (h : Nat) := ofLanes fun j => dequant (i.fld 0 4)
      (field (spmBytes (begun i s) i.core ((ctxOf i s).s i.ra).toNat (4 * elemBits (i.fld 0 4))) (elemBits (i.fld 0 4) * (16 * h + j))
        (elemBits (i.fld 0 4))) (spmBytes (begun i s) i.core ((ctxOf i s).s i.rb).toNat 1) (i.fld 5 16)
    exec (.dqblk i) s = .next (wrote i s (((ctxOf i s).setV i.rd
      (maskLanes i.men (maskOf i (ctxOf i s)) ((ctxOf i s).v i.rd) (half 0))).setV (i.rd + 1)
        (maskLanes i.men (maskOf i (ctxOf i s)) ((ctxOf i s).v (i.rd + 1)) (half 1)))) := by
  have hfmt : qfmtOk (i.fld 0 4) = true := by simp [qfmtOk, hlow, hhigh]
  have hlegal : ¬ (i.rd % 2 ≠ 0 ∨ ((ctxOf i s).s i.ra).toNat % 8 ≠ 0) := by omega
  obtain ⟨hbad, hce⟩ := spmRead_noErr herr ((ctxOf i s).s i.ra).toNat (4 * elemBits (i.fld 0 4))
  obtain ⟨hbad', hce'⟩ := spmRead_noErr herr ((ctxOf i s).s i.rb).toNat 1
  refine congrArg Host.Outcome.next (issue_writes hi ?_ rfl)
  simp only [hfmt, blockFaults_none hlegal hfit hscale, hbad, hbad', hce, hce', List.append_nil, noteRead_nothing, Bool.not_true,
    Bool.false_eq_true, if_false]
  rfl

end

/-- Settles O13: the bodies' guards pass for what the hypotheses list, and what is left is the conversion. -/
theorem quantisation : Obligations.Quantisation := by
  unfold Obligations.Quantisation
  intro i s x u f t n
  refine ⟨fun hi v h => exec_vcvt_converts hi h, fun hi => ?qblk, fun hi => ?dqblk⟩
  case qblk =>
    intro a e hlow hhigh hra hrd ha ht hfit hscale hfree hfree'
    exact ⟨_, _, rfl, congrArg Host.Outcome.next
      (issue_retires hi (bodyQblk_quantises hlow hhigh hra hrd ha ht hfit hscale hfree hfree'))⟩
  case dqblk =>
    intro a e hlow hhigh hrd ha hfit hscale herr half
    exact exec_dqblk_dequantises hi hlow hhigh hrd ha hfit hscale herr

end Sys2Proof.Machine
end

section
/-! PROOFS. Loads and stores of the scratchpad: O7. -/

namespace Sys2Proof.Machine

/-! ### The faults of an access (R91 to R93) -/

section
variable {x : Ctx} {a n r : Nat}

theorem accessForm_legal (hr : n = 16 → r % 2 = 0) (halign : a % n = 0) : ¬ (a % n ≠ 0 ∨ (n = 16 ∧ r % 2 ≠ 0)) := by
  rintro (h | ⟨h16, h⟩)
  · exact h halign
  · exact h (hr h16)

theorem accessFaults_none (hr : n = 16 → r % 2 = 0) (halign : a % n = 0) (hfit : a + n ≤ 49152) : accessFaults x a n r = [] := by
  rw [accessFaults, if_neg (accessForm_legal hr halign), boundFault_inside hfit, List.append_nil]

theorem accessFaults_misaligned (halign : a % n ≠ 0) (hfit : a + n ≤ 49152) : accessFaults x a n r = [fIllegal x.pc] := by
  rw [accessFaults, if_pos (.inl halign), boundFault_inside hfit, List.append_nil]

theorem accessFaults_beyond (hr : n = 16 → r % 2 = 0) (halign : a % n = 0) (h : 49152 < a + n) : accessFaults x a n r = [fBound 0 a] := by
  rw [accessFaults, if_neg (accessForm_legal hr halign), boundFault_beyond h, List.nil_append]

end

/-! ### The four instructions -/

section
variable {i : Issue} {s : State} {x : Ctx} {g : FaultRec} {fs : List FaultRec}

theorem bodyLd_faults (hform : i.fld 16 3 ≤ 4) (h : accessFaults x (accessAddr i x) (accessSize i) i.rd = g :: fs) :
    bodyLd i s x = .fault s (g :: fs) := by
  simp only [bodyLd, if_neg (Nat.not_lt.mpr hform), gt_iff_lt, h]

theorem bodySt_faults (hform : i.fld 16 3 ≤ 4) (h : accessFaults x (accessAddr i x) (accessSize i) i.rb = g :: fs) :
    bodySt i s x = .fault s (g :: fs) := by
  simp only [bodySt, if_neg (Nat.not_lt.mpr hform), gt_iff_lt, h]

theorem bodyVld_faults (h : accessFaults x (accessAddr i x) 64 0 = g :: fs) : bodyVld i s x = .fault s (g :: fs) := by
  simp only [bodyVld, h]

theorem bodyVst_faults (h : accessFaults x (accessAddr i x) 64 0 = g :: fs) : bodyVst i s x = .fault s (g :: fs) := by
  simp only [bodyVst, h]

/-- A value of 16 bytes is not extended. -/
theorem extend_sixteen (v : Nat) (sx : Bool) : extend v 16 sx = BitVec.ofNat 64 v := by simp [extend]

theorem bodyLd_loads {t : State} {v : Nat} (hform : i.fld 16 3 ≤ 4) (h : accessFaults x (accessAddr i x) (accessSize i) i.rd = [])
    (hload : tillLoad s i.core (accessAddr i x) (accessSize i) = (t, .ok v)) :
    bodyLd i s x = retireCtx t i
      (if accessSize i = 16 then (x.setS i.rd (BitVec.ofNat 64 v)).setS (i.rd + 1) (BitVec.ofNat 64 (v / 2 ^ 64))
        else x.setS i.rd (extend v (accessSize i) (i.bit 19))) := by
  simp only [bodyLd, if_neg (Nat.not_lt.mpr hform), gt_iff_lt, h, hload]
  by_cases h16 : accessSize i = 16
  · rw [if_pos h16, if_pos h16, h16, extend_sixteen]
  · rw [if_neg h16, if_neg h16]

theorem bodySt_storesAny (hform : i.fld 16 3 ≤ 4) (h : accessFaults x (accessAddr i x) (accessSize i) i.rb = [])
    (hfree : rangeBusy s i.core (accessAddr i x) (accessSize i) = false) :
    bodySt i s x = .retire (tillStore s i.core (accessAddr i x) (accessSize i)
      ((x.s i.rb).toNat + if accessSize i = 16 then 2 ^ 64 * (x.s (i.rb + 1)).toNat else 0)) (nextPc x) := by
  simp only [bodySt, if_neg (Nat.not_lt.mpr hform), gt_iff_lt, h, hfree, Bool.false_eq_true, if_false]

theorem bodyVld_loads (h : accessFaults x (accessAddr i x) 64 0 = []) (hbad : (spmRead s i.core (accessAddr i x) 64).bad = none) :
    bodyVld i s x = retireCtx (noteRead s i.core (spmRead s i.core (accessAddr i x) 64)) i
      (x.setV i.rd (maskLanes i.men (maskOf i x) (x.v i.rd) (BitVec.ofNat 512 (spmBytes s i.core (accessAddr i x) 64)))) := by
  simp only [bodyVld, h, hbad]
  rfl

theorem bodyVst_stores (h : accessFaults x (accessAddr i x) 64 0 = [])
    (hfree : ∀ j, j < 16 → (maskOf i x).getLsbD j = true → rangeBusy s i.core (accessAddr i x + 4 * j) 4 = false) :
    bodyVst i s x = .retire (spmWriteLine s i.core (accessAddr i x / 64) (laneBytes (maskOf i x)) (x.v i.rb).toNat) (nextPc x) := by
  have hnone : ¬ (List.range 16).any (fun j => (maskOf i x).getLsbD j && rangeBusy s i.core (accessAddr i x + 4 * j) 4) = true := by
    simp only [List.any_eq_true, List.mem_range, Bool.and_eq_true, not_exists, not_and]
    intro j hj hm
    simp [hfree j hj hm]
  simp only [bodyVst, h, if_neg hnone]

theorem Ctx.setS_pair_pc (x : Ctx) (n : Nat) (c : Prop) [Decidable c] (v w y : Word) :
    (if c then (x.setS n v).setS (n + 1) w else x.setS n y).pc = x.pc := by
  split <;> simp

end

/-- Settles O7: the faults of an access are those of its alignment and its range; without one each body has its effect. -/
theorem scratchpadAccess : Obligations.ScratchpadAccess := by
  unfold Obligations.ScratchpadAccess
  intro i s x u a n m good turnsAway
  have hturns {e : Enc} {c : Issue → Instr} {body : State → Ctx → Res} {w r : Nat} (hi : Issues e i s)
      (hc : exec (c i) s = .next (issue e i s body)) (hr : w = 16 → r % 2 = 0)
      (hbody : ∀ g fs, accessFaults x a w r = g :: fs → body u x = .fault u (g :: fs)) : turnsAway c w :=
    ⟨fun halign hfit => hc.trans (congrArg _
        (issue_faults (g := fIllegal x.pc) hi (hbody _ _ (accessFaults_misaligned halign hfit)) (worstFault_single _))),
      fun halign hbeyond => hc.trans (congrArg _
        (issue_faults (g := fBound 0 a) hi (hbody _ _ (accessFaults_beyond hr halign hbeyond)) (worstFault_single _)))⟩
  refine ⟨fun hi hform hpair => ⟨fun ⟨halign, hfit⟩ t v hload => ?ld, hturns hi rfl hpair fun g fs h => bodyLd_faults hform h⟩,
    fun hi hform hpair => ⟨fun ⟨halign, hfit⟩ hfree => ?st, hturns hi rfl hpair fun g fs h => bodySt_faults hform h⟩,
    fun hi => ⟨fun ⟨halign, hfit⟩ hbad => ?vld, hturns (r := 0) hi rfl (by simp) fun g fs h => bodyVld_faults h⟩,
    fun hi => ⟨fun ⟨halign, hfit⟩ hfree => ?vst, hturns (r := 0) hi rfl (by simp) fun g fs h => bodyVst_faults h⟩⟩
  case ld =>
    have hbody := bodyLd_loads hform (accessFaults_none hpair halign hfit) hload
    exact congrArg Host.Outcome.next (issue_writesIn hi hbody (Ctx.setS_pair_pc ..))
  case st =>
    exact congrArg Host.Outcome.next (issue_retires hi (bodySt_storesAny hform (accessFaults_none hpair halign hfit) hfree))
  case vld =>
    have hbody := bodyVld_loads (i := i) (accessFaults_none (by simp) halign hfit) hbad
    exact congrArg Host.Outcome.next (issue_writesIn hi hbody (Ctx.setV_pc ..))
  case vst =>
    exact congrArg Host.Outcome.next (issue_retires hi (bodyVst_stores (accessFaults_none (by simp) halign hfit) hfree))

end Sys2Proof.Machine
end

section
/-! PROOFS. Transfers through handles and windows: O16, O19. -/

namespace Sys2Proof.Machine

/-! ### The form of a transfer (R99, R101) -/

/-- One whose LEN is legal and whose lines lie in the scratchpad is illegal only where an address is not a line's. -/
theorem transferForm_misaligned (x : Ctx) {off sp n : Nat} (h : ¬ (off % 64 = 0 ∧ sp % 64 = 0)) (h1 : 1 ≤ n) (h2 : n ≤ 768)
    (hfit : sp + 64 * n ≤ 49152) : transferForm x false off sp n = [fIllegal x.pc] := by
  have hbad : off % 64 ≠ 0 ∨ sp % 64 ≠ 0 := by omega
  have hform : (false = true) ∨ off % 64 ≠ 0 ∨ sp % 64 ≠ 0 ∨ lenBad n = true := .inr (hbad.imp_right .inl)
  rw [transferForm, if_pos hform, lenBad_legal h1 h2, boundFault_inside hfit]
  rfl

/-- One whose LEN is illegal has no range to look at (log 99). -/
theorem transferForm_lenBad (x : Ctx) (mode : Bool) (off sp : Nat) {n : Nat} (h : n = 0 ∨ 768 < n) :
    transferForm x mode off sp n = [fIllegal x.pc] := by
  simp [transferForm, lenBad_iff.mpr h]

theorem lenBytes_legal {n : Nat} (h1 : 1 ≤ n) (h2 : n ≤ 768) : lenBytes n = some (64 * n) := by simp [lenBytes, lenBad_legal h1 h2]

theorem lenBytes_bad {n : Nat} (h : n = 0 ∨ 768 < n) : lenBytes n = none := by simp [lenBytes, lenBad_iff.mpr h]

/-! ### The check of a handle (R102) -/

section
variable {s : State} {x : Ctx} {k p off : Nat} {h : Word} {n : Option Nat} {wr : Bool}

/-- The handle admits the transfer: it is valid, writable for a write, and long enough for the range, where there is one. -/
def HandleAdmits (d : Handle) (h off : Nat) (n : Option Nat) (wr : Bool) : Prop :=
  h ≤ 4095 ∧ d.state = 1 ∧ (wr = true → d.wr = true) ∧ ∀ m, n = some m → off + m ≤ 64 * d.lines

theorem handleFault_refuses_iff (d : Handle) (h off : Nat) (n : Option Nat) (wr : Bool) :
    (h > 4095 ∨ d.state ≠ 1 ∨ (wr = true ∧ (!d.wr) = true) ∨ n.any (fun n => decide (64 * d.lines < off + n)) = true) ↔
      ¬ HandleAdmits d h off n wr := by
  have hrange : n.any (fun n => decide (64 * d.lines < off + n)) = true ↔ ¬ ∀ m, n = some m → off + m ≤ 64 * d.lines := by
    cases n <;> simp
  have hwr : (wr = true ∧ (!d.wr) = true) ↔ ¬ (wr = true → d.wr = true) := by simp
  rw [hrange, hwr, HandleAdmits, not_and_or, not_and_or, not_and_or, gt_iff_lt, Nat.not_le]

theorem handleFault_admitted (hbb : x.bb = false) (hp : partOfCore s k = some p)
    (h' : HandleAdmits (handleAt s p h.toNat (clusterOf k)) h.toNat off n wr) : handleFault s x k h off n wr = [] := by
  simp only [handleFault, hbb, hp, Bool.false_eq_true, if_false]
  rw [if_neg fun hbad => (handleFault_refuses_iff ..).mp hbad h']

theorem handleFault_refused (hbb : x.bb = false) (hp : partOfCore s k = some p)
    (h' : ¬ HandleAdmits (handleAt s p h.toNat (clusterOf k)) h.toNat off n wr) : handleFault s x k h off n wr = [fHandle off] := by
  simp only [handleFault, hbb, hp, Bool.false_eq_true, if_false]
  rw [if_pos ((handleFault_refuses_iff ..).mpr h')]

end

/-- BAD_ARGUMENT ranks before ILLEGAL_OP (R15). -/
theorem worstFault_illegal_handle (pc : Word) (off : Nat) : worstFault [fIllegal pc, fHandle off] = some (fHandle off) := by
  have h : (fHandle off).status < (fIllegal pc).status := show stBadArgument < stIllegalOp by decide
  simp only [worstFault, h, if_true]

/-! ### HLD and HST -/

section
variable {wr : Bool} {i : Issue} {s : State} {x : Ctx} {p : Nat}

/-- The faults of a handle transfer. -/
def handleFaults (wr : Bool) (i : Issue) (s : State) (x : Ctx) : List FaultRec :=
  transferForm x x.bb (x.s i.rb).toNat (x.s i.rc).toNat (i.fld 0 16) ++
    handleFault s x i.core (x.s i.ra) (x.s i.rb).toNat (lenBytes (i.fld 0 16)) wr

theorem bodyHandle_faults {g : FaultRec} {fs : List FaultRec} (h : handleFaults wr i s x = g :: fs) :
    bodyHandle wr i s x = .fault s (g :: fs) := by
  simp only [handleFaults] at h
  simp only [bodyHandle, h]

/-- A load asks for its lines, or waits while they meet an operand range (R120). -/
theorem bodyHandle_load (h : handleFaults false i s x = []) (hp : partOfCore s i.core = some p) :
    bodyHandle false i s x =
      if rangeBusy s i.core (x.s i.rc).toNat (64 * i.fld 0 16) then .wait s (.range 0x30 i) .waitEngine
      else .retire (handleRead s i.core p (x.s i.ra).toNat (handleAt s p (x.s i.ra).toNat (clusterOf i.core)) ((x.s i.rb).toNat / 64)
        (i.fld 0 16) ((x.s i.rc).toNat / 64) i.cnt) (nextPc x) := by
  simp only [handleFaults] at h
  simp only [bodyHandle, h, hp, Option.getD_some, Bool.false_eq_true, if_false]

/-- The buffer that a store writes lies in the core's own scratchpad, on an operand range. -/
def OwnBufferBusy (i : Issue) (s : State) (x : Ctx) (p : Nat) : Prop :=
  let d := handleAt s p (x.s i.ra).toNat (clusterOf i.core)
  d.kind = true ∧ namedCore s p d = some i.core ∧ rangeBusy s i.core (64 * handleLine d ((x.s i.rb).toNat / 64)) (64 * i.fld 0 16) = true

theorem bodyHandle_store (h : handleFaults true i s x = []) (hp : partOfCore s i.core = some p) (hfree : ¬ OwnBufferBusy i s x p) :
    bodyHandle true i s x = .retire (handleWrite s i.core p (x.s i.ra).toNat (handleAt s p (x.s i.ra).toNat (clusterOf i.core))
      ((x.s i.rb).toNat / 64) (i.fld 0 16) ((x.s i.rc).toNat / 64) i.cnt) (nextPc x) := by
  simp only [handleFaults] at h
  simp only [OwnBufferBusy] at hfree
  simp only [bodyHandle, h, hp, Option.getD_some, if_true, Bool.and_eq_true, decide_eq_true_eq, and_assoc, if_neg hfree]

theorem bodyHandle_storeWaits (h : handleFaults true i s x = []) (hp : partOfCore s i.core = some p) (hbusy : OwnBufferBusy i s x p) :
    bodyHandle true i s x = .wait s (.range 0x31 i) .waitEngine := by
  simp only [handleFaults] at h
  simp only [OwnBufferBusy] at hbusy
  simp only [bodyHandle, h, hp, Option.getD_some, if_true, Bool.and_eq_true, decide_eq_true_eq, and_assoc, if_pos hbusy]

/-- Both instructions end their task with the worst of their faults. -/
theorem exec_handle_faults {g g' : FaultRec} {fs : List FaultRec} (hi : Issues Enc.transfer i s)
    (h : handleFaults wr i (begun i s) (ctxOf i s) = g :: fs) (hg : worstFault (g :: fs) = some g') :
    exec (if wr then .hst i else .hld i) s = .next (endTask (begun i s) i.core i.ctx g'.status (g :: fs)) := by
  have hbody : issue Enc.transfer i s (bodyHandle wr i) = endTask (begun i s) i.core i.ctx g'.status (g :: fs) :=
    issue_faults hi (bodyHandle_faults h) hg
  cases wr <;> exact congrArg Host.Outcome.next hbody

end

/-! ### HLDR (R100) -/

theorem noteRead_clean {s : State} {k : Nat} {r : SpmRead} (hbad : r.bad = none) (hce : r.ce = []) : noteRead s k r = s := by
  simp [noteRead, hbad, hce]

/-- The rows that the bitmap of an HLDR selects, and the bytes that the last of them reaches. -/
def hldrRows (i : Issue) (s : State) (x : Ctx) : List Nat := bitmapRows (spmBytes s i.core (x.s i.rd).toNat (i.fld 8 8)) (8 * i.fld 8 8)

def hldrTop (i : Issue) (s : State) (x : Ctx) : Nat :=
  match (hldrRows i s x).getLast? with | some t => 64 * ((t + 1) * i.fld 0 8) | none => 1

/-- A read of rows that is well formed asks for them row by row. -/
theorem bodyHldr_reads {i : Issue} {s : State} {x : Ctx} {p : Nat} (hbb : x.bb = false) (hp : partOfCore s i.core = some p)
    (hoff : (x.s i.rb).toNat % 64 = 0) (hsp : (x.s i.rc).toNat % 64 = 0) (hbm : (x.s i.rd).toNat % 64 = 0) (hlen : 1 ≤ i.fld 0 8)
    (hn : 1 ≤ i.fld 8 8) (hfit : (x.s i.rd).toNat + i.fld 8 8 ≤ 49152) (herr : (getCore s i.core).spmErr = [])
    (hadmits : HandleAdmits (handleAt s p (x.s i.ra).toNat (clusterOf i.core)) (x.s i.ra).toNat (x.s i.rb).toNat (some (hldrTop i s x)) false)
    (hrows : hldrRows i s x ≠ [] → (x.s i.rc).toNat + 64 * i.fld 0 8 * (hldrRows i s x).length ≤ 49152 ∧
      rangeBusy s i.core (x.s i.rc).toNat (64 * i.fld 0 8 * (hldrRows i s x).length) = false) :
    bodyHldr i s x = .retire (((List.range (hldrRows i s x).length).zip (hldrRows i s x)).foldl (fun t (j, r) =>
      handleRead t i.core p (x.s i.ra).toNat (handleAt s p (x.s i.ra).toNat (clusterOf i.core)) ((x.s i.rb).toNat / 64 + r * i.fld 0 8)
        (i.fld 0 8) ((x.s i.rc).toNat / 64 + j * i.fld 0 8) i.cnt) s) (nextPc x) := by
  obtain ⟨hbad, hce⟩ := spmRead_noErr herr (x.s i.rd).toNat (i.fld 8 8)
  have hform : ¬ ((x.bb = true) ∨ (x.s i.rb).toNat % 64 ≠ 0 ∨ (x.s i.rc).toNat % 64 ≠ 0 ∨ (x.s i.rd).toNat % 64 ≠ 0 ∨ i.fld 0 8 = 0 ∨
      i.fld 8 8 = 0) := by
    simp only [hbb, Bool.false_eq_true, false_or]
    omega
  have hlines : (if hldrRows i s x = [] then [] else boundFault (x.s i.rc).toNat (64 * i.fld 0 8 * (hldrRows i s x).length)) = [] := by
    split
    · rfl
    · next hne => exact boundFault_inside (hrows hne).1
  have hfree : ¬ (hldrRows i s x ≠ [] ∧ rangeBusy s i.core (x.s i.rc).toNat (64 * i.fld 0 8 * (hldrRows i s x).length) = true) := by
    rintro ⟨hne, hbusy⟩
    exact absurd hbusy (by simp [(hrows hne).2])
  have hrowsEq : bitmapRows (spmRead s i.core (x.s i.rd).toNat (i.fld 8 8)).data (8 * i.fld 8 8) = hldrRows i s x := rfl
  have hcheck : handleFault s x i.core (x.s i.ra) (x.s i.rb).toNat (some (hldrTop i s x)) false = [] :=
    handleFault_admitted hbb hp hadmits
  simp only [bodyHldr, if_neg hform, boundFault_inside hfit, if_true, hbad, Option.isSome_none, Bool.false_eq_true, if_false, hrowsEq, hlines,
    List.append_nil, if_neg hfree, hp, Option.getD_some, noteRead_clean hbad hce]
  change (match [] ++ handleFault s x i.core (x.s i.ra) (x.s i.rb).toNat (some (hldrTop i s x)) false with | [] => _ | fs => _) = _
  rw [hcheck]
  rfl

/-- Settles O16: the faults of a transfer are those of its form and of its handle; without one the lines are asked for. -/
theorem handleTransfers : Obligations.HandleTransfers := by
  unfold Obligations.HandleTransfers
  intro i s p x u k h d off sp n aligned reaches ownBuffer hbb hp
  have hreaches {wr : Bool} {m : Nat} (hr : reaches m) (hwr : wr = true → d.wr = true) : HandleAdmits d h off (some m) wr := by
    obtain ⟨hh, hstate, hfit⟩ := hr
    exact ⟨hh, hstate, hwr, fun m' hm' => Option.some.inj hm' ▸ hfit⟩
  refine ⟨fun hi => ⟨fun ⟨hoff, hsp⟩ h1 h2 hfit hr => ?asks, fun ⟨hoff, hsp⟩ h1 h2 hfit hr => ?short, fun hbad h1 h2 hfit hr hwr => ?misaligned,
    fun hbad => ?length⟩, fun hi => ?rows⟩
  case asks =>
    have hform : transferForm x x.bb off sp n = [] := hbb ▸ transferForm_wellFormed x hoff hsp h1 h2 hfit
    have hfaults (wr : Bool) : handleFaults wr i u x = handleFault u x k (x.s i.ra) off (some (64 * n)) wr := by
      rw [handleFaults, hform, lenBytes_legal h1 h2]
      rfl
    have hload : handleFaults false i u x = [] := (hfaults false).trans (handleFault_admitted hbb hp (hreaches hr (by simp)))
    have hstore (hwr : d.wr = true) : handleFaults true i u x = [] :=
      (hfaults true).trans (handleFault_admitted hbb hp (hreaches hr fun _ => hwr))
    refine ⟨fun hfree => ?_, fun hbusy => ?_, fun hwr hfree => ?_, fun hwr hbusy => ?_, fun hwr => ?_⟩
    · exact congrArg Host.Outcome.next (issue_retires hi ((bodyHandle_load hload hp).trans (if_neg (Bool.eq_false_iff.mp hfree))))
    · exact congrArg Host.Outcome.next (issue_waits hi ((bodyHandle_load hload hp).trans (if_pos hbusy)))
    · exact congrArg Host.Outcome.next (issue_retires hi (bodyHandle_store (hstore hwr) hp hfree))
    · exact congrArg Host.Outcome.next (issue_waits hi (bodyHandle_storeWaits (hstore hwr) hp hbusy))
    · have hrefused : ¬ HandleAdmits d h off (some (64 * n)) true := fun ⟨_, _, hneeds, _⟩ => by simp [hwr] at hneeds
      exact exec_handle_faults (wr := true) (g' := fHandle off) hi ((hfaults true).trans (handleFault_refused hbb hp hrefused))
        (worstFault_single _)
  case short =>
    have hrefused (wr : Bool) : handleFaults wr i u x = [fHandle off] := by
      rw [handleFaults, hbb, transferForm_wellFormed x hoff hsp h1 h2 hfit, lenBytes_legal h1 h2, List.nil_append]
      exact handleFault_refused hbb hp fun ⟨hh, hstate, _, hlong⟩ => hr ⟨hh, hstate, hlong _ rfl⟩
    exact ⟨exec_handle_faults (wr := false) (g' := fHandle off) hi (hrefused _) (worstFault_single _),
      exec_handle_faults (wr := true) (g' := fHandle off) hi (hrefused _) (worstFault_single _)⟩
  case misaligned =>
    have hillegal (wr : Bool) : handleFaults wr i u x = [fIllegal x.pc] := by
      rw [handleFaults, hbb, transferForm_misaligned x hbad h1 h2 hfit, lenBytes_legal h1 h2,
        handleFault_admitted hbb hp (hreaches hr fun _ => hwr), List.append_nil]
    exact ⟨exec_handle_faults (wr := false) (g' := fIllegal x.pc) hi (hillegal _) (worstFault_single _),
      exec_handle_faults (wr := true) (g' := fIllegal x.pc) hi (hillegal _) (worstFault_single _)⟩
  case length =>
    have hfaults (wr : Bool) : handleFaults wr i u x = fIllegal x.pc :: handleFault u x k (x.s i.ra) off none wr := by
      rw [handleFaults, transferForm_lenBad x x.bb _ _ hbad, lenBytes_bad hbad]
      rfl
    refine ⟨fun hh hstate => ?_, fun hinvalid => ?_⟩
    · have hillegal {wr : Bool} (hwr : wr = true → d.wr = true) : handleFaults wr i u x = [fIllegal x.pc] :=
        (hfaults wr).trans (congrArg _ (handleFault_admitted hbb hp ⟨hh, hstate, hwr, by simp⟩))
      exact ⟨exec_handle_faults (wr := false) (g' := fIllegal x.pc) hi (hillegal (by simp)) (worstFault_single _),
        fun hwr => exec_handle_faults (wr := true) (g' := fIllegal x.pc) hi (hillegal fun _ => hwr) (worstFault_single _)⟩
    · have hboth (wr : Bool) : handleFaults wr i u x = [fIllegal x.pc, fHandle off] :=
        (hfaults wr).trans (congrArg _ (handleFault_refused hbb hp fun ⟨hh, hstate, _⟩ => hinvalid ⟨hh, hstate⟩))
      exact ⟨exec_handle_faults (wr := false) (g' := fHandle off) hi (hboth _) (worstFault_illegal_handle ..),
        exec_handle_faults (wr := true) (g' := fHandle off) hi (hboth _) (worstFault_illegal_handle ..)⟩
  case rows =>
    intro len n8 bm rows top ⟨hoff, hsp⟩ hbm hlen hn hfit herr hr hrows
    exact congrArg Host.Outcome.next
      (issue_retires hi (bodyHldr_reads hbb hp hoff hsp hbm hlen hn hfit herr (hreaches hr (by simp)) hrows))

/-! ### WPUT and WGET (R103, R176, R277) -/

/-- What a core notes of the lines that it sends to, or expects through, a window. -/
def windowNote (put : Bool) (i : Issue) (s : State) (x : Ctx) (ep tx ty : Nat) : State :=
  if put then expectWrite s i.core ((x.s i.rc).toNat / 64) (i.fld 0 16) i.cnt ep tx ty
  else expectRead s i.core ((x.s i.rc).toNat / 64) (i.fld 0 16) i.cnt

/-- A window transfer whose form holds and whose destination is free, with its core in partition `p`. -/
def WindowReady (put : Bool) (i : Issue) (s : State) (x : Ctx) (p : Nat) : Prop :=
  transferForm x (x.bb || (some p).isNone) (x.s i.rb).toNat (x.s i.rc).toNat (i.fld 0 16) = [] ∧
    partOfCore s i.core = some p ∧ (put = false → rangeBusy s i.core (x.s i.rc).toNat (64 * i.fld 0 16) = false)

section
variable {put : Bool} {i : Issue} {s : State} {x : Ctx} {p : Nat}

theorem windowReady_of_wellFormed (hbb : x.bb = false) (hp : partOfCore s i.core = some p) (hoff : (x.s i.rb).toNat % 64 = 0)
    (hsp : (x.s i.rc).toNat % 64 = 0) (h1 : 1 ≤ i.fld 0 16) (h2 : i.fld 0 16 ≤ 768) (hfit : (x.s i.rc).toNat + 64 * i.fld 0 16 ≤ 49152)
    (hfree : put = false → rangeBusy s i.core (x.s i.rc).toNat (64 * i.fld 0 16) = false) : WindowReady put i s x p := by
  refine ⟨?_, hp, hfree⟩
  rw [hbb]
  exact transferForm_wellFormed x hoff hsp h1 h2 hfit

theorem WindowReady.free (h : WindowReady put i s x p) : (!put && rangeBusy s i.core (x.s i.rc).toNat (64 * i.fld 0 16)) = false := by
  obtain ⟨_, _, hfree⟩ := h
  cases put with
  | false => simp [hfree rfl]
  | true => rfl

theorem bodyWindow_refused {st : Status} (h : WindowReady put i s x p)
    (href : windowRefusal s p (x.s i.ra).toNat (clusterOf i.core) (x.s i.rb).toNat (i.fld 0 16) put = some st) :
    bodyWindow put i s x = .retire (refuseLines (windowNote put i s x 1 0 0) i.core i.cnt (i.fld 0 16) st) (nextPc x) := by
  have hfree := h.free
  obtain ⟨hform, hp, _⟩ := h
  simp only [bodyWindow, hform, hfree, hp, Option.getD_some, href, Bool.false_eq_true, if_false, windowNote]

/-- A transfer that the window lets through goes to the optical die nearest in the first direction to its panel. -/
theorem bodyWindow_sends {dir ax ay : Nat} (h : WindowReady put i s x p)
    (hok : windowRefusal s p (x.s i.ra).toNat (clusterOf i.core) (x.s i.rb).toNat (i.fld 0 16) put = none)
    (htarget : (windowAt s p (x.s i.ra).toNat (clusterOf i.core)).target = false)
    (hdir : torusDir s.sys.panel ((windowAt s p (x.s i.ra).toNat (clusterOf i.core)).fld 0 10) = some dir)
    (hat : (ax, ay) = (opticalNear (nearestOptical s (getPart s p).dist.holes dir (portRouters (clusterOf i.core))) (coreX i.core)
      (coreY i.core)).2) :
    bodyWindow put i s x = .retire (sendCtrl (windowNote put i s x 1 ax ay) (if put then 0x10 else 0x11) (coreX i.core) (coreY i.core) ax ay
      ((x.s i.ra).toNat + 2 ^ 8 * ((x.s i.rb).toNat / 64) + 2 ^ 28 * (i.fld 0 16 - 1) + 2 ^ 38 * ((x.s i.rc).toNat / 64) + 2 ^ 48 * i.cnt))
      (nextPc x) := by
  have hfree := h.free
  obtain ⟨hform, hp, _⟩ := h
  simp only [bodyWindow, hform, hfree, hp, Option.getD_some, hok, htarget, hdir, Bool.false_eq_true, if_false, windowNote, ← hat]

end

/-- Settles O19: a well-formed transfer is refused by its window, or goes to the optical die. -/
theorem windowTransfers : Obligations.WindowTransfers := by
  unfold Obligations.WindowTransfers
  intro i s p x u k w off sp n d hi hbb hp hoff hsp h1 h2 hfit
  have hput : WindowReady true i u x p := windowReady_of_wellFormed hbb hp hoff hsp h1 h2 hfit (by simp)
  have hget (hfree : rangeBusy u k sp (64 * n) = false) : WindowReady false i u x p :=
    windowReady_of_wellFormed hbb hp hoff hsp h1 h2 hfit fun _ => hfree
  refine ⟨fun st href => ?putRefused, fun st hfree href => ?getRefused, fun dir oe ax ay htarget hdir hoe hat =>
    ⟨fun hok => ?put, fun hok hfree => ?get⟩⟩
  case putRefused => exact congrArg Host.Outcome.next (issue_retires hi (bodyWindow_refused hput href))
  case getRefused => exact congrArg Host.Outcome.next (issue_retires hi (bodyWindow_refused (hget hfree) href))
  case put => exact congrArg Host.Outcome.next (issue_retires hi (bodyWindow_sends hput hok htarget hdir (hoe ▸ hat)))
  case get => exact congrArg Host.Outcome.next (issue_retires hi (bodyWindow_sends (hget hfree) hok htarget hdir (hoe ▸ hat)))

end Sys2Proof.Machine
end

section
/-! PROOFS. Sends: O20. -/

namespace Sys2Proof.Machine

/-- The addresses and the total of a send are legal (R104). -/
def SendLegal (i : Issue) (x : Ctx) : Prop :=
  (x.s i.rb).toNat % 64 = 0 ∧ (x.s i.rc).toNat % 64 = 0 ∧ (x.s i.rb).toNat + 64 ≤ 49152 ∧ (x.s i.rc).toNat + 64 ≤ 49152 ∧
    (i.bit 20 = true → (x.s i.rd).toNat % 65536 ≠ 0)

section
variable {i : Issue} {s : State} {x : Ctx}

theorem sendFaults_none (h : SendLegal i x) : sendFaults i x = [] := by
  obtain ⟨hsp, hdp, hspFit, hdpFit, htotal⟩ := h
  have hform : ¬ ((x.s i.rb).toNat % 64 ≠ 0 ∨ (x.s i.rc).toNat % 64 ≠ 0 ∨ (i.bit 20 = true ∧ field (x.s i.rd).toNat 0 16 = 0)) := by
    rintro (h | h | ⟨hlast, h⟩)
    · exact h hsp
    · exact h hdp
    · exact htotal hlast h
  rw [sendFaults, if_neg hform, boundFault_inside hspFit, boundFault_inside hdpFit]
  rfl

/-- The state in which packets wait at the injection input, their source line read. -/
def injecting (i : Issue) (s : State) (x : Ctx) (ps : List DataPacket) : State :=
  modCore (noteRead s i.core (spmRead s i.core (x.s i.rb).toNat 64)) i.core fun c => { c with inj := c.inj ++ ps.map fun q => (i.ctx, q) }

/-- A send whose source line reads well waits until its packets have gone out. -/
theorem sendWith_reads {mk : Line → List DataPacket} (hbad : (spmRead s i.core (x.s i.rb).toNat 64).bad = none) :
    sendWith i s x mk =
      let ps := mk (BitVec.ofNat 512 (spmBytes s i.core (x.s i.rb).toNat 64))
      .wait (injecting i s x ps) (.accept ps.length) .waitFabric := by
  simp only [sendWith, hbad]
  rfl

theorem bodySend_sends {d : Nat} (hlegal : SendLegal i x) (hd : translate s i.core (x.s i.ra).toNat = some d)
    (hfree : d = i.core → rangeBusy s i.core (x.s i.rc).toNat 64 = false) :
    bodySend i s x = sendWith i s x fun v => [mkData s (hdrTo i x d) v] := by
  have hgo : ¬ (d = i.core ∧ rangeBusy s i.core (x.s i.rc).toNat 64 = true) := fun ⟨h, hbusy⟩ => by simp [hfree h] at hbusy
  simp only [bodySend, hd, sendFaults_none hlegal, Option.isNone_some, Bool.false_eq_true, if_false, Option.getD_some, List.append_nil,
    if_neg hgo]

theorem bodySend_unnumbered (hlegal : SendLegal i x) (hd : translate s i.core (x.s i.ra).toNat = none) : bodySend i s x = illegal s x := by
  simp only [bodySend, hd, sendFaults_none hlegal, Option.isNone_none, if_true, List.append_nil]
  rfl

theorem bodyCsend_sends (hlegal : SendLegal i x) (hin : (List.range 16).any (injectsIn s i.core s.epoch.cur 4 (x.s i.ra).toNat) = true)
    (hfree : (List.range 16).any (deliversIn s i.core s.epoch.cur (x.s i.ra).toNat) = true → rangeBusy s i.core (x.s i.rc).toNat 64 = false) :
    bodyCsend i s x = sendWith i s x fun v => [mkData s (.unicast (i.bit 20) (BitVec.ofNat 4 i.cnt)
      (BitVec.ofNat 10 ((x.s i.rc).toNat / 64)) (BitVec.ofNat 10 (x.s i.ra).toNat) 0 (sendTotal i x) true) v] := by
  have hgo : ¬ ((List.range 16).any (deliversIn s i.core s.epoch.cur (x.s i.ra).toNat) && rangeBusy s i.core (x.s i.rc).toNat 64) = true := by
    rw [Bool.and_eq_true]
    rintro ⟨h, hbusy⟩
    simp [hfree h] at hbusy
  simp only [bodyCsend, hin, sendFaults_none hlegal, Bool.not_true, Bool.false_eq_true, if_false, List.append_nil, if_neg hgo]

theorem bodyMsend_sends {m : Nat} (hlegal : SendLegal i x) (hfit : (x.s i.ra).toNat + 16 ≤ 49152) (herr : (getCore s i.core).spmErr = [])
    (hm : mcastMatch s i.core (BitVec.ofNat 128 (spmBytes s i.core (x.s i.ra).toNat 16)) = some m)
    (hfree : mcastDest s s.epoch.cur (BitVec.ofNat 128 (spmBytes s i.core (x.s i.ra).toNat 16)).toNat i.core = true →
      rangeBusy s i.core (x.s i.rc).toNat 64 = false) :
    let desc := BitVec.ofNat 128 (spmBytes s i.core (x.s i.ra).toNat 16)
    let line := (x.s i.rc).toNat / 64
    bodyMsend i s x = sendWith i s x fun v => mkData s (mcastHdr false i.cnt line m desc) v ::
      (if i.bit 20 then [mkData s (mcastHdr true i.cnt line m desc) (BitVec.ofNat 512 (sendTotal i x).toNat)] else []) := by
  obtain ⟨hbad, hce⟩ := spmRead_noErr herr (x.s i.ra).toNat 16
  have hdata : (spmRead s i.core (x.s i.ra).toNat 16).data = spmBytes s i.core (x.s i.ra).toNat 16 := rfl
  have hgo : ¬ (mcastDest s s.epoch.cur (BitVec.ofNat 128 (spmBytes s i.core (x.s i.ra).toNat 16)).toNat i.core &&
      rangeBusy s i.core (x.s i.rc).toNat 64) = true := by
    rw [Bool.and_eq_true]
    rintro ⟨h, hbusy⟩
    simp [hfree h] at hbusy
  simp only [bodyMsend, sendFaults_none hlegal, boundFault_inside hfit, List.append_nil, hbad, hdata, hm, noteRead_clean hbad hce, if_neg hgo]

theorem exec_cabort_sends {d : Nat} (hi : Issues { Enc.none with a := true, b := true } i s)
    (hd : translate (begun i s) i.core ((ctxOf i s).s i.ra).toNat = some d) :
    exec (.cabort i) s = .next (wentOn i s (sendCtrl (begun i s) 8 (coreX i.core) (coreY i.core) (coreX d) (coreY d)
      (((ctxOf i s).s i.rb).toNat % 65536))) := by
  refine congrArg Host.Outcome.next (issue_retires hi ?_)
  simp only [hd]
  rfl

theorem exec_cabort_unnumbered (hi : Issues { Enc.none with a := true, b := true } i s)
    (hd : translate (begun i s) i.core ((ctxOf i s).s i.ra).toNat = none) :
    exec (.cabort i) s = .next (endTask (begun i s) i.core i.ctx stIllegalOp [fIllegal (ctxOf i s).pc]) := by
  refine congrArg Host.Outcome.next (issue_illegalBody hi ?_)
  simp only [hd]

end

/-- The last packet of a send goes out: the send retires (R104). -/
theorem exec_routerInjectionAccept_last {s t : State} {core n : Nat} {rc : RouterClock} {q : DataPacket} {rest : List (Nat × DataPacket)}
    (hinj : (getCore s core).inj = (n, q) :: rest) (hcirc : isCirc q.hdr = false) (hrun : s.clock.stopped = false)
    (hhop : doHop (modCore s core fun c => { c with inj := rest }) core (clockAt s rc) { q with epoch := s.epoch.cur }
      (injectHop (modCore s core fun c => { c with inj := rest }) core (coreTurn s core rc) { q with epoch := s.epoch.cur }) = some t)
    (hw : Waiting s core n .waitFabric (.accept 1)) :
    exec (.routerInjectionAccept core rc) s = .next (goOn t core n ((getCtx s core n).pc + 8)) := by
  obtain ⟨_, hwait, hdue⟩ := hw
  change execRouterInjectionAccept core rc s = _
  simp only [execRouterInjectionAccept, hrun, hinj, hcirc, hhop, hwait, Nat.le_refl, if_true, Bool.false_eq_true, if_false, settle, nextPc,
    retirePoint_of_notDue _ hdue]

/-- Settles O20: the three bodies come to `sendWith` of their packets; the accept of the last one retires the send. -/
theorem sends : Obligations.Sends := by
  unfold Obligations.Sends
  refine ⟨?issue, fun s t core n rc q rest hinj hcirc hrun hhop hw => exec_routerInjectionAccept_last hinj hcirc hrun hhop hw⟩
  intro i s x u k sp dp line r v sendsAll
  refine ⟨fun hi hsp hdp hspFit hdpFit htotal hbad => ?sends,
    fun hi => ⟨fun d hd => exec_cabort_sends hi hd, fun hd => exec_cabort_unnumbered hi hd⟩⟩
  case sends =>
    have hlegal : SendLegal i x := ⟨hsp, hdp, hspFit, hdpFit, htotal⟩
    have hsends {ins : Issue → Instr} {body : State → Ctx → Res} {mk : Line → List DataPacket}
        (hc : exec (ins i) s = .next (issue (encSend i) i s body)) (hb : body u x = sendWith i u x mk) : sendsAll ins u (mk v) :=
      hc.trans (congrArg _ (issue_waits hi (hb.trans (sendWith_reads hbad))))
    exact ⟨fun d hd hfree => hsends rfl (bodySend_sends hlegal hd hfree), fun hin hfree => hsends rfl (bodyCsend_sends hlegal hin hfree),
      fun m hfit herr hm hfree => hsends rfl (bodyMsend_sends hlegal hfit herr hm hfree),
      fun hd => congrArg Host.Outcome.next (issue_illegalBody hi (bodySend_unnumbered hlegal hd))⟩

end Sys2Proof.Machine
end

section
/-! PROOFS. What a task's end leaves at its core, whatever held or pending. -/

namespace Sys2Proof.Machine

/-- The context of a task that has ended without a fence, held back or not by Compatible recovery (R409). -/
def Ctx.endedAt (x : Ctx) (hold : Bool) (st : Status) (fs : List FaultRec) (at_ : Word) : Ctx :=
  { x.recordFault fs with
    state := if st = stOk || st = stAborted then .idle else .stopped, lastStatus := st, wait := .none, pend := [], aborts := []
    fenceDue := false, fired := if hold then x.fired else none
    launch := if hold then x.launch.map (fun l => { l with window := some (at_, st) }) else x.launch }

/-- Its core: counters, queues, sets and what waits to be injected. -/
def Core.endedWith (keep : Bool) (c : Core) (n : Nat) (st : Status) : Core :=
  let c := c.disarm n
  let c := if st = stOk || keep then c else c.removeOps n
  let c := if st = stAborted then c.clearSets n else c
  { c with inj := c.inj.filter (fun p => p.1 ≠ n) }

theorem Core.endedWith_ctxs (keep : Bool) (c : Core) (n : Nat) (st : Status) : (c.endedWith keep n st).ctxs = c.ctxs := by
  simp [Core.endedWith, apply_ite Core.ctxs]

theorem cores_foldl_abortAnswer (k n : Nat) (task : BitVec 16) (ans : Status) (l : List AbortReq) (s : State) :
    (l.foldl (fun s a => abortAnswer s k n task ans a) s).cores = s.cores := by
  induction l generalizing s with
  | nil => rfl
  | cons a l ih => exact ih _

theorem tellFiring_cores (s : State) (k n : Nat) (x : Ctx) : (tellFiring s k n x).cores = s.cores := by
  unfold tellFiring
  split
  · split <;> rfl
  · rfl

theorem noteTaskEnd_cores (s : State) (k n : Nat) (task : BitVec 16) : (noteTaskEnd s k n task).cores = s.cores := by
  unfold noteTaskEnd
  split <;> rfl

section
variable {keep : Bool} {s : State} {k n : Nat} {st : Status} {fs : List FaultRec}

/-- Of the cores, the end of a task writes its own only. -/
theorem endTaskWith_cores (hfence : (getCtx s k n).fenceDue = false) :
    (endTaskWith keep s k n st fs).cores = Tbl.put s.cores k (((getCore s k).endedWith keep n st).setCtx n
      ((getCtx s k n).endedAt (relaunchable s k (getCtx s k n) st) st fs s.tally)) := by
  unfold endTaskWith
  extract_lets +onlyGivenNames c x hold x₁ x₂ c₂ c₃ c₄ c₅ t ans t₁ t₂ t₃ t₄
  have hfence : x.fenceDue = false := hfence
  have hhold : hold = relaunchable s k x st := by simp [hold, hfence]
  have hx : x₂ = x.endedAt hold st fs s.tally := by
    simp only [x₂, hfence, Bool.false_eq_true, if_false]
    rfl
  have h₁ : t₁.cores = t.cores := cores_foldl_abortAnswer ..
  have h₂ : t₂.cores = t₁.cores := by
    unfold t₂
    split
    · rfl
    · exact tellFiring_cores ..
  have h₃ : t₃.cores = t₂.cores := by
    unfold t₃
    split <;> rfl
  have h₄ : t₄.cores = t₃.cores := noteTaskEnd_cores ..
  rw [if_neg (by simp [hfence]), h₄, h₃, h₂, h₁]
  change Tbl.put s.cores k (c₅.setCtx n x₂) = Tbl.put s.cores k
    (((getCore s k).endedWith keep n st).setCtx n (x.endedAt (relaunchable s k x st) st fs s.tally))
  rw [hx, hhold]
  rfl

theorem getCtx_endTaskWith_self (hfence : (getCtx s k n).fenceDue = false) :
    getCtx (endTaskWith keep s k n st fs) k n =
      (getCtx s k n).endedAt (relaunchable s k (getCtx s k n) st) st fs s.tally := by
  rw [getCtx, getCore, endTaskWith_cores hfence, Tbl.get_put_self, Core.ctx_setCtx]

theorem getCore_endTaskWith_other (hfence : (getCtx s k n).fenceDue = false) {j : Nat} (hj : j ≠ k) :
    getCore (endTaskWith keep s k n st fs) j = getCore s j := by
  rw [getCore, endTaskWith_cores hfence, Tbl.get_put_ne _ _ _ _ _ hj, getCore]

theorem getCtx_endTaskWith_other (hfence : (getCtx s k n).fenceDue = false) {m : Nat} (hm : m ≠ n) :
    getCtx (endTaskWith keep s k n st fs) k m = getCtx s k m := by
  rw [getCtx, getCore, endTaskWith_cores hfence, Tbl.get_put_self, Core.ctx_setCtx_other _ _ hm, Core.ctx, Core.endedWith_ctxs]
  rfl

/-- A fault of a context with nothing due ends its task at the retire point. -/
theorem retirePoint_faults {t : State} {g : FaultRec} (hdue : (getCtx s k n).endDue = false) (hg : worstFault fs = some g) :
    retirePoint s k n fs t = endTask s k n g.status fs := by
  obtain ⟨hpend, _⟩ := Ctx.endDue_false hdue
  simp only [retirePoint, hpend, List.nil_append, hg, endTask]
  rfl

end

theorem faultBits_single (f : FaultRec) : faultBits [f] = f.bits := BitVec.zero_or

theorem recordFault_fault (x : Ctx) {fs : List FaultRec} {g : FaultRec} (hg : worstFault fs = some g) :
    (x.recordFault fs).fault = x.fault ||| faultBits fs := by
  simp only [Ctx.recordFault, hg]

end Sys2Proof.Machine
end

section
/-! PROOFS. Arming a counter and waiting for it: O21, O22. -/

namespace Sys2Proof.Machine

theorem cnt_begun (i : Issue) (s : State) (n : Nat) : (getCore (begun i s) i.core).cnt n = (getCore s i.core).cnt n := by
  simp [begun, modCore, Core.upset, Core.cnt]

theorem dieTally_begun (i : Issue) (s : State) (d : Nat) : dieTally (begun i s) d = dieTally s d := rfl

/-- A counter as ARM leaves it (R95). -/
def Counter.armedBy (v : Counter) (i : Issue) (total : BitVec 16) (at_ : Word) : Counter :=
  { v with armed := true, owner := i.ctx, discard := false, total := if total ≠ 0 then total else v.total
           deadline := at_ + BitVec.ofNat 64 (armNs i) }

section
variable {i : Issue} {s : State}

theorem exec_arm_armed (hi : Issues { Enc.none with a := true, imm := 0x1FFF0000 } i s) (h : ((getCore s i.core).cnt i.cnt).armed = true) :
    exec (.arm i) s = .next (endTask (begun i s) i.core i.ctx stIllegalOp [fIllegal (ctxOf i s).pc]) := by
  refine congrArg Host.Outcome.next (issue_illegalBody hi (if_pos ?_))
  rw [cnt_begun, h]

theorem exec_arm_arms (hi : Issues { Enc.none with a := true, imm := 0x1FFF0000 } i s) (h : ((getCore s i.core).cnt i.cnt).armed = false) :
    exec (.arm i) s = .next (wentOn i s (modCore (begun i s) i.core fun c => c.setCnt i.cnt
      (((getCore s i.core).cnt i.cnt).armedBy i (((ctxOf i s).s i.ra).setWidth 16) (dieTally s (siteOf i.core))))) := by
  refine congrArg Host.Outcome.next (issue_retires hi ((if_neg ?_).trans ?_))
  · rw [cnt_begun, h]
    exact Bool.false_ne_true
  · rw [cnt_begun, dieTally_begun]
    simp only [modCore, Counter.armedBy, ne_eq, ite_not]

theorem exec_waitc_notArmed (hi : Issues { Enc.none with d := true, imm := 0xF0000 } i s)
    (h : ((getCore s i.core).cnt i.cnt).armed = false) :
    exec (.waitc i) s = .next (endTask (begun i s) i.core i.ctx stIllegalOp [fIllegal (ctxOf i s).pc]) := by
  refine congrArg Host.Outcome.next (issue_illegalBody hi (if_pos ?_))
  rw [cnt_begun, h]
  rfl

theorem exec_waitc_waits (hi : Issues { Enc.none with d := true, imm := 0xF0000 } i s)
    (h : ((getCore s i.core).cnt i.cnt).armed = true) :
    exec (.waitc i) s = .next (waits i (begun i s) .waitFabric (.counter i.cnt i.rd)) := by
  refine congrArg Host.Outcome.next (issue_waits hi (if_neg ?_))
  rw [cnt_begun, h]
  exact Bool.false_ne_true

end

/-- Settles O21: the body looks at the counter as it was before the step's lost words. -/
theorem armSetsTheCounter : Obligations.ArmSetsTheCounter := by
  unfold Obligations.ArmSetsTheCounter
  intro i s x u v t16 hi
  exact ⟨fun h => exec_arm_armed hi h, fun h => exec_arm_arms hi h⟩

/-! ### The ends of a wait (R97) -/

section
variable {s : State} {core n c rd : Nat}

theorem waitcOf_waiting (hw : Waiting s core n .waitFabric (.counter c rd)) : waitcOf s core n = some (c, rd) := by
  obtain ⟨hstate, hwait, _⟩ := hw
  simp [waitcOf, hstate, hwait]

theorem Counter.ue_iff (v : Counter) : v.ue = true ↔ v.ueDram = true ∨ v.ueSpm = true := by simp [Counter.ue]

theorem Counter.full_iff {v : Counter} (hue : v.ue = false) : v.full = true ↔ v.total ≠ 0 ∧ v.total.toNat ≤ v.count.toNat := by
  simp [Counter.full, hue]

/-- An error mark comes before a full count. -/
theorem Counter.full_of_ue {v : Counter} (hue : v.ue = true) : v.full = false := by simp [Counter.full, hue]

theorem exec_waitcComplete_full (hw : Waiting s core n .waitFabric (.counter c rd)) (hfull : ((getCore s core).cnt c).full = true) :
    let v := (getCore s core).cnt c
    let x := getCtx s core n
    exec (.waitcComplete core n) s = .next (goOn (modCore s core fun k => (k.setCnt c { v with
      count := v.count - v.total.setWidth 32, total := 0, status := 0, armed := false }).setCtx n
        (x.setS rd (v.status.setWidth 64))) core n (x.pc + 8)) := by
  intro v x
  obtain ⟨_, _, hdue⟩ := id hw
  change execWaitcComplete core n s = _
  simp only [execWaitcComplete, waitcOf_waiting hw, hfull, Bool.not_true, Bool.false_eq_true, if_false, settle, retirePoint_of_notDue _ hdue]
  rfl

theorem exec_waitcComplete_idle (hw : Waiting s core n .waitFabric (.counter c rd)) (hfull : ((getCore s core).cnt c).full = false) :
    exec (.waitcComplete core n) s = .next s := by
  change execWaitcComplete core n s = _
  simp [execWaitcComplete, waitcOf_waiting hw, hfull]

theorem exec_waitcUeFault_idle (hw : Waiting s core n .waitFabric (.counter c rd)) (hue : ((getCore s core).cnt c).ue = false) :
    exec (.waitcUeFault core n) s = .next s := by
  change execWaitcUeFault core n s = _
  simp [execWaitcUeFault, waitcOf_waiting hw, hue]

theorem exec_arrivalDeadlineExpiry_idle (hw : Waiting s core n .waitFabric (.counter c rd))
    (h : ((getCore s core).cnt c).ue = true ∨ ((getCore s core).cnt c).full = true ∨
      dieTally s (siteOf core) < ((getCore s core).cnt c).deadline) : exec (.arrivalDeadlineExpiry core n) s = .next s := by
  change execArrivalDeadlineExpiry core n s = _
  rcases h with h | h | h <;> simp [execArrivalDeadlineExpiry, waitcOf_waiting hw, h]

/-- The faults of an error mark: their status is ECC_UNCORRECTABLE, their bits name the sources. -/
theorem Counter.ueFaults_worst {v : Counter} (hue : v.ue = true) (w : Word) : ∃ g, worstFault (v.ueFaults w) = some g ∧ g.status = stEcc := by
  rw [Counter.ue_iff] at hue
  cases hd : v.ueDram <;> cases hs : v.ueSpm
  · simp [hd, hs] at hue
  · exact ⟨fNoAddr stEcc 0x04 w, by simp [Counter.ueFaults, hd, hs, worstFault], rfl⟩
  · exact ⟨fNoAddr stEcc 0x08 w, by simp [Counter.ueFaults, hd, hs, worstFault], rfl⟩
  · exact ⟨fNoAddr stEcc 0x08 w, by simp [Counter.ueFaults, hd, hs, worstFault, fNoAddr], rfl⟩

theorem Counter.ueFaults_bits (v : Counter) (w : Word) (b : BitVec 7) :
    b ||| faultBits (v.ueFaults w) = b ||| (if v.ueDram then 0x08#7 else 0) ||| (if v.ueSpm then 0x04#7 else 0) := by
  cases hd : v.ueDram <;> cases hs : v.ueSpm <;> simp [Counter.ueFaults, hd, hs, faultBits, fNoAddr, BitVec.or_assoc]

/-- What a fault that ends a wait leaves of its context: stopped with the fault's status, registers as they were. -/
theorem endTask_stops {st : Status} {fs : List FaultRec} {g : FaultRec} (hdue : (getCtx s core n).endDue = false)
    (hst : st ≠ stOk ∧ st ≠ stAborted) (hg : worstFault fs = some g) :
    let y := getCtx (endTask s core n st fs) core n
    y.state = .stopped ∧ y.lastStatus = st ∧ y.regs = (getCtx s core n).regs ∧ y.fault = (getCtx s core n).fault ||| faultBits fs := by
  obtain ⟨_, _, hfence, _⟩ := Ctx.endDue_false hdue
  obtain ⟨hregs, _⟩ := recordFault_keeps (getCtx s core n) fs
  intro y
  have hy : y = _ := getCtx_endTaskWith_self (keep := false) hfence
  rw [hy]
  exact ⟨by simp [Ctx.endedAt, hst], rfl, hregs, recordFault_fault _ hg⟩

theorem exec_waitcUeFault_faults (hw : Waiting s core n .waitFabric (.counter c rd)) (hue : ((getCore s core).cnt c).ue = true) :
    exec (.waitcUeFault core n) s =
      .next (endTask (bumpFree s) core n stEcc (((getCore s core).cnt c).ueFaults (freeWord s))) := by
  obtain ⟨_, _, hdue⟩ := id hw
  obtain ⟨g, hg, hst⟩ := Counter.ueFaults_worst hue (freeWord s)
  change execWaitcUeFault core n s = _
  simp only [execWaitcUeFault, waitcOf_waiting hw, hue, Bool.not_true, Bool.false_eq_true, if_false, settle]
  rw [retirePoint_faults (s := bumpFree s) hdue hg, hst]

theorem exec_arrivalDeadlineExpiry_faults (hw : Waiting s core n .waitFabric (.counter c rd)) (hue : ((getCore s core).cnt c).ue = false)
    (hfull : ((getCore s core).cnt c).full = false) (hlate : ¬ dieTally s (siteOf core) < ((getCore s core).cnt c).deadline) :
    exec (.arrivalDeadlineExpiry core n) s = .next (endTask (bumpFree s) core n stTimeout [fNoAddr stTimeout 0x40 (freeWord s)]) := by
  obtain ⟨_, _, hdue⟩ := id hw
  change execArrivalDeadlineExpiry core n s = _
  simp only [execArrivalDeadlineExpiry, waitcOf_waiting hw, hue, hfull, hlate, decide_false, Bool.or_self, Bool.false_eq_true, if_false, settle]
  rw [retirePoint_faults (s := bumpFree s) hdue (worstFault_single _)]
  rfl

end

/-- Settles O22: the cases of R97 exclude one another in the order of error mark, full count, deadline. -/
theorem waitcEnds : Obligations.WaitcEnds := by
  unfold Obligations.WaitcEnds
  refine ⟨fun i s hi => ⟨exec_waitc_notArmed hi, exec_waitc_waits hi⟩, ?ends⟩
  intro s core n c rd x v ue full late hw
  obtain ⟨_, _, hdue⟩ := id hw
  have hue : v.ue = true ↔ ue := v.ue_iff
  have hclean (h : ¬ ue) : v.ue = false := Bool.eq_false_iff.mpr (mt hue.mp h)
  have hfull (h : ¬ ue) : v.full = true ↔ full := Counter.full_iff (hclean h)
  have hlate : dieTally s (siteOf core) < v.deadline ↔ ¬ late := Nat.not_le.symm
  refine ⟨fun h hf => ?full, fun h => ?ue, fun h hf => ?waits⟩
  case full =>
    have hf := (hfull h).mpr hf
    exact ⟨exec_waitcComplete_full hw hf, exec_waitcUeFault_idle hw (hclean h), exec_arrivalDeadlineExpiry_idle hw (.inr (.inl hf))⟩
  case ue =>
    have h := hue.mpr h
    obtain ⟨g, hg, _⟩ := Counter.ueFaults_worst h (freeWord s)
    obtain ⟨hstate, hlast, hregs, hfault⟩ := endTask_stops (s := bumpFree s) (st := stEcc) hdue (by decide) hg
    exact ⟨exec_waitcComplete_idle hw (Counter.full_of_ue h), exec_arrivalDeadlineExpiry_idle hw (.inl h), _,
      exec_waitcUeFault_faults hw h, hstate, hlast, hregs, hfault.trans (Counter.ueFaults_bits ..)⟩
  case waits =>
    have hf : v.full = false := Bool.eq_false_iff.mpr (mt (hfull h).mp hf)
    refine ⟨exec_waitcComplete_idle hw hf, exec_waitcUeFault_idle hw (hclean h),
      fun hl => exec_arrivalDeadlineExpiry_idle hw (.inr (.inr (hlate.mpr hl))), fun hl => ?_⟩
    obtain ⟨hstate, hlast, hregs, hfault⟩ := endTask_stops (s := bumpFree s) (st := stTimeout) hdue (by decide)
      (worstFault_single (fNoAddr stTimeout 0x40 (freeWord s)))
    exact ⟨_, exec_arrivalDeadlineExpiry_faults hw (hclean h) hf (mt hlate.mp (not_not.mpr hl)), hstate, hlast, hregs,
      hfault.trans (congrArg (x.fault ||| ·) (faultBits_single _))⟩

end Sys2Proof.Machine
end

section
/-! PROOFS. The clearing instructions: O23. -/

namespace Sys2Proof.Machine

theorem clearedAt_iff (c : Core) (ch : Nat) (g : Option Nat) : clearedAt c ch g = true ↔ ∃ m, g = some m ∧ m < Tbl.get c.seen ch 0 := by
  cases g <;> simp [clearedAt]

/-! ### The bodies (R106) -/

section
variable {k n ch p : Nat} {s : State} {x : Ctx} {e : ClearEntry} {g : Option Nat}

theorem bodyCarr_first (he : clearEntry s k ch = some (p, e)) (hin : e.ctxmask.getLsbD n = true) (hg : Tbl.find x.arrGen ch = none) :
    bodyCarr k n ch s x = .retire (arrive s p k n ch) (nextPc x) := by
  simp [bodyCarr, he, hin, hg]

theorem bodyCarr_cleared (he : clearEntry s k ch = some (p, e)) (hin : e.ctxmask.getLsbD n = true) (hg : Tbl.find x.arrGen ch = some g)
    (hc : clearedAt (getCore s k) ch g = true) : bodyCarr k n ch s x = .retire (arrive s p k n ch) (nextPc x) := by
  simp [bodyCarr, he, hin, hg, hc]

theorem bodyCarr_waits (he : clearEntry s k ch = some (p, e)) (hin : e.ctxmask.getLsbD n = true) (hg : Tbl.find x.arrGen ch = some g)
    (hc : ¬ clearedAt (getCore s k) ch g = true) : bodyCarr k n ch s x = .wait s (.arrive ch) .waitClear := by
  simp [bodyCarr, he, hin, hg, hc]

theorem bodyCarr_notEnrolled (he : clearEntry s k ch = some (p, e)) (hout : e.ctxmask.getLsbD n = false) :
    bodyCarr k n ch s x = illegal s x := by
  simp [bodyCarr, he, hout]

theorem bodyCarr_noEntry (he : clearEntry s k ch = none) : bodyCarr k n ch s x = illegal s x := by
  simp [bodyCarr, he]

end

section
variable {i : Issue} {s : State} {g : Option Nat}

theorem exec_cwait_noArrival (hi : Issues encCh i s) (hg : Tbl.find (ctxOf i s).arrGen (Issue.ch i) = none) :
    exec (.cwait i) s = .next (endTask (begun i s) i.core i.ctx stIllegalOp [fIllegal (ctxOf i s).pc]) := by
  refine congrArg Host.Outcome.next (issue_illegalBody hi ?_)
  simp only [hg]

theorem exec_cwait_cleared (hi : Issues encCh i s) (hg : Tbl.find (ctxOf i s).arrGen (Issue.ch i) = some g)
    (hc : clearedAt (getCore (begun i s) i.core) (Issue.ch i) g = true) : exec (.cwait i) s = .next (wentOn i s (begun i s)) := by
  refine congrArg Host.Outcome.next (issue_retires hi ?_)
  simp only [hg, if_pos hc]

theorem exec_cwait_waits (hi : Issues encCh i s) (hg : Tbl.find (ctxOf i s).arrGen (Issue.ch i) = some g)
    (hc : ¬ clearedAt (getCore (begun i s) i.core) (Issue.ch i) g = true) :
    exec (.cwait i) s = .next (waits i (begun i s) .waitClear (.clear (Issue.ch i))) := by
  refine congrArg Host.Outcome.next (issue_waits hi ?_)
  simp only [hg, if_neg hc]

theorem exec_ctest_noArrival (hi : Issues { encCh with d := true } i s) (hg : Tbl.find (ctxOf i s).arrGen (Issue.ch i) = none) :
    exec (.ctest i) s = .next (endTask (begun i s) i.core i.ctx stIllegalOp [fIllegal (ctxOf i s).pc]) := by
  refine congrArg Host.Outcome.next (issue_illegalBody hi ?_)
  simp only [hg]

theorem exec_ctest_reads (hi : Issues { encCh with d := true } i s) (hg : Tbl.find (ctxOf i s).arrGen (Issue.ch i) = some g) :
    exec (.ctest i) s = .next (wrote i s ((ctxOf i s).setS i.rd
      (if clearedAt (getCore (begun i s) i.core) (Issue.ch i) g then 1 else 0))) := by
  refine congrArg Host.Outcome.next (issue_writes hi ?_ (Ctx.setS_pc ..))
  simp only [hg]

end

/-! ### What waited -/

section
variable {s : State} {core n ch p : Nat} {e : ClearEntry} {g : Option Nat}

theorem exec_cwaitRetire_cleared (hg : Tbl.find (getCtx s core n).arrGen ch = some g) (hw : Waiting s core n .waitClear (.clear ch))
    (hc : clearedAt (getCore s core) ch g = true) : exec (.cwaitRetire core n) s = .next (goOn s core n ((getCtx s core n).pc + 8)) := by
  obtain ⟨_, hwait, hdue⟩ := hw
  change execCwaitRetire core n s = _
  simp only [execCwaitRetire, hwait, hg, hc, if_true, settle, retirePoint_of_notDue _ hdue, nextPc]

theorem exec_cwaitRetire_open (hg : Tbl.find (getCtx s core n).arrGen ch = some g) (hw : Waiting s core n .waitClear (.clear ch))
    (hc : ¬ clearedAt (getCore s core) ch g = true) : exec (.cwaitRetire core n) s = .next s := by
  obtain ⟨_, hwait, _⟩ := hw
  change execCwaitRetire core n s = _
  simp only [execCwaitRetire, hwait, hg, if_neg hc]

theorem exec_carrAfterClear_cleared (hg : Tbl.find (getCtx s core n).arrGen ch = some g) (hw : Waiting s core n .waitClear (.arrive ch))
    (he : clearEntry s core ch = some (p, e)) (hin : e.ctxmask.getLsbD n = true) (hc : clearedAt (getCore s core) ch g = true) :
    exec (.carrAfterClear core n) s = .next (goOn (arrive s p core n ch) core n ((getCtx s core n).pc + 8)) := by
  obtain ⟨_, hwait, hdue⟩ := hw
  change execCarrAfterClear core n s = _
  simp only [execCarrAfterClear, hwait, bodyCarr_cleared he hin hg hc, settle, retirePoint_of_notDue _ hdue, nextPc]

theorem exec_carrAfterClear_open (hg : Tbl.find (getCtx s core n).arrGen ch = some g) (hw : Waiting s core n .waitClear (.arrive ch))
    (he : clearEntry s core ch = some (p, e)) (hin : e.ctxmask.getLsbD n = true) (hc : ¬ clearedAt (getCore s core) ch g = true) :
    exec (.carrAfterClear core n) s = .next s := by
  obtain ⟨_, hwait, _⟩ := hw
  change execCarrAfterClear core n s = _
  simp only [execCarrAfterClear, hwait, bodyCarr_waits he hin hg hc]

end

/-- Settles O23: enrolment, the last arrival and whether its generation has cleared decide each instruction, at its issue and after a wait. -/
theorem clearingInstructions : Obligations.ClearingInstructions := by
  unfold Obligations.ClearingInstructions
  refine ⟨?issue, ?waited⟩
  case issue =>
    intro i s x u k ch isCleared stops
    have hcleared (g : Option Nat) : clearedAt (getCore u k) ch g = true ↔ isCleared (getCore u k) ch g := clearedAt_iff ..
    refine ⟨fun hi => ⟨fun p e he => ⟨fun hin => ⟨fun hg => ?first, fun g hg => ⟨fun hc => ?again, fun hc => ?held⟩⟩, fun hout => ?foreign⟩,
      fun he => ?noEntry, exec_cwait_noArrival hi, fun g hg => ⟨fun hc => exec_cwait_cleared hi hg ((hcleared g).mpr hc),
        fun hc => exec_cwait_waits hi hg (mt (hcleared g).mp hc)⟩⟩,
      fun hi => ⟨exec_ctest_noArrival hi, fun g hg => ⟨fun hc => ?one, fun hc => ?zero⟩⟩⟩
    case first => exact congrArg Host.Outcome.next (issue_retires hi (bodyCarr_first he hin hg))
    case again => exact congrArg Host.Outcome.next (issue_retires hi (bodyCarr_cleared he hin hg ((hcleared g).mpr hc)))
    case held => exact congrArg Host.Outcome.next (issue_waits hi (bodyCarr_waits he hin hg (mt (hcleared g).mp hc)))
    case foreign => exact congrArg Host.Outcome.next (issue_illegalBody hi (bodyCarr_notEnrolled he hout))
    case noEntry => exact congrArg Host.Outcome.next (issue_illegalBody hi (bodyCarr_noEntry he))
    case one =>
      have h := exec_ctest_reads hi hg
      rwa [if_pos ((hcleared g).mpr hc)] at h
    case zero =>
      have h := exec_ctest_reads hi hg
      rwa [if_neg (mt (hcleared g).mp hc)] at h
  case waited =>
    intro s core n ch g isCleared x hg
    have hcleared : clearedAt (getCore s core) ch g = true ↔ isCleared (getCore s core) ch g := clearedAt_iff ..
    exact ⟨fun hw => ⟨fun hc => exec_cwaitRetire_cleared hg hw (hcleared.mpr hc), fun hc => exec_cwaitRetire_open hg hw (mt hcleared.mp hc)⟩,
      fun p e hw he hin => ⟨fun hc => exec_carrAfterClear_cleared hg hw he hin (hcleared.mpr hc),
        fun hc => exec_carrAfterClear_open hg hw he hin (mt hcleared.mp hc)⟩⟩

end Sys2Proof.Machine
end

section
/-! PROOFS. What writes of a core's scratchpad set and leave alone. -/

namespace Sys2Proof.Machine

/-! ### Reading one field of a part that was changed elsewhere -/

theorem getClu_modClu_keeps {α : Type} (g : Cluster → α) {s : State} {c : Nat} {f : Cluster → Cluster} (hf : ∀ u, g (f u) = g u) (d : Nat) :
    g (getClu (modClu s c f) d) = g (getClu s d) := by
  by_cases h : d = c
  · subst h
    rw [modClu, getClu_setClu, hf]
  · rw [modClu, getClu, setClu_clusters, Tbl.get_put_ne _ _ _ _ _ h, getClu]

theorem getCore_modCore (s : State) (k : Nat) (f : Core → Core) : getCore (modCore s k f) k = f (getCore s k) := getCore_setCore ..

theorem getCore_modCore_other (s : State) {k j : Nat} (f : Core → Core) (h : j ≠ k) : getCore (modCore s k f) j = getCore s j :=
  getCore_setCore_other _ _ h

/-! ### What stays beside the bytes (R162, R166, R168) -/

/-- `t` is `s` but for memory, the Till and error marks of core `k`, and its cluster's counts of errors, as far as later proofs ask. -/
structure SpmOnly (k : Nat) (s t : State) : Prop where
  jobs : t.jobs = s.jobs
  tally : t.tally = s.tally
  ctxs : (getCore t k).ctxs = (getCore s k).ctxs
  cnts : (getCore t k).cnts = (getCore s k).cnts
  others : ∀ j, j ≠ k → getCore t j = getCore s j
  relaunch : ∀ c, (getClu t c).relaunch = (getClu s c).relaunch

namespace SpmOnly

variable {k : Nat} {s t u : State}

protected theorem refl (k : Nat) (s : State) : SpmOnly k s s := ⟨rfl, rfl, rfl, rfl, fun _ _ => rfl, fun _ => rfl⟩

protected theorem trans (h : SpmOnly k s t) (h' : SpmOnly k t u) : SpmOnly k s u where
  jobs := h'.jobs.trans h.jobs
  tally := h'.tally.trans h.tally
  ctxs := h'.ctxs.trans h.ctxs
  cnts := h'.cnts.trans h.cnts
  others := fun j hj => (h'.others j hj).trans (h.others j hj)
  relaunch := fun c => (h'.relaunch c).trans (h.relaunch c)

protected theorem foldl {α : Type} {f : State → α → State} (hf : ∀ s a, SpmOnly k s (f s a)) (l : List α) (s : State) :
    SpmOnly k s (l.foldl f s) := by
  induction l generalizing s with
  | nil => exact .refl k s
  | cons a l ih => exact (hf s a).trans (ih _)

theorem setMem (k : Nat) (s : State) (m : List Host.Cell) : SpmOnly k s { s with mem := m } :=
  ⟨rfl, rfl, rfl, rfl, fun _ _ => rfl, fun _ => rfl⟩

theorem modCore {f : Core → Core} (hx : (f (getCore s k)).ctxs = (getCore s k).ctxs) (hv : (f (getCore s k)).cnts = (getCore s k).cnts) :
    SpmOnly k s (modCore s k f) where
  jobs := rfl
  tally := rfl
  ctxs := by rw [getCore_modCore, hx]
  cnts := by rw [getCore_modCore, hv]
  others := fun _ hj => getCore_modCore_other _ _ hj
  relaunch := fun _ => rfl

theorem modClu {c : Nat} {f : Cluster → Cluster} (hf : ∀ u, (f u).relaunch = u.relaunch) : SpmOnly k s (modClu s c f) :=
  ⟨rfl, rfl, rfl, rfl, fun _ _ => rfl, getClu_modClu_keeps Cluster.relaunch hf⟩

theorem bankWord (k : Nat) (s : State) (w m v : Nat) : SpmOnly k s (bankWord s k w m v) := by
  unfold Machine.bankWord
  extract_lets put e
  have hput : SpmOnly k s (put s) := setMem ..
  have hcure : SpmOnly k s (Machine.modCore (put s) k (·.cure w)) := hput.trans (modCore rfl rfl)
  split
  · exact .refl k s
  · split
    · exact hcure
    · match e with
      | none => exact hput
      | some true => exact modClu fun _ => rfl
      | some false => exact hcure.trans (modClu fun _ => rfl)

theorem bankLine (k : Nat) (s : State) (l m v : Nat) : SpmOnly k s (bankLine s k l m v) := .foldl (fun _ _ => bankWord ..) _ _

theorem tillWrote_keeps (c : Core) (l m v : Nat) : (c.tillWrote l m v).ctxs = c.ctxs ∧ (c.tillWrote l m v).cnts = c.cnts := by
  unfold Core.tillWrote
  split
  · exact ⟨rfl, rfl⟩
  · split <;> exact ⟨rfl, rfl⟩

theorem spmWriteLine (k : Nat) (s : State) (l m v : Nat) : SpmOnly k s (spmWriteLine s k l m v) :=
  (bankLine k s l m v).trans (modCore (tillWrote_keeps ..).1 (tillWrote_keeps ..).2)

theorem spmWrite (k : Nat) (s : State) (a n v : Nat) : SpmOnly k s (spmWrite s k a n v) := by
  unfold Machine.spmWrite
  extract_lets first t
  have ht : SpmOnly k s t := spmWriteLine ..
  split
  · exact ht
  · exact ht.trans (spmWriteLine ..)

theorem loadBytes (k : Nat) (s : State) (a : Nat) (b : Bytes) : SpmOnly k s (loadBytes s k a b) := .foldl (fun _ _ => spmWrite ..) _ _

theorem reloadData (k : Nat) (s : State) (n : Nat) : SpmOnly k s (reloadData s k n) := by
  unfold Machine.reloadData
  split
  · exact .refl k s
  · extract_lets t
    have ht : SpmOnly k s t := loadBytes ..
    split
    · exact ht.trans (loadBytes ..)
    · exact ht

end SpmOnly

/-! ### Bytes of a whole line (R166, R168) -/

/-- Bytes written from `a` on: the last one last. -/
theorem Mem.writeN_succ (m : List Host.Cell) (a n v : Nat) :
    Mem.writeN m a (n + 1) v = Mem.write (Mem.writeN m a n v) (a + n) (BitVec.ofNat 8 (v / 256 ^ n)) := by
  induction n generalizing m a v with
  | zero => simp [Mem.writeN]
  | succ n ih =>
    rw [Mem.writeN, ih, Mem.writeN, Nat.div_div_eq_div_mul, ← Nat.pow_succ', Nat.add_assoc, Nat.add_comm 1 n]

/-- Bytes written one after another by a fold are `writeN`. -/
theorem foldl_write_eq_writeN (m : List Host.Cell) (a v n : Nat) :
    (List.range n).foldl (fun m i => Mem.write m (a + i) (BitVec.ofNat 8 (v >>> (8 * i)))) m = Mem.writeN m a n v := by
  induction n with
  | zero => rfl
  | succ n ih =>
    rw [List.range_succ, List.foldl_append, ih, List.foldl_cons, List.foldl_nil, Mem.writeN_succ, Nat.shiftRight_eq_div_pow, Nat.pow_mul]

theorem Mem.writeN_add (m : List Host.Cell) (a n p v : Nat) :
    Mem.writeN m a (n + p) v = Mem.writeN (Mem.writeN m a n v) (a + n) p (v / 256 ^ n) := by
  induction p with
  | zero => rfl
  | succ p ih => rw [← Nat.add_assoc, Mem.writeN_succ, ih, Mem.writeN_succ, Nat.div_div_eq_div_mul, ← Nat.pow_add, Nat.add_assoc]

/-- Only the bytes written count. -/
theorem Mem.writeN_mod (m : List Host.Cell) (a n v : Nat) : Mem.writeN m a n (v % 256 ^ n) = Mem.writeN m a n v := by
  induction n generalizing m a v with
  | zero => rfl
  | succ n ih =>
    have hbyte : BitVec.ofNat 8 (v % 256 ^ (n + 1)) = BitVec.ofNat 8 v := by
      apply BitVec.eq_of_toNat_eq
      rw [BitVec.toNat_ofNat, BitVec.toNat_ofNat, Nat.pow_succ']
      exact Nat.mod_mul_right_mod v 256 _
    have hrest : v % 256 ^ (n + 1) / 256 = v / 256 % 256 ^ n := by rw [Nat.pow_succ', Nat.mod_mul_right_div_self]
    rw [Mem.writeN, Mem.writeN, hbyte, hrest, ih]

/-- A word written whole. -/
theorem bankWord_full_mem (s : State) (k w v : Nat) : (bankWord s k w 255 v).mem = Mem.writeN s.mem (spmAddr k (8 * w)) 8 v := by
  have hput : (bankWord s k w 255 v).mem = (List.range 8).foldl (fun m i =>
      if (255 : Nat).testBit i then Mem.write m (spmAddr k (8 * w + i)) (BitVec.ofNat 8 (v >>> (8 * i))) else m) s.mem := rfl
  rw [hput, ← foldl_write_eq_writeN]
  rfl

theorem field_allOnes {j : Nat} (h : j < 8) : field (2 ^ 64 - 1) (8 * j) 8 = 255 := by
  revert j
  decide

/-- The first words of a line written whole. -/
theorem foldl_bankWord_full_mem (s : State) (k line v : Nat) {n : Nat} (h : n ≤ 8) :
    ((List.range n).foldl (fun s j => bankWord s k (8 * line + j) (field (2 ^ 64 - 1) (8 * j) 8) (field v (64 * j) 64)) s).mem =
      Mem.writeN s.mem (spmAddr k (64 * line)) (8 * n) v := by
  induction n with
  | zero => rfl
  | succ n ih =>
    have haddr : spmAddr k (8 * (8 * line + n)) = spmAddr k (64 * line) + 8 * n := by
      simp only [spmAddr]
      omega
    have hword : field v (64 * n) 64 = v / 256 ^ (8 * n) % 256 ^ 8 := by
      rw [field, Nat.shiftRight_eq_div_pow, show 64 * n = 8 * (8 * n) by omega, Nat.pow_mul,
        show 2 ^ 8 = 256 from rfl, show 2 ^ 64 = 256 ^ 8 from rfl]
    rw [List.range_succ, List.foldl_append, List.foldl_cons, List.foldl_nil, field_allOnes (by omega), bankWord_full_mem, ih (by omega),
      haddr, hword, Mem.writeN_mod, Nat.mul_succ, Mem.writeN_add]

/-- A line that arrives is in the bank (R166). -/
theorem spmArrive_mem (s : State) (k line : Nat) (v : Line) :
    (spmArrive s k line v).mem = Mem.writeN s.mem (spmAddr k (64 * line)) 64 v.toNat := by
  rw [spmArrive, spmWriteLine, modCore, setCore_mem, bankLine, foldl_bankWord_full_mem _ _ _ _ (Nat.le_refl 8)]

/-! ### The Till under a line written whole (R166) -/

/-- An entry rewritten in place is still the first that `f` picks. -/
theorem find_put_of_find {f : Nat × TillEntry → Bool} {t : Tbl TillEntry} {i : Nat} {e e' : TillEntry}
    (h : t.find? f = some (i, e)) (hf : f (i, e') = true) : (Tbl.put t i e').find? f = some (i, e') := by
  induction t with
  | nil => simp at h
  | cons p t ih =>
    obtain ⟨j, w⟩ := p
    unfold Tbl.put
    split
    · exact List.find?_cons_of_pos hf
    · split
      · exact List.find?_cons_of_pos hf
      · next hne =>
        by_cases hp : f (j, w) = true
        · rw [List.find?_cons_of_pos hp] at h
          exact absurd (congrArg Prod.fst (Option.some.inj h)).symm hne
        · rw [List.find?_cons_of_neg hp] at h ⊢
          exact ih h

/-- A line written whole has no dirty byte in the Till. -/
theorem dirtyOf_tillWrote_whole (c : Core) (line v : Nat) : ((c.tillWrote line (2 ^ 64 - 1) v).dirtyOf line).1 = 0 := by
  unfold Core.tillWrote
  cases h : c.tillOf line with
  | none => simp [Core.dirtyOf, h]
  | some p =>
    obtain ⟨i, e⟩ := p
    have hmatch := List.find?_some h
    have hnow : (c.setTill i { e with filled := true, dirty := 0, data := BitVec.ofNat 512 v }).tillOf line =
        some (i, { e with filled := true, dirty := 0, data := BitVec.ofNat 512 v }) := find_put_of_find h hmatch
    simp only [Nat.mod_eq_of_lt (show 2 ^ 64 - 1 < 2 ^ 64 by decide), if_true, Core.dirtyOf, hnow]
    rfl

/-- A byte of a line that the Till holds no dirty byte of is the bank's. -/
theorem spmByte_bank {s : State} {k line b : Nat} (hd : ((getCore s k).dirtyOf line).1 = 0) (hb : b < 64) :
    spmByte s k (64 * line + b) = (Mem.read s.mem (spmAddr k (64 * line + b))).toNat := by
  have hline : (64 * line + b) / 64 = line := by omega
  simp [spmByte, hline, hd]

end Sys2Proof.Machine
end

section
/-! PROOFS. Lines and counts that reach a counter: O24. -/

namespace Sys2Proof.Machine

/-! ### Counters -/

@[simp] theorem Core.cnt_setCnt (c : Core) (n : Nat) (v : Counter) : (c.setCnt n v).cnt n = v := Tbl.get_put_self ..

theorem Core.cnt_setCnt_other (c : Core) {n m : Nat} (v : Counter) (h : m ≠ n) : (c.setCnt n v).cnt m = c.cnt m := Tbl.get_put_ne _ _ _ _ _ h

theorem Core.cnt_of_cnts {c d : Core} (h : c.cnts = d.cnts) (n : Nat) : c.cnt n = d.cnt n := congrArg (Tbl.get · n Counter.reset) h

/-- LAST moves TOTAL and the status only (R96). -/
theorem Counter.last_keeps (v : Counter) (total : BitVec 16) :
    let w := v.last total
    w.count = v.count ∧ w.armed = v.armed ∧ w.deadline = v.deadline ∧ w.ueDram = v.ueDram ∧ w.ueSpm = v.ueSpm := by
  unfold Counter.last
  split
  · exact ⟨rfl, rfl, rfl, rfl, rfl⟩
  · split <;> exact ⟨rfl, rfl, rfl, rfl, rfl⟩

theorem Counter.last_first {v : Counter} {total : BitVec 16} (h : v.total = 0) : (v.last total).total = total ∧ (v.last total).status = v.status := by
  rw [Counter.last, if_pos h]
  exact ⟨rfl, rfl⟩

theorem Counter.last_again {v : Counter} {total : BitVec 16} (h : v.total ≠ 0) : (v.last total).total = v.total ∧
    (v.last total).status = if v.total = total then v.status else mergeStatus v.status stBadArgument := by
  rw [Counter.last, if_neg h]
  by_cases heq : v.total = total
  · rw [if_neg (not_not.mpr heq), if_pos heq]
    exact ⟨rfl, rfl⟩
  · rw [if_pos heq, if_neg heq]
    exact ⟨rfl, rfl⟩

/-- A counter that has counted a line with or without LAST (R94, R96). -/
def Counter.arrived (v : Counter) (last : Option (BitVec 16)) : Counter :=
  match last with | some t => (v.add 1).last t | none => v.add 1

theorem Counter.arrived_keeps (v : Counter) (last : Option (BitVec 16)) :
    let w := v.arrived last
    w.count = v.count + 1 ∧ w.armed = v.armed ∧ w.deadline = v.deadline ∧ w.ueDram = v.ueDram ∧ w.ueSpm = v.ueSpm := by
  cases last with
  | none => exact ⟨rfl, rfl, rfl, rfl, rfl⟩
  | some t => exact Counter.last_keeps (v.add 1) t

/-! ### A line at its core -/

/-- Marking a task as reached by another core's line touches launch states only (R409). -/
theorem markForeign_keeps (s : State) (k n : Nat) :
    (markForeign s k n).mem = s.mem ∧ (getCore (markForeign s k n) k).cnts = (getCore s k).cnts ∧
      (getCore (markForeign s k n) k).till = (getCore s k).till ∧ ∀ j, j ≠ k → getCore (markForeign s k n) j = getCore s j := by
  unfold markForeign
  extract_lets v
  split
  · refine ⟨rfl, ?_, ?_, fun j hj => getCore_modCore_other _ _ hj⟩ <;> simp [modCtx, setCtx, modCore, Core.setCtx]
  · exact ⟨rfl, rfl, rfl, fun _ _ => rfl⟩

theorem Core.dirtyOf_of_till {c d : Core} (h : c.till = d.till) (line : Nat) : c.dirtyOf line = d.dirtyOf line := by
  simp only [Core.dirtyOf, Core.tillOf, h]

section
variable {s : State} {k cnt line : Nat} {v : Line} {last : Option (BitVec 16)} {own : Bool}

/-- A line for a counter that counts: its bytes, its count, and nothing else of the counters and the other cores. -/
theorem arriveLine_counted {t : State} (hline : line < 768) (hd : ((getCore s k).cnt cnt).discard = false)
    (ht : arriveLine s k cnt line v last own = t) :
    (getCore t k).cnts = Tbl.put (getCore s k).cnts cnt (((getCore s k).cnt cnt).arrived last) ∧
      t.mem = Mem.writeN s.mem (spmAddr k (64 * line)) 64 v.toNat ∧ ((getCore t k).dirtyOf line).1 = 0 ∧
      ∀ j, j ≠ k → getCore t j = getCore s j := by
  unfold arriveLine at ht
  extract_lets s₁ s₂ s₃ at ht
  rw [if_neg (Nat.not_le.mpr hline), if_neg (Bool.eq_false_iff.mp hd)] at ht
  subst ht
  have h₂ : SpmOnly k s s₂ := (SpmOnly.modCore rfl rfl).trans (SpmOnly.spmWriteLine ..)
  have hmem₂ : s₂.mem = Mem.writeN s.mem (spmAddr k (64 * line)) 64 v.toNat := spmArrive_mem ..
  have hdirty₂ : ((getCore s₂ k).dirtyOf line).1 = 0 := by
    rw [show getCore s₂ k = _ from getCore_modCore ..]
    exact dirtyOf_tillWrote_whole ..
  have h₃ : s₃.mem = s₂.mem ∧ (getCore s₃ k).cnts = (getCore s₂ k).cnts ∧ (getCore s₃ k).till = (getCore s₂ k).till ∧
      ∀ j, j ≠ k → getCore s₃ j = getCore s₂ j := by
    unfold s₃
    split
    · exact ⟨rfl, rfl, rfl, fun _ _ => rfl⟩
    · exact markForeign_keeps ..
  obtain ⟨hmem₃, hcnts₃, htill₃, hothers₃⟩ := h₃
  have hcnts : (getCore s₃ k).cnts = (getCore s k).cnts := hcnts₃.trans h₂.cnts
  refine ⟨?_, hmem₃.trans hmem₂, ?_, fun j hj => ?_⟩
  · rw [getCore_modCore, Core.cnt_of_cnts hcnts]
    exact congrArg (Tbl.put · cnt _) hcnts
  · rw [getCore_modCore, ← hdirty₂]
    exact congrArg Prod.fst (Core.dirtyOf_of_till htill₃ line)
  · rw [getCore_modCore_other _ _ hj, hothers₃ j hj, h₂.others j hj]

/-- A line for a counter that discards is counted in DISARMED only (R98). -/
theorem arriveLine_discarded {t : State} (hline : line < 768) (hd : ((getCore s k).cnt cnt).discard = true)
    (ht : arriveLine s k cnt line v last own = t) :
    t.mem = s.mem ∧ (getCore t k).cnts = (getCore s k).cnts ∧ (getCore t k).till = (getCore s k).till ∧
      (getClu t (k / 64)).disarmed = satAdd (getClu s (k / 64)).disarmed 1 := by
  have hcore (u : State) : getCore (discardLine u k 1) k = getCore u k := rfl
  rw [arriveLine, if_neg (Nat.not_le.mpr hline), if_pos hd] at ht
  subst ht
  rw [hcore, getCore_modCore]
  refine ⟨rfl, rfl, rfl, ?_⟩
  rw [discardLine, modClu, show clusterOf k = k / 64 from rfl, getClu_setClu]
  rfl

end

/-! ### Counts without lines (R94, R213) -/

/-- A counter that lines without data have reached (R94). -/
def Counter.countedOnly (v : Counter) (n : Nat) (st : Status) : Counter :=
  if st = stEcc then { v.add n with ueDram := true } else if st = stOk then v.add n
  else { v.add n with status := mergeStatus v.status st }

/-- `t` is `s` with counter `cnt` of core `k` at `w`, and no memory, other counter or other core changed. -/
def CountedAt (s t : State) (k cnt : Nat) (w : Counter) : Prop :=
  (getCore t k).cnt cnt = w ∧ t.mem = s.mem ∧ (∀ m, m ≠ cnt → (getCore t k).cnt m = (getCore s k).cnt m) ∧ ∀ j, j ≠ k → getCore t j = getCore s j

/-- Lines counted at a core whose open transfers have been settled. -/
theorem countOnlyAt_counted {s : State} {k cnt n : Nat} {st : Status} {f : Core → Core} (hf : (f (getCore s k)).cnts = (getCore s k).cnts) :
    CountedAt s (countOnlyAt (modCore s k f) k cnt n st false) k cnt
      (if ((getCore s k).cnt cnt).discard then (getCore s k).cnt cnt else ((getCore s k).cnt cnt).countedOnly n st) := by
  have hcnt (m : Nat) : (getCore (modCore s k f) k).cnt m = (getCore s k).cnt m := by
    rw [getCore_modCore]
    exact Core.cnt_of_cnts hf m
  unfold countOnlyAt
  extract_lets c v v₁ v₂
  have hv : v = (getCore s k).cnt cnt := hcnt cnt
  have hv₂ : v₂ = v.countedOnly n st := by
    simp only [v₂, v₁, Counter.countedOnly, Bool.false_eq_true, if_false]
    rfl
  rw [hv₂, hv]
  split
  · exact ⟨hcnt cnt, rfl, fun m _ => hcnt m, fun j hj => getCore_modCore_other _ _ hj⟩
  · refine ⟨?_, rfl, fun m hm => ?_, fun j hj => ?_⟩
    · rw [getCore_setCore, Core.cnt_setCnt]
    · rw [getCore_setCore, Core.cnt_setCnt_other _ _ hm, hcnt]
    · rw [getCore_setCore_other _ _ hj, getCore_modCore_other _ _ hj]

theorem exec_commit_counts {s : State} {core : Nat} {p : CtrlPacket} (h : p.ctype = 4) :
    ∃ t, exec (.commit core p) s = .next t ∧ CountedAt s t core (p.body.toNat % 16)
      (let v := (getCore s core).cnt (p.body.toNat % 16)
       if v.discard then v else v.countedOnly (p.body.toNat / 16 % 1024) stOk) := by
  refine ⟨_, ?_, countOnlyAt_counted (f := (·.writeDone (p.body.toNat % 16) (p.body.toNat / 16 % 1024))) rfl⟩
  change execCommit core p s = _
  simp [execCommit, h, field, Nat.shiftRight_eq_div_pow]

theorem Core.countDone_cnts (c : Core) (cnt n : Nat) : (c.countDone cnt n).cnts = c.cnts := by
  unfold Core.countDone
  split <;> rfl

theorem exec_countOnly_counts {s : State} {core : Nat} {p : CtrlPacket} (h : p.ctype = 5) :
    ∃ t, exec (.countOnly core p) s = .next t ∧ CountedAt s t core (p.body.toNat % 16)
      (let v := (getCore s core).cnt (p.body.toNat % 16)
       if v.discard then v else v.countedOnly (p.body.toNat / 16 % 1024) (BitVec.ofNat 16 (p.body.toNat / 2 ^ 14))) := by
  refine ⟨_, ?_, countOnlyAt_counted (f := (·.countDone (p.body.toNat % 16) (p.body.toNat / 16 % 1024))) (Core.countDone_cnts ..)⟩
  have hst : BitVec.ofNat 16 (p.body.toNat / 2 ^ 14 % 2 ^ 16) = BitVec.ofNat 16 (p.body.toNat / 2 ^ 14) := by
    apply BitVec.eq_of_toNat_eq
    simp
  change execCountOnly core p s = _
  rw [← hst]
  simp [execCountOnly, h, field, Nat.shiftRight_eq_div_pow]

/-- Settles O24: a line's bytes are written as one line, its counter is put in place; the counts without lines put the counter only. -/
theorem linesCounted : Obligations.LinesCounted := by
  unfold Obligations.LinesCounted
  refine ⟨?line, ?count, ?note⟩
  case line =>
    intro s core p flag cnt line dx dy total v hhdr hline hwf
    have hexec : exec (.lineArrival core p) s = .next (arriveLine s core cnt.toNat line.toNat p.payload (if flag then some total else none)
        (ownLine s core cnt.toNat line.toNat none)) := by
      change execLineArrival core p s = _
      simp only [execLineArrival, hhdr, Bool.false_eq_true, if_false]
    refine ⟨fun hd => ⟨_, hexec, ?_⟩, fun hd => ⟨_, hexec, arriveLine_discarded hline hd rfl⟩⟩
    generalize ht : arriveLine .. = t
    obtain ⟨hcnts, hmem, hdirty, hothers⟩ := arriveLine_counted hline hd ht
    have hcnt : (getCore t core).cnt cnt.toNat = v.arrived (if flag then some total else none) := by
      rw [Core.cnt, hcnts, Tbl.get_put_self]
    have hread (a : Nat) : Mem.read t.mem a = if spmAddr core (64 * line.toNat) ≤ a ∧ a < spmAddr core (64 * line.toNat) + 64
        then BitVec.ofNat 8 (p.payload.toNat / 256 ^ (a - spmAddr core (64 * line.toNat))) else Mem.read s.mem a := by
      rw [hmem, Mem.read_writeN _ _ _ _ _ hwf]
    obtain ⟨hcount, harmed, hdeadline, hdram, hspm⟩ := v.arrived_keeps (if flag then some total else none)
    refine ⟨?counter, fun b hb => ?bytes, fun a ha => ?memory, fun n hn => ?others, hothers⟩
    case counter =>
      intro w
      have hw : w = v.arrived (if flag then some total else none) := hcnt
      rw [hw]
      refine ⟨hcount, harmed, hdeadline, hdram, hspm, fun h => ?_, fun h h0 => ?_, fun h h0 => ?_⟩
      · subst h
        exact ⟨rfl, rfl⟩
      · subst h
        exact Counter.last_first (v := v.add 1) h0
      · subst h
        exact Counter.last_again (v := v.add 1) h0
    case bytes =>
      have haddr : spmAddr core (64 * line.toNat + b) = spmAddr core (64 * line.toNat) + b := by
        simp only [spmAddr]
        omega
      rw [spmByte_bank hdirty hb, hread, haddr, if_pos (by omega), Nat.add_sub_cancel_left, BitVec.toNat_ofNat]
    case memory =>
      have hout : ¬ (spmAddr core (64 * line.toNat) ≤ a ∧ a < spmAddr core (64 * line.toNat) + 64) := fun ⟨hlow, hhigh⟩ =>
        ha (a - spmAddr core (64 * line.toNat)) (by omega) (by simp only [spmAddr] at hlow ⊢; omega)
      rw [hread, if_neg hout]
    case others => rw [Core.cnt, hcnts, Tbl.get_put_ne _ _ _ _ _ hn, Core.cnt]
  case count =>
    intro s core p cnt n st v counted more
    have hcommit {w : Counter} (hw : (if v.discard then v else v.countedOnly n stOk) = w) (h : p.ctype = 4) : counted (.commit core p) w :=
      hw ▸ exec_commit_counts h
    have hcountOnly {w : Counter} (hw : (if v.discard then v else v.countedOnly n st) = w) (h : p.ctype = 5) :
        counted (.countOnly core p) w := hw ▸ exec_countOnly_counts h
    refine ⟨fun hd => ⟨hcommit ?_, fun h hok => hcountOnly ?_ h, fun h hecc => hcountOnly ?_ h, fun h hok hecc => hcountOnly ?_ h⟩,
      fun hd => ⟨hcommit (if_pos hd), hcountOnly (if_pos hd)⟩⟩
    · rw [if_neg (Bool.eq_false_iff.mp hd)]
      rfl
    · rw [if_neg (Bool.eq_false_iff.mp hd), hok]
      rfl
    · rw [if_neg (Bool.eq_false_iff.mp hd), hecc]
      rfl
    · rw [if_neg (Bool.eq_false_iff.mp hd), Counter.countedOnly, if_neg hecc, if_neg hok]
      rfl
  case note =>
    intro s core p cnt line dr dc u0 u1 v0 v1 m v total hhdr hd
    have hlast : v.last total = if v.total = 0 then { v with total := total }
        else if v.total = total then v else { v with status := mergeStatus v.status stBadArgument } := by
      rw [Counter.last, ite_not]
    have hnote : (true && !v.discard) = true := by simp [hd]
    rw [← hlast]
    change execNote core p s = _
    simp only [execNote, hhdr]
    rw [if_pos hnote]

end Sys2Proof.Machine
end

section
/-! PROOFS. Aborts, watchdogs and relaunches of tasks: O29. -/

namespace Sys2Proof.Machine

/-! ### A task relaunched, or its end told (R409) -/

/-- Is a transfer open whose counter the context owns? -/
def TransferOpen (s : State) (k n : Nat) : Prop :=
  ∃ w, w ∈ (getCore s k).reads ++ (getCore s k).writes ∧ ((getCore s k).cnt w.cnt).owner = n

/-- The context as its launch set it, with what outlives a relaunch. -/
def Ctx.relaunched (x : Ctx) (l : Launch) (at_ : Word) : Ctx :=
  { Ctx.reset with
    state := .ready, lastStatus := x.lastStatus, pc := l.entry, regs := [(1, 0xBF00), (2, x.task.setWidth 64)], task := x.task
    codeStart := x.codeStart, codeLen := x.codeLen, bb := x.bb, loader := x.loader, wdStart := at_
    launch := some { l with madeCarr := false, foreign := false, relaunched := true, window := none } }

/-- The state with the task launched again. -/
def relaunchedTask (s : State) (k n : Nat) (l : Launch) : State :=
  let t := modClu (reloadData s k n) (clusterOf k) fun u => { u with relaunch := satAdd u.relaunch 1 }
  setCtx (modCore t k (·.freshFor n)) k n ((getCtx s k n).relaunched l t.tally)

/-- The state with the held-back end told to the hub. -/
def heldEndTold (s : State) (k n : Nat) (l : Launch) (st : Status) : State :=
  let x := getCtx s k n
  coreToHub (modCtx (tellFiring s k n x) k n fun x => { x with launch := some { l with window := none }, fired := none }) k 0x0D
    (x.task.toNat + 2 ^ 16 * st.toNat + 2 ^ 32 * n)

section
variable {s : State} {k n : Nat} {l : Launch} {t : Word} {st : Status}

theorem transferOpen_iff : (((getCore s k).reads ++ (getCore s k).writes).any fun w => ((getCore s k).cnt w.cnt).owner = n) = true ↔
    TransferOpen s k n := by
  simp only [List.any_eq_true, decide_eq_true_eq, TransferOpen]

theorem exec_relaunchWindowEnd_early (hl : (getCtx s k n).launch = some l) (hwin : l.window = some (t, st))
    (h : now s < t.toNat + 30000) : exec (.compatibleRelaunchWindowEnd k n) s = .next s := by
  change execCompatibleRelaunchWindowEnd k n s = _
  simp [execCompatibleRelaunchWindowEnd, hl, hwin, h]

theorem exec_relaunchWindowEnd_due (hl : (getCtx s k n).launch = some l) (hwin : l.window = some (t, st))
    (hstop : (getCtx s k n).state = .stopped) (h : t.toNat + 30000 ≤ now s) :
    exec (.compatibleRelaunchWindowEnd k n) s =
      .next (if (((getCore s k).reads ++ (getCore s k).writes).any fun w => ((getCore s k).cnt w.cnt).owner = n) || !compatNow s k
        then heldEndTold s k n l st else relaunchedTask s k n l) := by
  have hgo : ¬ (now s < t.toNat + 30000 || (getCtx s k n).state ≠ .stopped) = true := by simp [hstop, h]
  change execCompatibleRelaunchWindowEnd k n s = _
  simp only [execCompatibleRelaunchWindowEnd, hl, hwin, if_neg hgo]
  rfl

theorem exec_relaunchWindowEnd_relaunches (hl : (getCtx s k n).launch = some l) (hwin : l.window = some (t, st))
    (hstop : (getCtx s k n).state = .stopped) (h : t.toNat + 30000 ≤ now s) (hopen : ¬ TransferOpen s k n) (hcompat : compatNow s k = true) :
    exec (.compatibleRelaunchWindowEnd k n) s = .next (relaunchedTask s k n l) := by
  rw [exec_relaunchWindowEnd_due hl hwin hstop h, if_neg]
  simpa [hcompat, Bool.eq_false_iff] using mt transferOpen_iff.mp hopen

theorem exec_relaunchWindowEnd_tells (hl : (getCtx s k n).launch = some l) (hwin : l.window = some (t, st))
    (hstop : (getCtx s k n).state = .stopped) (h : t.toNat + 30000 ≤ now s) (hkept : TransferOpen s k n ∨ compatNow s k = false) :
    exec (.compatibleRelaunchWindowEnd k n) s = .next (heldEndTold s k n l st) := by
  rw [exec_relaunchWindowEnd_due hl hwin hstop h, if_pos]
  rw [Bool.or_eq_true, transferOpen_iff, Bool.not_eq_true']
  exact hkept

theorem tellFiring_none {x : Ctx} (h : x.fired = none) : tellFiring s k n x = s := by simp [tellFiring, h]

theorem tellFiring_unsent {x : Ctx} {f : Firing} (h : x.fired = some f) (hsent : f.sent = false) :
    tellFiring s k n x = sendWatchdog s k n 0 false f.state.toNat x.task f.at_ := by simp [tellFiring, h, hsent]

theorem Core.freshFor_ctxs (c : Core) (n : Nat) : (c.freshFor n).ctxs = c.ctxs := by simp [Core.freshFor]

/-- What a relaunch changes: the context, the cluster's count, and the scratchpad that the image fills. -/
theorem relaunchedTask_parts :
    getCtx (relaunchedTask s k n l) k n = (getCtx s k n).relaunched l s.tally ∧
    (getClu (relaunchedTask s k n l) (k / 64)).relaunch = satAdd (getClu s (k / 64)).relaunch 1 ∧
    (∀ m, m ≠ n → getCtx (relaunchedTask s k n l) k m = getCtx s k m) ∧ (relaunchedTask s k n l).mem = (reloadData s k n).mem ∧
    (relaunchedTask s k n l).jobs = s.jobs := by
  have h : SpmOnly k s (reloadData s k n) := .reloadData ..
  refine ⟨?_, ?_, fun m hm => ?_, rfl, h.jobs⟩
  · rw [relaunchedTask, getCtx_setCtx]
    exact congrArg _ h.tally
  · rw [← h.relaunch]
    exact congrArg Cluster.relaunch (getClu_setClu ..)
  · simp only [relaunchedTask, getCtx, setCtx, getCore_modCore]
    rw [Core.ctx_setCtx_other _ _ hm, Core.ctx, Core.freshFor_ctxs]
    exact congrArg (Tbl.get · m Ctx.reset) h.ctxs

end

/-! ### Aborts (R54, R105, R123, R408) -/

/-- The context of a core whose running task has the number. -/
def taskCtx (s : State) (k : Nat) (task : BitVec 16) : Option Nat :=
  (List.range 4).find? fun n => (getCtx s k n).state.running && (getCtx s k n).task = task

/-- An abort pending at a context. -/
def abortPending (s : State) (k n : Nat) (a : AbortReq) : State := modCtx s k n fun x => { x with aborts := x.aborts ++ [a] }

section
variable {s : State} {core n : Nat} {p : CtrlPacket}

theorem exec_abortPacket_unknown (hp : p.ctype = 8) (h : taskCtx s core (p.body.setWidth 16) = none) :
    exec (.abortPacket core p) s = .next (abortAnswer s core 0 (p.body.setWidth 16) stAlreadyDone { sx := p.sx, sy := p.sy }) := by
  rw [taskCtx] at h
  change execAbortPacket core p s = _
  simp only [execAbortPacket, hp, h, ne_eq, not_true, if_false]

theorem exec_abortPacket_found (hp : p.ctype = 8) (h : taskCtx s core (p.body.setWidth 16) = some n) :
    exec (.abortPacket core p) s = .next (
      if (getCtx s core n).state = .ready then abortPending s core n { sx := p.sx, sy := p.sy }
      else endWait s (abortPending s core n { sx := p.sx, sy := p.sy }) core n) := by
  rw [taskCtx] at h
  change execAbortPacket core p s = _
  simp only [execAbortPacket, hp, h, ne_eq, not_true, if_false]
  rfl

/-- An abort ends the task of a context that has nothing else due. -/
theorem retirePoint_abortPending {a : AbortReq} (t : State) (hdue : (getCtx s core n).endDue = false) :
    retirePoint (abortPending s core n a) core n [] t = endTask (abortPending s core n a) core n stAborted [] := by
  obtain ⟨hpend, hfired, _, _⟩ := Ctx.endDue_false hdue
  simp [retirePoint, abortPending, modCtx, hpend, hfired, worstFault]

theorem exec_abortAns_hub {a : Nat × BitVec 16} (hp : p.ctype = 9) (ha : a = (coreAt p.sx.toNat p.sy.toNat, p.body.setWidth 16))
    (hhub : atHub s p.dx.toNat p.dy.toNat = true) (hj : ∃ j ∈ s.jobs, a ∈ j.2.aborts) :
    exec (.abortAns p) s = .next { s with jobs := Tbl.map s.jobs fun _ x => { x with aborts := x.aborts.erase a } } := by
  subst ha
  have hany : (s.jobs.any fun j => j.2.aborts.contains (coreAt p.sx.toNat p.sy.toNat, p.body.setWidth 16)) = true := by
    simpa only [List.any_eq_true, List.contains_iff_mem] using hj
  change execAbortAns p s = _
  simp only [execAbortAns, hp, hhub, hany, ne_eq, not_true, Bool.and_self, if_false, if_true]

theorem exec_abortAns_counted {a : Nat × BitVec 16} (hp : p.ctype = 9) (ha : a = (coreAt p.sx.toNat p.sy.toNat, p.body.setWidth 16))
    (hother : ¬ (atHub s p.dx.toNat p.dy.toNat = true ∧ ∃ j ∈ s.jobs, a ∈ j.2.aborts)) :
    exec (.abortAns p) s = .next (modClu s (coreAt p.dx.toNat p.dy.toNat / 64) fun u =>
      if p.body.toNat / 2 ^ 16 % 2 ^ 16 = 0x0601 then { u with ansAborted := satAdd u.ansAborted 1 }
      else { u with ansDone := satAdd u.ansDone 1 }) := by
  subst ha
  have hnot : ¬ (atHub s p.dx.toNat p.dy.toNat &&
      s.jobs.any fun j => j.2.aborts.contains (coreAt p.sx.toNat p.sy.toNat, p.body.setWidth 16)) = true := by
    simpa only [Bool.and_eq_true, List.any_eq_true, List.contains_iff_mem] using hother
  have hstatus : field p.body.toNat 16 16 = stAborted.toNat ↔ p.body.toNat / 2 ^ 16 % 2 ^ 16 = 0x0601 := by
    rw [field, Nat.shiftRight_eq_div_pow]
    rfl
  change execAbortAns p s = _
  simp only [execAbortAns, hp, if_neg hnot, hstatus, ne_eq, not_true, if_false]
  split <;> rfl

end

/-! ### The watchdog of a context (R389, R392) -/

/-- The state with the firing of a context's watchdog told and noted. -/
def ctxFired (s : State) (k n : Nat) : State :=
  let x := getCtx s k n
  modCtx (sendWatchdog (modClu s (k / 64) fun u => { u with ctxWdog := satAdd u.ctxWdog 1 }) k n 0 false x.state.code x.task s.tally) k n
    fun x => { x with fired := some { state := BitVec.ofNat 3 (getCtx s k n).state.code, at_ := s.tally, sent := true } }

section
variable {s : State} {core n : Nat}

theorem exec_contextWatchdogExpiry_early (h : now s < (getCtx s core n).wdStart.toNat + 2000000) :
    exec (.contextWatchdogExpiry core n) s = .next s := by
  change execContextWatchdogExpiry core n s = _
  simp [execContextWatchdogExpiry, h]

theorem exec_contextWatchdogExpiry_fires (hdue : (getCtx s core n).endDue = false)
    (hrel : relaunchable s core (getCtx s core n) stCtxWatchdog = false) (hwatched : (getCtx s core n).watched = true)
    (hlate : (getCtx s core n).wdStart.toNat + 2000000 ≤ now s) :
    exec (.contextWatchdogExpiry core n) s = .next (
      if (getCtx s core n).state = .ready then ctxFired s core n
      else endTask (ctxFired s core n) core n stCtxWatchdog []) := by
  obtain ⟨hpend, hfired, _, _⟩ := Ctx.endDue_false hdue
  have hgo : ¬ (!(getCtx s core n).watched || (getCtx s core n).fired.isSome || decide (now s < (getCtx s core n).wdStart.toNat + 2000000)) = true := by
    simp [hwatched, hfired, hlate]
  have hretire : retirePoint (ctxFired s core n) core n [] (ctxFired s core n) = endTask (ctxFired s core n) core n stCtxWatchdog [] := by
    have hctx : getCtx (ctxFired s core n) core n = { getCtx s core n with
        fired := some { state := BitVec.ofNat 3 (getCtx s core n).state.code, at_ := s.tally, sent := true } } := getCtx_setCtx ..
    simp [retirePoint, hctx, hpend, worstFault]
  rw [← hretire]
  change execContextWatchdogExpiry core n s = _
  simp only [execContextWatchdogExpiry, if_neg hgo, hrel, Bool.not_false, if_true]
  rfl

end

/-! ### The watchdog of an engine (R390) -/

section
variable {s : State} {k n : Nat}

theorem getCore_endTaskWith_self {keep : Bool} {st : Status} {fs : List FaultRec} (hfence : (getCtx s k n).fenceDue = false) :
    getCore (endTaskWith keep s k n st fs) k = ((getCore s k).endedWith keep n st).setCtx n
      ((getCtx s k n).endedAt (relaunchable s k (getCtx s k n) st) st fs s.tally) := by
  rw [getCore, endTaskWith_cores hfence, Tbl.get_put_self]

theorem Core.removeOps_hung (c : Core) (n e : Nat) : ((c.removeOps n).eng e).hung = (c.eng e).hung := by
  simp only [Core.eng, Core.removeOps, Core.dropOps, Tbl.get, Tbl.find_map]
  cases Tbl.find c.engines e <;> rfl

theorem Core.clearSets_engines (c : Core) (n : Nat) : (c.clearSets n).engines = c.engines := by
  simp [Core.clearSets, Core.setAcc]

/-- The end of a task leaves a hung engine hung. -/
theorem Core.endedWith_hung (keep : Bool) (c : Core) (n e : Nat) (st : Status) : ((c.endedWith keep n st).eng e).hung = (c.eng e).hung := by
  unfold Core.endedWith
  extract_lets c₁ c₂ c₃
  have h₂ : (c₂.eng e).hung = (c.eng e).hung := by
    unfold c₂
    split
    · rfl
    · exact Core.removeOps_hung ..
  have h₃ : c₃.engines = c₂.engines := by
    unfold c₃
    split
    · exact Core.clearSets_engines ..
    · rfl
  rw [← h₂]
  simp only [Core.eng, h₃]

/-- A context that an engine's hang ends, if a task runs on it. -/
def endHung (k : Nat) (s : State) (n : Nat) : State := if (getCtx s k n).state.running then endTask s k n stEngineHang [] else s

theorem endHung_other {m : Nat} (hfence : (getCtx s k n).fenceDue = false) (hm : m ≠ n) : getCtx (endHung k s n) k m = getCtx s k m := by
  unfold endHung
  split
  · exact getCtx_endTaskWith_other hfence hm
  · rfl

theorem endHung_self (hfence : (getCtx s k n).fenceDue = false) (hrun : (getCtx s k n).state.running = true) :
    (getCtx (endHung k s n) k n).state = .stopped ∧ (getCtx (endHung k s n) k n).lastStatus = stEngineHang := by
  rw [endHung, if_pos hrun, endTask, getCtx_endTaskWith_self hfence]
  exact ⟨rfl, rfl⟩

theorem endHung_hung (e : Nat) (hfence : (getCtx s k n).fenceDue = false) :
    ((getCore (endHung k s n) k).eng e).hung = ((getCore s k).eng e).hung := by
  unfold endHung
  split
  · rw [endTask, getCore_endTaskWith_self hfence]
    exact Core.endedWith_hung ..
  · rfl

/-- Several contexts, each at most once and none with a fence: those that run are stopped, the rest of the core's contexts and its hung
engines stay. -/
theorem foldl_endHung (e : Nat) {l : List Nat} (hl : l.Nodup) (hfence : ∀ n ∈ l, (getCtx s k n).fenceDue = false) :
    let t := l.foldl (endHung k) s
    ((getCore t k).eng e).hung = ((getCore s k).eng e).hung ∧
      (∀ n ∈ l, (getCtx s k n).state.running = true → (getCtx t k n).state = .stopped ∧ (getCtx t k n).lastStatus = stEngineHang) ∧
      ∀ n, n ∉ l → getCtx t k n = getCtx s k n := by
  induction l generalizing s with
  | nil => exact ⟨rfl, by simp, fun _ _ => rfl⟩
  | cons m l ih =>
    obtain ⟨hml, hl⟩ := List.nodup_cons.mp hl
    have hm := hfence m List.mem_cons_self
    have hstay {n : Nat} (hn : n ∈ l) : getCtx (endHung k s m) k n = getCtx s k n := endHung_other hm (fun h => hml (h ▸ hn))
    obtain ⟨hhung, hended, hothers⟩ := ih (s := endHung k s m) hl fun n hn => by
      rw [hstay hn]
      exact hfence n (List.mem_cons_of_mem _ hn)
    refine ⟨hhung.trans (endHung_hung e hm), fun n hn hrun => ?_, fun n hn => ?_⟩
    · rcases List.mem_cons.mp hn with rfl | hn
      · rw [List.foldl_cons, hothers n hml]
        exact endHung_self hm hrun
      · exact hended n hn ((hstay hn).symm ▸ hrun)
    · exact (hothers n (List.not_mem_of_not_mem_cons hn)).trans (endHung_other hm (List.ne_of_not_mem_cons hn))

end

theorem contexts_getLsbD (l : List EngOp) (b : BitVec 4) {n : Nat} (hn : n < 4) :
    (l.foldl (fun b o => b ||| BitVec.ofNat 4 (2 ^ o.ctx)) b).getLsbD n = (b.getLsbD n || l.any fun o => o.ctx = n) := by
  induction l generalizing b with
  | nil => simp
  | cons o l ih =>
    rw [List.foldl_cons, ih, BitVec.getLsbD_or, BitVec.getLsbD_ofNat, Nat.testBit_two_pow, List.any_cons, Bool.or_assoc]
    simp [hn]

/-- The suspects of an engine are the contexts with an operation in its queue. -/
theorem mem_suspects {g : Engine} {n : Nat} : n ∈ bitsOf 4 g.contexts.toNat ↔ n < 4 ∧ ∃ q ∈ g.live, q.ctx = n := by
  rw [bitsOf, List.mem_filter, List.mem_range]
  refine and_congr_right fun hn => ?_
  have h := contexts_getLsbD g.live 0 hn
  rw [show (0 : BitVec 4).getLsbD n = false from BitVec.getLsbD_zero, Bool.false_or] at h
  change g.contexts.getLsbD n = true ↔ _
  rw [Engine.contexts, h]
  simp

/-- The core with an engine's hang, its suspects and its first operation noted. -/
def Core.hungAt (c : Core) (e : Nat) (o : EngOp) : Core :=
  let g := c.eng e
  let sus := g.contexts
  { (c.setEng e { g with hung := true }) with
    suspects := Tbl.put c.suspects e sus
    hang := { eng := BitVec.ofNat 2 e, ctx := BitVec.ofNat 2 o.ctx
              guilty := c.serial.getLsbD e && decide (sus = BitVec.ofNat 4 (2 ^ o.ctx)), task := o.task, opword := o.word } }

/-- The state with an engine's hang noted and told, before its suspects end. -/
def engineHung (s : State) (k e : Nat) (o : EngOp) : State :=
  let t := setCore s k ((getCore s k).hungAt e o)
  let t := modClu t (clusterOf k) fun u => { u with engWdog := satAdd u.engWdog 1 }
  sendWatchdog t k o.ctx e true (getCtx t k o.ctx).state.code o.task t.tally

theorem getCore_engineHung (s : State) (k e : Nat) (o : EngOp) : getCore (engineHung s k e o) k = (getCore s k).hungAt e o := by
  change getCore (setCore s k _) k = _
  exact getCore_setCore ..

theorem getCtx_engineHung (s : State) (k e : Nat) (o : EngOp) (n : Nat) : getCtx (engineHung s k e o) k n = getCtx s k n := by
  simp only [getCtx, Core.ctx, getCore_engineHung]
  rfl

theorem engineHung_hung (s : State) (k e : Nat) (o : EngOp) : ((getCore (engineHung s k e o) k).eng e).hung = true := by
  rw [getCore_engineHung, Core.eng, Core.hungAt, Core.setEng, Tbl.get_put_self]

theorem exec_engineWatchdogExpiry_hangs {s : State} {core e : Nat} {o : EngOp} {r : List EngOp}
    (hlive : ((getCore s core).eng e).live = o :: r) (hhung : ((getCore s core).eng e).hung = false)
    (hlate : ((getCore s core).eng e).wdStart.toNat + 250000 ≤ now s) :
    exec (.engineWatchdogExpiry core e) s =
      .next ((bitsOf 4 ((getCore s core).eng e).contexts.toNat).foldl (endHung core) (engineHung s core e o)) := by
  have hgo : ¬ (((getCore s core).eng e).hung || decide (now s < ((getCore s core).eng e).wdStart.toNat + 250000)) = true := by
    simp [hhung, hlate]
  change execEngineWatchdogExpiry core e s = _
  simp only [execEngineWatchdogExpiry, hlive, if_neg hgo]
  rfl

/-! ### What the hub does (R393, R396, R402) -/

section
variable {s : State} {p : CtrlPacket} {q : Nat}

theorem exec_watchdog_context {core ctx : Nat} (hp : p.ctype = 0x0A) (heng : p.body.getLsbD 4 = false)
    (hcore : coreAt p.sx.toNat p.sy.toNat / 64 * 64 + field p.body.toNat 5 6 = core) (hctx : field p.body.toNat 0 2 = ctx)
    (hq : partOfCore s core = some q) (hfirst : (getCore s core).wdCtx.getLsbD ctx = false) :
    exec (.watchdog p) s = .next (withReports s (modCore (fenceFor (faultEvent (reportStep s (jobOfPart s q) 1 true) 0 q stCtxWatchdog 1 [])
      (jobOfPart s q) (core / 64) 0 (2 ^ ctx) 0 (core % 64)) core fun c => { c with wdCtx := c.wdCtx ||| BitVec.ofNat 4 (2 ^ ctx) })) := by
  have heng : p.body.toNat.testBit 4 = false := heng
  change execWatchdog p s = _
  simp only [execWatchdog, hp, clusterOf, posOf, hcore, hctx, hq, heng, hfirst, ne_eq, not_true, if_false, Bool.false_eq_true, report]

theorem exec_taskEnd_fault {core : Nat} {m : PartMap} (hp : p.ctype = 0x0D) (hcore : coreAt p.sx.toNat p.sy.toNat = core)
    (hq : partOfCore s core = some q) (hm : (getPart s q).map = some m) (hbb : m.bb = false)
    (htask : (getCtx s core (field p.body.toNat 32 2)).task.toNat = field p.body.toNat 0 16)
    (hidle : (getCtx s core (field p.body.toNat 32 2)).state.running = false) (hsteps : (getJob s (jobOfPart s q)).steps ≠ [])
    (hst : field p.body.toNat 16 16 ≠ 0x0403) :
    exec (.taskEnd p) s =
      .next (withReports s (modCore (reportStep s (jobOfPart s q) 1 false) core fun c => { c with ueLines := [] })) := by
  have hst : ¬ field p.body.toNat 16 16 = stEcc.toNat := hst
  change execTaskEnd p s = _
  simp only [execTaskEnd, hp, hcore, hq, hm, hbb, htask, hidle, List.isEmpty_eq_false_iff.mpr hsteps, hst, Option.any_some, decide_false, ne_eq,
    not_true, if_false, Bool.false_eq_true, Bool.or_self, Bool.false_and, report]

end

/-- A retire point that finds no fault: a watchdog that has fired ends the task, else a fence or an abort does (R54, R389). -/
theorem retirePoint_noFault {s t : State} {k n : Nat} {fs : List FaultRec} (h : worstFault ((getCtx s k n).pend ++ fs) = none) :
    retirePoint s k n fs t =
      if (getCtx s k n).fired.isSome then endTask s k n stCtxWatchdog []
      else if (getCtx s k n).fenceDue || !(getCtx s k n).aborts.isEmpty then endTask s k n stAborted [] else t := by
  simp only [retirePoint, h]

/-- Settles O29: each event finds its context, engine or report as the hypotheses say, and does what R54 ranks. -/
theorem tasksStopped : Obligations.TasksStopped := by
  unfold Obligations.TasksStopped
  refine ⟨?relaunch, ?abort, ?answer, ?context, ?retire, ?engine, ?watchdog, ?taskEnd⟩
  case relaunch =>
    intro s core n l t st x c open_ hl hwin hstop
    refine ⟨exec_relaunchWindowEnd_early hl hwin, fun h hopen hcompat =>
      ⟨_, exec_relaunchWindowEnd_relaunches hl hwin hstop h hopen hcompat, ?_⟩, fun h hkept => ?_⟩
    · obtain ⟨hctx, hclu, hothers, hmem, hjobs⟩ := relaunchedTask_parts (s := s) (k := core) (n := n) (l := l)
      refine ⟨?_, hclu, hothers, hmem, hjobs⟩
      rw [hctx]
      exact ⟨rfl, rfl, rfl, rfl, rfl, rfl, rfl, rfl, rfl⟩
    · have htold := exec_relaunchWindowEnd_tells hl hwin hstop h hkept
      rw [heldEndTold] at htold
      exact ⟨fun hf => by rwa [tellFiring_none hf] at htold, fun f hf hsent => by rwa [tellFiring_unsent hf hsent] at htold⟩
  case abort =>
    intro s core p hp task a runs
    refine ⟨exec_abortPacket_unknown hp, fun n hn => ?_⟩
    have hexec := exec_abortPacket_found hp hn
    refine ⟨fun hready => by rwa [if_pos hready] at hexec, fun hready hdue => ?_⟩
    rw [if_neg hready, endWait] at hexec
    refine ⟨fun hnone => ?_, fun fs hfs => ?_⟩
    · rw [hnone] at hexec
      exact hexec.trans (congrArg _ (retirePoint_abortPending _ hdue))
    · rw [hfs] at hexec
      exact hexec
  case answer =>
    intro s p hp cl a hubs
    refine ⟨fun ⟨hhub, hj⟩ => exec_abortAns_hub hp rfl hhub hj, fun hother hst => ?_, fun hother hst => ?_⟩
    · have h := exec_abortAns_counted hp rfl hother
      simpa only [hst, if_true] using h
    · have h := exec_abortAns_counted hp rfl hother
      simpa only [hst, if_false] using h
  case context =>
    intro s core n x f t hdue hrel hwatched
    refine ⟨exec_contextWatchdogExpiry_early, fun hlate => ⟨fun hready => ?_, fun hready => ?_⟩⟩
    · exact (exec_contextWatchdogExpiry_fires hdue hrel hwatched hlate).trans (congrArg _ (if_pos hready))
    · exact (exec_contextWatchdogExpiry_fires hdue hrel hwatched hlate).trans (congrArg _ (if_neg hready))
  case retire =>
    intro s t core n fs x
    refine ⟨fun hnone hfired => ?_, fun hnone hfired hdue => ?_⟩
    · rw [retirePoint_noFault hnone, if_pos hfired]
    · have hdue : (x.fenceDue || !x.aborts.isEmpty) = true := by simpa using hdue
      rw [retirePoint_noFault hnone, if_neg (by rw [hfired]; exact Bool.false_ne_true), if_pos hdue]
  case engine =>
    intro s core e o r g hlive hhung hlate hfence
    have hsus {n : Nat} : n ∈ bitsOf 4 g.contexts.toNat ↔ n < 4 ∧ ∃ q ∈ o :: r, q.ctx = n := hlive ▸ mem_suspects
    obtain ⟨hhung', hended, hothers⟩ := foldl_endHung (s := engineHung s core e o) (k := core) e (List.nodup_range.filter _)
      (l := bitsOf 4 g.contexts.toNat) fun n hn => by
        rw [getCtx_engineHung]
        exact hfence n (hsus.mp hn).1 (hsus.mp hn).2
    refine ⟨_, exec_engineWatchdogExpiry_hangs hlive hhung hlate, hhung'.trans (engineHung_hung ..), fun n hn hq hrun => ?_, fun n hn hq => ?_⟩
    · exact hended n (hsus.mpr ⟨hn, hq⟩) (by rwa [getCtx_engineHung])
    · rw [hothers n fun hmem => ?_, getCtx_engineHung]
      obtain ⟨_, q, hmem, hctx⟩ := hsus.mp hmem
      exact hq q hmem hctx
  case watchdog =>
    intro s p q hp heng core ctx hq hfirst
    exact exec_watchdog_context hp heng rfl rfl hq hfirst
  case taskEnd =>
    intro s p q m hp core x hq hm hbb htask hidle hsteps hst
    exact exec_taskEnd_fault hp rfl hq hm hbb htask hidle hsteps hst

end Sys2Proof.Machine
end

section
/-! PROOFS. Loads and stores through the Till: O8. -/

namespace Sys2Proof.Machine

/-! ### Entries put into a table and looked up by what they hold -/

/-- An entry that `f` does not pick, put where none is picked, leaves the first one picked. -/
theorem find?_put_unpicked {α : Type} {f : Nat × α → Bool} {t : Tbl α} {i : Nat} {e : α} (hold : ∀ w, Tbl.find t i = some w → f (i, w) = false)
    (hnew : f (i, e) = false) : (Tbl.put t i e).find? f = t.find? f := by
  induction t with
  | nil => simp [Tbl.put, hnew]
  | cons p t ih =>
    obtain ⟨j, w⟩ := p
    unfold Tbl.put
    split
    · rw [List.find?_cons_of_neg (by simp [hnew])]
    · split
      · next heq =>
        subst heq
        rw [List.find?_cons_of_neg (by simp [hnew]), List.find?_cons_of_neg (by simp [hold w (by simp [Tbl.find])])]
      · next hne =>
        rw [List.find?_cons, List.find?_cons, ih fun v hv => hold v (by rw [Tbl.find, if_neg (Ne.symm hne)]; exact hv)]

/-- An entry that `f` picks, put into a table where it picks none, is the one picked. -/
theorem find?_put_picked {α : Type} {f : Nat × α → Bool} {t : Tbl α} {i : Nat} {e : α} (hnone : t.find? f = none) (hnew : f (i, e) = true) :
    (Tbl.put t i e).find? f = some (i, e) := by
  induction t with
  | nil => exact List.find?_cons_of_pos hnew
  | cons p t ih =>
    obtain ⟨j, w⟩ := p
    have hp : ¬ f (j, w) = true := List.find?_eq_none.mp hnone _ List.mem_cons_self
    have ht : t.find? f = none := List.find?_eq_none.mpr fun x hx => List.find?_eq_none.mp hnone _ (List.mem_cons_of_mem _ hx)
    unfold Tbl.put
    split
    · exact List.find?_cons_of_pos hnew
    · split
      · exact List.find?_cons_of_pos hnew
      · rw [List.find?_cons_of_neg hp, ih ht]

/-! ### A new entry of the Till (R164, R165) -/

/-- The entry that a line is given. -/
def TillEntry.fresh (line : Nat) : TillEntry :=
  { valid := true, filled := false, line := BitVec.ofNat 10 line, age := 0, dirty := 0, data := 0 }

/-- An opened entry that the line's fill has filled. -/
def TillEntry.filledWith (line v : Nat) : TillEntry := { TillEntry.fresh line with filled := true, data := BitVec.ofNat 512 v }

/-- An opened entry with bytes of a store. -/
def TillEntry.storedInto (line mask v : Nat) : TillEntry :=
  { TillEntry.fresh line with dirty := BitVec.ofNat 64 mask, data := BitVec.ofNat 512 (mergeLine 0 v mask) }

/-- The core with entry `i` given to the line and used. -/
def Core.tillOpened (c : Core) (i line : Nat) : Core := (c.setTill i (TillEntry.fresh line)).tillTouch i true

section
variable {c : Core} {i line : Nat}

/-- An entry after entry `i` was used. -/
def Core.aged (c : Core) (i : Nat) (fresh : Bool) (j : Nat) (e : TillEntry) : TillEntry :=
  if j = i then { e with age := 0 }
  else if e.valid && e.age.toNat < (if fresh then 8 else ((Tbl.get c.till i TillEntry.reset).age).toNat) then { e with age := e.age + 1 } else e

theorem aged_eq (c : Core) (i : Nat) (b : Bool) (j : Nat) (e : TillEntry) : ∃ g, c.aged i b j e = { e with age := g } := by
  unfold Core.aged
  generalize (if b then 8 else ((Tbl.get c.till i TillEntry.reset).age).toNat) = n
  split
  · exact ⟨_, rfl⟩
  · split <;> exact ⟨_, rfl⟩

/-- Ageing changes no entry's line. -/
theorem tillOf_tillTouch (c : Core) (i line : Nat) (b : Bool) :
    (c.tillTouch i b).tillOf line = (c.tillOf line).map fun p => (p.1, c.aged i b p.1 p.2) := by
  have hpick : (fun e : Nat × TillEntry => e.2.valid && decide (e.2.line.toNat = line)) ∘ (fun p : Nat × TillEntry => (p.1, c.aged i b p.1 p.2)) =
      fun e : Nat × TillEntry => e.2.valid && decide (e.2.line.toNat = line) := by
    funext p
    obtain ⟨g, hg⟩ := aged_eq c i b p.1 p.2
    simp only [Function.comp, hg]
  have htill : (c.tillTouch i b).till = Tbl.map c.till (c.aged i b) := rfl
  rw [Core.tillOf, htill, Tbl.map, List.find?_map, hpick, Core.tillOf]

theorem dirtyOf_tillTouch (c : Core) (i line : Nat) (b : Bool) : (c.tillTouch i b).dirtyOf line = c.dirtyOf line := by
  rw [Core.dirtyOf, tillOf_tillTouch, Core.dirtyOf]
  cases c.tillOf line with
  | none => rfl
  | some p =>
    obtain ⟨g, hg⟩ := aged_eq c i b p.1 p.2
    simp [hg]

theorem TillEntry.fresh_line (h : line < 1024) : (TillEntry.fresh line).line.toNat = line := by
  rw [TillEntry.fresh, BitVec.toNat_ofNat, Nat.mod_eq_of_lt h]

/-- The entry of an opened line. -/
theorem find_tillOpened (c : Core) (i line : Nat) : Tbl.find (c.tillOpened i line).till i = some (TillEntry.fresh line) := by
  rw [Core.tillOpened, Core.tillTouch, Tbl.find_map, Core.setTill, Tbl.find_put_self, Option.map_some, if_pos rfl]
  rfl

theorem dirtyOf_none (h : c.tillOf line = none) : c.dirtyOf line = (0, 0) := by rw [Core.dirtyOf, h]

section
variable (hfree : (Tbl.get c.till i TillEntry.reset).valid = false) (hnone : c.tillOf line = none) (hline : line < 1024)
include hfree hnone hline

/-- A new entry holds nothing dirty, and those of other lines stay. -/
theorem dirtyOf_tillOpened (m : Nat) : (c.tillOpened i line).dirtyOf m = c.dirtyOf m := by
  rw [Core.tillOpened, dirtyOf_tillTouch]
  by_cases hm : m = line
  · subst hm
    have hput : (c.setTill i (TillEntry.fresh m)).tillOf m = some (i, TillEntry.fresh m) :=
      find?_put_picked hnone ((Bool.and_eq_true ..).mpr ⟨rfl, decide_eq_true (TillEntry.fresh_line hline)⟩)
    rw [dirtyOf_none hnone, Core.dirtyOf, hput]
    simp only [TillEntry.fresh, BitVec.ofNat_eq_ofNat, BitVec.toNat_zero]
  · have hput : (c.setTill i (TillEntry.fresh line)).tillOf m = c.tillOf m := by
      refine find?_put_unpicked (fun w hw => ?_) ?_
      · rw [Tbl.get, hw, Option.getD_some] at hfree
        simp [hfree]
      · simp [TillEntry.fresh_line hline, Ne.symm hm]
    rw [Core.dirtyOf, hput, Core.dirtyOf]

/-- The entry rewritten for the same line is what the Till holds of it, and what it holds of the others stays. -/
theorem dirtyOf_setTill_tillOpened {e : TillEntry} (hv : e.valid = true) (hl : e.line.toNat = line) (m : Nat) :
    ((c.tillOpened i line).setTill i e).dirtyOf m = if m = line then (e.dirty.toNat, e.data.toNat) else c.dirtyOf m := by
  split
  · next hm =>
    subst hm
    have hput : (c.setTill i (TillEntry.fresh m)).tillOf m = some (i, TillEntry.fresh m) :=
      find?_put_picked hnone ((Bool.and_eq_true ..).mpr ⟨rfl, decide_eq_true (TillEntry.fresh_line hline)⟩)
    have htouch := tillOf_tillTouch (c.setTill i (TillEntry.fresh m)) i m true
    rw [hput, Option.map_some] at htouch
    have hnow : ((c.tillOpened i m).setTill i e).tillOf m = some (i, e) := find_put_of_find htouch ((Bool.and_eq_true ..).mpr ⟨hv, decide_eq_true hl⟩)
    rw [Core.dirtyOf, hnow]
  · next hm =>
    have hput : ((c.tillOpened i line).setTill i e).tillOf m = (c.tillOpened i line).tillOf m := by
      refine find?_put_unpicked (fun w hw => ?_) (by simp [hl, Ne.symm hm])
      rw [find_tillOpened] at hw
      rw [← Option.some.inj hw]
      simp [TillEntry.fresh_line hline, Ne.symm hm]
    rw [Core.dirtyOf, hput, ← Core.dirtyOf, dirtyOf_tillOpened hfree hnone hline]

end

end

section
variable {s : State} {k line : Nat}

/-- With a free entry no other is written back for a line that none holds. -/
theorem tillAlloc_free (hfree : ∃ j, j < 8 ∧ (Tbl.get (getCore s k).till j TillEntry.reset).valid = false) (hnone : (getCore s k).tillOf line = none) :
    ∃ i, (Tbl.get (getCore s k).till i TillEntry.reset).valid = false ∧
      tillAlloc s k line = (modCore s k (·.setTill i (TillEntry.fresh line)), i, true) := by
  obtain ⟨j, hj, hinv⟩ := hfree
  cases h : (List.range 8).find? fun i => !(Tbl.get (getCore s k).till i TillEntry.reset).valid with
  | none => exact absurd (List.find?_eq_none.mp h j (List.mem_range.mpr hj)) (by simp [hinv])
  | some i =>
    have hi : (Tbl.get (getCore s k).till i TillEntry.reset).valid = false := by simpa using List.find?_some h
    refine ⟨i, hi, ?_⟩
    simp only [tillAlloc, hnone, h, hi, Bool.false_eq_true, if_false]
    rfl

theorem tillOpened_eq (s : State) (k i line : Nat) : modCore (modCore s k (·.setTill i (TillEntry.fresh line))) k (·.tillTouch i true) =
    modCore s k (·.tillOpened i line) := by
  simp [modCore, Core.tillOpened]

end

/-! ### Bytes of the coherent store (R166) -/

theorem spmByte_congr {s t : State} {k a : Nat} (hm : t.mem = s.mem) (hd : (getCore t k).dirtyOf (a / 64) = (getCore s k).dirtyOf (a / 64)) :
    spmByte t k a = spmByte s k a := by
  simp only [spmByte, hm, hd]

theorem spmByte_clean {s : State} {k a : Nat} (hd : ((getCore s k).dirtyOf (a / 64)).1.testBit (a % 64) = false) :
    spmByte s k a = (Mem.read s.mem (spmAddr k a)).toNat := by
  simp [spmByte, hd]

theorem spmBytes_congr {s t : State} {k : Nat} (h : ∀ b, spmByte t k b = spmByte s k b) (a n : Nat) : spmBytes t k a n = spmBytes s k a n := by
  induction n generalizing a with
  | zero => rfl
  | succ n ih => rw [spmBytes, spmBytes, h, ih]

/-- A byte that an entry rewritten for its line, not dirty before, leaves clean is as it was, and so is every byte of another line. -/
theorem spmByte_of_rewritten {s t : State} {k line a : Nat} {e : TillEntry} (hm : t.mem = s.mem) (hnone : (getCore s k).tillOf line = none)
    (ht : (getCore t k).dirtyOf (a / 64) = if a / 64 = line then (e.dirty.toNat, e.data.toNat) else (getCore s k).dirtyOf (a / 64))
    (hclean : a / 64 = line → e.dirty.toNat.testBit (a % 64) = false) : spmByte t k a = spmByte s k a := by
  by_cases ha : a / 64 = line
  · rw [if_pos ha] at ht
    rw [spmByte_clean (by rw [ht]; exact hclean ha), spmByte_clean (by simp [ha, dirtyOf_none hnone]), hm]
  · rw [if_neg ha] at ht
    exact spmByte_congr hm ht

/-! ### Bytes merged into a line (R166) -/

/-- Bytes put side by side are read back one by one. -/
theorem foldl_bytes (g : Nat → Nat) (hg : ∀ i, g i < 256) (n : Nat) :
    let v := (List.range n).foldl (fun acc i => acc + 2 ^ (8 * i) * g i) 0
    (BitVec.ofNat (8 * n) v).toNat = v ∧ ∀ i, i < n → field v (8 * i) 8 = g i := by
  suffices h : let v := (List.range n).foldl (fun acc i => acc + 2 ^ (8 * i) * g i) 0
      v < 2 ^ (8 * n) ∧ ∀ i, i < n → field v (8 * i) 8 = g i from ⟨Nat.mod_eq_of_lt h.1, h.2⟩
  induction n with
  | zero => simp
  | succ n ih =>
    obtain ⟨hlt, hread⟩ := ih
    simp only [List.range_succ, List.foldl_append, List.foldl_cons, List.foldl_nil]
    generalize (List.range n).foldl (fun acc i => acc + 2 ^ (8 * i) * g i) 0 = v at hlt hread
    have hpow : 2 ^ (8 * (n + 1)) = 2 ^ (8 * n) * 256 := by rw [Nat.mul_succ, Nat.pow_add]
    refine ⟨?_, fun i hi => ?_⟩
    · calc v + 2 ^ (8 * n) * g n < 2 ^ (8 * n) + 2 ^ (8 * n) * g n := by omega
        _ = 2 ^ (8 * n) * (g n + 1) := by ring
        _ ≤ 2 ^ (8 * (n + 1)) := by rw [hpow]; exact Nat.mul_le_mul_left _ (hg n)
    · rw [field, Nat.shiftRight_eq_div_pow]
      rcases Nat.lt_succ_iff_lt_or_eq.mp hi with hi | rfl
      · have hsplit : 2 ^ (8 * n) * g n = 2 ^ (8 * i) * (2 ^ 8 * (2 ^ (8 * (n - i - 1)) * g n)) := by
          rw [← Nat.mul_assoc, ← Nat.mul_assoc, ← Nat.pow_add, ← Nat.pow_add]
          congr 2
          omega
        rw [hsplit, Nat.add_mul_div_left _ _ (Nat.two_pow_pos _), Nat.add_mul_mod_self_left, ← hread i hi, field, Nat.shiftRight_eq_div_pow]
      · rw [Nat.add_mul_div_left _ _ (Nat.two_pow_pos _), Nat.div_eq_of_lt hlt, Nat.zero_add]
        exact Nat.mod_eq_of_lt (hg i)

theorem field_byte_lt (v lo : Nat) : field v lo 8 < 256 := Nat.mod_lt _ (by decide)

/-- A merged line has the new byte where the mask is set, else the old one. -/
theorem field_mergeLine (old new mask : Nat) {i : Nat} (hi : i < 64) :
    field (BitVec.ofNat 512 (mergeLine old new mask)).toNat (8 * i) 8 = if mask.testBit i then field new (8 * i) 8 else field old (8 * i) 8 := by
  obtain ⟨hlt, hread⟩ := foldl_bytes (fun i => if mask.testBit i then field new (8 * i) 8 else field old (8 * i) 8)
    (fun i => by split <;> exact field_byte_lt _ _) 64
  rw [mergeLine]
  exact (congrArg (field · (8 * i) 8) hlt).trans (hread i hi)

theorem testBit_run (n lo i : Nat) : ((2 ^ n - 1) <<< lo).testBit i = (decide (lo ≤ i) && decide (i - lo < n)) := by
  rw [Nat.testBit_shiftLeft, Nat.testBit_two_pow_sub_one]

/-- The bytes of a run that lies in one line. -/
theorem run_lt {n lo : Nat} (h : lo + n ≤ 64) : (2 ^ n - 1) <<< lo < 2 ^ 64 := by
  rw [Nat.shiftLeft_eq]
  calc (2 ^ n - 1) * 2 ^ lo < 2 ^ n * 2 ^ lo := Nat.mul_lt_mul_of_pos_right (Nat.sub_lt (Nat.two_pow_pos n) (by decide)) (Nat.two_pow_pos lo)
    _ = 2 ^ (n + lo) := (Nat.pow_add ..).symm
    _ ≤ 2 ^ 64 := Nat.pow_le_pow_right (by decide) (by omega)

theorem field_shiftLeft (v lo j : Nat) : field (v <<< (8 * lo)) (8 * (lo + j)) 8 = v / 256 ^ j % 256 := by
  rw [field, Nat.shiftLeft_eq, Nat.shiftRight_eq_div_pow, Nat.mul_add, Nat.pow_add, Nat.mul_comm v, Nat.mul_div_mul_left _ _ (Nat.two_pow_pos _),
    Nat.pow_mul]
  rfl

/-! ### Loads and stores where an entry is free (R165) -/

theorem noteRead_frame (s : State) (k : Nat) (r : SpmRead) : (noteRead s k r).mem = s.mem ∧
    (getCore (noteRead s k r) k).till = (getCore s k).till := by
  unfold noteRead
  extract_lets t
  have ht : t.mem = s.mem ∧ (getCore t k).till = (getCore s k).till := by
    unfold t
    split
    · exact ⟨rfl, rfl⟩
    · exact ⟨rfl, by rw [getCore_modCore]⟩
  split
  · exact ht
  · exact ht

section
variable {s : State} {k a n i : Nat}

/-- A load into an entry newly opened: the line's words are read, and the entry is filled. -/
theorem tillLoad_opened (hn : 0 < n) (halloc : tillAlloc s k (a / 64) = (modCore s k (·.setTill i (TillEntry.fresh (a / 64))), i, true))
    (herr : ∀ j, j < 8 → Tbl.find (getCore s k).spmErr (8 * (a / 64) + j) ≠ some true) {u : State} (hu : u = modCore s k (·.tillOpened i (a / 64))) :
    ∃ r : SpmRead, tillLoad s k a n = (modCore (noteRead u k r) k (·.setTill i (.filledWith (a / 64) (spmBytes u k (64 * (a / 64)) 64))), .ok (spmBytes u k a n)) := by
  have hentry : Tbl.get (getCore u k).till i TillEntry.reset = TillEntry.fresh (a / 64) := by
    rw [hu, getCore_modCore, Tbl.get, find_tillOpened, Option.getD_some]
  have hwant : ¬ ((2 ^ n - 1) <<< (a % 64) &&& (TillEntry.fresh (a / 64)).dirty.toNat = (2 ^ n - 1) <<< (a % 64)) := by
    have hpos : (2 ^ n - 1) <<< (a % 64) ≠ 0 := by
      rw [Nat.shiftLeft_eq]
      exact Nat.mul_ne_zero (Nat.sub_ne_zero_of_lt (Nat.one_lt_two_pow hn.ne')) (Nat.two_pow_pos _).ne'
    simpa [TillEntry.fresh] using hpos.symm
  have hfilled : (TillEntry.fresh (a / 64)).filled = false := rfl
  have herrs : (getCore u k).spmErr = (getCore s k).spmErr := by rw [hu, getCore_modCore]; rfl
  have hbad (g : Nat → Bool) : (((List.range 8).filter g).filter fun j =>
      decide (Tbl.find (getCore u k).spmErr (8 * (a / 64) + j) = some true)) = [] := by
    refine List.filter_eq_nil_iff.mpr fun j hj => ?_
    rw [herrs]
    simpa using herr j (List.mem_range.mp (List.mem_of_mem_filter hj))
  simp only [tillLoad, halloc, tillOpened_eq, ← hu, hentry, hwant, hfilled, hbad, Bool.false_or, decide_false, Bool.false_eq_true, if_false,
    List.find?_nil, Option.map_none, if_true]
  exact ⟨_, rfl⟩

/-- A store into an entry newly opened: its bytes are dirty there. -/
theorem tillStore_opened (v : Nat) (halloc : tillAlloc s k (a / 64) = (modCore s k (·.setTill i (TillEntry.fresh (a / 64))), i, true)) :
    tillStore s k a n v = modCore s k fun c =>
      (c.tillOpened i (a / 64)).setTill i (.storedInto (a / 64) ((2 ^ n - 1) <<< (a % 64)) (v <<< (8 * (a % 64)))) := by
  have hentry : Tbl.get (((getCore s k).setTill i (TillEntry.fresh (a / 64))).tillTouch i true).till i TillEntry.reset = TillEntry.fresh (a / 64) := by
    rw [← Core.tillOpened, Tbl.get, find_tillOpened, Option.getD_some]
  simp only [tillStore, halloc, modCore, getCore_setCore, setCore_setCore, hentry, Core.tillOpened]
  simp only [TillEntry.fresh, TillEntry.storedInto, BitVec.ofNat_eq_ofNat, BitVec.zero_or, BitVec.toNat_zero]

end

/-- Settles O8: both open a free entry for the line; a fill leaves it without dirty bytes, a store with its own. -/
theorem tillIsCoherent : Obligations.TillIsCoherent := by
  unfold Obligations.TillIsCoherent
  intro s k a n v hn hfit hfree hnone ha
  have hline : a / 64 < 1024 := by omega
  obtain ⟨i, hi, halloc⟩ := tillAlloc_free hfree hnone
  refine ⟨fun herr => ?load, ?store⟩
  case load =>
    obtain ⟨r, hload⟩ := tillLoad_opened hn halloc herr rfl
    generalize hu : modCore s k (·.tillOpened i (a / 64)) = u at hload
    have hcore : getCore u k = (getCore s k).tillOpened i (a / 64) := by rw [← hu, getCore_modCore]
    have humem : u.mem = s.mem := by rw [← hu]; rfl
    have hopened (b : Nat) : spmByte u k b = spmByte s k b :=
      spmByte_congr humem (by rw [hcore, dirtyOf_tillOpened hi hnone hline])
    obtain ⟨hmem, htill⟩ := noteRead_frame u k r
    rw [hcore] at htill
    rw [spmBytes_congr hopened a n] at hload
    refine ⟨_, hload, hmem.trans humem, fun b => spmByte_of_rewritten (e := .filledWith (a / 64) (spmBytes u k (64 * (a / 64)) 64))
      (hmem.trans humem) hnone ?_ fun _ => Nat.zero_testBit _⟩
    rw [getCore_modCore, ← dirtyOf_setTill_tillOpened hi hnone hline (e := .filledWith (a / 64) (spmBytes u k (64 * (a / 64)) 64)) rfl
      (TillEntry.fresh_line hline)]
    refine Core.dirtyOf_of_till ?_ _
    rw [Core.setTill, htill, Core.setTill]
  case store =>
    have hstore := tillStore_opened (n := n) v halloc
    have hcore := (congrArg (getCore · k) hstore).trans (getCore_modCore ..)
    have hdirty (b : Nat) := (congrArg (Core.dirtyOf · (b / 64)) hcore).trans (dirtyOf_setTill_tillOpened hi hnone hline
      (e := .storedInto (a / 64) ((2 ^ n - 1) <<< (a % 64)) (v <<< (8 * (a % 64)))) rfl (TillEntry.fresh_line hline) (b / 64))
    have hmask : (TillEntry.storedInto (a / 64) ((2 ^ n - 1) <<< (a % 64)) (v <<< (8 * (a % 64)))).dirty.toNat = (2 ^ n - 1) <<< (a % 64) := by
      rw [TillEntry.storedInto, BitVec.toNat_ofNat, Nat.mod_eq_of_lt (run_lt hfit)]
    refine ⟨by rw [hstore]; rfl, fun j hj => by rw [hstore, getCore_modCore_other _ _ hj], fun j hj => ?_, fun b hb => ?_⟩
    · have hsame : (a + j) / 64 = a / 64 := by omega
      have hat : (a + j) % 64 = a % 64 + j := by omega
      have hset : ((2 ^ n - 1) <<< (a % 64)).testBit (a % 64 + j) = true := by rw [testBit_run]; simp [hj]
      have h := hdirty (a + j)
      rw [if_pos hsame, hmask] at h
      simp only [spmByte, h, hat, hset, if_true]
      rw [TillEntry.storedInto, field_mergeLine _ _ _ (by omega), if_pos hset, field_shiftLeft]
    · refine spmByte_of_rewritten (by rw [hstore]; rfl) hnone (hdirty b) fun hsame => ?_
      rw [hmask, testBit_run]
      simp
      omega

end Sys2Proof.Machine
end

section
/-! PROOFS. Grants and tagged lines: O25, O26. -/

namespace Sys2Proof.Machine

/-! ### The transfer that a grant names (R213) -/

/-- Does a transfer talk to the endpoint that has sent the grant? -/
def grantFits (ep : CoreXfer → Bool) (p : CtrlPacket) (v : CoreXfer) : Bool := ep v && decide (v.tx = p.sx.toNat) && decide (v.ty = p.sy.toNat)

/-- The state with the transfer tagged. -/
def grantTagged (s : State) (k : Nat) (p : CtrlPacket) (w : CoreXfer) : State :=
  modCore s k fun c => { c with writes := c.writes.map fun v => if v = w then { v with tag := some (p.body.setWidth 16) } else v }

/-- The state with the transfer tagged and its granted lines sent. -/
def grantSent (s : State) (k : Nat) (p : CtrlPacket) (w : CoreXfer) : State :=
  sendGranted (grantTagged s k p w) k w.ep p.sx.toNat p.sy.toNat (p.body.setWidth 16) w (field p.body.toNat 16 10)
    (Nat.min (field p.body.toNat 26 10) (w.lines - field p.body.toNat 16 10))

section
variable {s : State} {k : Nat} {ep : CoreXfer → Bool} {p : CtrlPacket} {w : CoreXfer}

theorem takeGrant_tagged (h : (getCore s k).writes.find? (fun v => grantFits ep p v && v.tag = some (p.body.setWidth 16)) = some w) :
    takeGrant s k ep p = grantSent s k p w := by
  unfold grantFits at h
  simp only [takeGrant, h]
  rfl

theorem takeGrant_oldest (htag : (getCore s k).writes.find? (fun v => grantFits ep p v && v.tag = some (p.body.setWidth 16)) = none)
    (h : (getCore s k).writes.find? (fun v => grantFits ep p v && v.tag.isNone) = some w) : takeGrant s k ep p = grantSent s k p w := by
  unfold grantFits at h htag
  simp only [takeGrant, h, htag]
  rfl

theorem takeGrant_unknown (htag : (getCore s k).writes.find? (fun v => grantFits ep p v && v.tag = some (p.body.setWidth 16)) = none)
    (h : (getCore s k).writes.find? (fun v => grantFits ep p v && v.tag.isNone) = none) : takeGrant s k ep p = s := by
  unfold grantFits at h htag
  simp only [takeGrant, h, htag]

end

/-! ### What the packets of a grant leave alone -/

/-- Memory, partitions, jobs, sessions, the commands to come and every context are as they were. -/
structure TasksSame (s t : State) : Prop where
  mem : t.mem = s.mem
  parts : t.parts = s.parts
  jobs : t.jobs = s.jobs
  sessions : t.sessions = s.sessions
  pending : t.pending = s.pending
  ctxs : ∀ k n, getCtx t k n = getCtx s k n

namespace TasksSame

variable {s t u : State}

protected theorem refl (s : State) : TasksSame s s := ⟨rfl, rfl, rfl, rfl, rfl, fun _ _ => rfl⟩

protected theorem trans (h : TasksSame s t) (h' : TasksSame t u) : TasksSame s u where
  mem := h'.mem.trans h.mem
  parts := h'.parts.trans h.parts
  jobs := h'.jobs.trans h.jobs
  sessions := h'.sessions.trans h.sessions
  pending := h'.pending.trans h.pending
  ctxs := fun k n => (h'.ctxs k n).trans (h.ctxs k n)

protected theorem modCore {k : Nat} {f : Core → Core} (hf : ∀ c, (f c).ctxs = c.ctxs) : TasksSame s (modCore s k f) where
  mem := rfl
  parts := rfl
  jobs := rfl
  sessions := rfl
  pending := rfl
  ctxs := fun j n => by
    by_cases hj : j = k
    · subst hj
      rw [getCtx, getCore_modCore, Core.ctx, hf, getCtx, Core.ctx]
    · rw [getCtx, getCore_modCore_other _ _ hj, getCtx]

protected theorem modClu {c : Nat} {f : Cluster → Cluster} : TasksSame s (modClu s c f) := ⟨rfl, rfl, rfl, rfl, rfl, fun _ _ => rfl⟩

protected theorem optDies {o : Tbl OptDie} : TasksSame s { s with optDies := o } := ⟨rfl, rfl, rfl, rfl, rfl, fun _ _ => rfl⟩

protected theorem emit (e : Emit) : TasksSame s (emit s e) := ⟨rfl, rfl, rfl, rfl, rfl, fun _ _ => rfl⟩

theorem noteRead (k : Nat) (r : SpmRead) : TasksSame s (noteRead s k r) := by
  unfold Machine.noteRead
  extract_lets t
  have ht : TasksSame s t := by
    unfold t
    split
    · exact .refl s
    · exact .modCore fun _ => rfl
  split
  · exact ht.trans .modClu
  · exact ht

theorem countOnlyAt (k cnt n : Nat) (st : Status) (spm : Bool) : TasksSame s (countOnlyAt s k cnt n st spm) := by
  simp only [Machine.countOnlyAt]
  split
  · exact .refl s
  · exact .modCore (f := (·.setCnt cnt _)) fun _ => rfl

theorem forgetSeq (ep : BitVec 2) (x y : Nat) (tag : BitVec 16) (seq : Nat) : TasksSame s (forgetSeq s ep x y tag seq) := by
  unfold Machine.forgetSeq
  split
  · exact .modClu
  · split
    · exact .modCore fun _ => rfl
    · split
      · exact .refl s
      · extract_lets o
        split
        · exact .refl s
        · split
          · exact .refl s
          · exact .optDies

theorem sendGranted (k : Nat) (ep : BitVec 2) (x y : Nat) (tag : BitVec 16) (w : CoreXfer) (first n : Nat) :
    TasksSame s (sendGranted s k ep x y tag w first n) := by
  induction n with
  | zero => exact .refl s
  | succ n ih =>
    unfold Machine.sendGranted
    extract_lets t seq r u
    have hu : TasksSame s u := ih.trans (noteRead ..)
    split
    · exact ((hu.trans (.modCore (f := (·.writeDone _ _)) fun _ => rfl)).trans (countOnlyAt ..)).trans (forgetSeq ..)
    · exact hu.trans (.emit _)

theorem takeGrant (k : Nat) (ep : CoreXfer → Bool) (p : CtrlPacket) : TasksSame s (takeGrant s k ep p) := by
  have hsent (w : CoreXfer) : TasksSame s (grantSent s k p w) := by
    have htag : TasksSame s (grantTagged s k p w) := .modCore fun _ => rfl
    exact htag.trans (sendGranted ..)
  cases htag : (getCore s k).writes.find? (fun v => grantFits ep p v && v.tag = some (p.body.setWidth 16)) with
  | some w => rw [takeGrant_tagged htag]; exact hsent w
  | none =>
    cases hold : (getCore s k).writes.find? (fun v => grantFits ep p v && v.tag.isNone) with
    | some w => rw [takeGrant_oldest htag hold]; exact hsent w
    | none => rw [takeGrant_unknown htag hold]; exact .refl s

end TasksSame

/-! ### The lines that a grant sends (R163) -/

/-- A granted line of a core, as its packet. -/
def grantedLine (s : State) (k : Nat) (p : CtrlPacket) (w : CoreXfer) (seq : Nat) : Emit :=
  .inject k { epoch := s.epoch.cur, hops := 0, payload := BitVec.ofNat 512 (spmBytes s k (64 * (w.line + seq)) 64),
              hdr := .tagged w.ep (BitVec.ofNat 10 p.sx.toNat) (BitVec.ofNat 10 p.sy.toNat) (p.body.setWidth 16) (BitVec.ofNat 10 seq) 0 }

theorem spmBytes_emits (s : State) (es : List Emit) (k a n : Nat) : spmBytes (emits s es) k a n = spmBytes s k a n :=
  spmBytes_congr (s := s) (t := emits s es) (fun _ => rfl) a n

/-- Without a word in error every granted line goes out. -/
theorem sendGranted_clean {s : State} {k : Nat} (h : (getCore s k).spmErr = []) (p : CtrlPacket) (w : CoreXfer) (first n : Nat) :
    sendGranted s k w.ep p.sx.toNat p.sy.toNat (p.body.setWidth 16) w first n =
      emits s ((List.range n).map fun j => grantedLine s k p w (first + j)) := by
  induction n with
  | zero => simp [sendGranted, emits]
  | succ n ih =>
    rw [sendGranted, ih]
    generalize hes : (List.range n).map (fun j => grantedLine s k p w (first + j)) = es
    obtain ⟨hbad, hce⟩ := spmRead_noErr (s := emits s es) (k := k) h (64 * (w.line + (first + n))) 64
    have hdata : (spmRead (emits s es) k (64 * (w.line + (first + n))) 64).data = spmBytes s k (64 * (w.line + (first + n))) 64 :=
      spmBytes_emits ..
    simp only [noteRead_clean hbad hce, hbad, hdata, List.range_succ, List.map_append, hes, List.map_cons, List.map_nil]
    simp only [emit, emits, List.append_assoc]
    rfl

/-- The channel's controller without the job of the grant (R236). -/
def grantDropped (s : State) (cl : Nat) (w : WriteJob) : State := modClu s cl fun u => { u with writes := u.writes.filter fun v => v.tag ≠ w.tag }

theorem writes_grantDropped (s : State) (cl : Nat) (w : WriteJob) {v : WriteJob} (h : v ∈ (getClu (grantDropped s cl w) cl).writes) :
    v.tag ≠ w.tag := by
  rw [grantDropped, getClu_modClu_self] at h
  simpa using (List.mem_filter.mp h).2

/-! ### Tagged lines (R163, R174, R212) -/

section
variable {s : State} {p : DataPacket} {dx dy : BitVec 10} {tag : BitVec 16} {seq : BitVec 10} {leg : BitVec 4}

/-- An endpoint that forgets a line has committed none. -/
theorem commits_forgetSeq (s : State) (x y : Nat) (tag : BitVec 16) (seq c : Nat) :
    (getClu (forgetSeq s 0 x y tag seq) c).commits = (getClu s c).commits := by
  rw [forgetSeq, if_pos rfl, getClu_modClu_keeps Cluster.commits]
  exact fun _ => rfl

theorem exec_taggedLineArrival_channel (hp : p.hdr = .tagged 0 dx dy tag seq leg) :
    exec (.taggedLineArrival p) s = .next (taggedAtChannel s (coreAt dx.toNat dy.toNat / 64) tag seq.toNat p.payload) := by
  change execTaggedLineArrival p s = _
  rw [execTaggedLineArrival, hp]
  rfl

theorem exec_taggedLineArrival_core (hp : p.hdr = .tagged 3 dx dy tag seq leg) :
    exec (.taggedLineArrival p) s = .next (taggedAtCore s (coreAt dx.toNat dy.toNat) tag seq.toNat p.payload) := by
  change execTaggedLineArrival p s = _
  rw [execTaggedLineArrival, hp]
  rfl

end

/-- Settles O25: a grant's packets touch no context; the timeout finds its job by the tag, drops it and counts what is missing. -/
theorem grantsComplete : Obligations.GrantsComplete := by
  unfold Obligations.GrantsComplete
  refine ⟨fun s core p => ?_, fun s cl tag => ⟨fun hnone => ?_, fun w hw => ⟨fun hearly => ?_, fun hlate => ?_⟩⟩⟩
  · have hgrant (ep : CoreXfer → Bool) := TasksSame.takeGrant (s := s) core ep p
    have hexec3 (h : p.ctype = 3) : exec (.writeGrant core p) s = .next (takeGrant s core (fun w => w.ep = 0 || w.ep = 3) p) :=
      congrArg Host.Outcome.next (if_pos h)
    have hexec12 (h : p.ctype = 0x12) : exec (.xgrant core p) s = .next (takeGrant s core (fun w => w.ep = 1) p) :=
      congrArg Host.Outcome.next (if_pos h)
    exact ⟨fun h => ⟨_, hexec3 h, (hgrant _).mem, (hgrant _).parts, (hgrant _).jobs, (hgrant _).sessions, (hgrant _).pending, (hgrant _).ctxs⟩,
      fun h => ⟨_, hexec12 h, (hgrant _).mem, (hgrant _).parts, (hgrant _).jobs, (hgrant _).sessions, (hgrant _).pending, (hgrant _).ctxs⟩⟩
  · change execTaggedLineTimeout cl tag s = _
    simp only [execTaggedLineTimeout, hnone]
  · change execTaggedLineTimeout cl tag s = _
    simp only [execTaggedLineTimeout, hw, if_pos hearly]
  · have hexec : exec (.taggedLineTimeout cl tag) s =
        .next (sendCountOnly (grantDropped s cl w) cl w.x.toNat w.y.toNat w.cnt (w.lines - w.got.length) stTimeout) := by
      change execTaggedLineTimeout cl tag s = _
      simp only [execTaggedLineTimeout, hw, if_neg (Nat.not_lt.mpr hlate)]
      rfl
    have hclu (c : Nat) : getClu (sendCountOnly (grantDropped s cl w) cl w.x.toNat w.y.toNat w.cnt (w.lines - w.got.length) stTimeout) c =
        getClu (grantDropped s cl w) c := rfl
    refine ⟨_, hexec, rfl, List.find?_eq_none.mpr fun v hv hvt => ?_, rfl, rfl, fun c hc => ?_⟩
    · have hwt : w.tag.toNat = tag := by simpa using List.find?_some hw
      exact writes_grantDropped s cl w (hclu cl ▸ hv) (BitVec.eq_of_toNat_eq ((of_decide_eq_true hvt).trans hwt.symm))
    · rw [hclu, grantDropped, getClu_modClu_ne _ _ hc]

/-- Settles O26: the transfer is picked by tag, else by age, and each granted line goes out as read; a tagged line meets the channel's job or
the core's grant. -/
theorem grantsSendLines : Obligations.GrantsSendLines := by
  unfold Obligations.GrantsSendLines
  refine ⟨?grants, fun s p dx dy tag seq leg => ⟨?channel, ?core⟩⟩
  case grants =>
    intro s core p tag fits tagged oldest first sends acts
    have hsends {c : Instr} {w : CoreXfer} (hc : exec c s = .next (grantSent s core p w)) : sends c w := by
      refine ⟨hc, fun herr => ?_⟩
      have herr' : (getCore (grantTagged s core p w) core).spmErr = [] := by rw [grantTagged, getCore_modCore]; exact herr
      have hbytes (a n : Nat) : spmBytes (grantTagged s core p w) core a n = spmBytes s core a n :=
        spmBytes_congr (s := s) (t := grantTagged s core p w) (fun b => spmByte_congr rfl (by
          rw [grantTagged, getCore_modCore]
          exact Core.dirtyOf_of_till rfl _)) a n
      have hsent := sendGranted_clean herr' p w first (Nat.min (field p.body.toNat 26 10) (w.lines - first))
      simp only [grantedLine, hbytes] at hsent
      refine ⟨?_, ?_, ?_⟩
      · exact (congrArg State.cores hsent).trans rfl
      · exact (congrArg State.mem hsent).trans rfl
      · exact (congrArg State.emitted hsent).trans rfl
    have hacts {c : Instr} {ep : CoreXfer → Bool} (hc : exec c s = .next (takeGrant s core ep p)) : acts c ep :=
      ⟨fun w hw => hsends (by rw [hc, takeGrant_tagged hw]), fun w htag hw => hsends (by rw [hc, takeGrant_oldest htag hw]),
        fun htag hold => by rw [hc, takeGrant_unknown htag hold]⟩
    exact ⟨fun h => hacts (congrArg Host.Outcome.next (if_pos h)), fun h => hacts (congrArg Host.Outcome.next (if_pos h))⟩
  case channel =>
    intro hp w hw hseq hgot
    refine ⟨_, exec_taggedLineArrival_channel hp, ?_⟩
    have hgo : ¬ (seq.toNat ≥ w.lines ∨ w.got.contains seq.toNat = true) := by
      rw [hgot]
      simpa using hseq
    simp only [taggedAtChannel, hw, if_neg hgo]
    refine ⟨rfl, rfl, ?_⟩
    rw [getClu_modClu_self]
    exact congrArg (· ++ _) (commits_forgetSeq ..)
  case core =>
    intro hp g hg hseq hself u gone
    have hgo : ¬ (seq.toNat ≥ g.lines) := Nat.not_le.mpr hseq
    have hexec := exec_taggedLineArrival_core (s := s) hp
    simp only [taggedAtCore, hg, if_neg hgo, if_neg hself] at hexec
    have hgone : (coreFenced u (coreAt dx.toNat dy.toNat) || !inNumbering u (coreAt dx.toNat dy.toNat)) = true ↔ gone := by simp [gone]
    refine ⟨fun h => ?_, fun h => ?_⟩
    · rw [hexec, if_neg (mt hgone.mp h)]
      rfl
    · rw [hexec, if_pos (hgone.mpr h)]
      rfl

end Sys2Proof.Machine
end

section
/-! PROOFS. Requests taken in and completed, and the bytes of a payload. -/

namespace Sys2Proof.Machine

/-! ### A request taken in (R26, R318) -/

section
variable (ro : Bool) (m : Msg) (s : State)

/-- Taking a request in changes the sessions and the journals only: what reads neither is the same. -/
theorem of_started {α : Type} (f : State → α) (hf : ∀ ss h0 h1, f { s with sessions := ss, hub0 := h0, hub1 := h1 } = f s) :
    f (started ro m s) = f s := by
  obtain ⟨ss, h0, h1, h⟩ := started_frame ro m s
  rw [h, hf]

@[simp] theorem getPart_started (p : Nat) : getPart (started ro m s) p = getPart s p := of_started ro m s (getPart · p) fun _ _ _ => rfl
@[simp] theorem getClu_started (c : Nat) : getClu (started ro m s) c = getClu s c := of_started ro m s (getClu · c) fun _ _ _ => rfl
@[simp] theorem hasPart_started (p : Nat) : hasPart (started ro m s) p = hasPart s p := of_started ro m s (hasPart · p) fun _ _ _ => rfl
@[simp] theorem mem_started : (started ro m s).mem = s.mem := of_started ro m s State.mem fun _ _ _ => rfl
@[simp] theorem tally_started : (started ro m s).tally = s.tally := of_started ro m s State.tally fun _ _ _ => rfl
@[simp] theorem channelServes_started (c : Nat) : channelServes (started ro m s) c = channelServes s c :=
  of_started ro m s (channelServes · c) fun _ _ _ => rfl
@[simp] theorem inSlice_started (c : Nat) : inSlice (started ro m s) c = inSlice s c := of_started ro m s (inSlice · c) fun _ _ _ => rfl
@[simp] theorem dataRange_started (p h off n : Nat) : dataRange (started ro m s) p h off n = dataRange s p h off n :=
  of_started ro m s (dataRange · p h off n) fun _ _ _ => rfl
@[simp] theorem dataCluster_started (p h : Nat) (d : Handle) : dataCluster (started ro m s) p h d = dataCluster s p h d :=
  of_started ro m s (dataCluster · p h d) fun _ _ _ => rfl

end

/-- A completion to a session with numbers left changes sessions and what was sent only. -/
theorem of_complete {α : Type} {s : State} {r : Reply} (st : Status) (b : Bytes) (hn : Numbered s r.sess) (f : State → α)
    (hf : ∀ ss es, f { s with sessions := ss, emitted := es } = f s) : f (complete s r st b) = f s := by
  obtain ⟨ss, es, h⟩ := complete_frame s r st b hn
  rw [h, hf]

/-! ### Bytes of a payload -/

theorem leNat_drop (l : Bytes) (k : Nat) : leNat l / 256 ^ k = leNat (l.drop k) := by
  induction k generalizing l with
  | zero => simp
  | succ k ih =>
    cases l with
    | nil => simp [leNat]
    | cons b t =>
      rw [List.drop_succ_cons, ← ih, Nat.pow_succ', ← Nat.div_div_eq_div_mul, leNat]
      have := b.isLt
      congr 1
      omega

theorem leNat_take (l : Bytes) (n : Nat) : leNat l % 256 ^ n = leNat (l.take n) := by
  induction n generalizing l with
  | zero => simp [leNat, Nat.mod_one]
  | succ n ih =>
    cases l with
    | nil => simp [leNat]
    | cons b t =>
      rw [List.take_succ_cons, leNat, leNat, ← ih, Nat.pow_succ', Nat.mod_mul]
      have := b.isLt
      rw [Nat.add_mul_mod_self_left, Nat.mod_eq_of_lt this, Nat.add_mul_div_left _ _ (by decide), Nat.div_eq_of_lt this, Nat.zero_add]

/-- The number that `n` bytes from `o` make. -/
theorem at_eq (l : Bytes) (o n : Nat) : at_ l o n = leNat l / 256 ^ o % 256 ^ n := by rw [at_, leNat_drop, leNat_take]

theorem at_lt (l : Bytes) (o n : Nat) : at_ l o n < 256 ^ n := by
  rw [at_eq]
  exact Nat.mod_lt _ (Nat.pow_pos (by decide))

/-- A number of `n` bytes fits in as many bits. -/
theorem toNat_ofNat_bytes {n x : Nat} (h : x < 256 ^ n) : (BitVec.ofNat (8 * n) x).toNat = x := by
  rw [BitVec.toNat_ofNat, Nat.pow_mul]
  exact Nat.mod_eq_of_lt h

/-- The byte at `i`. -/
theorem leNat_digit (l : Bytes) (i : Nat) : BitVec.ofNat 8 (leNat l / 256 ^ i) = l.getD i 0 := by
  rw [leNat_drop, List.getD_eq_getElem?_getD, ← Nat.add_zero i, ← List.getElem?_drop, Nat.add_zero]
  cases l.drop i with
  | nil => rfl
  | cons b t =>
    apply BitVec.eq_of_toNat_eq
    rw [leNat, BitVec.toNat_ofNat]
    have := b.isLt
    exact (Nat.add_mul_mod_self_left ..).trans (Nat.mod_eq_of_lt this)

end Sys2Proof.Machine
end

section
/-! PROOFS. Lines of a handle written and read by command: O41. -/

namespace Sys2Proof.Machine

/-! ### What a line written leaves alone -/

/-- The panel without memory, cores, clusters and the Vault. -/
def beyondStores (s : State) : State := { s with mem := [], cores := [], clusters := [], vault := Vault.reset }

/-- What reads none of the four is the same where the rest is. -/
theorem of_beyondStores {α : Type} {s t : State} (h : beyondStores t = beyondStores s) (f : State → α) (hf : ∀ u, f (beyondStores u) = f u) :
    f t = f s := by
  rw [← hf t, h, hf]

theorem beyondStores_bankWord (s : State) (k w m v : Nat) : beyondStores (bankWord s k w m v) = beyondStores s := by
  unfold bankWord
  extract_lets put e
  split
  · rfl
  · split
    · rfl
    · match e with
      | none => rfl
      | some true => rfl
      | some false => rfl

theorem beyondStores_modCore (s : State) (k : Nat) (f : Core → Core) : beyondStores (modCore s k f) = beyondStores s := rfl

theorem beyondStores_spmArrive (s : State) (k line : Nat) (v : Line) : beyondStores (spmArrive s k line v) = beyondStores s := by
  have hline (l m x : Nat) : beyondStores (bankLine s k l m x) = beyondStores s :=
    foldl_keeps beyondStores (fun _ _ => beyondStores_bankWord ..) _ _
  rw [spmArrive, spmWriteLine, beyondStores_modCore, hline]

/-- The controllers that a line written leaves in service are those that were. -/
def ServesSame (s t : State) : Prop := ∀ c, (getClu t c).channelOut = (getClu s c).channelOut ∧ (getClu t c).fenced = (getClu s c).fenced

theorem ServesSame.refl (s : State) : ServesSame s s := fun _ => ⟨rfl, rfl⟩

theorem ServesSame.trans {s t u : State} (h : ServesSame s t) (h' : ServesSame t u) : ServesSame s u :=
  fun c => ⟨(h' c).1.trans (h c).1, (h' c).2.trans (h c).2⟩

theorem ServesSame.modClu {s : State} {cl : Nat} {f : Cluster → Cluster} (hf : ∀ u, (f u).channelOut = u.channelOut ∧ (f u).fenced = u.fenced) :
    ServesSame s (modClu s cl f) :=
  fun c => ⟨getClu_modClu_keeps Cluster.channelOut (fun u => (hf u).1) c, getClu_modClu_keeps Cluster.fenced (fun u => (hf u).2) c⟩

theorem putBad_serves (s : State) (cl i : Nat) (b : Option BadLine) : ServesSame s (putBad s cl i b) := by
  have h : ServesSame s (modClu s cl fun u => { u with bad := match b with | some b => Tbl.put u.bad i b | none => Tbl.drop u.bad i }) :=
    .modClu fun _ => ⟨rfl, rfl⟩
  exact h

theorem lineStored_serves (s : State) (cl line : Nat) (v : Line) : ServesSame s (lineStored s cl line v) := by
  have h (t : State) : ServesSame t (noteErr t cl line 0) := .modClu fun _ => ⟨rfl, rfl⟩
  exact h { s with mem := _ }

theorem commitLine_stores (s : State) (cl line : Nat) (v : Line) : beyondStores (commitLine s cl line v) = beyondStores s ∧
    ServesSame s (commitLine s cl line v) := by
  by_cases hexh : line ∈ (getClu s cl).exhLines
  · rw [commitLine_exhausted v hexh]
    exact ⟨rfl, fun _ => ⟨rfl, rfl⟩⟩
  · have hstored := lineStored_serves s cl line v
    rcases commitLine_cures v hexh with h | ⟨i, b, h⟩
    · rw [h]
      exact ⟨rfl, hstored⟩
    · rw [h]
      exact ⟨rfl, hstored.trans (putBad_serves _ cl i b)⟩

theorem channelServes_congr {s t : State} (hd : t.dies = s.dies) (hs : ServesSame s t) (c : Nat) : channelServes t c = channelServes s c := by
  simp only [channelServes, getDie, hd, (hs c).1]

/-! ### DATA_WRITE (R171, R326) -/

section
variable {s : State} {p h off : Nat} {d : Handle} {b : Bytes}

theorem beyondStores_writeLines (s : State) (p h off : Nat) (d : Handle) (b : Bytes) (n : Nat) :
    beyondStores (writeLines s p h d off b n).1 = beyondStores s := by
  induction n with
  | zero => rfl
  | succ n ih =>
    simp only [writeLines]
    split
    · exact ih
    · split
      · split
        · exact ih
        · exact (beyondStores_spmArrive ..).trans ih
      · split
        · exact ih
        · exact (commitLine_stores ..).1.trans ih

/-- Whole lines of a channel that serves are written one after another: together, the bytes. -/
theorem writeLines_channel (hk : d.kind = false) (hserve : channelServes s (dataCluster s p h d) = true)
    (hf : (getClu s (dataCluster s p h d)).fenced = false) (n : Nat) :
    (writeLines s p h d off b n).2 = true ∧ ServesSame s (writeLines s p h d off b n).1 ∧
      (writeLines s p h d off b n).1.mem = Mem.writeN s.mem (dramAddr (dataCluster s p h d) (64 * handleLine d off)) (64 * n) (leNat b) := by
  induction n with
  | zero => exact ⟨rfl, fun _ => ⟨rfl, rfl⟩, rfl⟩
  | succ n ih =>
    obtain ⟨hok, hsame, hmem⟩ := ih
    have hbeyond := beyondStores_writeLines s p h off d b n
    generalize hw : writeLines s p h d off b n = w at hok hsame hmem hbeyond
    have hcl : dataCluster w.1 p h d = dataCluster s p h d := of_beyondStores hbeyond (dataCluster · p h d) fun _ => rfl
    have hserve' : channelServes w.1 (dataCluster s p h d) = true := by
      rw [channelServes_congr (of_beyondStores hbeyond State.dies fun _ => rfl) hsame, hserve]
    have hgo : ¬ (!channelServes w.1 (dataCluster s p h d) || (getClu w.1 (dataCluster s p h d)).fenced) = true := by
      rw [hserve', (hsame _).2, hf]
      decide
    have heq : writeLines s p h d off b (n + 1) =
        (commitLine w.1 (dataCluster s p h d) (handleLine d (off + n)) (BitVec.ofNat 512 (at_ b (64 * n) 64)), true) := by
      simp only [writeLines, hw, hok, hk, hcl, if_neg hgo, Bool.not_true, Bool.false_eq_true, if_false]
    obtain ⟨_, hserves⟩ := commitLine_stores w.1 (dataCluster s p h d) (handleLine d (off + n)) (BitVec.ofNat 512 (at_ b (64 * n) 64))
    rw [heq]
    refine ⟨rfl, hsame.trans hserves, ?_⟩
    have haddr : dramAddr (dataCluster s p h d) (64 * handleLine d (off + n)) = dramAddr (dataCluster s p h d) (64 * handleLine d off) + 64 * n := by
      simp only [dramAddr, handleLine, hk, Bool.false_eq_true, if_false]
      omega
    have hline : (BitVec.ofNat 512 (at_ b (64 * n) 64)).toNat = leNat b / 256 ^ (64 * n) % 256 ^ 64 :=
      (toNat_ofNat_bytes (at_lt b (64 * n) 64)).trans (at_eq b (64 * n) 64)
    rw [(commitLine_frame ..).1, hmem, haddr, hline, Mem.writeN_mod, Nat.mul_succ, Mem.writeN_add]

end

theorem dataWriteRun_refused {m : Msg} {s : State} (r : Reply)
    (h : dataRange s (at_ m.payload 0 1) (at_ m.payload 2 2) (at_ m.payload 4 4) ((m.payload.drop 8).length / 64) = none) :
    dataWriteRun m s r = complete s r stBadArgument [] := by
  simp only [dataWriteRun, pf, h]

theorem dataWriteRun_runs {m : Msg} {s : State} (r : Reply) {d : Handle} {cl : Nat} {w : State × Bool}
    (h : dataRange s (at_ m.payload 0 1) (at_ m.payload 2 2) (at_ m.payload 4 4) ((m.payload.drop 8).length / 64) = some d)
    (hcl : dataCluster s (at_ m.payload 0 1) (at_ m.payload 2 2) d = cl)
    (hw : writeLines s (at_ m.payload 0 1) (at_ m.payload 2 2) d (at_ m.payload 4 4 / 64) (m.payload.drop 8) ((m.payload.drop 8).length / 64) = w) :
    dataWriteRun m s r = if !d.kind && inSlice s cl then holdAt s cl (.dataWrite m r)
      else complete (if (getPart w.1 (at_ m.payload 0 1)).map.isSome && decide (at_ m.payload 2 2 < mapM (getPart w.1 (at_ m.payload 0 1)))
        then modPart w.1 (at_ m.payload 0 1) fun q => { q with lastWrite := some w.1.tally } else w.1) r (if w.2 then stOk else stFenced) [] := by
  simp only [dataWriteRun, pf, h, hcl, hw]

/-- The payload of a DATA_WRITE holds whole lines. -/
theorem cmdDataWrite_whole {m : Msg} (h : (cmdDataWrite m).form = true) : (m.payload.drop 8).length % 64 = 0 := by
  simp only [cmdDataWrite, Bool.and_eq_true] at h
  obtain ⟨⟨⟨⟨⟨⟨_, hwhole⟩, _⟩, _⟩, _⟩, _⟩, _⟩ := h
  exact of_decide_eq_true hwhole

/-! ### DATA_READ (R326) -/

/-- A DATA_READ asks for a line at least. -/
theorem cmdDataRead_lines {m : Msg} {rs : List ArrayRead} (h : (cmdDataRead m rs).form = true) : 1 ≤ at_ m.payload 8 1 := by
  simp only [cmdDataRead, Bool.and_eq_true] at h
  obtain ⟨⟨_, hlines⟩, _⟩ := h
  exact of_decide_eq_true hlines

theorem dataReadRun_refused {m : Msg} {rs : List ArrayRead} {s : State} (r : Reply)
    (h : dataRange s (at_ m.payload 0 1) (at_ m.payload 2 2) (at_ m.payload 4 4) (at_ m.payload 8 1) = none) :
    dataReadRun m rs s r = complete s r stBadArgument [] := by
  simp only [dataReadRun, pf, h]

theorem dataReadRun_runs {m : Msg} {rs : List ArrayRead} {s t : State} (r : Reply) {d : Handle} {cl : Nat} {st : Status} {b : Bytes}
    (h : dataRange s (at_ m.payload 0 1) (at_ m.payload 2 2) (at_ m.payload 4 4) (at_ m.payload 8 1) = some d)
    (hcl : dataCluster s (at_ m.payload 0 1) (at_ m.payload 2 2) d = cl)
    (hw : readLines s (at_ m.payload 0 1) (at_ m.payload 2 2) d (at_ m.payload 4 4 / 64) rs (at_ m.payload 8 1) = (t, st, b)) :
    dataReadRun m rs s r = if !d.kind && inSlice s cl then holdAt s cl (.dataRead m rs r) else complete t r st (if st = stFenced then [] else b) := by
  simp only [dataReadRun, pf, h, hcl, hw]

/-- The first line of a channel that does not serve, or whose cluster is fenced, ends the read. -/
theorem readLines_fenced {s : State} {p h off : Nat} {d : Handle} (hk : d.kind = false)
    (hout : channelServes s (dataCluster s p h d) = false ∨ (getClu s (dataCluster s p h d)).fenced = true) (rs : List ArrayRead) (n : Nat) :
    readLines s p h d off rs (n + 1) = (s, stFenced, []) := by
  have hout' : (!channelServes s (dataCluster s p h d) || (getClu s (dataCluster s p h d)).fenced) = true := by simpa using hout
  induction n with
  | zero => simp only [readLines, hk, hout', ne_eq, not_true_eq_false, if_false, if_true, Bool.false_eq_true]
  | succ n ih =>
    have hne : stFenced ≠ stOk := by decide
    rw [readLines, ih]
    simp only [if_pos hne]

/-- Settles O41: each command runs its body on the state with the request taken in; lines written one after another are the bytes of the
payload, and the first line of a channel that does not serve ends a read. -/
theorem dataCommands : Obligations.DataCommands := by
  unfold Obligations.DataCommands
  refine ⟨?write, ?read, ?dist⟩
  case write =>
    intro m s u r p h off b hb
    have hexec : exec (.dataWrite m) s = .next (dataWriteRun m u r) := congrArg Host.Outcome.next (teller_begins (.dataWrite m) hb)
    refine ⟨fun hnone => ?_, fun d hd => ?_⟩
    · rw [hexec, dataWriteRun_refused _ ((dataRange_started ..).trans hnone)]
    · intro late w noted kept
      obtain ⟨_, _, _, hauth, _, _, _, hform, _⟩ := hb
      have hrun := dataWriteRun_runs r ((dataRange_started false m s ..).trans hd) (dataCluster_started ..) (rfl : _ = w)
      rw [inSlice_started] at hrun
      have hbeyond : beyondStores w.1 = beyondStores u := beyondStores_writeLines ..
      have hpart : getPart w.1 p = getPart s p := (of_beyondStores hbeyond (getPart · p) fun _ => rfl).trans (getPart_started ..)
      have htally : w.1.tally = s.tally := (of_beyondStores hbeyond State.tally fun _ => rfl).trans (tally_started ..)
      have hlate : (!d.kind && inSlice s (dataCluster s p h d)) = true ↔ late := by simp [late]
      have hkept : ((getPart w.1 p).map.isSome && decide (h < mapM (getPart w.1 p))) = true ↔ kept := by
        simp [kept, hpart, Option.isSome_iff_ne_none]
      have hwrite (hl : ¬ late) : exec (.dataWrite m) s = .next (complete (if (getPart w.1 p).map.isSome && decide (h < mapM (getPart w.1 p))
          then modPart w.1 p fun q => { q with lastWrite := some w.1.tally } else w.1) r (if w.2 then stOk else stFenced) []) := by
        rw [hexec, hrun, if_neg (mt hlate.mp hl)]
      refine ⟨fun hl => ?_, fun hl hk => ?_, fun hl hk => ?_, fun hkind hslice hwf hserve hf => ?_⟩
      · rw [hexec, hrun, if_pos (hlate.mpr hl)]
      · rw [hwrite hl, if_pos (hkept.mpr hk), htally]
      · rw [hwrite hl, if_neg (mt hkept.mp hk)]
      · obtain ⟨_, _, hmem⟩ := writeLines_channel (s := u) (p := p) (h := h) (off := off / 64) (b := b) hkind (by simpa [u] using hserve)
          (by simpa [u] using hf) (b.length / 64)
        have hlen : 64 * (b.length / 64) = b.length := Nat.mul_div_cancel' (Nat.dvd_of_mod_eq_zero (cmdDataWrite_whole hform))
        rw [dataCluster_started, hlen, mem_started] at hmem
        refine ⟨_, hwrite fun hl => by simp [hl.2] at hslice, ?_⟩
        generalize hx : (if (getPart w.1 p).map.isSome && decide (h < mapM (getPart w.1 p))
          then modPart w.1 p fun q => { q with lastWrite := some w.1.tally } else w.1) = x
        have hxw : x.mem = w.1.mem ∧ x.sessions = w.1.sessions := by
          rw [← hx]
          split <;> exact ⟨rfl, rfl⟩
        have hnum : Numbered x r.sess := by
          have hss : x.sessions = u.sessions := hxw.2.trans (of_beyondStores hbeyond State.sessions fun _ => rfl)
          intro t ht
          exact numbered_started hauth t (hss ▸ ht)
        rw [of_complete _ _ hnum State.mem fun _ _ => rfl, hxw.1, hmem]
        refine ⟨fun i hi => ?_, fun a ha => ?_⟩
        · rw [Mem.read_writeN _ _ _ _ _ hwf, if_pos (by omega), Nat.add_sub_cancel_left, leNat_digit]
        · rw [Mem.read_writeN _ _ _ _ _ hwf, if_neg]
          intro hin
          exact ha (a - dramAddr (dataCluster s p h d) (64 * handleLine d (off / 64))) (by omega) (by omega)
  case read =>
    intro m rs s u r p h off n hb
    have hexec : exec (.dataRead m rs) s = .next (withReports s (dataReadRun m rs u r)) :=
      congrArg (fun t => Host.Outcome.next (withReports s t)) (teller_begins (.dataRead m rs) hb)
    have hrun {d : Handle} {t : State} {st : Status} {b : Bytes} (hd : dataRange s p h off n = some d)
        (hlines : readLines u p h d (off / 64) rs n = (t, st, b)) : dataReadRun m rs u r =
          if !d.kind && inSlice s (dataCluster s p h d) then holdAt u (dataCluster s p h d) (.dataRead m rs r)
          else complete t r st (if st = stFenced then [] else b) := by
      rw [← inSlice_started true m s]
      exact dataReadRun_runs (rs := rs) r ((dataRange_started ..).trans hd) (dataCluster_started ..) hlines
    obtain ⟨_, _, _, hauth, _, _, _, hform, _⟩ := hb
    have hdone (st : Status) : withReports s (complete u r st []) = complete u r st [] := Host.Outcome.next.inj (report_complete hauth st [])
    have hgo {d : Handle} (h' : d.kind = true ∨ inSlice s (dataCluster s p h d) = false) :
        ¬ (!d.kind && inSlice s (dataCluster s p h d)) = true := by
      rcases h' with h' | h' <;> simp [h']
    refine ⟨fun hnone => ?_, fun d hd hk hs => ?_, fun d t st b hd hfree hlines => ⟨fun hst => ?_, fun hst => ?_⟩, fun d hd hk hs hout => ?_⟩
    · rw [hexec, dataReadRun_refused _ ((dataRange_started ..).trans hnone), hdone]
    · rw [hexec, hrun hd rfl, if_pos (by rw [hk, hs]; rfl)]
    · rw [hexec, hrun hd hlines, if_neg (hgo hfree), if_pos hst]
    · rw [hexec, hrun hd hlines, if_neg (hgo hfree), if_neg hst]
    · obtain ⟨k, hk'⟩ : ∃ k, n = k + 1 := ⟨n - 1, by have := cmdDataRead_lines hform; omega⟩
      have hout' : channelServes u (dataCluster u p h d) = false ∨ (getClu u (dataCluster u p h d)).fenced = true := by
        rwa [dataCluster_started, channelServes_started, getClu_started]
      rw [hexec, hrun hd (hk' ▸ readLines_fenced hk hout' rs k), if_neg (hgo (.inr hs)), if_pos rfl, hdone]
  case dist =>
    intro m s p off len w hb
    have hbytes : distBytes (started true m s) p off len = w := of_started true m s (distBytes · p off len) fun _ _ _ => rfl
    have hexec : exec (.distRead m) s = .next (if !hasPart s p || (getPart s p).dist = DistTable.reset || w.1 < off + len
        then complete (started true m s) (replyOf s m) stBadArgument [] else complete (started true m s) (replyOf s m) stOk w.2) := by
      rw [← hbytes, ← hasPart_started true m s, ← getPart_started true m s]
      exact congrArg Host.Outcome.next (teller_begins (.distRead m) hb)
    refine ⟨fun hbad => ?_, fun hpart hdist hlen => ?_⟩
    · rw [hexec, if_pos (by simpa [or_assoc] using hbad)]
    · rw [hexec, if_neg (by simp [hpart, hdist, hlen])]

end Sys2Proof.Machine
end

section
/-! PROOFS. Windows opened and closed, the Ledger set and read: O43. -/

namespace Sys2Proof.Machine

/-! ### Descriptors and what the controllers still hold of them (R172) -/

/-- What lags: each controller of `l` keeps what it still held before, else the old descriptor. -/
def lagged {α : Type} (l : List Nat) (old : α) (t : Tbl α) : Tbl α := l.foldl (fun t c => if Tbl.has t c then t else Tbl.put t c old) t

theorem find_lagged {α : Type} (l : List Nat) (old : α) (t : Tbl α) (c : Nat) :
    Tbl.find (lagged l old t) c = if c ∈ l then some ((Tbl.find t c).getD old) else Tbl.find t c := by
  induction l generalizing t with
  | nil => simp [lagged]
  | cons a l ih =>
    have hstep : lagged (a :: l) old t = lagged l old (if Tbl.has t a then t else Tbl.put t a old) := rfl
    rw [hstep, ih]
    by_cases ha : Tbl.has t a = true
    · rw [if_pos ha]
      by_cases hca : c = a
      · obtain ⟨x, hx⟩ := Option.isSome_iff_exists.mp ha
        simp [hca, hx]
      · simp [hca]
    · rw [if_neg ha]
      have hnone : Tbl.find t a = none := by simpa [Tbl.has] using ha
      by_cases hca : c = a
      · simp [hca, hnone]
      · simp [hca, Tbl.find_put_ne _ _ _ _ hca]

theorem lagged_ne_nil {α : Type} {l : List Nat} (hl : l ≠ []) (old : α) (t : Tbl α) : lagged l old t ≠ [] := by
  obtain ⟨c, l, rfl⟩ := List.exists_cons_of_ne_nil hl
  intro h
  have := find_lagged (c :: l) old t c
  rw [h, if_pos List.mem_cons_self] at this
  cases this

theorem partClusters_ne_nil {q : Partition} (h : q.sites ≠ []) : partClusters q ≠ [] := by
  obtain ⟨d, l, hd⟩ := List.exists_cons_of_ne_nil h
  simp [partClusters, hd]

theorem getPart_setPart_ne {s : State} {p q : Nat} (x : Partition) (h : q ≠ p) : getPart (setPart s p x) q = getPart s q :=
  Tbl.get_put_ne _ _ _ _ _ h

theorem getPart_modPart (s : State) (p : Nat) (f : Partition → Partition) : getPart (modPart s p f) p = f (getPart s p) := getPart_setPart ..

/-- What the controllers hold of a window once its close is under way. -/
def closeLags (q : Partition) (w : Nat) : Tbl Window := lagged (partClusters q) (Tbl.get q.windows w Window.reset) (Tbl.get q.winLags w [])

/-- A partition with a window closed at the hub. -/
def closedAt (q : Partition) (w : Nat) : Partition :=
  { q with windows := Tbl.put q.windows w (closeWindow (Tbl.get q.windows w Window.reset))
           winLags := if closeLags q w = [] then q.winLags else Tbl.put q.winLags w (closeLags q w) }

theorem closeEverywhere_eq (s : State) (p w : Nat) : closeEverywhere s p w = setPart s p (closedAt (getPart s p) w) := rfl

theorem getPart_closeEverywhere (s : State) (p w : Nat) : getPart (closeEverywhere s p w) p = closedAt (getPart s p) w := getPart_setPart ..

/-- A window that closes lags where the partition has sites. -/
theorem lagging_closeEverywhere (s : State) {p w : Nat} (h : (getPart s p).sites ≠ []) : lagging (closeEverywhere s p w) (p, 4096 + w) = true := by
  have hlag : closeLags (getPart s p) w ≠ [] := lagged_ne_nil (partClusters_ne_nil h) _ _
  have h4096 : ¬ 4096 + w < 4096 := by omega
  rw [lagging, if_neg h4096, getPart_closeEverywhere, Nat.add_sub_cancel_left, closedAt, if_neg hlag, Tbl.has, Tbl.find_put_self]
  rfl

/-! ### Table 14-10 -/

section
variable (ro : Bool) (m : Msg) (s : State)

@[simp] theorem getWindow_started (p n : Nat) : getWindow (started ro m s) p n = getWindow s p n :=
  of_started ro m s (getWindow · p n) fun _ _ _ => rfl
@[simp] theorem allowOf_started (p : Nat) : allowOf (started ro m s) p = allowOf s p := of_started ro m s (allowOf · p) fun _ _ _ => rfl
@[simp] theorem partsOfJob_started (j : Nat) : partsOfJob (started ro m s) j = partsOfJob s j :=
  of_started ro m s (partsOfJob · j) fun _ _ _ => rfl
@[simp] theorem activeReqs_started (f : Request → Bool) : activeReqs (started ro m s) f = activeReqs s f :=
  of_started ro m s (activeReqs · f) fun _ _ _ => rfl
@[simp] theorem tickets_started : (started ro m s).tickets = s.tickets := of_started ro m s State.tickets fun _ _ _ => rfl
@[simp] theorem now_started : now (started ro m s) = now s := of_started ro m s now fun _ _ _ => rfl

end

theorem bitVec_ofNat_field (v lo n : Nat) : BitVec.ofNat n (field v lo n) = BitVec.ofNat n (v / 2 ^ lo) := by
  rw [field, Nat.shiftRight_eq_div_pow]
  exact BitVec.eq_of_toNat_eq (by simp)

/-- The state with a window of the partition set. -/
def windowOpened (u : State) (p n : Nat) (w : Window) : State :=
  bumpFree (modPart u p fun q => { q with windows := Tbl.put q.windows n w })

theorem getPart_windowOpened (u : State) (p n : Nat) (w : Window) :
    getPart (windowOpened u p n w) p = { getPart u p with windows := Tbl.put (getPart u p).windows n w } := getPart_setPart u p _

/-- Settles O43: each command's run on the state taken in, whose partitions, tickets and requests are those before. -/
theorem windowAndLedgerCommands : Obligations.WindowAndLedgerCommands := by
  unfold Obligations.WindowAndLedgerCommands
  refine ⟨?windows, ?ledger⟩
  case windows =>
    intro m s u r p n old v may
    refine ⟨fun hb => ?opens, fun hb => ?closes, fun hb => ?query⟩
    case opens =>
      have hexec : exec (.winOpen m) s = .next ((cmdWinOpen m).run u r) := congrArg Host.Outcome.next (teller_begins (.winOpen m) hb)
      have hrun : (cmdWinOpen m).run u r =
          if !hasPart u p || !openAllowed u p (getWindow u p n) (openedWindow u (getWindow u p n) v) then complete u r stBadArgument []
          else complete (windowOpened u p n (openedWindow u (getWindow u p n) v)) r stOk
            (leBytes 2 (openedWindow u (getWindow u p n) v).gen.toNat) := rfl
      rw [hasPart_started, getWindow_started] at hrun
      have hmay : (!hasPart s p || !openAllowed u p old (openedWindow u old v)) = true ↔ ¬ may := by
        simp only [may]
        cases hasPart s p <;> simp
      refine ⟨fun hno => ?_, fun hyes => ?_⟩
      · rw [hexec, hrun, if_pos (hmay.mpr hno)]
      · refine ⟨_, by rw [hexec, hrun, if_neg fun hc => hmay.mp hc hyes], ?_⟩
        obtain ⟨_, _, _, hauth, _⟩ := hb
        have hnum : Numbered (windowOpened u p n (openedWindow u old v)) r.sess := numbered_started hauth
        have hpart (q : Nat) := of_complete stOk (leBytes 2 (openedWindow u old v).gen.toNat) hnum (getPart · q) fun _ _ => rfl
        generalize complete _ _ _ _ = t at hpart
        have hp : getPart t p = { getPart s p with windows := Tbl.put (getPart s p).windows n (openedWindow u old v) } := by
          rw [hpart, ← getPart_started false m s]
          exact getPart_windowOpened ..
        have hw (k : Nat) : getWindow t p k = Tbl.get (Tbl.put (getPart s p).windows n (openedWindow u old v)) k Window.reset := by
          rw [getWindow, hp]
        refine ⟨?_, fun k hk => ?_, ?_, fun q hq => ?_⟩
        · rw [hw, Tbl.get_put_self]
          exact ⟨rfl, rfl, bitVec_ofNat_field v 3 2, rfl, bitVec_ofNat_field v 8 20, rfl, bitVec_ofNat_field v 64 64,
            bitVec_ofNat_field v 128 128⟩
        · rw [hw, Tbl.get_put_ne _ _ _ _ _ hk]
          rfl
        · rw [hp]
        · rw [hpart, ← getPart_started false m s]
          exact getPart_setPart_ne _ hq
    case closes =>
      have hexec : exec (.winClose m) s = .next (if !hasPart u p then complete u r stBadArgument []
          else if (getWindow u p n).state = 0 then complete u r stOk []
          else completeAfter (closeEverywhere u p n) r stOk [] [(p, 4096 + n)] []) :=
        congrArg Host.Outcome.next (teller_begins (.winClose m) hb)
      rw [hasPart_started, getWindow_started] at hexec
      have hwin (k : Nat) : getWindow (closeEverywhere u p n) p k = Tbl.get (Tbl.put (getPart s p).windows n (closeWindow old)) k Window.reset := by
        rw [getWindow, getPart_closeEverywhere, getPart_started]
        rfl
      refine ⟨fun hno => ?_, fun hyes hshut => ?_, fun hyes hopen => ⟨?_, ?_, fun k hk => ?_, fun hsites => ?_⟩⟩
      · rw [hexec, if_pos (by rw [hno]; rfl)]
      · rw [hexec, if_neg (by simp [hyes]), if_pos hshut]
      · rw [hexec, if_neg (by simp [hyes]), if_neg hopen]
      · rw [hwin, Tbl.get_put_self]
        rfl
      · rw [hwin, Tbl.get_put_ne _ _ _ _ _ hk]
        rfl
      · exact lagging_closeEverywhere u (by rwa [getPart_started])
    case query =>
      have hexec : exec (.winQuery m) s = .next (if !hasPart (started true m s) p then complete (started true m s) r stBadArgument []
          else complete (started true m s) r stOk (leBytes 32 (getWindow (started true m s) p n).word)) :=
        congrArg Host.Outcome.next (teller_begins (.winQuery m) hb)
      rw [hasPart_started, getWindow_started] at hexec
      refine ⟨fun hno => ?_, fun hyes => ?_⟩
      · rw [hexec, if_pos (by rw [hno]; rfl)]
      · rw [hexec, if_neg (by simp [hyes])]
  case ledger =>
    intro m s u r p l cur held
    refine ⟨fun hb => ?sets, fun hb => ?reads, fun hb => ?forecast⟩
    case sets =>
      have hexec : exec (.ledgerSet m) s = .next ((cmdLedgerSet m).run u r) := congrArg Host.Outcome.next (teller_begins (.ledgerSet m) hb)
      have hrun : (cmdLedgerSet m).run u r = if !hasPart u p then complete u r stBadArgument [] else complete (modPart u p fun q =>
          let l := q.ledger
          let cur := l.next.getD (l.pmode, l.allow, l.resv, l.aging)
          { q with ledger := { l with next := some (BitVec.ofNat 2 (held 1 1 cur.1.toNat), held 4 4 cur.2.1, held 8 4 cur.2.2.1,
            held 12 2 cur.2.2.2) } }) r stOk [] := rfl
      rw [hasPart_started] at hrun
      refine ⟨fun hno => ?_, fun hyes => ?_⟩
      · rw [hexec, hrun, if_pos (by rw [hno]; rfl)]
      · rw [hexec, hrun, if_neg (by simp [hyes]), modPart, modPart, getPart_started]
    case reads =>
      intro live
      have hexec : exec (.ledgerRead m) s = .next ((cmdLedgerRead m).run (started true m s) r) :=
        congrArg Host.Outcome.next (teller_begins (.ledgerRead m) hb)
      have hrun (v : State) : (cmdLedgerRead m).run v r = if !hasPart v p then complete v r stBadArgument [] else complete v r stOk
          (leBytes 8 (getPart v p).ledger.total ++ leBytes 4 (getPart v p).ledger.last ++ leBytes 4 (allowOf v p) ++
            leBytes 2 (activeReqs v fun x => (partsOfJob v x.sub.job).contains p).length ++
            leBytes 2 (v.tickets.filter fun t => (partsOfJob v t.2.sub.job).contains p && decide (now v < t.2.last.toNat + 10000000000)).length) :=
        rfl
      have hread := hrun (started true m s)
      simp only [hasPart_started, getPart_started, allowOf_started, partsOfJob_started, activeReqs_started, tickets_started,
        now_started] at hread
      refine ⟨fun hno => ?_, fun hyes => ?_⟩
      · rw [hexec, hread, if_pos (by rw [hno]; rfl)]
      · rw [hexec, hread, if_neg (by simp [hyes])]
    case forecast =>
      intro w
      rw [← tally_started false m s]
      exact congrArg Host.Outcome.next (teller_begins (.forecast m) hb)

end Sys2Proof.Machine
end

section
/-! PROOFS. What PART_SET builds on: a partition's layout, which steps and wakes leave alone, and the numbers a session has left. -/

namespace Sys2Proof.Machine

/-! ### The layout of a partition -/

/-- What PART_SET fixes of a partition. -/
structure Layout where
  sites : List Nat
  numbering : List Nat
  distGen : BitVec 16
  mapped : Bool
  handles : Tbl Handle
  windows : Tbl Window
  fenced : Bool

def Partition.layout (q : Partition) : Layout := ⟨q.sites, q.numbering, q.distGen, q.map.isSome, q.handles, q.windows, q.fenced⟩

section
variable {p : Nat}

/-- The layout of partition `p`, and the sessions. -/
def layoutOf (p : Nat) (s : State) : Layout × Tbl Session := ((getPart s p).layout, s.sessions)

theorem layoutOf_of_parts {s t : State} (h : t.parts = s.parts) (hs : t.sessions = s.sessions) : layoutOf p t = layoutOf p s := by
  rw [layoutOf, getPart, h, hs]
  rfl

theorem layoutOf_modPart (s : State) (x : Nat) {f : Partition → Partition} (hf : ∀ q, (f q).layout = q.layout) :
    layoutOf p (modPart s x f) = layoutOf p s := by
  by_cases hx : p = x
  · subst hx
    rw [layoutOf, getPart_modPart, hf]
    rfl
  · rw [layoutOf, modPart, getPart_setPart_ne _ hx]
    rfl

theorem layoutOf_modPart_ite (c : Prop) [Decidable c] (s : State) (x : Nat) {f : Partition → Partition} (hf : ∀ q, (f q).layout = q.layout) :
    layoutOf p (if c then modPart s x f else s) = layoutOf p s := by
  split
  · exact layoutOf_modPart s x hf
  · rfl

theorem beyondStores_spmWrite (s : State) (k a n v : Nat) : beyondStores (spmWrite s k a n v) = beyondStores s := by
  have hline (t : State) (l m x : Nat) : beyondStores (spmWriteLine t k l m x) = beyondStores t :=
    (beyondStores_modCore ..).trans (foldl_keeps beyondStores (fun _ _ => beyondStores_bankWord ..) _ _)
  unfold spmWrite
  extract_lets first u
  split
  · exact hline ..
  · exact (hline ..).trans (hline ..)

theorem beyondStores_writeBuf (s : State) (x h o : Nat) (b : Bytes) : beyondStores (writeBuf s x h o b) = beyondStores s := by
  unfold writeBuf
  extract_lets q d
  split
  · rfl
  · split
    · split
      · exact foldl_keeps beyondStores (fun _ _ => beyondStores_spmWrite ..) _ _
      · rfl
    · rw [hubWrite]
      split
      · rfl
      · exact foldl_keeps beyondStores (fun _ _ => (commitLine_stores ..).1) _ _

theorem layoutOf_writeBuf (s : State) (x h o : Nat) (b : Bytes) : layoutOf p (writeBuf s x h o b) = layoutOf p s :=
  of_beyondStores (beyondStores_writeBuf ..) (layoutOf p) fun _ => rfl

theorem layoutOf_writeSlot (s : State) (j r : Nat) : layoutOf p (writeSlot s j r) = layoutOf p s := by
  unfold writeSlot
  split
  · rfl
  · split
    · rfl
    · extract_lets ps live fresh r₁ t
      refine (foldl_keeps (layoutOf p) (fun u x => ?_) ps t).trans (layoutOf_of_parts (rfl : t.parts = s.parts) rfl)
      dsimp only
      split
      · rfl
      · split
        · rw [layoutOf_writeBuf, layoutOf_modPart_ite, layoutOf_writeBuf]
          exact fun _ => rfl
        · rw [layoutOf_modPart_ite, layoutOf_writeBuf]
          exact fun _ => rfl

theorem layoutOf_assignSlots (s : State) (j : Nat) (b : Bool) : layoutOf p (assignSlots s j b) = layoutOf p s := by
  refine foldl_keeps (layoutOf p) (fun s r => ?_) _ s
  dsimp only
  split
  · rfl
  · split <;> rfl

theorem layoutOf_clearVacated (s : State) (j : Nat) (b : Bool) : layoutOf p (clearVacated s j b) = layoutOf p s := by
  refine (foldl_keeps (layoutOf p) (fun s x => ?_) _ _).trans (layoutOf_of_parts rfl rfl)
  split
  · exact foldl_keeps (layoutOf p) (fun _ _ => layoutOf_writeBuf ..) _ _
  · rfl

theorem layoutOf_writeGroup (s : State) (j : Nat) (b : Bool) : layoutOf p (writeGroup s j b) = layoutOf p s := by
  rw [writeGroup, foldl_keeps (layoutOf p) fun _ _ => layoutOf_writeSlot .., layoutOf_assignSlots, layoutOf_clearVacated,
    foldl_keeps (layoutOf p) fun _ _ => layoutOf_writeSlot ..]

theorem layoutOf_restorePred (s : State) (j : Nat) : layoutOf p (restorePred s j) = layoutOf p s := by
  unfold restorePred
  split
  · rfl
  · refine foldl_keeps (layoutOf p) (fun s x => layoutOf_modPart s x fun q => ?_) _ s
    split
    · simp [Partition.layout]
    · rfl

theorem layoutOf_beginStep (s : State) (j : Nat) : layoutOf p (beginStep s j) = layoutOf p s := by
  unfold beginStep
  split
  · rfl
  · extract_lets s₁ ks fresh s₂
    have h₂ : layoutOf p s₂ = layoutOf p s := (layoutOf_of_parts rfl rfl).trans (layoutOf_restorePred s j)
    refine (foldl_keeps (layoutOf p) (fun s x => ?_) _ s₂).trans h₂
    exact layoutOf_modPart s x fun _ => rfl

theorem layoutOf_kickJob (s : State) (j : Nat) : layoutOf p (kickJob s j) = layoutOf p s := by
  unfold kickJob
  split
  · rw [layoutOf_beginStep, layoutOf_writeGroup, layoutOf_writeGroup]
    refine foldl_keeps (layoutOf p) (fun s x => ?_) _ s
    exact layoutOf_modPart s x fun _ => rfl
  · rfl

/-- A partition without a map that is all awake launches nothing. -/
theorem layoutOf_wakeDone {s : State} (h : (layoutOf p s).1.mapped = false) : layoutOf p (wakeDone s p) = layoutOf p s := by
  unfold wakeDone
  extract_lets q u
  have hq : ¬ q.map.isSome = true := by simpa [layoutOf, Partition.layout] using h
  split
  · rw [layoutOf_kickJob]
    exact layoutOf_modPart s p fun _ => rfl
  · rfl

theorem layoutOf_requestWake (s : State) (cl : Nat) : layoutOf p (requestWake s cl) = layoutOf p s := by
  unfold requestWake
  extract_lets u
  split <;> rfl

end

/-! ### The numbers that sessions have left (R312) -/

/-- Every session can number `k` messages and one more. -/
def NumbersLeft (k : Nat) (s : State) : Prop := ∀ n t, Tbl.find s.sessions n = some t → t.seqOut.toNat + k < 2 ^ 63

theorem NumbersLeft.numbered {k : Nat} {s : State} (h : NumbersLeft k s) (n : Nat) : Numbered s n := fun t ht => by have := h n t ht; omega

theorem NumbersLeft.mono {k l : Nat} {s : State} (h : NumbersLeft l s) (hk : k ≤ l) : NumbersLeft k s := fun n t ht => by have := h n t ht; omega

theorem NumbersLeft.put {k n : Nat} {s t : State} {x : Session} (h : NumbersLeft k s) (hx : x.seqOut.toNat + k < 2 ^ 63)
    (ht : t.sessions = Tbl.put s.sessions n x) : NumbersLeft k t := by
  intro m y hy
  rw [ht] at hy
  by_cases hm : m = n
  · rw [hm, Tbl.find_put_self] at hy
    exact Option.some.inj hy ▸ hx
  · rw [Tbl.find_put_ne _ _ _ _ hm] at hy
    exact h m y hy

theorem NumbersLeft.sendMsg {k : Nat} {s : State} (h : NumbersLeft (k + 1) s) (n port : Nat) (m : Msg) : NumbersLeft k (sendMsg s n port m) := by
  cases ht : Tbl.find s.sessions n with
  | none =>
    rw [Machine.sendMsg, ht]
    exact h.mono (Nat.le_succ k)
  | some t =>
    have hn := h n t ht
    obtain ⟨u, es, hu, _, hsent | hsent⟩ := sendMsg_eq port m ht (by omega)
    · rw [hsent]
      exact h.mono (Nat.le_succ k)
    · exact (h.mono (Nat.le_succ k)).put (n := n) (x := u) (by omega) (by rw [hsent])

theorem NumbersLeft.complete {k : Nat} {s : State} (h : NumbersLeft (k + 1) s) (r : Reply) (st : Status) (b : Bytes) :
    NumbersLeft k (complete s r st b) := by
  unfold Machine.complete
  split
  · exact h.mono (Nat.le_succ k)
  · next t ht =>
    split
    · exact h.mono (Nat.le_succ k)
    · generalize Mailbox.completed _ _ _ = x
      have hput : NumbersLeft (k + 1) { s with sessions := Tbl.put s.sessions r.sess { t with boxes := Tbl.put t.boxes r.mbox x } } :=
        h.put (x := { t with boxes := Tbl.put t.boxes r.mbox x }) (h _ t ht) rfl
      exact hput.sendMsg r.sess r.port _

theorem setWin_seqOut (t : Session) (port : Nat) (w : ReplayWin) : (setWin t port w).seqOut = t.seqOut := by unfold setWin; split <;> rfl

theorem NumbersLeft.modSess {k n : Nat} {s : State} {f : Session → Session} (h : NumbersLeft k s) (hf : ∀ t, (f t).seqOut = t.seqOut) :
    NumbersLeft k (modSess s n f) := by
  unfold Machine.modSess
  split
  · next t ht => exact h.put (n := n) (x := f t) (by rw [hf]; exact h n t ht) rfl
  · exact h

/-- Taking a request in numbers nothing. -/
theorem NumbersLeft.started {k : Nat} {s : State} (h : NumbersLeft k s) (ro : Bool) (m : Msg) : NumbersLeft k (started ro m s) := by
  have hin : NumbersLeft k (modBox (received m s) m.sess.toNat m.mbox.toNat fun b =>
      { b with running := b.running ++ [m.rseq.toNat], held := Tbl.drop b.held m.rseq.toNat }) := by
    have hrec : NumbersLeft k (received m s) := h.modSess fun _ => setWin_seqOut ..
    exact hrec.modSess fun _ => rfl
  intro n t ht
  rw [started_sessions] at ht
  exact hin n t ht

/-- What the end of a fence can change where no reset waits for it: partitions, sessions and who waits for the panel's. -/
def FenceFrame (s t : State) : Prop := ∃ ps ss es pf, t = { s with parts := ps, sessions := ss, emitted := es, panelFence := pf }

theorem FenceFrame.refl (s : State) : FenceFrame s s := ⟨_, _, _, _, rfl⟩

theorem FenceFrame.complete {k : Nat} {s t : State} (h : FenceFrame s t) (hn : NumbersLeft k t) (r : Reply) (st : Status) (b : Bytes) :
    FenceFrame s (complete t r st b) := by
  obtain ⟨ps, ss, es, pf, rfl⟩ := h
  obtain ⟨ss', es', h'⟩ := complete_frame _ r st b (hn.numbered r.sess)
  exact ⟨_, _, _, _, h'⟩

theorem parts_complete {k : Nat} {s : State} (hn : NumbersLeft k s) (r : Reply) (st : Status) (b : Bytes) : (complete s r st b).parts = s.parts :=
  of_complete st b (hn.numbered r.sess) State.parts fun _ _ => rfl

/-- The end of a fence completes at most the partition's fence and the panel's. -/
theorem fenceEnded_frame {k : Nat} {s : State} (p : Nat) (h : NumbersLeft (k + 2) s) : FenceFrame s (fenceEnded s p) ∧
    NumbersLeft k (fenceEnded s p) ∧ (getPart (fenceEnded s p) p).resetNext = (getPart s p).resetNext ∧
    (fenceEnded s p).panelReset = s.panelReset := by
  unfold fenceEnded
  split
  · exact ⟨.refl s, h.mono (by omega), rfl, rfl⟩
  · next r _ =>
    extract_lets s₁ s₂
    have h₁ : FenceFrame s s₁ := ⟨_, _, _, _, rfl⟩
    have hn₁ : NumbersLeft (k + 2) s₁ := h
    have hp₁ : (getPart s₁ p).resetNext = (getPart s p).resetNext := by rw [getPart_modPart]
    have h₂ : FenceFrame s s₂ ∧ NumbersLeft (k + 1) s₂ ∧ s₂.parts = s₁.parts := by
      unfold s₂
      split
      · exact ⟨h₁.complete hn₁ _ _ _, hn₁.complete _ _ _, parts_complete hn₁ ..⟩
      · exact ⟨h₁, hn₁.mono (by omega), rfl⟩
    obtain ⟨hframe, hnum, hparts⟩ := h₂
    have hp₂ : (getPart s₂ p).resetNext = (getPart s p).resetNext := by rw [← hp₁, getPart, hparts]; rfl
    have hr₂ : s₂.panelReset = s.panelReset := by obtain ⟨_, _, _, _, e⟩ := hframe; rw [e]
    split
    · exact ⟨hframe, hnum.mono (by omega), hp₂, hr₂⟩
    · split
      · exact ⟨hframe, hnum.mono (by omega), hp₂, hr₂⟩
      · have h₃ : FenceFrame s { s₂ with panelFence := none } := by obtain ⟨_, _, _, _, e⟩ := hframe; rw [e]; exact ⟨_, _, _, _, rfl⟩
        have hn₃ : NumbersLeft (k + 1) { s₂ with panelFence := none } := hnum
        have hc := h₃.complete hn₃
        refine ⟨hc _ _ _, hn₃.complete _ _ _, ?_, ?_⟩
        · rw [← hp₂, getPart, parts_complete hn₃]
          rfl
        · obtain ⟨_, _, _, _, e⟩ := hc _ stOk []
          rw [e]

/-- A fence that no reset waits for is over. -/
theorem fenceDone_frame {k : Nat} {s : State} {p : Nat} (h : NumbersLeft (k + 2) s) (hreset : (getPart s p).resetNext = none)
    (hpanel : s.panelReset = none) : FenceFrame s (fenceDone s p) ∧ NumbersLeft k (fenceDone s p) := by
  obtain ⟨hframe, hnum, hr, hp⟩ := fenceEnded_frame p h
  have hone : resetNow (fenceEnded s p) p = fenceEnded s p := by rw [resetNow, hr, hreset]
  have hall : fenceDone s p = fenceEnded s p := by rw [fenceDone, hone, panelResetNow, hp, hpanel]
  exact hall ▸ ⟨hframe, hnum⟩

end Sys2Proof.Machine
end

section
/-! PROOFS. Partitions, maps and handles by command: O40. -/

namespace Sys2Proof.Machine

section
variable (ro : Bool) (m : Msg) (s : State)

@[simp] theorem getJob_started (j : Nat) : getJob (started ro m s) j = getJob s j := of_started ro m s (getJob · j) fun _ _ _ => rfl
@[simp] theorem jobOfPart_started (p : Nat) : jobOfPart (started ro m s) p = jobOfPart s p := of_started ro m s (jobOfPart · p) fun _ _ _ => rfl
@[simp] theorem halfServes_started (d : Nat) : halfServes (started ro m s) d = halfServes s d := of_started ro m s (halfServes · d) fun _ _ _ => rfl
@[simp] theorem stepLeft_started (p : Nat) : stepLeft (started ro m s) p = stepLeft s p := of_started ro m s (stepLeft · p) fun _ _ _ => rfl
@[simp] theorem waits_started : (started ro m s).waits = s.waits := of_started ro m s State.waits fun _ _ _ => rfl
@[simp] theorem emitted_started : (started ro m s).emitted = s.emitted := of_started ro m s State.emitted fun _ _ _ => rfl
@[simp] theorem dieCores_started (d : Nat) : dieCores (started ro m s) d = dieCores s d := of_started ro m s (dieCores · d) fun _ _ _ => rfl

end

/-! ### PART_SET -/

/-- A partition set anew: its numbering is that of its dies' cores (R5). -/
def freshPart (s : State) (sites : List Nat) (g : BitVec 16) : Partition :=
  { Partition.reset with sites := sites, distGen := g, numbering := (sites.map (dieCores s)).flatten }

/-- The partition of a PART_SET is set and its clusters are woken. -/
def partFormed (s : State) (p : Nat) (sites : List Nat) (g : BitVec 16) : State :=
  let u := setNumbering (setPart s p { Partition.reset with sites := sites, distGen := g }) p
  wakeDone (modPart ((clustersOf sites).foldl requestWake u) p fun q => { q with ledger := { q.ledger with waking := true } }) p

theorem layoutOf_partFormed (s : State) (p : Nat) (sites : List Nat) (g : BitVec 16) :
    layoutOf p (partFormed s p sites g) = ((freshPart s sites g).layout, s.sessions) := by
  have hset : layoutOf p (setNumbering (setPart s p { Partition.reset with sites := sites, distGen := g }) p) =
      ((freshPart s sites g).layout, s.sessions) := by
    rw [layoutOf, setNumbering, getPart_modPart, getPart_setPart]
    rfl
  have hwake : layoutOf p (modPart ((clustersOf sites).foldl requestWake
      (setNumbering (setPart s p { Partition.reset with sites := sites, distGen := g }) p)) p fun q =>
        { q with ledger := { q.ledger with waking := true } }) = ((freshPart s sites g).layout, s.sessions) := by
    rw [layoutOf_modPart, ← hset]
    · exact foldl_keeps (layoutOf p) layoutOf_requestWake _ _
    · exact fun _ => rfl
  rw [partFormed, layoutOf_wakeDone (by rw [hwake]; rfl), hwake]

/-! ### MAP_STAGE -/

/-- The bytes staged from offset `off + k` on are those of `b`, the others those before. -/
theorem find_staged (off : Nat) (b : Bytes) (k : Nat) (t : Tbl Byte) (o : Nat) :
    Tbl.find (((List.range' k b.length).zip b).foldl (fun t x => Tbl.put t (off + x.1) x.2) t) o =
      if off + k ≤ o ∧ o < off + k + b.length then some (b.getD (o - (off + k)) 0) else Tbl.find t o := by
  induction b generalizing k t with
  | nil => simp
  | cons a b ih =>
    rw [List.length_cons, List.range'_succ, List.zip_cons_cons, List.foldl_cons, ih]
    by_cases ho : o = off + k
    · rw [if_neg (by omega), if_pos (by omega), ho, Tbl.find_put_self, Nat.sub_self]
      rfl
    · rw [Tbl.find_put_ne _ _ _ _ ho]
      by_cases hin : off + k ≤ o ∧ o < off + k + (b.length + 1)
      · have hpos : o - (off + k) = o - (off + (k + 1)) + 1 := by omega
        rw [if_pos (by omega), if_pos hin, hpos, List.getD_cons_succ]
      · rw [if_neg (by omega), if_neg hin]

theorem find_stageBytes (t : Tbl Byte) (off : Nat) (b : Bytes) (o : Nat) : Tbl.find (stageBytes t off b) o =
    if off ≤ o ∧ o < off + b.length then some (b.getD (o - off) 0) else Tbl.find t o := by
  rw [stageBytes, List.range_eq_range']
  exact find_staged off b 0 t o

/-- MAP_STAGE has set bytes of the partition. -/
def staged (u : State) (p off : Nat) (b : Bytes) : State := modPart u p fun q => { q with staged := stageBytes q.staged off b }

theorem getPart_staged (u : State) (p off : Nat) (b : Bytes) :
    getPart (staged u p off b) p = { getPart u p with staged := stageBytes (getPart u p).staged off b } := getPart_setPart u p _

/-! ### Handles (R172, R173) -/

/-- What the controllers hold of a descriptor once its change is under way. -/
def handleLags (q : Partition) (h : Nat) : Tbl Handle := lagged (partClusters q) (Tbl.get q.handles h Handle.reset) (Tbl.get q.lags h [])

/-- A partition with a descriptor changed at the hub. -/
def handleChanged (q : Partition) (h : Nat) (d : Handle) : Partition :=
  { q with handles := Tbl.put q.handles h d, lags := if handleLags q h = [] then q.lags else Tbl.put q.lags h (handleLags q h) }

theorem changeHandle_eq (s : State) (p h : Nat) (d : Handle) :
    changeHandle s p h d = emit (setPart s p (handleChanged (getPart s p) h d)) (.handleWrites p h) := rfl

theorem getPart_changeHandle (s : State) (p h : Nat) (d : Handle) : getPart (changeHandle s p h d) p = handleChanged (getPart s p) h d :=
  getPart_setPart s p _

/-- A change lags where the partition has sites, or an earlier one still does. -/
theorem has_lags_handleChanged (q : Partition) (h : Nat) (d : Handle) :
    Tbl.has (handleChanged q h d).lags h = true ↔ q.sites ≠ [] ∨ Tbl.has q.lags h = true := by
  by_cases hlag : handleLags q h = []
  · have hsites : ¬ q.sites ≠ [] := fun hs => lagged_ne_nil (partClusters_ne_nil hs) _ _ hlag
    simp only [handleChanged, if_pos hlag, hsites, false_or]
  · simp only [handleChanged, if_neg hlag, Tbl.has, Tbl.find_put_self, Option.isSome_some, true_iff]
    by_contra hno
    obtain ⟨hs, hh⟩ := not_or.mp hno
    have hs' : partClusters q = [] := by rw [partClusters, not_not.mp hs]; rfl
    have hnone : Tbl.find q.lags h = none := by simpa [Tbl.has] using hh
    exact hlag (by rw [handleLags, hs', Tbl.get, Tbl.get, hnone]; rfl)

theorem lagging_handle {s : State} {p h : Nat} (hh : h < 4096) : lagging s (p, h) = Tbl.has (getPart s p).lags h := if_pos hh

/-- A completion that waits for one change. -/
theorem completeAfter_lagging {s : State} (r : Reply) (st : Status) (b : Bytes) {x : Nat × Nat} (h : lagging s x = true) :
    completeAfter s r st b [x] [] = { s with waits := s.waits ++ [{ reply := r, status := st, payload := b, handles := [x], seqs := [] }] } := by
  rw [completeAfter, List.filter_cons_of_pos h, List.filter_nil]
  exact if_neg fun hc => by cases hc.1

theorem completeAfter_applied {s : State} (r : Reply) (st : Status) (b : Bytes) {x : Nat × Nat} (h : ¬ lagging s x = true) :
    completeAfter s r st b [x] [] = complete s r st b := by
  rw [completeAfter, List.filter_cons_of_neg h, List.filter_nil]
  exact if_pos ⟨rfl, rfl⟩

/-- Windows closed one after another: those of `l` are closed, and nothing else of the partition but what lags of its windows is changed. -/
theorem getPart_closeAll (p : Nat) (l : List Nat) (s : State) :
    ∃ ws wl, getPart (l.foldl (fun s w => closeEverywhere s p w) s) p = { getPart s p with windows := ws, winLags := wl } ∧
      ∀ w, Tbl.find ws w = if w ∈ l then some (closeWindow (Tbl.get (getPart s p).windows w Window.reset)) else Tbl.find (getPart s p).windows w := by
  induction l generalizing s with
  | nil => exact ⟨(getPart s p).windows, (getPart s p).winLags, rfl, fun w => by simp⟩
  | cons a l ih =>
    obtain ⟨ws, wl, hpart, hfind⟩ := ih (closeEverywhere s p a)
    rw [getPart_closeEverywhere] at hpart hfind
    refine ⟨ws, wl, hpart, fun w => ?_⟩
    rw [hfind]
    by_cases hwa : w = a
    · subst hwa
      simp [closedAt, closeWindow]
    · simp [closedAt, hwa, Tbl.find_put_ne _ _ _ _ hwa, Tbl.get_put_ne _ _ _ _ _ hwa]

/-- The numbers of the open inbound windows over a handle. -/
def windowsOver (q : Partition) (h : Nat) : List Nat := (q.windows.filter fun w => !w.2.outbound && w.2.state ≠ 0 && w.2.handle = h).map (·.1)

theorem getPart_startInval (s : State) (p h : Nat) : ∃ iv, getPart (startInval s p h) p = { getPart s p with invals := iv } :=
  ⟨_, getPart_setPart s p _⟩

/-- Partition `w` is `q` with handle `h` invalidated: its descriptor says so, and the inbound windows over it are closed. -/
structure Invalidated (q : Partition) (h : Nat) (w : Partition) : Prop where
  handles : w.handles = Tbl.put q.handles h { Tbl.get q.handles h Handle.reset with state := 2 }
  lags : w.lags = (handleChanged q h { Tbl.get q.handles h Handle.reset with state := 2 }).lags
  windows : ∀ n, Tbl.find w.windows n = if n ∈ windowsOver q h then some (closeWindow (Tbl.get q.windows n Window.reset)) else Tbl.find q.windows n

theorem invalidated_invalidateHandle (s : State) (p h : Nat) : Invalidated (getPart s p) h (getPart (invalidateHandle s p h) p) := by
  unfold invalidateHandle
  extract_lets d s₁ onIt s₂
  have h₁ : getPart s₁ p = handleChanged (getPart s p) h { d with state := 2 } := getPart_changeHandle ..
  have hon : onIt = windowsOver (getPart s p) h := (congrArg (windowsOver · h) h₁).trans rfl
  obtain ⟨ws, wl, h₂, hfind⟩ := getPart_closeAll p onIt s₁
  rw [hon, h₁] at hfind
  have hclosed : Invalidated (getPart s p) h (getPart s₂ p) := by
    rw [h₂, h₁]
    exact ⟨rfl, rfl, hfind⟩
  split
  · exact hclosed
  · obtain ⟨iv, h₃⟩ := getPart_startInval s₂ p h
    rw [h₃]
    exact ⟨hclosed.handles, hclosed.lags, hclosed.windows⟩

theorem waits_invalidateHandle (s : State) (p h : Nat) : (invalidateHandle s p h).waits = s.waits := by
  unfold invalidateHandle
  extract_lets d s₁ onIt s₂
  have hclose (t : State) (w : Nat) : (closeEverywhere t p w).waits = t.waits := rfl
  have h₂ : s₂.waits = s.waits := (foldl_keeps State.waits hclose onIt s₁).trans rfl
  split <;> exact h₂

/-- A window of an invalidated handle is closed. -/
theorem Invalidated.closed {q w : Partition} {h n : Nat} {x : Window} (hi : Invalidated q h w) (hx : Tbl.find w.windows n = some x)
    (hin : x.outbound = false) (hh : x.handle = h) : x.state = 0 := by
  rw [hi.windows] at hx
  split at hx
  · cases hx
    rfl
  · next hno =>
    by_contra hopen
    exact hno (List.mem_map.mpr ⟨(n, x), List.mem_filter.mpr ⟨Tbl.mem_of_find hx, by simpa [hin, hh] using hopen⟩, rfl⟩)

/-! ### Table 14-6 -/

theorem cmdHandleBind_form {m : Msg} (h : (cmdHandleBind m).form = true) : at_ m.payload 2 2 < 4096 := by
  simp only [cmdHandleBind, Bool.and_eq_true] at h
  obtain ⟨⟨_, hlt⟩, _⟩ := h
  exact of_decide_eq_true hlt

theorem cmdHandleInval_form {m : Msg} (h : (cmdHandleInval m).form = true) : at_ m.payload 2 2 < 4096 := by
  simp only [cmdHandleInval, Bool.and_eq_true] at h
  obtain ⟨_, hlt⟩ := h
  exact of_decide_eq_true hlt

theorem cmdPartDrain_form {m : Msg} (h : (cmdPartDrain m).form = true) : at_ m.payload 1 1 ≤ 1 := by
  simp only [cmdPartDrain, Bool.and_eq_true] at h
  obtain ⟨_, hle⟩ := h
  exact of_decide_eq_true hle

theorem cmdMapStage_form {m : Msg} (h : (cmdMapStage m).form = true) : 8 ≤ m.payload.length := by
  simp only [cmdMapStage, Bool.and_eq_true] at h
  obtain ⟨⟨⟨hle, _⟩, _⟩, _⟩ := h
  exact of_decide_eq_true hle

/-- A command on a handle is refused where R325 says so, and else does `run`. -/
theorem handleCommands_elim {α : Type} {s : State} {p h : Nat} (hh : h < 4096) (run : α) (refuse : Status → α) :
    (handleCommands s p h).elim run refuse =
      if !hasPart s p then refuse stBadArgument else if (getPart s p).map.isSome then refuse stRefusedPolicy else run := by
  rw [handleCommands, decide_eq_false (by omega), Bool.or_false]
  by_cases hp : (!hasPart s p) = true
  · rw [if_pos hp, if_pos hp]
    rfl
  · rw [if_neg hp, if_neg hp]
    by_cases hm : (getPart s p).map.isSome = true
    · rw [if_pos hm, if_pos hm]
      rfl
    · rw [if_neg hm, if_neg hm]
      rfl

theorem handleBind_run (m : Msg) (u : State) (r : Reply) (hh : at_ m.payload 2 2 < 4096) : (cmdHandleBind m).run u r =
    if !hasPart u (at_ m.payload 0 1) then complete u r stBadArgument []
    else if (getPart u (at_ m.payload 0 1)).map.isSome then complete u r stRefusedPolicy []
    else match bindDesc (getPart u (at_ m.payload 0 1)) (at_ m.payload 16 16) with
      | none => complete u r stBadArgument []
      | some d =>
        let old := Tbl.get (getPart u (at_ m.payload 0 1)).handles (at_ m.payload 2 2) Handle.reset
        if old.state = 1 then complete u r stBadArgument []
        else if old.state = 2 then complete u r stDeferred (leBytes 4 (stepLeft u (at_ m.payload 0 1)))
        else completeAfter (changeHandle u (at_ m.payload 0 1) (at_ m.payload 2 2) { d with gen := old.gen + 1 }) r stOk
          (leBytes 2 (old.gen + 1).toNat) [(at_ m.payload 0 1, at_ m.payload 2 2)] [] := by
  rw [← handleCommands_elim hh _ fun st => complete u r st []]
  simp only [cmdHandleBind, pf]
  cases handleCommands u (at_ m.payload 0 1) (at_ m.payload 2 2) with
  | some st => rfl
  | none => rfl

theorem handleInval_run (m : Msg) (u : State) (r : Reply) (hh : at_ m.payload 2 2 < 4096) : (cmdHandleInval m).run u r =
    if !hasPart u (at_ m.payload 0 1) then complete u r stBadArgument []
    else if (getPart u (at_ m.payload 0 1)).map.isSome then complete u r stRefusedPolicy []
    else if (Tbl.get (getPart u (at_ m.payload 0 1)).handles (at_ m.payload 2 2) Handle.reset).state = 1 then
      completeAfter (invalidateHandle u (at_ m.payload 0 1) (at_ m.payload 2 2)) r stOk [] [(at_ m.payload 0 1, at_ m.payload 2 2)] []
    else if (Tbl.get (getPart u (at_ m.payload 0 1)).handles (at_ m.payload 2 2) Handle.reset).state = 2 then complete u r stOk []
    else complete u r stBadArgument [] := by
  rw [← handleCommands_elim hh _ fun st => complete u r st []]
  simp only [cmdHandleInval, pf]
  cases handleCommands u (at_ m.payload 0 1) (at_ m.payload 2 2) with
  | some st => rfl
  | none =>
    generalize (Tbl.get (getPart u (at_ m.payload 0 1)).handles (at_ m.payload 2 2) Handle.reset).state = c
    obtain rfl | rfl | rfl | rfl : c = 0 ∨ c = 1 ∨ c = 2 ∨ c = 3 := by revert c; decide
    all_goals rfl

theorem partSet_run (m : Msg) (u : State) (r : Reply) {q : Partition} (hq : getPart u (at_ m.payload 0 1) = q) : (cmdPartSet m).run u r =
    let p := at_ m.payload 0 1
    let sites := if at_ m.payload 8 20 = 2 ^ 160 - 1 then q.sites else bitsOf 160 (at_ m.payload 8 20)
    if q.map.isSome || !sites.all (siteFree u p) || 16 < sites.length then complete u r stBadArgument []
    else if sites = [] then complete { fenceDone u p with parts := Tbl.drop (fenceDone u p).parts p } r stOk (leBytes 8 0)
    else complete (partFormed (fenceDone u p) p sites q.distGen) r stOk (leBytes 2 sites.length ++ leBytes 2 0 ++
      leBytes 4 (getPart (partFormed (fenceDone u p) p sites q.distGen) p).numbering.length) := by
  subst hq
  rfl

/-- What becomes of a MAP_COMMIT by what its records make. -/
def mapBuilt (m : Msg) (u : State) (r : Reply) : Except Status PartMap → State
  | .error st => complete u r st []
  | .ok pm =>
    let p := at_ m.payload 0 1
    let x := getJob u (jobOfPart u p)
    if (partBusy u p && !x.shrunk) || !x.steps.isEmpty then complete u r stModeConflict []
    else match measureHeld u p with
      | some cl => holdAt u cl (.mapCommit m r)
      | none => complete (loadMap u p pm) r stOk
          (leBytes 2 (getPart (loadMap u p pm) p).distGen.toNat ++ leBytes 2 0 ++ leBytes 4 (getPart (loadMap u p pm) p).numbering.length)

theorem mapCommitRun_eq (m : Msg) (u : State) (r : Reply) {q : Partition} (hq : getPart u (at_ m.payload 0 1) = q) : mapCommitRun m u r =
    let p := at_ m.payload 0 1
    let n := at_ m.payload 4 4
    let b := stagedBytes q.staged n
    let digest := sub_ m.payload 8 32
    if !hasPart u p || 2 ^ 20 < n || !q.sites.all (halfServes u) then complete u r stBadArgument []
    else if sha3_256 b ≠ digest then complete u r stBadArgument []
    else ((mapRecords (n + 1) b).map (buildMap u p digest)).elim (complete u r stBadArgument []) (mapBuilt m u r) := by
  subst hq
  simp only [mapCommitRun, pf]
  cases (mapRecords (at_ m.payload 4 4 + 1) (stagedBytes (getPart u (at_ m.payload 0 1)).staged (at_ m.payload 4 4))).map
    (buildMap u (at_ m.payload 0 1) (sub_ m.payload 8 32)) with
  | none => rfl
  | some e => cases e <;> rfl

/-- Settles O40: each command's run on the state taken in. -/
theorem partitionCommands : Obligations.PartitionCommands := by
  unfold Obligations.PartitionCommands
  refine ⟨?set, ?stage, ?commit, ?unloadDrain, ?drained, ?handles⟩
  case set =>
    intro m s u r p q sites fits hb hroom hreset hpanel
    have hexec : exec (.partSet m) s = report s ((cmdPartSet m).run u r) := congrArg (report s) (teller_begins (.partSet m) hb)
    have hrun := partSet_run m u r (getPart_started ..)
    have hfits : (q.map.isSome || !sites.all (siteFree u p) || decide (16 < sites.length)) = true ↔ ¬ fits := by
      simp only [fits]
      cases q.map <;> cases sites.all (siteFree u p) <;> simp
    obtain ⟨_, _, _, hauth, _⟩ := hb
    have hleft : NumbersLeft 3 u := NumbersLeft.started (fun n t ht => hroom _ (Tbl.mem_of_find ht)) false m
    have hpanel' : u.panelReset = none := (of_started false m s State.panelReset fun _ _ _ => rfl).trans hpanel
    obtain ⟨hframe, hleft₁⟩ := fenceDone_frame (k := 1) hleft (by rw [getPart_started]; exact hreset) hpanel'
    refine ⟨fun hno => ?_, fun hyes hnil => ?_, fun hyes hsites => ?_⟩
    · rw [hexec, hrun, if_pos (hfits.mpr hno), report_complete hauth]
    all_goals rw [hexec, hrun, if_neg fun hc => hfits.mp hc hyes]
    · rw [if_pos hnil]
      refine ⟨_, rfl, ?_⟩
      obtain ⟨ss, c, hrep⟩ := withReports_frame s (complete { fenceDone u p with parts := Tbl.drop (fenceDone u p).parts p } r stOk (leBytes 8 0))
      have hnum : Numbered { fenceDone u p with parts := Tbl.drop (fenceDone u p).parts p } r.sess := hleft₁.numbered r.sess
      rw [hrep]
      change Tbl.has (complete { fenceDone u p with parts := Tbl.drop (fenceDone u p).parts p } r stOk (leBytes 8 0)).parts p = false
      rw [of_complete _ _ hnum State.parts fun _ _ => rfl, Tbl.has, Tbl.find_drop_self]
      rfl
    · rw [if_neg hsites]
      refine ⟨_, rfl, ?_⟩
      have hform : layoutOf p (partFormed (fenceDone u p) p sites q.distGen) = ((freshPart u sites q.distGen).layout, (fenceDone u p).sessions) := by
        rw [layoutOf_partFormed]
        obtain ⟨_, _, _, _, e⟩ := hframe
        rw [e]
        rfl
      generalize partFormed (fenceDone u p) p sites q.distGen = v at *
      have hss : v.sessions = (fenceDone u p).sessions := congrArg Prod.snd hform
      have hnum : Numbered v r.sess := fun t ht => hleft₁.numbered r.sess t (hss ▸ ht)
      generalize leBytes 2 sites.length ++ leBytes 2 0 ++ leBytes 4 (getPart v p).numbering.length = b
      obtain ⟨ss, c, hrep⟩ := withReports_frame s (complete v r stOk b)
      have hget : getPart (withReports s (complete v r stOk b)) p = getPart v p := by
        rw [hrep]
        exact of_complete _ _ hnum (getPart · p) fun _ _ => rfl
      have hl : (getPart v p).layout = (freshPart u sites q.distGen).layout := congrArg Prod.fst hform
      have hcores : dieCores u = dieCores s := funext (dieCores_started false m s)
      rw [hget]
      refine ⟨congrArg Layout.sites hl, ?_, congrArg Layout.handles hl, congrArg Layout.windows hl, congrArg Layout.fenced hl,
        congrArg Layout.distGen hl, ?_⟩
      · have hmap : (getPart v p).map.isSome = false := congrArg Layout.mapped hl
        exact Option.not_isSome_iff_eq_none.mp (by rw [hmap]; decide)
      · rw [← hcores]
        exact congrArg Layout.numbering hl
  case stage =>
    intro m s u r p n hb
    have hexec : exec (.mapStage m) s = .next (if !hasPart u p || 2 ^ 20 < at_ m.payload 4 4 + n then complete u r stBadArgument []
        else complete (staged u p (at_ m.payload 4 4) (m.payload.drop 8)) r stOk []) :=
      congrArg Host.Outcome.next (teller_begins (.mapStage m) hb)
    rw [hasPart_started] at hexec
    refine ⟨fun hbad => ?_, fun hpart hlen => ?_⟩
    · rw [hexec, if_pos (by simpa using hbad)]
    · refine ⟨_, by rw [hexec, if_neg (by simp [hpart]; omega)], ?_⟩
      obtain ⟨_, _, _, hauth, _, _, _, hform, _⟩ := hb
      have hnum : Numbered (staged u p (at_ m.payload 4 4) (m.payload.drop 8)) r.sess := numbered_started hauth
      have hget := (of_complete stOk [] hnum (getPart · p) fun _ _ => rfl).trans (getPart_staged ..)
      rw [getPart_started] at hget
      have hlen8 : (m.payload.drop 8).length = n := List.length_drop
      rw [hget]
      refine ⟨fun i hi => ?_, fun o ho => ?_, rfl, rfl⟩
      · rw [find_stageBytes, if_pos (by omega), Nat.add_sub_cancel_left]
        simp [List.getD_eq_getElem?_getD]
      · rw [find_stageBytes, if_neg fun hin => ho (o - at_ m.payload 4 4) (by omega) (by omega)]
  case commit =>
    intro m s u r p n b digest run sound hb
    have hrun : run = report s (mapCommitRun m u r) := congrArg (report s) (teller_begins (.mapCommit m) hb)
    obtain ⟨_, _, _, hauth, _⟩ := hb
    have hdone (st : Status) : report s (complete u r st []) = .next (complete u r st []) := report_complete hauth st []
    have hcommit : mapCommitRun m u r = if !hasPart u p || 2 ^ 20 < n || !(getPart s p).sites.all (halfServes u) then complete u r stBadArgument []
        else if sha3_256 b ≠ digest then complete u r stBadArgument []
        else ((mapRecords (n + 1) b).map (buildMap u p digest)).elim (complete u r stBadArgument []) (mapBuilt m u r) :=
      mapCommitRun_eq m u r (getPart_started ..)
    rw [hasPart_started, funext (halfServes_started false m s)] at hcommit
    have hbad : (!hasPart s p || decide (2 ^ 20 < n) || !(getPart s p).sites.all (halfServes s)) = true ∨ sha3_256 b ≠ digest ↔ ¬ sound := by
      simp only [sound, not_and_or, Bool.or_eq_true, decide_eq_true_eq, Bool.not_eq_true', Bool.not_eq_true, Nat.not_le, or_assoc, ne_eq]
    have hgo (hs : sound) : run = report s (((mapRecords (n + 1) b).map (buildMap u p digest)).elim (complete u r stBadArgument []) (mapBuilt m u r)) := by
      have hno := not_or.mp fun hc => hbad.mp hc hs
      rw [hrun, hcommit, if_neg hno.1, if_neg hno.2]
    refine ⟨fun hno => ?_, fun hs hrec => ?_, fun l hs hrec => ⟨fun st hst => ?_, fun pm hpm => ?_⟩⟩
    · have hrefused : mapCommitRun m u r = complete u r stBadArgument [] := by
        rw [hcommit]
        rcases hbad.mpr hno with hc | hc
        · rw [if_pos hc]
        · simp only [if_pos hc, ite_self]
      rw [hrun, hrefused, hdone]
    · rw [hgo hs, hrec]
      exact hdone stBadArgument
    · rw [hgo hs, hrec, Option.map_some, hst]
      exact hdone st
    · have hbuilt : run = report s (mapBuilt m u r (.ok pm)) := by rw [hgo hs, hrec, Option.map_some, hpm]; rfl
      intro j free
      have hfree : ((partBusy u p && !j.shrunk) || !j.steps.isEmpty) = true ↔ ¬ free := by
        simp only [free]
        cases partBusy u p <;> cases j.shrunk <;> simp
      have hj : getJob u (jobOfPart u p) = j := by rw [jobOfPart_started, getJob_started]
      rw [mapBuilt, hj] at hbuilt
      refine ⟨fun hno => ?_, fun cl hyes hheld => ?_, fun hyes hheld => ?_⟩
      · rw [hbuilt, if_pos (hfree.mpr hno), hdone]
      · rw [hbuilt, if_neg fun hc => hfree.mp hc hyes, hheld]
        rfl
      · rw [hbuilt, if_neg fun hc => hfree.mp hc hyes, hheld]
        rfl
  case unloadDrain =>
    intro m s u r p
    refine ⟨fun hb => ?unload, fun hb => ?drain⟩
    case unload =>
      have hexec : exec (.mapUnload m) s = report s (if !hasPart u p then complete u r stBadArgument []
          else if partBusy u p then complete u r stModeConflict []
          else complete (modPart u p fun q => { q with map := none, mapMeas := [], lastWrite := none }) r stOk []) :=
        congrArg (report s) (teller_begins (.mapUnload m) hb)
      obtain ⟨_, _, _, hauth, _⟩ := hb
      rw [hasPart_started] at hexec
      refine ⟨fun hno => ?_, fun hyes hb => ?_, fun hyes hfree => ?_⟩
      · rw [hexec, if_pos (by rw [hno]; rfl), report_complete hauth]
      · rw [hexec, if_neg (by simp [hyes]), if_pos hb, report_complete hauth]
      · rw [hexec, if_neg (by simp [hyes]), if_neg (by simp [hfree])]
        rfl
    case drain =>
      intro v
      have hexec : exec (.partDrain m) s = .next (if !hasPart u p then complete u r stBadArgument []
          else if at_ m.payload 1 1 = 1 then complete (endDrain (modPart u p fun q => { q with drained := false }) p stAborted) r stOk []
          else if drainedNow v p then endDrain v p stOk else v) := congrArg Host.Outcome.next (teller_begins (.partDrain m) hb)
      rw [hasPart_started] at hexec
      refine ⟨fun hno => ?_, fun hyes hres => ?_, fun hyes hdr hleft => ?_, fun hyes hdr hdone => ?_⟩
      · rw [hexec, if_pos (by rw [hno]; rfl)]
      · rw [hexec, if_neg (by simp [hyes]), if_pos hres]
      · rw [hexec, if_neg (by simp [hyes]), if_neg (by omega), if_neg (by simp [hleft])]
      · rw [hexec, if_neg (by simp [hyes]), if_neg (by omega), if_pos hdone]
  case drained =>
    intro p s hdr hrep
    have hexec : exec (.partDrainComplete p) s =
        .next (if (getPart s p).drained && (getPart s p).drainReply ≠ [] && drainedNow s p then endDrain s p stOk else s) := rfl
    refine ⟨fun hdone => ?_, fun hleft => ?_⟩
    · rw [hexec, if_pos (by simp [hdr, hrep, hdone])]
    · rw [hexec, if_neg (by simp [hleft])]
  case handles =>
    intro m s u r p h old lag
    have hlags (d : Handle) : Tbl.has (handleChanged (getPart s p) h d).lags h = true ↔ lag := has_lags_handleChanged ..
    refine ⟨fun hb => ?bind, fun hb hpart hmap => ?inval⟩
    case bind =>
      have hexec : exec (.handleBind m) s = .next ((cmdHandleBind m).run u r) := congrArg Host.Outcome.next (teller_begins (.handleBind m) hb)
      obtain ⟨_, _, _, hauth, _, _, _, hform, _⟩ := hb
      have hh : h < 4096 := cmdHandleBind_form hform
      have hrun := handleBind_run m u r hh
      rw [hasPart_started, getPart_started] at hrun
      have hlagging (d : Handle) : lagging (changeHandle u p h d) (p, h) = true ↔ lag := by
        rw [lagging_handle hh, getPart_changeHandle, getPart_started, hlags]
      refine ⟨fun hno => ?_, fun hyes hmap => ?_, fun hyes hmap => ⟨fun hbad => ?_, fun d hd => ⟨fun hinval => ?_, fun h1 h2 hl => ?_, fun h1 h2 hl => ?_⟩⟩⟩
      · rw [hexec, hrun, if_pos (by rw [hno]; rfl)]
      · rw [hexec, hrun, if_neg (Bool.not_not_eq.mpr hyes), if_pos (Option.isSome_iff_ne_none.mpr hmap)]
      all_goals
        rw [hexec, hrun, if_neg (Bool.not_not_eq.mpr hyes), if_neg (by rw [hmap]; simp)]
      · cases hd : bindDesc (getPart s p) (at_ m.payload 16 16) with
        | none => rfl
        | some d =>
          have h1 : old.state = 1 := hbad.resolve_left (by rw [hd]; simp)
          exact congrArg Host.Outcome.next (if_pos h1)
      all_goals rw [hd]
      · have h1 : ¬ old.state = 1 := by rw [hinval]; decide
        rw [← stepLeft_started false m s]
        exact congrArg Host.Outcome.next ((if_neg h1).trans (if_pos hinval))
      · rw [← completeAfter_applied _ _ _ (mt (hlagging _).mp hl)]
        exact congrArg Host.Outcome.next ((if_neg h1).trans (if_neg h2))
      · have hrest := completeAfter_lagging r stOk (leBytes 2 (old.gen + 1).toNat) ((hlagging { d with gen := old.gen + 1 }).mpr hl)
        refine ⟨_, congrArg Host.Outcome.next ((if_neg h1).trans ((if_neg h2).trans hrest)), ?_, ?_, ?_, fun n hn => ?_⟩
        · change Tbl.get (getPart (changeHandle u p h _) p).handles h Handle.reset = _
          rw [getPart_changeHandle]
          exact Tbl.get_put_self ..
        · change u.waits ++ _ = _
          rw [waits_started]
        · change u.emitted ++ _ = _
          rw [emitted_started]
        · change Tbl.get (getPart (changeHandle u p h _) p).handles n Handle.reset = _
          rw [getPart_changeHandle, getPart_started]
          exact Tbl.get_put_ne _ _ _ _ _ hn
    case inval =>
      have hexec : exec (.handleInval m) s = .next ((cmdHandleInval m).run u r) := congrArg Host.Outcome.next (teller_begins (.handleInval m) hb)
      obtain ⟨_, _, _, hauth, _, _, _, hform, _⟩ := hb
      have hh : h < 4096 := cmdHandleInval_form hform
      have hrun := handleInval_run m u r hh
      rw [hasPart_started, getPart_started, if_neg (Bool.not_not_eq.mpr hpart), if_neg (by rw [hmap]; simp)] at hrun
      have hinv : Invalidated (getPart s p) h (getPart (invalidateHandle u p h) p) :=
        getPart_started false m s p ▸ invalidated_invalidateHandle u p h
      have hlagging : lagging (invalidateHandle u p h) (p, h) = true ↔ lag := by rw [lagging_handle hh, hinv.lags, hlags]
      have hwaits : (invalidateHandle u p h).waits = s.waits := (waits_invalidateHandle ..).trans (waits_started ..)
      refine ⟨fun h1 hl => ?_, fun h1 hl => ?_, fun h2 => ?_, fun h1 h2 => ?_⟩
      · rw [hexec, hrun, if_pos h1, completeAfter_applied _ _ _ (mt hlagging.mp hl)]
      · have hrest := completeAfter_lagging r stOk [] (hlagging.mpr hl)
        generalize invalidateHandle u p h = v at *
        refine ⟨_, hexec.trans (congrArg Host.Outcome.next (hrun.trans ((if_pos h1).trans hrest))), ?_, ?_, fun n x => hinv.closed⟩
        · exact (congrArg (Tbl.get · h Handle.reset) hinv.handles).trans (Tbl.get_put_self ..)
        · exact congrArg (· ++ _) hwaits
      · have h1 : ¬ old.state = 1 := by rw [h2]; decide
        rw [hexec, hrun, if_neg h1, if_pos h2]
      · rw [hexec, hrun, if_neg h1, if_neg h2]

end Sys2Proof.Machine
end

section
/-! PROOFS. A line of a get comes in and goes on to its core: O48. -/

namespace Sys2Proof.Machine

theorem acceptFrame_delivered {s : State} {t : Nat} {f : OptFrame} (h : Delivered t f s) (g : State → State) :
    acceptFrame s t f g = g (delivered f s) := by
  obtain ⟨htype, hdst, hfresh⟩ := h
  rw [acceptFrame, if_neg (by simp [htype, hdst]), delivered]
  by_cases ha : s.sys.assured = true
  · obtain ⟨he2e, hrec⟩ := hfresh ha
    rw [if_pos ha, if_pos ha, assuredIn, if_neg (by simp [he2e, hrec])]
  · rw [if_neg ha, if_neg ha]

section
variable {s : State} {oe o tag seq : Nat} {f : OptFrame} {x : OptXfer}

/-- The line of a get is settled without a packet of its own. -/
theorem emitted_settleLine_got (hx : Tbl.find (getOe s o).xfers tag = some x) (hget : x.get = true) :
    (settleLine s o tag seq stOk).emitted = s.emitted := by
  simp only [settleLine, hx, hget]
  split <;> rfl

/-- The router from which a line goes on is one of the die by which its frame came in, whatever die holds its transaction. -/
theorem exec_getLine_answered (hserve : oeServes s oe = true) (hd : Delivered 2 f s)
    (hans : answered (delivered f s) oe true f = some (o, tag, seq, x)) :
    exec (.getLine oe f) s = .next (emit (settleLine (delivered f s) o tag seq stOk)
      (.inject (coreAt (opticalNear oe x.x.toNat x.y.toNat).2.1 (opticalNear oe x.x.toNat x.y.toNat).2.2)
        (DataPacket.mk (delivered f s).epoch.cur 0 (.tagged 3 x.x x.y x.coreTag (BitVec.ofNat 10 seq) 0) f.payload))) := by
  change execGetLine oe f s = _
  rw [execGetLine, if_neg (Bool.not_not_eq.mpr hserve), acceptFrame_delivered hd]
  simp only [hans]

end

/-- A get of one line under tag 9 of optical die 3. -/
def straightGet : OptXfer :=
  { get := true, x := 0, y := 0, cnt := 0, dst := 0, dpart := 0, win := 0, gen := 0, first := 0, lines := 1, spmLine := 0, coreTag := 0, part := 0,
    left := [0], at_ := [], granted := true }

/-- The answer to it. -/
def straightLine : OptFrame :=
  { otype := 2, src := 0, spart := 0, dst := 0, dpart := 0, win := 0, gen := 0, line := 0, seq := 0, e2e := 0, payload := 0 }

/-- The panel on which it is open. -/
def getOpen : State :=
  { State.reset with half0 := { Half.reset with inService := true }, optDies := [(3, { OptDie.reset with xfers := [(9, straightGet)] })] }

/-- Refutes O48: the answer to a get of die 3 may come in by die 9 of the same direction. The statement has its line leave from a router of
die 3, the model from one of die 9. -/
theorem not_opticalTransfers : ¬ Obligations.OpticalTransfers := by
  unfold Obligations.OpticalTransfers
  rintro ⟨-, -, -, -, hsettles, -⟩
  have hopen : Tbl.find (getOe getOpen 3).xfers 9 = some straightGet := rfl
  have hin : Delivered 2 straightLine getOpen := ⟨rfl, rfl, fun h => by cases h⟩
  have hans : answered (delivered straightLine getOpen) 9 true straightLine = some (3, 9, 0, straightGet) := by decide
  obtain ⟨-, -, hline, -⟩ := hsettles 9 3 9 0 straightLine straightGet getOpen hopen (by decide)
  obtain ⟨t, hexec, hsent, -⟩ := hline hin rfl hans
  have hruns := exec_getLine_answered (s := getOpen) rfl hin hans
  have hsettled : (settleLine (delivered straightLine getOpen) 3 9 0 stOk).emitted = getOpen.emitted := emitted_settleLine_got hopen rfl
  cases hexec.symm.trans hruns
  rw [emit_emitted, hsettled] at hsent
  injection List.append_cancel_left hsent with hemit
  injection hemit with hrouter
  revert hrouter
  decide

end Sys2Proof.Machine
end

section
/-! PROOFS. The hubs and the links of their ports: what messages, losses and reads of a channel leave alone. -/

namespace Sys2Proof.Machine

/-- Which hubs are in service, and which of their ports' links are up. -/
def portsOf (s : State) : (Bool × Bool) × Bool × Bool := ((s.hub0.up, s.hub0.portUp), s.hub1.up, s.hub1.portUp)

theorem portAlive_of_ports {s t : State} (h : portsOf t = portsOf s) (p : Nat) : portAlive t p = portAlive s p := by
  simp only [portsOf, Prod.mk.injEq] at h
  obtain ⟨⟨h0, p0⟩, h1, p1⟩ := h
  unfold portAlive hubUp getHub
  split
  · rw [h0, p0]
  · rw [h1, p1]

theorem ports_of_untasked {s t : State} (h : untasked t = untasked s) : portsOf t = portsOf s := congrArg (fun u : Untold => portsOf u.rest) h

theorem ports_of_untold {s t : State} (h : untold t = untold s) : portsOf t = portsOf s := ports_of_untasked (untasked_of_untold h)

theorem ports_of_beyondStores {s t : State} (h : beyondStores t = beyondStores s) : portsOf t = portsOf s := of_beyondStores h portsOf fun _ => rfl

@[simp] theorem ports_ite (c : Prop) [Decidable c] (s t : State) : portsOf (if c then s else t) = if c then portsOf s else portsOf t :=
  apply_ite portsOf c s t

@[simp] theorem ports_foldl {α : Type} {f : State → α → State} (hf : ∀ s a, portsOf (f s a) = portsOf s) (l : List α) (s : State) :
    portsOf (l.foldl f s) = portsOf s := foldl_keeps portsOf hf l s

section
variable (s : State)

@[simp] theorem ports_bumpFree : portsOf (bumpFree s) = portsOf s := by rfl
@[simp] theorem ports_modCtx (k n : Nat) (f : Ctx → Ctx) : portsOf (modCtx s k n f) = portsOf s := by rfl
@[simp] theorem ports_setCtx (k n : Nat) (x : Ctx) : portsOf (setCtx s k n x) = portsOf s := by rfl
@[simp] theorem ports_modCore (k : Nat) (f : Core → Core) : portsOf (modCore s k f) = portsOf s := by rfl
@[simp] theorem ports_modClu (c : Nat) (f : Cluster → Cluster) : portsOf (modClu s c f) = portsOf s := by rfl
@[simp] theorem ports_modDie (d : Nat) (f : Die → Die) : portsOf (modDie s d f) = portsOf s := by rfl
@[simp] theorem ports_setPart (p : Nat) (q : Partition) : portsOf (setPart s p q) = portsOf s := by rfl
@[simp] theorem ports_modPart (p : Nat) (f : Partition → Partition) : portsOf (modPart s p f) = portsOf s := by rfl
@[simp] theorem ports_modJob (j : Nat) (f : Job → Job) : portsOf (modJob s j f) = portsOf s := by rfl
@[simp] theorem ports_vaultRedundancy (k d c x i v : Nat) : portsOf (vaultRedundancy s k d c x i v) = portsOf s := by rfl
@[simp] theorem ports_faultEvent (d p : Nat) (st : Status) (r : Nat) (x : Bytes) : portsOf (faultEvent s d p st r x) = portsOf s :=
  ports_of_untold (untold_faultEvent ..)
@[simp] theorem ports_dramEvent (d c l h x : Nat) : portsOf (dramEvent s d c l h x) = portsOf s := ports_of_untold (untold_dramEvent ..)
@[simp] theorem ports_endRequest (r : Nat) (st : Status) : portsOf (endRequest s r st) = portsOf s := ports_of_untold (untold_endRequest ..)
@[simp] theorem ports_noteTaskEnd (k n : Nat) (t : BitVec 16) : portsOf (noteTaskEnd s k n t) = portsOf s :=
  ports_of_untasked (untasked_noteTaskEnd ..)
@[simp] theorem ports_stopCores (l : List Nat) : portsOf (stopCores s l) = portsOf s := ports_of_untasked (untasked_stopCores ..)
@[simp] theorem ports_startEpoch (l : List Nat) : portsOf (startEpoch s l) = portsOf s := ports_of_untasked (untasked_startEpoch ..)
@[simp] theorem ports_loadBytes (k a : Nat) (b : Bytes) : portsOf (loadBytes s k a b) = portsOf s :=
  foldl_keeps portsOf (fun _ _ => ports_of_beyondStores (beyondStores_spmWrite ..)) _ s

/-! ### Launching and numbering -/

@[simp] theorem ports_launchCtx (p k n a : Nat) (b : Bytes) : portsOf (launchCtx s p k n a b) = portsOf s := by simp [launchCtx, loadData]

@[simp] theorem ports_launchCore (p k : Nat) : portsOf (launchCore s p k) = portsOf s := by
  unfold launchCore
  extract_lets t
  have ht : portsOf t = portsOf s := by simp [t, writeUnits]
  rw [← ht]
  refine ports_foldl (fun s x => ?_) _ t
  split
  · simp
  · rfl

@[simp] theorem ports_relaunchPart (p : Nat) : portsOf (relaunchPart s p) = portsOf s := by simp [relaunchPart, launchPart]

@[simp] theorem ports_renumber (p : Nat) : portsOf (renumber s p) = portsOf s := by simp [renumber, buildDist, setNumbering]

@[simp] theorem ports_renumberAfter (p : Nat) (b : Bool) : portsOf (renumberAfter s p b) = portsOf s := by simp [renumberAfter, setNumbering]

/-! ### Losses -/

@[simp] theorem ports_recompute (r : Nat) : portsOf (recompute s r) = portsOf s := by
  unfold recompute
  split
  · rfl
  · split
    · rfl
    · split <;> rfl

@[simp] theorem ports_recomputeJob (j : Nat) : portsOf (recomputeJob s j) = portsOf s := by simp [recomputeJob]

@[simp] theorem ports_tryAnnounce : portsOf (tryAnnounce s) = portsOf s := ports_of_untasked (untasked_tryAnnounce s)

@[simp] theorem ports_resetChans (p : Nat) : portsOf (resetChans s p) = portsOf s := by
  simp [resetChans]
  rfl

@[simp] theorem ports_quitSteps (j : Nat) : portsOf (quitSteps s j) = portsOf s := by simp [quitSteps, dropSteps, resetJobChans]

@[simp] theorem ports_noSpare (p : Nat) : portsOf (noSpare s p) = portsOf s := by simp [noSpare, fencePart]

@[simp] theorem ports_replaceDie (p d : Nat) : portsOf (replaceDie s p d) = portsOf s := by
  unfold replaceDie
  split
  · simp
  · extract_lets s₁ s₂ s₃ s₄ move units s₅
    have h₄ : portsOf s₄ = portsOf s := by simp [s₄, s₃, s₂, s₁, requestWake]
    rw [← h₄]
    clear_value s₄
    rfl

@[simp] theorem ports_loseDies (l : List Nat) (d : Nat) : portsOf (loseDies s l d) = portsOf s := by simp [loseDies, losePartDies]

theorem ports_relocated (p : Nat) (u : Option (Tbl (List Nat))) : portsOf (relocated s p u).1 = portsOf s := by
  unfold relocated
  split <;> rfl

@[simp] theorem ports_loseCluster (cl : Nat) (b : Bool) : portsOf (loseCluster s cl b) = portsOf s := by
  unfold loseCluster
  extract_lets waking s₁ s₂ s₃
  have h₃ : portsOf s₃ = portsOf s := by simp [s₃, s₂, s₁, nextWake]
  rw [← h₃]
  split
  · rfl
  · split
    · simp
    · next p _ _ =>
      have hmove : portsOf (relocateCluster s₃ p cl).1 = portsOf s₃ := ports_relocated ..
      split
      next t ok e =>
        have ht : portsOf t = portsOf s₃ := by rw [← hmove, e]
        simp [ht]

/-! ### Clusters that leave between steps -/

@[simp] theorem ports_realign (cl : Nat) : portsOf (realign s cl) = portsOf s := by
  simp [realign, sendFence, unfenceCtx]
  rfl

@[simp] theorem ports_leaveIfIdle (cl : Nat) : portsOf (leaveIfIdle s cl) = portsOf s := by
  unfold leaveIfIdle
  split
  · unfold leaveService
    split
    · rfl
    · extract_lets cls s₁ back s₂ s₃ gone s₄
      have h₁ : portsOf s₁ = portsOf s := rfl
      have h₃ : portsOf s₃ = portsOf s₁ := by simp [s₃, s₂]
      have h₄ : portsOf s₄ = portsOf s₃ := ports_foldl (fun s cl => by split <;> simp) _ _
      simp [h₄, h₃, h₁]
  · rfl

/-! ### Channels -/

@[simp] theorem ports_promote (cl l : Nat) : portsOf (promote s cl l) = portsOf s := by
  unfold promote
  extract_lets +onlyGivenNames u bank row mine
  split
  · rfl
  · split
    · rfl
    · extract_lets +onlyGivenNames done pend
      split
      · rfl
      · simp [putBad]

@[simp] theorem ports_remap (cl l c : Nat) (b : Bool) : portsOf (remap s cl l c b) = portsOf s := by
  unfold remap
  extract_lets +onlyGivenNames u
  split
  · rfl
  · extract_lets +onlyGivenNames entry
    split
    · simp [putBad]
    · simp [exhaust]

theorem ports_demandRead (cl l : Nat) (r : ArrayRead) : portsOf (demandRead s cl l r).1 = portsOf s := by
  have hdecode : portsOf (readDecoded s cl l r).1 = portsOf s := by simp [readDecoded, noteErr]
  unfold demandRead
  split
  · next t v k e =>
    have ht : portsOf t = portsOf s := by rw [← hdecode, e]
    split
    · extract_lets u
      have hu : portsOf u = portsOf t := (ports_remap ..).trans rfl
      split
      · exact hu.trans ht
      · exact hu.trans ht
    · exact ht
  · next t e =>
    have ht : portsOf t = portsOf s := by rw [← hdecode, e]
    simp [demandUe, ht]

end

end Sys2Proof.Machine
end

section
/-! PROOFS. RDMA requests, streams that change port, and the other frames of a port: O52. -/

namespace Sys2Proof.Machine

/-! ### Queue pairs -/

/-- A queue pair after a change of it. -/
theorem qp_modQp (s : State) (n : Nat) (f : QueuePair → QueuePair) :
    (Tbl.find (modQp s n f).sessions n).bind (·.qp) = ((Tbl.find s.sessions n).bind (·.qp)).map f := by
  rw [modQp, find_modSess]
  cases Tbl.find s.sessions n <;> rfl

theorem noteCe_unmarked (s : State) (n : Nat) : noteCe s n false = s := by
  unfold noteCe
  split
  · rfl
  · exact if_neg (by simp)

theorem panelFenced_serving {s : State} (h : s.state = .serving) : panelFenced s = false := by rw [panelFenced, h]; rfl

/-! ### What a request meets (R296, R306) -/

section
variable {s : State} {q : RdmaReq} {again f : State → State}

theorem rdmaIn_taken (hport : portAlive s q.port = true) (hce : q.ce = false) (hs : s.state = .serving) (hg : rdmaGate s q = .run) :
    rdmaIn s q again f = f s := by
  rw [rdmaIn, if_neg (Bool.not_not_eq.mpr hport), panelFenced_serving hs, hg, hce, noteCe_unmarked]
  rfl

theorem rdmaIn_again (hport : portAlive s q.port = true) (hce : q.ce = false) (hs : s.state = .serving) (hg : rdmaGate s q = .repeat_) :
    rdmaIn s q again f = again s := by
  rw [rdmaIn, if_neg (Bool.not_not_eq.mpr hport), panelFenced_serving hs, hg, hce, noteCe_unmarked]
  rfl

theorem rdmaIn_outOfSequence {t : Session} {x : QueuePair} (hport : portAlive s q.port = true) (hce : q.ce = false) (hs : s.state = .serving)
    (hg : rdmaGate s q = .outOfSequence) (ht : Tbl.find s.sessions q.sess = some t) (hx : t.qp = some x) :
    rdmaIn s q again f = modHub (emit s (.nak q.sess x.expPsn 0 (roceHead s q.sess))) q.port fun h => { h with naks := satAdd h.naks 1 } := by
  rw [rdmaIn, if_neg (Bool.not_not_eq.mpr hport), panelFenced_serving hs, hg, hce, noteCe_unmarked]
  simp only [ht, Option.bind_some, hx]
  rfl

theorem rdmaIn_unknown (hport : portAlive s q.port = true) (hs : s.state = .serving) (ht : Tbl.find s.sessions q.sess = none) :
    rdmaIn s q again f = noteUnknown s q.port := by
  have hg : rdmaGate s q = .dropped := by rw [rdmaGate, ht]; rfl
  rw [rdmaIn, if_neg (Bool.not_not_eq.mpr hport), panelFenced_serving hs, hg, ht]
  rfl

theorem rdmaIn_refused (hport : portAlive s q.port = true) (hs : s.state = .safe) (hg : rdmaGate s q ≠ .dropped) :
    rdmaIn s q again f = rdmaRefuse s q stFenced := by
  have hfenced : (panelFenced s && rdmaGate s q ≠ .dropped) = true := by simp [panelFenced, hs, hg]
  rw [rdmaIn, if_neg (Bool.not_not_eq.mpr hport), if_pos hfenced]

/-- A request that runs has a queue pair in service. -/
theorem rdmaGate_run (h : rdmaGate s q = .run) : ∃ x, (Tbl.find s.sessions q.sess).bind (·.qp) = some x ∧ x.error = false := by
  unfold rdmaGate at h
  split at h
  · cases h
  · next x hx =>
    refine ⟨x, hx, ?_⟩
    split at h
    · cases h
    · next hno =>
      have hin : x.port = q.port ∧ x.error = false := by simpa using hno
      exact hin.2

end

/-! ### Requests served (R178 to R180, R192) -/

theorem ports_rdmaPut (q : RdmaReq) (l : List Line) (s : State) (i : Nat) : portsOf (rdmaPut s q i l).1 = portsOf s := by
  induction l generalizing s i with
  | nil => rfl
  | cons v l ih =>
    unfold rdmaPut
    split
    split
    · rfl
    · split
      split
      · rfl
      · exact (ih _ _).trans (ports_of_beyondStores (commitLine_stores ..).1)

theorem ports_rdmaGet (q : RdmaReq) (rs : List ArrayRead) (n : Nat) (s : State) : portsOf (rdmaGet s q rs n).1 = portsOf s := by
  induction n with
  | zero => rfl
  | succ n ih =>
    unfold rdmaGet
    split
    next t st l e =>
    have ht : portsOf t = portsOf s := by rw [← ih, e]
    split
    · exact ht
    · split
      split
      · exact ht
      · split
        split
        · exact ht
        · split
          · next u v hd =>
            have hu : portsOf u = portsOf t := by rw [← ports_demandRead t _ _ _, hd]
            exact hu.trans ht
          · next u hd =>
            have hu : portsOf u = portsOf t := by rw [← ports_demandRead t _ _ _, hd]
            exact hu.trans ht

section
variable {s : State} {q : RdmaReq} {x : QueuePair}

/-- The state in which a queue pair has moved past a request. -/
def pastRequest (s : State) (q : RdmaReq) : State := modQp s q.sess fun x => { x with expPsn := nextPsn q }

/-- The cluster whose channel holds the first line of a request's window. -/
def requestCluster (s : State) (q : RdmaReq) : Nat := (windowLine s (rdmaTarget q).1 (rdmaTarget q).2.1 ((rdmaTarget q).2.2.2.1 / 64)).1

theorem rdmaServe_refused {read : Option (List ArrayRead)} {st : Status} (hx : (Tbl.find s.sessions q.sess).bind (·.qp) = some x)
    (he : x.error = false) (hc : rdmaCheck s q read.isNone = some st) : rdmaServe s { req := q, read := read } = (rdmaRefuse s q st, false) := by
  simp only [rdmaServe, hx, he, hc]
  rfl

theorem rdmaServe_held {read : Option (List ArrayRead)} (hx : (Tbl.find s.sessions q.sess).bind (·.qp) = some x)
    (he : x.error = false) (hc : rdmaCheck s q read.isNone = none) (hlen : 0 < q.len) (hs : inSlice s (requestCluster s q) = true) :
    rdmaServe s { req := q, read := read } = (holdAt s (requestCluster s q) (.rdma { req := q, read := read }), true) := by
  have hheld : (decide (0 < q.len) && inSlice s (requestCluster s q)) = true := by rw [decide_eq_true hlen, hs]; rfl
  simp only [rdmaServe, hx, he, hc]
  exact if_pos hheld

theorem not_held (hgo : q.len = 0 ∨ inSlice s (requestCluster s q) = false) :
    ¬ (decide (0 < q.len) && inSlice s (requestCluster s q)) = true := by
  rcases hgo with h | h <;> simp [h]

theorem rdmaServe_put (hx : (Tbl.find s.sessions q.sess).bind (·.qp) = some x) (he : x.error = false) (hc : rdmaCheck s q true = none)
    (hgo : q.len = 0 ∨ inSlice s (requestCluster s q) = false) : rdmaServe s { req := q, read := none } =
      let put := rdmaPut s q 0 (q.lines.take (q.len / 64))
      (if put.2 ≠ stOk then rdmaRefuse put.1 q put.2 else portEmit put.1 q.port (.rdmaAck q.sess (nextPsn q - 1) (roceHead put.1 q.sess)), false) := by
  simp only [rdmaServe, hx, he, Option.isNone_none, hc]
  refine (if_neg (not_held hgo)).trans ?_
  rcases rdmaPut s q 0 (q.lines.take (q.len / 64)) with ⟨t, st⟩
  exact (apply_ite (·, false) (st ≠ stOk) _ _).symm

theorem rdmaServe_get {rs : List ArrayRead} (hx : (Tbl.find s.sessions q.sess).bind (·.qp) = some x) (he : x.error = false)
    (hc : rdmaCheck s q false = none) (hgo : q.len = 0 ∨ inSlice s (requestCluster s q) = false) : rdmaServe s { req := q, read := some rs } =
      let got := rdmaGet s q rs (q.len / 64)
      (if got.2.1 ≠ stOk then rdmaRefuse got.1 q got.2.1
        else portEmit got.1 q.port (.rdmaData q.sess q.psn got.2.2 (roceHead got.1 q.sess)), false) := by
  simp only [rdmaServe, hx, he, Option.isNone_some, hc]
  refine (if_neg (not_held hgo)).trans ?_
  rcases rdmaGet s q rs (q.len / 64) with ⟨t, st, l⟩
  exact (apply_ite (·, false) (st ≠ stOk) _ _).symm

end

/-! ### Requests accepted (R192) -/

section
variable {s t : State} {q : RdmaReq} {w : RdmaWork} {x : QueuePair}

theorem portEmit_alive {p : Nat} {e : Emit} (h : portAlive s p = true) : portEmit s p e = emit s e := if_pos h

theorem rdmaAccept_behind {l : List RdmaWork} (h : ((Tbl.find s.sessions w.req.sess).bind (·.qp)).bind (·.behind) = some l) :
    rdmaAccept s w = modQp s w.req.sess fun x => { x with behind := some (l ++ [w]) } := by rw [rdmaAccept, h]

theorem rdmaAccept_served (h : ((Tbl.find s.sessions w.req.sess).bind (·.qp)).bind (·.behind) = none) (hs : rdmaServe s w = (t, false)) :
    rdmaAccept s w = modQp t w.req.sess fun x => { x with behind := none } := by
  rw [rdmaAccept, h]
  change rdmaGo s w.req.sess [w] = _
  rw [rdmaGo, hs]
  rfl

theorem rdmaAccept_held (h : ((Tbl.find s.sessions w.req.sess).bind (·.qp)).bind (·.behind) = none) (hs : rdmaServe s w = (t, true)) :
    rdmaAccept s w = modQp t w.req.sess fun x => { x with behind := some [] } := by
  rw [rdmaAccept, h]
  change rdmaGo s w.req.sess [w] = _
  rw [rdmaGo, hs]

theorem behind_of_rdmaWaits (hx : (Tbl.find s.sessions q.sess).bind (·.qp) = some x) (h : rdmaWaits s q.sess = false) : x.behind = none := by
  rw [rdmaWaits, hx] at h
  simpa using h

theorem portAlive_pastRequest (s : State) (q : RdmaReq) (p : Nat) : portAlive (pastRequest s q) p = portAlive s p :=
  portAlive_of_ports (ports_of_untold (untold_modSess ..)) p

theorem qp_pastRequest (hx : (Tbl.find s.sessions q.sess).bind (·.qp) = some x) :
    (Tbl.find (pastRequest s q).sessions q.sess).bind (·.qp) = some { x with expPsn := nextPsn q } := by rw [pastRequest, qp_modQp, hx]; rfl

theorem behind_pastRequest (hx : (Tbl.find s.sessions q.sess).bind (·.qp) = some x) :
    ((Tbl.find (pastRequest s q).sessions q.sess).bind (·.qp)).bind (·.behind) = x.behind := by rw [qp_pastRequest hx]; rfl

theorem rdmaTake_known {read : Option (List ArrayRead)} (h : rdmaKnown s q read.isSome = true) :
    rdmaTake s q read = rdmaAccept (pastRequest s q) { req := q, read := read } := if_pos h

theorem rdmaTake_unknown {read : Option (List ArrayRead)} (h : rdmaKnown s q read.isSome = false) : rdmaTake s q read = rdmaInvalid s q :=
  if_neg (Bool.not_eq_true _ ▸ h)

/-- What a request of either kind does, a READ with its records. -/
def Runs (q : RdmaReq) (rs : List ArrayRead) (s : State) (read : Bool) (t : State) : Prop :=
  (read = false → exec (.rdmaWrite q) s = .next t) ∧ (read = true → exec (.rdmaRead q rs) s = .next (withReports s t))

/-- The reads that a request brings. -/
def readsOf (rs : List ArrayRead) (read : Bool) : Option (List ArrayRead) := if read then some rs else none

theorem runs_of_rdmaIn {rs : List ArrayRead} {read : Bool} (h : ∀ again f, f s = rdmaTake s q (readsOf rs read) → rdmaIn s q again f = t) :
    Runs q rs s read t :=
  ⟨fun hr => by subst hr; exact congrArg Host.Outcome.next (h _ _ rfl), fun hr => by subst hr; exact congrArg (report s) (h _ _ rfl)⟩

theorem runs_taken {rs : List ArrayRead} {read : Bool} (hport : portAlive s q.port = true) (hce : q.ce = false) (hs : s.state = .serving)
    (hg : rdmaGate s q = .run) (h : rdmaTake s q (readsOf rs read) = t) : Runs q rs s read t :=
  runs_of_rdmaIn fun _ _ hf => (rdmaIn_taken hport hce hs hg).trans (hf.trans h)

theorem readsOf_isSome (rs : List ArrayRead) (read : Bool) : (readsOf rs read).isSome = read := by cases read <;> rfl

theorem readsOf_isNone (rs : List ArrayRead) (read : Bool) : (readsOf rs read).isNone = !read := by cases read <;> rfl

end

section
variable {s t : State} {q : RdmaReq} {rs : List ArrayRead} {read : Bool} (hport : portAlive s q.port = true) (hce : q.ce = false)
  (hs : s.state = .serving) (hg : rdmaGate s q = .run)
include hport hce hs hg

theorem runs_unknown (hk : rdmaKnown s q read = false) : Runs q rs s read (rdmaInvalid s q) :=
  runs_taken hport hce hs hg (rdmaTake_unknown ((readsOf_isSome rs read).symm ▸ hk))

theorem runs_known (hk : rdmaKnown s q read = true) (h : rdmaAccept (pastRequest s q) { req := q, read := readsOf rs read } = t) :
    Runs q rs s read t := runs_taken hport hce hs hg ((rdmaTake_known ((readsOf_isSome rs read).symm ▸ hk)).trans h)

theorem runs_behind {l : List RdmaWork} (hk : rdmaKnown s q read = true)
    (hl : ((Tbl.find s.sessions q.sess).bind (·.qp)).bind (·.behind) = some l) :
    Runs q rs s read (modQp (pastRequest s q) q.sess fun x => { x with behind := some (l ++ [{ req := q, read := readsOf rs read }]) }) := by
  obtain ⟨x, hx, _⟩ := rdmaGate_run hg
  refine runs_known hport hce hs hg hk (rdmaAccept_behind ((behind_pastRequest hx).trans ?_))
  rw [hx] at hl
  exact hl

theorem runs_served (hk : rdmaKnown s q read = true) (hw : rdmaWaits s q.sess = false)
    (h : ∀ x, (Tbl.find (pastRequest s q).sessions q.sess).bind (·.qp) = some x → x.error = false →
      rdmaServe (pastRequest s q) { req := q, read := readsOf rs read } = (t, false)) :
    Runs q rs s read (modQp t q.sess fun x => { x with behind := none }) := by
  obtain ⟨x, hx, he⟩ := rdmaGate_run hg
  exact runs_known hport hce hs hg hk
    (rdmaAccept_served ((behind_pastRequest hx).trans (behind_of_rdmaWaits hx hw)) (h _ (qp_pastRequest hx) he))

theorem runs_held (hk : rdmaKnown s q read = true) (hw : rdmaWaits s q.sess = false) (hc : rdmaCheck (pastRequest s q) q (!read) = none)
    (hlen : 0 < q.len) (hin : inSlice (pastRequest s q) (requestCluster (pastRequest s q) q) = true) :
    Runs q rs s read (modQp (holdAt (pastRequest s q) (requestCluster (pastRequest s q) q) (.rdma { req := q, read := readsOf rs read })) q.sess
      fun x => { x with behind := some [] }) := by
  obtain ⟨x, hx, he⟩ := rdmaGate_run hg
  exact runs_known hport hce hs hg hk (rdmaAccept_held ((behind_pastRequest hx).trans (behind_of_rdmaWaits hx hw))
    (rdmaServe_held (qp_pastRequest hx) he (readsOf_isNone rs read ▸ hc) hlen hin))

theorem runs_refused {st : Status} (hk : rdmaKnown s q read = true) (hw : rdmaWaits s q.sess = false)
    (hc : rdmaCheck (pastRequest s q) q (!read) = some st) :
    Runs q rs s read (modQp (rdmaRefuse (pastRequest s q) q st) q.sess fun x => { x with behind := none }) :=
  runs_served hport hce hs hg hk hw fun _ hx he => rdmaServe_refused hx he (readsOf_isNone rs read ▸ hc)

end

section
variable {s : State} {q : RdmaReq} {rs : List ArrayRead} (hport : portAlive s q.port = true) (hce : q.ce = false)
  (hs : s.state = .serving) (hg : rdmaGate s q = .run) (hw : rdmaWaits s q.sess = false)
  (hgo : q.len = 0 ∨ inSlice (pastRequest s q) (requestCluster (pastRequest s q) q) = false)
include hport hce hs hg hw hgo

theorem runs_put (hk : rdmaKnown s q false = true) (hc : rdmaCheck (pastRequest s q) q true = none) :
    let put := rdmaPut (pastRequest s q) q 0 (q.lines.take (q.len / 64))
    Runs q rs s false (modQp (if put.2 ≠ stOk then rdmaRefuse put.1 q put.2 else emit put.1 (.rdmaAck q.sess (nextPsn q - 1) (roceHead put.1 q.sess)))
      q.sess fun x => { x with behind := none }) := by
  intro put
  have hput : portAlive put.1 q.port = true := (portAlive_of_ports (ports_rdmaPut ..) _).trans ((portAlive_pastRequest ..).trans hport)
  refine runs_served hport hce hs hg hk hw fun _ hx he => (rdmaServe_put hx he hc hgo).trans ?_
  exact congrArg (fun e => (if put.2 ≠ stOk then rdmaRefuse put.1 q put.2 else e, false)) (portEmit_alive hput)

theorem runs_get (hk : rdmaKnown s q true = true) (hc : rdmaCheck (pastRequest s q) q false = none) :
    let got := rdmaGet (pastRequest s q) q rs (q.len / 64)
    Runs q rs s true (modQp (if got.2.1 ≠ stOk then rdmaRefuse got.1 q got.2.1 else emit got.1 (.rdmaData q.sess q.psn got.2.2 (roceHead got.1 q.sess)))
      q.sess fun x => { x with behind := none }) := by
  intro got
  have hgot : portAlive got.1 q.port = true := (portAlive_of_ports (ports_rdmaGet ..) _).trans ((portAlive_pastRequest ..).trans hport)
  refine runs_served hport hce hs hg hk hw fun _ hx he => (rdmaServe_get hx he hc hgo).trans ?_
  exact congrArg (fun e => (if got.2.1 ≠ stOk then rdmaRefuse got.1 q got.2.1 else e, false)) (portEmit_alive hgot)

end

end Sys2Proof.Machine
end

section
/-! PROOFS. Sessions that stay established on their port while messages go out, and the move of streams from a port: for O52. -/

namespace Sys2Proof.Machine

/-- Every session of the later state stood in the earlier one, established alike and on the same port. -/
structure SessionsStay (s t : State) : Prop where
  stood : ∀ n y, Tbl.find t.sessions n = some y → ∃ x, Tbl.find s.sessions n = some x ∧ x.est = y.est ∧ x.port = y.port

theorem SessionsStay.of_eq {s t : State} (h : t.sessions = s.sessions) : SessionsStay s t := ⟨fun _ y hy => ⟨y, h ▸ hy, rfl, rfl⟩⟩

theorem SessionsStay.refl (s : State) : SessionsStay s s := .of_eq rfl

theorem SessionsStay.trans {s t u : State} (h : SessionsStay s t) (h' : SessionsStay t u) : SessionsStay s u := by
  refine ⟨fun n z hz => ?_⟩
  obtain ⟨y, hy, hest, hport⟩ := h'.stood n z hz
  obtain ⟨x, hx, hest', hport'⟩ := h.stood n y hy
  exact ⟨x, hx, hest'.trans hest, hport'.trans hport⟩

theorem SessionsStay.ite {c : Prop} [Decidable c] {s t u : State} (ht : SessionsStay s t) (hu : SessionsStay s u) :
    SessionsStay s (if c then t else u) := by split <;> assumption

theorem SessionsStay.foldl {α : Type} {f : State → α → State} (hf : ∀ s a, SessionsStay s (f s a)) (l : List α) (s : State) :
    SessionsStay s (l.foldl f s) := by
  induction l generalizing s with
  | nil => exact .refl s
  | cons a l ih => exact (hf s a).trans (ih _)

/-- One session changes, and not whether or where it is established. -/
theorem SessionsStay.put {s t : State} {n : Nat} {x y : Session} (ht : t.sessions = Tbl.put s.sessions n y)
    (hx : Tbl.find s.sessions n = some x) (hest : x.est = y.est) (hport : x.port = y.port) : SessionsStay s t := by
  refine ⟨fun m z hz => ?_⟩
  rw [ht] at hz
  by_cases hm : m = n
  · subst hm
    rw [Tbl.find_put_self] at hz
    cases hz
    exact ⟨x, hx, hest, hport⟩
  · rw [Tbl.find_put_ne _ _ _ _ hm] at hz
    exact ⟨z, hz, rfl, rfl⟩

theorem SessionsStay.drop {s t : State} {n : Nat} (ht : t.sessions = Tbl.drop s.sessions n) : SessionsStay s t := by
  refine ⟨fun m z hz => ?_⟩
  rw [ht] at hz
  by_cases hm : m = n
  · subst hm
    rw [Tbl.find_drop_self] at hz
    cases hz
  · rw [Tbl.find_drop_ne _ _ _ hm] at hz
    exact ⟨z, hz, rfl, rfl⟩

/-! ### The end of requests and of sessions -/

/-- What records for the Shadow and control packets leave alone. -/
def beyondRecords (s : State) : State := { s with twin := Twin.reset, emitted := [] }

theorem sessions_of_beyondRecords {s t : State} (h : beyondRecords t = beyondRecords s) : t.sessions = s.sessions := (congrArg State.sessions h :)

theorem parts_of_beyondRecords {s t : State} (h : beyondRecords t = beyondRecords s) : t.parts = s.parts := (congrArg State.parts h :)

theorem beyondRecords_launchFrame (s : State) (u : EscSent) : beyondRecords (launchFrame s u) = beyondRecords s := by
  unfold launchFrame
  extract_lets
  split <;> rfl

theorem beyondRecords_escrowLine (s : State) (kind key : Nat) (v : Line) : beyondRecords (escrowLine s kind key v) = beyondRecords s :=
  (beyondRecords_launchFrame _ _).trans rfl

theorem beyondRecords_escrowSend (s : State) (kind key req : Nat) (b : Bytes) : beyondRecords (escrowSend s kind key req b) = beyondRecords s := by
  unfold escrowSend
  split
  · exact foldl_keeps beyondRecords (fun _ _ => beyondRecords_escrowLine ..) _ s
  · rfl

theorem beyondRecords_failLines (s : State) (l : List QpWrite) (st : Status) : beyondRecords (failLines s l st) = beyondRecords s :=
  foldl_keeps beyondRecords (fun s w => by split <;> rfl) l s

theorem sessions_invalidateHandle (s : State) (p h : Nat) : (invalidateHandle s p h).sessions = s.sessions := by
  unfold invalidateHandle
  extract_lets d t onIt u
  have hu : u.sessions = s.sessions := foldl_keeps State.sessions (f := fun s w => closeEverywhere s p w) (fun _ _ => rfl) onIt t
  split <;> exact hu

theorem sessions_closeRequest (s : State) (r : Nat) (st : Status) : (closeRequest s r st).sessions = s.sessions := by
  unfold closeRequest
  split
  · rfl
  · exact (sessions_of_beyondRecords (beyondRecords_escrowSend ..)).trans (foldl_keeps State.sessions (fun _ _ => sessions_invalidateHandle ..) _ _)

theorem sessions_failLines (s : State) (l : List QpWrite) (st : Status) : (failLines s l st).sessions = s.sessions :=
  sessions_of_beyondRecords (beyondRecords_failLines s l st)

theorem SessionsStay.dropSession (s : State) (n : Nat) : SessionsStay s (dropSession s n) := by
  refine .drop (n := n) ?_
  unfold Machine.dropSession
  extract_lets s₁ out s₂
  have h₁ : s₁.sessions = s.sessions := foldl_keeps State.sessions (fun _ _ => sessions_closeRequest ..) _ s
  exact congrArg (Tbl.drop · n) ((sessions_failLines ..).trans h₁)

/-! ### Messages and streams -/

theorem SessionsStay.sendMsg (s : State) (n port : Nat) (m : Msg) : SessionsStay s (sendMsg s n port m) := by
  unfold Machine.sendMsg
  split
  · exact .refl s
  · next x hx => exact .ite (.dropSession s n) (.ite (.refl s) (.put rfl hx rfl rfl))

theorem SessionsStay.sendEvent (s : State) (n e : Nat) : SessionsStay s (sendEvent s n e) := by
  unfold Machine.sendEvent
  split
  · exact .refl s
  · next x hx =>
    split
    · exact .refl s
    · extract_lets y
      exact SessionsStay.trans (.put (y := y) rfl hx rfl rfl) (.sendMsg ..)

theorem SessionsStay.eventTo (s : State) (n code : Nat) (b : Bytes) : SessionsStay s (eventTo s n code b) := by
  unfold Machine.eventTo
  split
  · exact .refl s
  · next x hx =>
    extract_lets e y
    exact .ite (.put rfl hx rfl rfl) (SessionsStay.trans (.put (y := y) rfl hx rfl rfl) (.sendEvent ..))

theorem SessionsStay.postReceipt (s : State) (r : Request) (n : Nat) : SessionsStay s (postReceipt s r n) := .eventTo ..

theorem SessionsStay.requestDone (s : State) (n : Nat) : SessionsStay s (requestDone s n) := by
  unfold Machine.requestDone
  split
  · exact .refl s
  · split
    · exact .refl s
    · extract_lets t
      have ht : SessionsStay s t := .of_eq rfl
      exact .ite (ht.trans (.postReceipt ..)) ht

theorem SessionsStay.rdmaSend (s : State) (n : Nat) (imm : Option (BitVec 32)) (va : Word) (rkey : BitVec 32) (p : Bytes) (x y c l : Nat) :
    SessionsStay s (rdmaSend s n imm va rkey p x y c l) := by
  unfold Machine.rdmaSend
  split
  · next t ht =>
    split
    · exact .ite (.put rfl ht rfl rfl) (.put rfl ht rfl rfl)
    · exact .refl s
  · exact .refl s

theorem sessions_modHub (s : State) (h : Nat) (f : Hub → Hub) : (modHub s h f).sessions = s.sessions := by
  unfold modHub setHub
  split <;> rfl

theorem SessionsStay.transmit (s : State) (n q : Nat) : SessionsStay s (transmit s n q) := by
  unfold Machine.transmit
  split
  · exact .refl s
  · next t ht =>
    split
    · exact .refl s
    · split
      · exact .refl s
      · extract_lets p rd need at0 d' t' s₁ s₂ w m s₃
        have hs₁ : s₁.sessions = s.sessions := by unfold s₁; split; exacts [sessions_modHub .., rfl]
        have h₂ : SessionsStay s s₂ := .put (congrArg (Tbl.put · n t') hs₁) ht rfl rfl
        have h₃ : SessionsStay s₂ s₃ := .ite (.rdmaSend ..) (.sendMsg ..)
        exact .ite ((h₂.trans h₃).trans (.foldl .requestDone ..)) (h₂.trans h₃)

theorem SessionsStay.sendEach (n : Nat) (l : List Nat) (s : State) : SessionsStay s (sendEach n l s) := by
  induction l generalizing s with
  | nil => exact .refl s
  | cons q l ih =>
    unfold Machine.sendEach
    split
    · exact ih s
    · exact .ite ((SessionsStay.transmit ..).trans (ih _)) (.refl s)

theorem SessionsStay.sendWaiting (s : State) (n : Nat) : SessionsStay s (sendWaiting s n) := by
  unfold Machine.sendWaiting
  split
  · exact .refl s
  · exact .ite (.refl s) (.sendEach ..)

theorem SessionsStay.resendAll (s : State) (n : Nat) : SessionsStay s (resendAll s n) := by
  unfold Machine.resendAll
  split
  · exact .refl s
  · exact (SessionsStay.foldl (fun _ _ => .transmit ..) _ s).trans (.sendWaiting ..)

/-! ### The move of streams (R304) -/

/-- Of the established sessions on a port each is in the list. -/
def OnPortOnly (s : State) (port : Nat) (l : List Nat) : Prop :=
  ∀ n x, Tbl.find s.sessions n = some x → x.est = true → x.port = port → n ∈ l

theorem OnPortOnly.stay {s t : State} {port : Nat} {l : List Nat} (h : OnPortOnly s port l) (hst : SessionsStay s t) : OnPortOnly t port l := by
  intro n y hy hest hport
  obtain ⟨x, hx, hest', hport'⟩ := hst.stood n y hy
  exact h n x hx (hest'.trans hest) (hport'.trans hport)

theorem OnPortOnly.moved {s : State} {port dest n : Nat} {l : List Nat} (h : OnPortOnly s port (n :: l)) (hd : dest ≠ port) :
    OnPortOnly (modSess s n fun x => { x with port := dest }) port l := by
  intro m y hy hest hport
  by_cases hm : m = n
  · subst hm
    rw [find_modSess] at hy
    obtain ⟨x, hx, rfl⟩ := Option.map_eq_some_iff.mp hy
    exact absurd hport hd
  · have hfind : Tbl.find (modSess s n fun x => { x with port := dest }).sessions m = Tbl.find s.sessions m := by
      unfold modSess
      split
      · exact Tbl.find_put_ne _ _ _ _ hm
      · rfl
    exact (List.mem_cons.mp (h m y (hfind ▸ hy) hest hport)).resolve_left hm

theorem onPortOnly_movePort {s : State} {port : Nat} (hp : port < 2) (h : portAlive s (1 - port) = true) : OnPortOnly (movePort s port) port [] := by
  have hall : OnPortOnly s port ((s.sessions.filter fun t => t.2.est && t.2.port = port).map (·.1)) := by
    intro n x hx hest hport
    refine List.mem_map.mpr ⟨(n, x), List.mem_filter.mpr ⟨Tbl.mem_of_find hx, ?_⟩, rfl⟩
    simp [hest, hport]
  rw [movePort, if_neg (Bool.not_not_eq.mpr h)]
  generalize (s.sessions.filter fun t => t.2.est && t.2.port = port) = l at hall ⊢
  clear h
  induction l generalizing s with
  | nil => exact hall
  | cons a l ih => exact ih ((hall.moved (dest := 1 - port) (by omega)).stay (.resendAll ..))

end Sys2Proof.Machine
end

section
/-! PROOFS. The panel as RoCEv2 requester, PTP, the other frames of a port and its link: O52. -/

namespace Sys2Proof.Machine

/-! ### Answers to the panel's writes (R296, R303) -/

/-- What an answer of the far queue pair does, on a port that carries traffic. -/
def roceAnswered (s : State) (n : Nat) : RoceAnswer → State
  | .ack psn => roceAcked s n psn
  | .seqNak psn => roceAgain (roceAcked s n (psn - 1)) n
  | .errorNak psn => qpFail (roceAcked s n (psn - 1)) n

section
variable {s : State} {n : Nat} {t : Session} {q : QueuePair} (ht : Tbl.find s.sessions n = some t) (hq : t.qp = some q)
include ht hq

theorem qp_of_find : (Tbl.find s.sessions n).bind (·.qp) = some q := by rw [ht]; exact hq

theorem exec_roceResponse (he : q.error = false) (hport : portAlive s q.port = true) (a : RoceAnswer) :
    exec (.roceResponse n a false) s = .next (roceAnswered s n a) := by
  change execRoceResponse n a false s = _
  have hgoes : ¬ (q.error || !portAlive s q.port) = true := by simp [he, hport]
  rw [execRoceResponse, qp_of_find ht hq]
  simp only [if_neg hgoes, noteCe_unmarked]
  cases a <;> rfl

theorem exec_roceAckTimeout (he : q.error = false) (hport : portAlive s q.port = true) (hs : s.state = .serving) :
    exec (.roceAckTimeout n) s = .next (emits s (q.out.map fun w => .rdma n w (roceHead s n))) := by
  change execRoceAckTimeout n s = _
  have hgoes : ¬ (q.error || !portAlive s q.port) = true := by simp [he, hport]
  rw [execRoceAckTimeout, qp_of_find ht hq]
  simp only [if_neg hgoes, roceAgain, qp_of_find ht hq, panelFenced_serving hs]
  rfl

theorem find_roceAcked (psn : BitVec 24) :
    ∃ l, Tbl.find (roceAcked s n psn).sessions n = some { t with qp := some { q with out := l, ackPsn := psn + 1 } } := by
  rw [roceAcked, qp_of_find ht hq]
  exact ⟨_, (congrArg (Tbl.find · n) (sessions_failLines ..)).trans ((find_modSess ..).trans (by rw [ht, Option.map_some, hq]; rfl))⟩

/-- A queue pair in error holds no lines; without delivery by RDMA nothing is sent again. -/
theorem find_qpFail (he : q.error = false) (hr : t.byRdma = false) :
    Tbl.find (qpFail s n).sessions n = some { t with qp := some { q with error := true, out := [], behind := none } } := by
  simp only [qpFail, ht, Option.bind_some, hq, Option.map_some, he, hr]
  exact (congrArg (Tbl.find · n) (sessions_failLines ..)).trans ((find_modSess ..).trans (by rw [ht]; rfl))

end

/-! ### PTP (R295, R366) -/

/-- What the time master has measured of PTP. -/
def measured (m : TallyMaster) : Option (Word × Word) × Int × Word × Bool := (m.ptpLast, m.ptpDelay, m.ptpOff, m.locked)

/-- A state with what a PTP message leaves of it when Tally follows PTP. -/
def ptpView (s : State) : (Option (Word × Word) × Int × Word × Bool) × List Emit × SysConfig := (measured s.master, s.emitted, s.sys)

theorem ptpView_followPtp (s : State) : ptpView (followPtp s) = ptpView s := by
  unfold followPtp
  split
  · unfold steerTo
    extract_lets
    split <;> rfl
  · rfl

/-- Reports leave the time master and what was sent as they are. -/
theorem report_time {s t : State} : ∃ u, report s t = .next u ∧ u.master = t.master ∧ u.emitted = t.emitted := by
  obtain ⟨ss, c, e⟩ := withReports_frame s t
  exact ⟨_, rfl, by rw [e], by rw [e]⟩

section
variable {s : State} {port domain : Nat} (hport : portAlive s port = true) (hdomain : domain = s.sys.ptpDomain)
include hport hdomain

theorem ptpTaken_best (hb : ptpBest s.master = some port) : ptpTaken s port domain = true := by simp [ptpTaken, hport, hdomain, hb]

theorem exec_ptpSync (hb : ptpBest s.master = some port) (net : PtpNet) (a b : BitVec 64) :
    ∃ t h, exec (.ptpSync port ⟨domain, net⟩ a b) s = .next t ∧ t.master.ptpLast = some (a, b) ∧ t.master.ptpDelay = s.master.ptpDelay ∧
      t.master.ptpOff = BitVec.ofInt 64 ((8 * (a.toNat : Int) + s.master.ptpDelay - 5 * b.toNat) / 8) ∧
      t.emitted = s.emitted ++ [.eth port 4 (leBytes 1 domain) h] ∧ h.dscp = (if net = .ieee8023 then none else some 46) := by
  change ∃ t h, execPtpSync port ⟨domain, net⟩ a b s = .next t ∧ _
  rw [execPtpSync, if_neg (Bool.not_not_eq.mpr (ptpTaken_best hport hdomain hb))]
  extract_lets rate m
  have hview := ptpView_followPtp { s with master := { m with ptpRate := rate, ptpLast := some (a, b) } }
  generalize followPtp _ = f at hview
  simp only [ptpView, measured, Prod.mk.injEq] at hview
  obtain ⟨⟨hlast, hdelay, hoff, _⟩, hemit, hsys⟩ := hview
  obtain ⟨t, ht, hm, he⟩ := report_time (s := s) (t := delayReq f port net)
  have hm : t.master = f.master := hm
  let head := netHead f none (if net = .ieee8023 then none else some 46) (net = .ipv4)
  have he : t.emitted = f.emitted ++ [.eth port 4 (leBytes 1 f.sys.ptpDomain) head] := he
  refine ⟨t, head, ht, hm ▸ hlast, hm ▸ hdelay, hm ▸ hoff, he.trans ?_, rfl⟩
  rw [hemit, hsys, hdomain]

theorem exec_ptpDelayResp (hb : ptpBest s.master = some port) (a b o i : BitVec 64) (hl : s.master.ptpLast = some (o, i)) :
    let d : Int := Int.tdiv (5 * i.toNat - 8 * o.toNat + (8 * b.toNat - 5 * a.toNat)) 2
    ∃ t, exec (.ptpDelayResp port domain a b) s = .next t ∧ t.master.locked = true ∧ t.master.ptpDelay = d ∧
      t.master.ptpOff = BitVec.ofInt 64 ((8 * (o.toNat : Int) + d - 5 * i.toNat) / 8) := by
  intro d
  change ∃ t, execPtpDelayResp port domain a b s = .next t ∧ _
  rw [execPtpDelayResp, if_neg (Bool.not_not_eq.mpr (ptpTaken_best hport hdomain hb)), hl]
  have hview := ptpView_followPtp { s with master := { (putPtpOff s.master (ptpEighths o i d)) with ptpDelay := d, locked := true } }
  simp only [ptpView, measured, Prod.mk.injEq] at hview
  obtain ⟨⟨_, hdelay, hoff, hlocked⟩, _⟩ := hview
  obtain ⟨t, ht, hm, _⟩ := report_time (s := s) (t := followPtp
    { s with master := { (putPtpOff s.master (ptpEighths o i d)) with ptpDelay := d, locked := true } })
  exact ⟨t, ht, hm ▸ hlocked, hm ▸ hdelay, hm ▸ hoff⟩

theorem exec_ptpAnnounce (rank : Nat) :
    ∃ t, exec (.ptpAnnounce port domain rank) s = .next t ∧ Tbl.find t.master.ptpRanks port = some rank := by
  have htaken : ¬ (!portAlive s port || decide (domain ≠ s.sys.ptpDomain)) = true := by simp [hport, hdomain]
  change ∃ t, execPtpAnnounce port domain rank s = .next t ∧ _
  rw [execPtpAnnounce, if_neg htaken]
  refine ⟨_, rfl, ?_⟩
  dsimp only
  split <;> exact Tbl.find_put_self ..

end

theorem ptpTaken_other {s : State} {port : Nat} (hb : ptpBest s.master ≠ some port) (domain : Nat) : ptpTaken s port domain = false := by
  simp [ptpTaken, hb]

/-! ### Frames for a port's own addresses (R294) -/

theorem answerOwn_own {s : State} {port : Nat} (hport : portAlive s port = true) (kind : Nat) (b : Bytes) (h : NetHead) :
    answerOwn s port true kind b h = emit s (.eth port kind b h) := if_neg (Bool.not_not_eq.mpr hport)

theorem answerOwn_other {s : State} {port : Nat} (hport : portAlive s port = true) (kind : Nat) (b : Bytes) (h : NetHead) :
    answerOwn s port false kind b h = noteUnknown s port := if_neg (Bool.not_not_eq.mpr hport)

theorem exec_arpRequest (s : State) (port : Nat) (v : BitVec 32) : exec (.arpRequest port v) s = .next (answerOwn s port
    (v ≠ 0 && v = portIp4 s port) 1 (portMac s port ++ beBytes 4 v.toNat) (netHead s none none false)) := rfl

theorem exec_neighborSolicitation (s : State) (port : Nat) (v : BitVec 128) : exec (.neighborSolicitation port v) s = .next (answerOwn s port
    (v ≠ 0 && v = portIp6 s port) 2 (portMac s port ++ beBytes 16 v.toNat) (netHead s none none false)) := rfl

/-- An echo for the port's IPv4 address. -/
theorem exec_icmpEcho_ip4 {s : State} {port : Nat} {v : BitVec 32} {data : Bytes} (hport : portAlive s port = true) (hv : v ≠ 0)
    (hown : v = portIp4 s port) (hlen : 28 + data.length ≤ s.sys.mtu) : exec (.icmpEcho port (mapped4 v) data) s =
      .next (emit s (.eth port 3 (beBytes 16 (mapped4 v).toNat ++ data) (netHead s none none true))) := by
  have hip4 : (decide (portIp4 s port ≠ 0) && decide (mapped4 v = mapped4 (portIp4 s port))) = true := by simpa [← hown] using hv
  change execIcmpEcho port (mapped4 v) data s = _
  simp only [execIcmpEcho, hip4]
  simp [hlen, answerOwn_own hport]

/-- An echo for the port's IPv6 address. -/
theorem exec_icmpEcho_ip6 {s : State} {port : Nat} {v : BitVec 128} {data : Bytes} (hport : portAlive s port = true) (hv : v ≠ 0)
    (hown : v = portIp6 s port) (hip4 : v ≠ mapped4 (portIp4 s port)) (hlen : 48 + data.length ≤ s.sys.mtu) :
    exec (.icmpEcho port v data) s = .next (emit s (.eth port 3 (beBytes 16 v.toNat ++ data) (netHead s none none false))) := by
  have hnot : (decide (portIp4 s port ≠ 0) && decide (v = mapped4 (portIp4 s port))) = false := by simp [hip4]
  have hip6 : (decide (v ≠ 0) && decide (v = portIp6 s port)) = true := by simpa [← hown] using hv
  change execIcmpEcho port v data s = _
  simp only [execIcmpEcho, hnot, hip6]
  simp [hlen, answerOwn_own hport]

/-- A RoCEv2 packet outside Table 13-3, at its place on its queue pair. -/
theorem exec_unknownFrame_roce {s : State} {port n : Nat} {psn : BitVec 24} {t : Session} {q : QueuePair} (hport : portAlive s port = true)
    (ht : Tbl.find s.sessions n = some t) (hq : t.qp = some q) (hp : q.port = port) (he : q.error = false) (hpsn : q.expPsn = psn)
    (hs : s.state = .serving) :
    exec (.unknownFrame { port := port, kind := .roce n psn false }) s = .next (emit s (.nak n psn 3 (roceHead s n))) := by
  let r : RdmaReq := { port := port, sess := n, psn := psn, va := 0, rkey := 0, len := 0, lines := [], ce := false }
  have hrun : rdmaGate s r = .run := by
    have hin : ¬ (decide (q.port ≠ r.port) || q.error) = true := by simp [r, hp, he]
    rw [rdmaGate, show (Tbl.find s.sessions r.sess).bind (·.qp) = some q from qp_of_find ht hq]
    exact (if_neg hin).trans (if_pos hpsn.symm)
  exact congrArg Host.Outcome.next (rdmaIn_taken hport rfl hs hrun)

/-! ### The link of a port (R304) -/

/-- A hub's port after streams have moved. -/
theorem port_of_untold {s t : State} (h : untold t = untold s) (p : Nat) :
    (getHub t p).portUp = (getHub s p).portUp ∧ (getHub t p).linkDown = (getHub s p).linkDown := by
  have h0 := congrArg (fun u : Untold => u.rest.hub0) h
  have h1 := congrArg (fun u : Untold => u.rest.hub1) h
  simp only [untold, Hub.mk.injEq] at h0 h1
  unfold getHub
  split
  · exact ⟨by tauto, by tauto⟩
  · exact ⟨by tauto, by tauto⟩

theorem exec_portLinkDown {s : State} {port : Nat} (hp : port < 2) (hport : portAlive s port = true) :
    ∃ t, exec (.portLinkDown port) s = .next t ∧ (getHub t port).portUp = false ∧
      (getHub t port).linkDown = satAdd (getHub s port).linkDown 1 ∧
      (portAlive s (1 - port) = true → ∀ n x, Tbl.find t.sessions n = some x → x.est = true → x.port ≠ port) := by
  change ∃ t, execPortLinkDown port s = .next t ∧ _
  rw [execPortLinkDown, if_neg (Bool.not_not_eq.mpr hport)]
  extract_lets u
  have hself : getHub (ptpPortLost u port) port = { getHub s port with portUp := false, linkDown := satAdd (getHub s port).linkDown 1 } :=
    (getHub_ptpPortLost ..).trans (getHub_modHub_self ..)
  obtain ⟨hup, hdown⟩ := port_of_untold (untold_movePort (ptpPortLost u port) port) port
  refine ⟨_, rfl, hup.trans (by rw [hself]), hdown.trans (by rw [hself]), fun hother n x hx hest hon => ?_⟩
  have hdest : portAlive (ptpPortLost u port) (1 - port) = true := by
    have hhub : getHub (ptpPortLost u port) (1 - port) = getHub s (1 - port) := getHub_modHub_other s hp _
    rw [portAlive, hubUp, hhub]
    exact hother
  exact List.not_mem_nil (onPortOnly_movePort hp hdest n x hx hest hon)

theorem exec_portLinkUp {s : State} {port : Nat} (hp : port < 2) (hup : hubUp s port = true) (hdown : (getHub s port).portUp = false) :
    ∃ t, exec (.portLinkUp port) s = .next t ∧ (getHub t port).portUp = true ∧
      (portAlive s (1 - port) = true → (∀ x, x ∈ s.sessions → x.2.est = true → x.2.port ≠ port) →
        t = modHub s port fun h => { h with portUp := true }) := by
  have hgoes : ¬ (decide (2 ≤ port) || !hubUp s port || (getHub s port).portUp) = true := by simp [hp, hup, hdown]
  change ∃ t, execPortLinkUp port s = .next t ∧ _
  rw [execPortLinkUp, if_neg hgoes]
  extract_lets u v
  have huv : untold v = untold u := by simp [v]
  have hall : untold ((v.sessions.filter fun t => t.2.est && t.2.port = port).foldl (fun s t => sendWaiting s t.1) v) = untold u := by simp [huv]
  refine ⟨_, rfl, (port_of_untold hall port).1.trans (by rw [show getHub u port = _ from getHub_modHub_self ..]), fun hother hnone => ?_⟩
  have hdest : portAlive u (1 - port) = true := by
    have hhub : getHub u (1 - port) = getHub s (1 - port) := getHub_modHub_other s hp _
    rw [portAlive, hubUp, hhub]
    exact hother
  have hv : v = u := if_pos hdest
  have hsessions : u.sessions = s.sessions := sessions_modHub ..
  have hempty : (v.sessions.filter fun t => t.2.est && t.2.port = port) = [] := by
    rw [hv, hsessions, List.filter_eq_nil_iff]
    intro x hx
    simpa using hnone x hx
  rw [hempty]
  exact hv

/-- Settles O52: a RoCEv2 request is one of `rdmaIn`'s cases, and the sessions that messages leave stay on their ports. -/
theorem ethernetPorts : Obligations.EthernetPorts := by
  unfold Obligations.EthernetPorts
  refine ⟨?requests, ?safe, ?answers, ?ptp, ?frames, ?links⟩
  case requests =>
    intro q s rs u idle win cl put got works runs hport hce hs
    refine ⟨fun read hg hk => runs_unknown hport hce hs hg hk, fun read l hg hk hl => runs_behind hport hce hs hg hk hl,
      fun read hg hk hw => ⟨fun st hc => runs_refused hport hce hs hg hk hw hc, fun hc hlen hin => runs_held hport hce hs hg hk hw hc hlen hin,
        fun hc hgo => ⟨?_, ?_, ?_, ?_⟩⟩, ?repeated, ?sequence, ?unknown⟩
    · rintro rfl hst
      have h : Runs q rs s false (idle (if put.2 ≠ stOk then rdmaRefuse put.1 q put.2 else emit put.1 (.rdmaAck ..))) :=
        runs_put hport hce hs hg hw hgo hk hc
      rwa [if_pos hst] at h
    · rintro rfl hst
      have h : Runs q rs s false (idle (if put.2 ≠ stOk then rdmaRefuse put.1 q put.2 else emit put.1 (.rdmaAck ..))) :=
        runs_put hport hce hs hg hw hgo hk hc
      rwa [if_neg (not_not_intro hst)] at h
    · rintro rfl hst
      have h : Runs q rs s true (idle (if got.2.1 ≠ stOk then rdmaRefuse got.1 q got.2.1 else emit got.1 (.rdmaData ..))) :=
        runs_get hport hce hs hg hw hgo hk hc
      rwa [if_pos hst] at h
    · rintro rfl hst
      have h : Runs q rs s true (idle (if got.2.1 ≠ stOk then rdmaRefuse got.1 q got.2.1 else emit got.1 (.rdmaData ..))) :=
        runs_get hport hce hs hg hw hgo hk hc
      rwa [if_neg (not_not_intro hst)] at h
    case repeated =>
      intro hg hw
      exact congrArg Host.Outcome.next ((rdmaIn_again hport hce hs hg).trans (if_neg (by simp [hw])))
    case sequence =>
      intro t x hg ht hx read
      exact runs_of_rdmaIn fun _ _ _ => rdmaIn_outOfSequence hport hce hs hg ht hx
    case unknown =>
      intro read ht
      exact runs_of_rdmaIn fun _ _ _ => rdmaIn_unknown hport hs ht
  case safe =>
    intro q s hport hs hg
    exact congrArg Host.Outcome.next (rdmaIn_refused hport hs hg)
  case answers =>
    intro n s t q ht hq
    refine ⟨rfl, fun he hport => ⟨fun psn => exec_roceResponse ht hq he hport _, fun psn => exec_roceResponse ht hq he hport _,
      fun psn => exec_roceResponse ht hq he hport _, fun psn hr => ?_, exec_roceAckTimeout ht hq he hport⟩⟩
    obtain ⟨l, hl⟩ := find_roceAcked ht hq (psn - 1)
    exact ⟨_, _, _, exec_roceResponse ht hq he hport (.errorNak psn), find_qpFail hl rfl he (by simpa [Session.byRdma, hq] using hr), rfl, rfl, rfl⟩
  case ptp =>
    intro port domain rank a b s hport hdomain
    refine ⟨fun hb => ⟨fun net => exec_ptpSync hport hdomain hb net a b, fun o i hl => exec_ptpDelayResp hport hdomain hb a b o i hl⟩,
      fun hb => ⟨fun net => report_same (if_pos ?_), report_same (if_pos ?_)⟩, exec_ptpAnnounce hport hdomain rank⟩
    · simp [ptpTaken_other hb]
    · simp [ptpTaken_other hb]
  case frames =>
    intro port v4 v6 data s hport head
    refine ⟨fun hv hown => ⟨?_, exec_icmpEcho_ip4 hport hv hown⟩, fun hother => ?_, fun hv hown => ⟨?_, exec_icmpEcho_ip6 hport hv hown⟩,
      fun hother => ?_, ?_, ?_, fun n psn t q ht hq hp he hpsn hs => exec_unknownFrame_roce hport ht hq hp he hpsn hs⟩
    · rw [exec_arpRequest, show (decide (v4 ≠ 0) && decide (v4 = portIp4 s port)) = true by simpa [← hown] using hv, answerOwn_own hport]
    · rw [exec_arpRequest, show (decide (v4 ≠ 0) && decide (v4 = portIp4 s port)) = false by simp [hother], answerOwn_other hport]
    · rw [exec_neighborSolicitation, show (decide (v6 ≠ 0) && decide (v6 = portIp6 s port)) = true by simpa [← hown] using hv, answerOwn_own hport]
    · rw [exec_neighborSolicitation, show (decide (v6 ≠ 0) && decide (v6 = portIp6 s port)) = false by simp [hother], answerOwn_other hport]
    · exact congrArg Host.Outcome.next (if_pos hport)
    · exact congrArg Host.Outcome.next (if_pos hport)
  case links => exact fun port s hp => ⟨exec_portLinkDown hp, exec_portLinkUp hp⟩

end Sys2Proof.Machine
end

section
/-! PROOFS. The last number of a session, spent on the close of a window: O33. -/

namespace Sys2Proof.Machine

/-- An inbound window over handle 1, closed. -/
def closedWindow : Window := { Window.reset with hi := 1 }

/-- Cluster 0 alone has still to apply a change of handle 1 and, with it, the close of window 7. -/
def closingPart : Partition :=
  { Partition.reset with
    sites := [0], handles := [(1, { Handle.reset with state := 1 }), (2, { Handle.reset with state := 1 })], lags := [(1, [(0, Handle.reset)])],
    windows := [(7, closedWindow)], winLags := [(7, [(0, { closedWindow with state := 1 })])] }

/-- A request of session 0 that runs, with its KV data under handle 2. -/
def runningRequest : Request :=
  { sess := 0, cls := 0, state := 1, status := stOk, endedAt := 0, released := 0, computed := 0, digest := [], escIdx := 0, escPos := 0,
    escDigest := [], fed := 0, nin := 0, sample := false, slot := none, kvh := [(0, 2)], drops := 0, dropTokens := 0, dropsKept := 0,
    dropTokensKept := 0, dir := 0, ovh := 0, rates := [], endSent := false, charged := false
    sub := { job := 0, cls := 0, seed := 0, temp := 0, topp := 0, topk := 0, maxout := 0, plen := 0, stops := [], prompt := [] } }

/-- The completion of WIN_CLOSE, which waits for that cluster. -/
def closeWaits : HeldReply :=
  { reply := { port := 0, sess := 0, est := 0, mbox := 0, rseq := 1, cmd := 0 }, status := stOk, payload := [], handles := [(0, windowNumber 7)],
    seqs := [] }

/-- The session's next message is one more than it has numbers for. -/
def lastNumber : State :=
  { State.reset with
    parts := [(0, closingPart)], sessions := [(0, { Session.reset with est := true, seqOut := 0x8000000000000000 })], requests := [(5, runningRequest)],
    waits := [closeWaits] }

/-! ### What the end of a session leaves of the handles -/

theorem getPart_escrowSend (s : State) (kind key req : Nat) (b : Bytes) (p : Nat) : getPart (escrowSend s kind key req b) p = getPart s p :=
  congrArg (Tbl.get · p Partition.reset) (parts_of_beyondRecords (beyondRecords_escrowSend ..))

/-- A request with data under one handle ends: that handle is invalidated. -/
theorem getPart_closeRequest {s : State} {req p h : Nat} {r : Request} (hr : Tbl.find s.requests req = some r) (hk : r.kvh = [(p, h)]) (st : Status) :
    Invalidated (getPart s p) h (getPart (closeRequest s req st) p) := by
  simp only [closeRequest, hr, hk, List.foldl_cons, List.foldl_nil]
  have hdone (l : Tbl Request) : Invalidated (getPart s p) h (getPart (invalidateHandle { s with requests := l } p h) p) :=
    invalidated_invalidateHandle { s with requests := l } p h
  rw [getPart_escrowSend]
  exact hdone _

/-- A session goes, and the handles stay as the end of its requests leaves them. -/
theorem handles_dropSession (s : State) (n p : Nat) : (getPart (dropSession s n) p).handles =
    (getPart ((activeReqs s fun r => r.sess = n).foldl (fun s r => closeRequest s r stAborted) s) p).handles := by
  unfold dropSession
  extract_lets s₁ out s₂ ps
  have h₂ : s₂.parts = s₁.parts := parts_of_beyondRecords (beyondRecords_failLines ..)
  have hps : Tbl.get ps p Partition.reset = _ := Tbl.get_map s₂.parts _ p Partition.reset Partition.reset rfl
  change (Tbl.get ps p Partition.reset).handles = (Tbl.get s₁.parts p Partition.reset).handles
  rw [hps, h₂]

/-- A completion that has no number left ends its session. -/
theorem complete_spent {s : State} {r : Reply} {t : Session} (ht : Tbl.find s.sessions r.sess = some t) (hest : t.estNum = r.est)
    (hseq : 2 ^ 63 ≤ t.seqOut.toNat) (st : Status) (b : Bytes) :
    ∃ y, complete s r st b = dropSession { s with sessions := Tbl.put s.sessions r.sess y } r.sess := by
  simp only [complete, ht, hest, ne_eq, not_true, if_false, sendCompletion, sendMsg, Tbl.find_put_self]
  exact ⟨_, if_pos hseq⟩

/-! ### The last controller applies the close -/

/-- The state in which the completion is due. -/
def closeApplied : State :=
  { setPart lastNumber 0 { closingPart with winLags := [] } with waits := [] }

/-- The last controller applies the close of a window. -/
theorem applyWindow_last {s : State} {cl p w : Nat} {lag : Tbl Window} (h : Tbl.find (getPart s p).winLags w = some lag)
    (hl : Tbl.drop lag cl = []) : applyWindow s cl p w =
      changeDone (setPart s p { getPart s p with winLags := Tbl.drop (getPart s p).winLags w }) p (windowNumber w) := by
  simp [applyWindow, h, hl]

/-- The one completion that waits has waited for this change alone. -/
theorem changeDone_one {s : State} {p n : Nat} {x : HeldReply} (hw : s.waits = [x]) (hx : x.handles = [(p, n)]) (hs : x.seqs = []) :
    changeDone s p n = complete { s with waits := [] } x.reply x.status x.payload := by
  simp [changeDone, sendReady, hw, hx, hs]

theorem applyWindow_lastNumber : applyWindow lastNumber 0 0 7 = complete closeApplied closeWaits.reply stOk [] :=
  (applyWindow_last (lag := [(0, { closedWindow with state := 1 })]) rfl rfl).trans (changeDone_one (x := closeWaits) rfl rfl rfl)

/-- With the completion kept, as in its session `y`. -/
def completing (y : Session) : State := { closeApplied with sessions := Tbl.put closeApplied.sessions closeWaits.reply.sess y }

theorem activeReqs_completing (y : Session) : activeReqs (completing y) (fun r => r.sess = closeWaits.reply.sess) = [5] := rfl

/-- The end of the session invalidates its request's handle. -/
theorem handles_lastNumber : (Tbl.get (getPart (applyWindow lastNumber 0 0 7) 0).handles 2 Handle.reset).state = 2 := by
  obtain ⟨y, hy⟩ := complete_spent (s := closeApplied) (r := closeWaits.reply) rfl rfl (by decide) stOk []
  have hgone : Invalidated (getPart (completing y) 0) 2 (getPart (closeRequest (completing y) 5 stAborted) 0) :=
    getPart_closeRequest (s := completing y) (req := 5) (r := runningRequest) rfl rfl stAborted
  have hdrop := handles_dropSession (completing y) closeWaits.reply.sess 0
  rw [activeReqs_completing, List.foldl_cons, List.foldl_nil, hgone.handles] at hdrop
  rw [applyWindow_lastNumber, hy]
  exact congrArg (fun l => (Tbl.get l 2 Handle.reset).state) hdrop

/-- Refutes O33: the close that the last controller applies sends the completion of WIN_CLOSE; where that ends its session (SEQ has reached
2^63), a request of the session ends too, and its handle is invalidated, while the statement keeps every handle of the partition. -/
theorem not_handlesWindowsEpochs : ¬ Obligations.HandlesWindowsEpochs := by
  unfold Obligations.HandlesWindowsEpochs
  rintro ⟨⟨hupdate, -⟩, -⟩
  obtain ⟨-, hkept, -⟩ := hupdate lastNumber 0 0 1 [(0, Handle.reset)] (by decide) rfl rfl
  have hover : closingOver (getPart lastNumber 0) 1 = [7] := rfl
  rw [hover, List.foldl_cons, List.foldl_nil] at hkept
  have hstate := congrArg (fun l => (Tbl.get l 2 Handle.reset).state) hkept
  rw [handles_lastNumber] at hstate
  exact absurd hstate (by decide)

end Sys2Proof.Machine
end
